-- ==== Sys2Proof/Word.lean ====
section
/-! DEFINITION. The words the ZP-1280 is made of and the sparse map that holds its memories (R4).
Only the types stand here; their operations are in Machine/Mem.lean. -/

namespace Sys2Proof

/-- A byte of memory. -/
abbrev Byte := BitVec 8

/-- A 64-bit unit, the size of scalar operands, codelet words and most registers (R4, R322). -/
abbrev Word := BitVec 64

/-- A sparse map from numbers to `α`, kept as key and value pairs with strictly rising keys and
no entry equal to what an unlisted key reads as. A byte memory is `AMap Byte`, a list of `Host.Cell`. -/
abbrev AMap (α : Type) := List (Nat × α)

end Sys2Proof
end

