-- ==== Sys2Proof/Config.lean ====
section
/-! DEFINITION. What the manual leaves open: free values and free functions, each an opaque constant of which nothing
can be proved but that it is one function (log entries 5, 7, 60, 61). -/

namespace Sys2Proof

/-- The n-th value the manual leaves unpredictable (R189: temporaries at codelet entry; FLIT of a payload descriptor).
Log entry 5. -/
opaque Config.freeWord : Nat → Word

/-- The encoder of kinds 2 to 4 (R83): the size code, less one, of a block under a kind and FMT. Its bit layout is
the controllers' own. Log entry 7. -/
opaque Config.sizeCode : Nat → Nat → List Byte → Nat

/-- The encoder revision of this device's controllers (R83). Log entry 7. -/
opaque Config.encoderRevision : Nat

/-- The digest of the boot ROM (R37), which the manual does not give. Log entry 7. -/
opaque Config.romDigest : BitVec 512

/-- The bytes that the DIGEST of a configuration entry covers (R37): remap tables, package number, interleave sets and overcommit
ratios, in a form that is not in the manual. Log entry 7. -/
opaque Config.cfgBytes : List (List (BitVec 16)) → Option (BitVec 8) → List (Nat × Nat × List Nat) → List Nat → List Byte

/-- The fused secret of the part (R38). Log entry 60. -/
opaque Config.fusedSecret : BitVec 512

/-- The device identity key (R38): its modulus, its private exponent as held, encrypted under the fused secret, and the
certificate that the Nalran device authority signed. Log entry 60. -/
opaque Config.identityModulus : BitVec 4096
opaque Config.identitySealed : BitVec 4096
opaque Config.identityCert : List Byte

/-- Decryption of the private exponent under the fused secret (R38). Log entry 60. -/
opaque Config.unseal : BitVec 512 → BitVec 4096 → BitVec 4096

/-- The attestation key that a secret and an image digest yield (R38): modulus and private exponent. Log entry 60. -/
opaque Config.attestationModulus : BitVec 512 → BitVec 512 → BitVec 4096
opaque Config.attestationExponent : BitVec 512 → BitVec 512 → BitVec 4096

/-- The body of the certificate of an attestation key, which the identity key then signs (R38). Log entry 60. -/
opaque Config.certBody : BitVec 4096 → List Byte

/-- The 64-byte salt of the n-th signature (R34, R39). Log entry 60. -/
opaque Config.salt : Nat → List Byte

/-- The key K that a secret yields at the n-th reset (R309). Log entry 61. -/
opaque Config.saveKey : BitVec 512 → Nat → BitVec 512

/-- The keyed integrity tag of 4 KiB of a memory image (R97). Log entry 61. -/
opaque Config.imageTag : BitVec 512 → Nat → List Byte → Word

/-- The body of a command or event message for the numbers it carries, private to the firmware image (R135). Log entry 61. -/
opaque Config.msgBody : List Nat → List Byte

/-- The hash that chooses a furrow plane among those up (R27), over the fields the manual names. Log entry 61. -/
opaque Config.planeHash : List Nat → Nat

end Sys2Proof
end

