-- ==== Sys2Proof/Syntax.lean ====
section
/-! DEFINITION. The instructions and events of the ZP-1280: one constructor per row of the opcode table.
Codelet words carry the fields of their format (R320, R324), node records theirs (R316, R317),
events the data that the agent named by their rule brings. -/

namespace Sys2Proof

/-- Element and operand types in code order 0 to 12 (R321). -/
inductive Ty where
  | b64 | s8 | z8 | s32 | z32 | s64 | z64 | f16 | bf16 | e4m3 | e5m2 | q4 | f32
  deriving DecidableEq, Repr

/-- Scalar operand codes 0 to 12 (R322): t0 to t7, in0 to in2, tg, zero. -/
inductive SOp where
  | t (i : Fin 8)
  | inp (i : Fin 3)
  | tg
  | zero
  deriving DecidableEq, Repr

/-- Rounding modes in code order 0 to 4 (R260). -/
inductive Rm where
  | rne | rtz | rdn | rup | sr
  deriving DecidableEq, Repr

/-- Condition codes in code order 0 to 6 (R325). -/
inductive Cc where
  | eq | ne | lt | le | gt | ge | uo
  deriving DecidableEq, Repr

/-- Scopes in code order 0 to 5, each including the ones before it (R2, R163). -/
inductive Scope where
  | tile | plot | die | pkg | dom | sys
  deriving DecidableEq, Repr

/-- Ordering of a single access in code order (R325). -/
inductive Ord where
  | rlx | acq | rel | ar
  deriving DecidableEq, Repr

/-- Guard fields of a codelet word: predicate, inversion, enable (R320). -/
structure Guard where
  gp : BitVec 2
  gn : Bool
  ge : Bool
  deriving DecidableEq, Repr

/-- R format (R324). -/
structure RWord where
  g : Guard
  ty : Ty
  d : SOp
  a : SOp
  b : SOp
  c : SOp
  rm : Rm
  cc : Cc
  pd : BitVec 2
  pa : BitVec 2
  pb : BitVec 2
  sh : BitVec 6
  deriving DecidableEq, Repr

/-- I format (R324); HI is told by the mnemonic (`movi` alone has it). -/
structure IWord where
  g : Guard
  ty : Ty
  d : SOp
  a : SOp
  cc : Cc
  pd : BitVec 2
  imm : BitVec 32
  deriving DecidableEq, Repr

/-- V format (R324); fields that hold numbers or scalar codes in a wide slot stay numbers. -/
structure VWord where
  g : Guard
  ty : Ty
  vd : BitVec 8
  va : BitVec 8
  vb : BitVec 8
  vc : BitVec 8
  rm : Rm
  cc : Cc
  sb : Bool
  me : Bool
  vm : BitVec 8
  deriving DecidableEq, Repr

/-- M format (R324). -/
structure MWord where
  g : Guard
  ty : Ty
  d : SOp
  base : SOp
  data : SOp
  data2 : SOp
  scope : Scope
  ord : Ord
  strm : BitVec 4
  off : BitVec 16
  deriving DecidableEq, Repr

/-- S format (R324); TB stays a code, since `macld`, `macst` use it for other ends (R442, R443). -/
structure SWord where
  g : Guard
  ty : Ty
  ad : BitVec 6
  oa : BitVec 8
  ob : BitVec 8
  shr : BitVec 4
  z : Bool
  dec : Bool
  hold : Bool
  x : SOp
  tb : BitVec 4
  deriving DecidableEq, Repr

/-- E format (R324). -/
structure EWord where
  g : Guard
  ty : Ty
  a : SOp
  b : SOp
  c : SOp
  ch : BitVec 5
  v : BitVec 8
  tl : BitVec 2
  scope : Scope
  imm : BitVec 15
  deriving DecidableEq, Repr

/-- A destination field of a node record or token (R157, R317). -/
structure Dest where
  v : Bool
  tile : BitVec 11
  node : BitVec 12
  port : BitVec 2
  deriving DecidableEq, Repr

/-- The fields of a node record beside its opcode (R316). -/
structure NodeRec where
  sticky : Bool
  lit : Bool
  nops : BitVec 2
  destA : Dest
  destB : Dest
  literal : BitVec 32
  deriving DecidableEq, Repr

/-- A firmware image as the boot ROM judges it (R34). The header's layout is not in the manual, so the
fields come apart: `key` is the SHA-512 digest of the public key under which the signature verifies, if it does. -/
structure FwImage where
  magic : BitVec 32
  length : Nat
  key : Option (BitVec 512)
  secVer : Nat
  digest : BitVec 512
  deriving DecidableEq, Repr

/-- What firmware finds and chooses while it brings the module up (R33, R11, R17, R43, R71, R78, R79, R82, R97,
R134, R144, R162, R227, R307): `chans` are its entries for channels 0 to 3. -/
structure BringUp where
  trained : Bool
  unusable : List (List Nat)
  opp : List (BitVec 64)
  pbase : Nat
  limits : List Nat
  tiercfg : List (BitVec 64)
  freeChunks : List (List (Nat × Nat))
  chbase : List Nat
  prbase : List Nat
  records : List Nat
  qcbbase : Nat
  chans : List (BitVec 128)
  tables : List Nat
  saveUnits : Nat
  sets : List (Nat × Nat × List Nat)
  target : List Nat
  hostAtomics : Bool
  ckwait : Nat
  quantum : Nat
  agediv : Nat
  drainmax : Nat
  quota : List Nat
  promote : Nat
  demote : Nat
  hyst : Nat
  deriving DecidableEq, Repr

/-- What firmware puts into a crash entry (R150): the headland core's pc, mcause and mtval, the queue and launch
record involved, and the 76 cause-specific bytes. -/
structure CpuRegs where
  pc : Word
  mcause : Word
  mtval : Word
  qid : BitVec 16 := 0xFFFF
  lrec : Word := 0
  data : List Byte := []
  deriving DecidableEq, Repr

/-- What the sensors of the module read (R40): board power in W, die and HBM4E temperatures in °C. -/
structure SensorData where
  power : Nat := 0
  die : List Nat := [0, 0, 0, 0]
  hbm : List Nat := List.replicate 8 0
  deriving DecidableEq, Repr

/-- The four clock domains of a compute die (R41). -/
inductive ClockDomain where
  | mat | vec | net | mem
  deriving DecidableEq, Repr

/-- Issue classes of node kinds (R185). -/
inductive IssueClass where
  | a | b | c | d | e
  deriving DecidableEq, Repr

/-- Units of a tile that are clock-gated on their own (R187). -/
inductive TileUnit where
  | matchUnit | codeletCore | vectorEngine | matrixEngine | memoryPort | networkInterface
  deriving DecidableEq, Repr

/-- What waited 2 ms for another package (R29): a memory request or a token in flight. -/
inductive Unreach where
  | request (n : Nat)
  | token (n : Nat)
  deriving DecidableEq, Repr

/-- A host access through BAR2 (R16). -/
inductive HostAccess where
  | read (n : Nat)
  | write (bytes : List Byte)
  deriving DecidableEq, Repr

/-- What an event brings with it: the data its agent supplies (a register offset and value, a plot, a queue,
the number of a request or token). The move of the agenda that makes the event carries it, and the event's
meaning reads it from the focus. -/
inductive EvArgs where
  | none
  | n (a : Nat)
  | nn (a b : Nat)
  | host (func qid size : Nat) (value : Word)
  | regWrite (func off size : Nat) (value : Word)
  | mailbox (func : Nat) (seq : Word)
  | image (img : FwImage)
  | bringUp (r : BringUp)
  | furrow (planes : BitVec 24) (cxl : BitVec 6)
  | pkg (n : BitVec 8)
  | nonce (n : BitVec 256)
  | cpu (n : Nat) (r : CpuRegs)
  | temps (t : List Nat) (r : CpuRegs)
  | sensors (d : SensorData)
  | answer (n : Nat) (bytes : List Byte)
  | answerBad (n : Nat) (code : BitVec 8)
  | unreach (u : Unreach)
  | bar2 (func off : Nat) (acc : HostAccess)
  | flag (b : Bool)
  | dom (die : Nat) (d : ClockDomain)
  | unit (tile : Nat) (u : TileUnit)
  | issue (tile : Nat) (cls : IssueClass)
  | recode (asid : BitVec 12) (ia : BitVec 52) (kindWord : Word)
  deriving DecidableEq, Repr

/-- The instructions and events: one constructor per row of the opcode table, node records and codelet words
first, in the table's order. An event has no fields of its own: its data stands in `EvArgs`. -/
inductive Instr where
  /-- Node add sends the 64-bit sum of its operands (R342). -/
  | nodeAdd (r : NodeRec)
  /-- Node sub sends the 64-bit difference (R342). -/
  | nodeSub (r : NodeRec)
  /-- Node mul sends the low 64 bits of the product (R342). -/
  | nodeMul (r : NodeRec)
  /-- Node and sends the bitwise AND (R342). -/
  | nodeAnd (r : NodeRec)
  /-- Node or sends the bitwise OR (R342). -/
  | nodeOr (r : NodeRec)
  /-- Node xor sends the bitwise XOR (R342). -/
  | nodeXor (r : NodeRec)
  /-- Node shl shifts left by b[5:0] (R342). -/
  | nodeShl (r : NodeRec)
  /-- Node shr shifts right logically by b[5:0] (R342). -/
  | nodeShr (r : NodeRec)
  /-- Node sar shifts right arithmetically by b[5:0] (R342). -/
  | nodeSar (r : NodeRec)
  /-- Node min sends the signed lesser operand (R342). -/
  | nodeMin (r : NodeRec)
  /-- Node max sends the signed greater operand (R342). -/
  | nodeMax (r : NodeRec)
  /-- Node cmp sends 1 or 0 by condition COND (R342). -/
  | nodeCmp (r : NodeRec)
  /-- Node sel forwards the port-1 or port-2 token by in0 (R343). -/
  | nodeSel (r : NodeRec)
  /-- Node dup sends its port-0 token to A and B (R344). -/
  | nodeDup (r : NodeRec)
  /-- Node steer sends its port-0 token to A or B by a predicate (R344). -/
  | nodeSteer (r : NodeRec)
  /-- Node merge forwards every token arriving on either port (R344). -/
  | nodeMerge (r : NodeRec)
  /-- Node switch sends its token to node A.NODE + idx or to B (R344). -/
  | nodeSwitch (r : NodeRec)
  /-- Node gate forwards data after its trigger, or by its sticky selector (R344). -/
  | nodeGate (r : NodeRec)
  /-- Node sink consumes its tokens, counting final sink tokens and recording poison (R345). -/
  | nodeSink (r : NodeRec)
  /-- Node const sends its literal on a trigger (R345). -/
  | nodeConst (r : NodeRec)
  /-- Node tagin forwards its token under tag T × 2^S (R346). -/
  | nodeTagin (r : NodeRec)
  /-- Node tagnext forwards its token under tag T + 1 or produces tag overflow (R346). -/
  | nodeTagnext (r : NodeRec)
  /-- Node tagout forwards its token under tag floor(T ÷ 2^S) (R346). -/
  | nodeTagout (r : NodeRec)
  /-- Node tagset forwards its token under a given tag (R346). -/
  | nodeTagset (r : NodeRec)
  /-- Node count emits a run of N tokens with rising tags, then the count to B (R347). -/
  | nodeCount (r : NodeRec)
  /-- Node bin fires a batch and sends a batch descriptor to A and B (R351). -/
  | nodeBin (r : NodeRec)
  /-- Node join sums N tokens of one tag and sends the sum (R348). -/
  | nodeJoin (r : NodeRec)
  /-- Node cwait fires once its count for a tag reaches the target (R349). -/
  | nodeCwait (r : NodeRec)
  /-- Node fire runs a codelet in a codelet slot (R353). -/
  | nodeFire (r : NodeRec)
  /-- Node mctl starts one mma from its payload and sends SLAB when done (R354). -/
  | nodeMctl (r : NodeRec)
  /-- Node isect intersects two coordinate-sparse tokens (R355). -/
  | nodeIsect (r : NodeRec)
  /-- Node sendx sends a burst result to the combine unit named by RANKW (R356). -/
  | nodeSendx (r : NodeRec)
  /-- Node lds loads bytes from memory or scratchpad and sends them (R357). -/
  | nodeLds (r : NodeRec)
  /-- Node sts stores bytes and then sends the address (R357). -/
  | nodeSts (r : NodeRec)
  /-- Node pchk passes values to A and poison as a scalar to B (R358). -/
  | nodePchk (r : NodeRec)
  /-- Integer add (R363). -/
  | add (w : RWord)
  /-- Integer subtract (R363). -/
  | sub (w : RWord)
  /-- Integer multiply, low part (R363). -/
  | mul (w : RWord)
  /-- Integer multiply, high part (R363). -/
  | mulh (w : RWord)
  /-- Integer divide, truncating; DZ on zero (R364). -/
  | div (w : RWord)
  /-- Integer remainder (R364). -/
  | rem (w : RWord)
  /-- Bitwise AND (R363). -/
  | andR (w : RWord)
  /-- Bitwise OR (R363). -/
  | orR (w : RWord)
  /-- Bitwise XOR (R363). -/
  | xor (w : RWord)
  /-- a AND NOT b (R363). -/
  | andn (w : RWord)
  /-- Bitwise NOT (R363). -/
  | notR (w : RWord)
  /-- Shift left (R363). -/
  | shl (w : RWord)
  /-- Logical shift right (R363). -/
  | shr (w : RWord)
  /-- Arithmetic shift right (R363). -/
  | sar (w : RWord)
  /-- Rotate left (R363). -/
  | rotl (w : RWord)
  /-- Count leading zeros (R363). -/
  | clz (w : RWord)
  /-- Count trailing zeros (R363). -/
  | ctz (w : RWord)
  /-- Count set bits (R363). -/
  | popc (w : RWord)
  /-- Integer minimum (R363). -/
  | min (w : RWord)
  /-- Integer maximum (R363). -/
  | max (w : RWord)
  /-- Integer absolute value (R363). -/
  | abs (w : RWord)
  /-- Integer negate (R363). -/
  | neg (w : RWord)
  /-- Extract a bit field (R365). -/
  | extR (w : RWord)
  /-- Gather bits of a selected by b (R365). -/
  | bext (w : RWord)
  /-- Deposit low bits of a at the set bits of b (R365). -/
  | bdep (w : RWord)
  /-- Move a scalar (R363). -/
  | mov (w : RWord)
  /-- Load an immediate into D (R365). -/
  | movi (w : IWord)
  /-- Replace the high half of D with the immediate (R365). -/
  | moviHi (w : IWord)
  /-- a + (b << SH) without address checks (R365). -/
  | lea (w : RWord)
  /-- Integer add, immediate form (R363). -/
  | addI (w : IWord)
  /-- Integer subtract, immediate form (R363). -/
  | subI (w : IWord)
  /-- Integer multiply, immediate form (R363). -/
  | mulI (w : IWord)
  /-- Bitwise AND, immediate form (R363). -/
  | andI (w : IWord)
  /-- Bitwise OR, immediate form (R363). -/
  | orI (w : IWord)
  /-- Bitwise XOR, immediate form (R363). -/
  | xorI (w : IWord)
  /-- a AND NOT imm (R363). -/
  | andnI (w : IWord)
  /-- Shift left by an immediate (R363). -/
  | shlI (w : IWord)
  /-- Logical shift right by an immediate (R363). -/
  | shrI (w : IWord)
  /-- Arithmetic shift right by an immediate (R363). -/
  | sarI (w : IWord)
  /-- Rotate left by an immediate (R363). -/
  | rotlI (w : IWord)
  /-- Integer minimum with an immediate (R363). -/
  | minI (w : IWord)
  /-- Integer maximum with an immediate (R363). -/
  | maxI (w : IWord)
  /-- Compare with an immediate into a predicate (R366). -/
  | cmpI (w : IWord)
  /-- Compare two scalars into a predicate (R366). -/
  | cmp (w : RWord)
  /-- Predicate := (a AND b) ≠ 0 (R366). -/
  | tst (w : RWord)
  /-- Select a or b by a predicate (R366). -/
  | sel (w : RWord)
  /-- Predicate AND (R366). -/
  | pand (w : RWord)
  /-- Predicate OR (R366). -/
  | por (w : RWord)
  /-- Predicate NOT (R366). -/
  | pnot (w : RWord)
  /-- Floating add, one rounding (R367). -/
  | fadd (w : RWord)
  /-- Floating subtract (R367). -/
  | fsub (w : RWord)
  /-- Floating multiply (R367). -/
  | fmul (w : RWord)
  /-- Fused multiply-add, one rounding (R367). -/
  | ffma (w : RWord)
  /-- Floating divide (R367). -/
  | fdiv (w : RWord)
  /-- Floating square root (R367). -/
  | fsqrt (w : RWord)
  /-- Floating minimum (R367). -/
  | fmin (w : RWord)
  /-- Floating maximum (R367). -/
  | fmax (w : RWord)
  /-- Clear the sign (R367). -/
  | fabs (w : RWord)
  /-- Invert the sign (R367). -/
  | fneg (w : RWord)
  /-- Floating compare into a predicate (R368). -/
  | fcmp (w : RWord)
  /-- Convert between scalar types (R369). -/
  | fcvt (w : RWord)
  /-- Classify a float into a one-hot mask (R370). -/
  | fclass (w : RWord)
  /-- Send a scalar token to an explicit destination (R374). -/
  | send (w : EWord)
  /-- Send a burst of vector-register data (R375). -/
  | sendv (w : EWord)
  /-- Send a burst result to the combine unit named by a key (R376). -/
  | sendx (w : EWord)
  /-- Send a scalar to the firing node's destination fields (R377). -/
  | emit (w : EWord)
  /-- Form a tag a × 2^S + (b mod 2^S) (R378). -/
  | tagmk (w : RWord)
  /-- Report a failed stream or faulted command without ending the codelet (R379). -/
  | pchk (w : RWord)
  /-- End the codelet with a self-raised software poison (R380). -/
  | poison (w : RWord)
  /-- End the codelet after this word (R374). -/
  | done (w : RWord)
  /-- Read a special register (R381). -/
  | rdsr (w : IWord)
  /-- Write a special register under its access codes (R381). -/
  | wrsr (w : IWord)
  /-- End the launch from within with KILLED and a TYPE 3 fault record (R387). -/
  | trap (w : IWord)
  /-- Stop the slot at a breakpoint when DBGCTL.EN is set (R388). -/
  | brk (w : IWord)
  /-- No operation (R386). -/
  | nop (w : RWord)
  /-- Replace the launch's clock request (R46). -/
  | clkreq (w : RWord)
  /-- Write a device kick to a queue (R389). -/
  | kick (w : RWord)
  /-- Reload a window from scratchpad (privileged) (R391). -/
  | winld (w : RWord)
  /-- Write back and discard slice lines of a range (privileged) (R392). -/
  | cflush (w : RWord)
  /-- Retire the launch at once with OK (privileged) (R393). -/
  | halt (w : RWord)
  /-- Recode a page to a new kind (privileged) (R394). -/
  | pgrecode (w : RWord)
  /-- Vector add (R402). -/
  | vadd (w : VWord)
  /-- Vector subtract (R402). -/
  | vsub (w : VWord)
  /-- Vector multiply (R402). -/
  | vmul (w : VWord)
  /-- Vector fused multiply-add (R402). -/
  | vfma (w : VWord)
  /-- Vector minimum (R403). -/
  | vmin (w : VWord)
  /-- Vector maximum (R403). -/
  | vmax (w : VWord)
  /-- Vector absolute value (R403). -/
  | vabs (w : VWord)
  /-- Vector negate (R403). -/
  | vneg (w : VWord)
  /-- Vector bitwise AND (R404). -/
  | vand (w : VWord)
  /-- Vector bitwise OR (R404). -/
  | vor (w : VWord)
  /-- Vector bitwise XOR (R404). -/
  | vxor (w : VWord)
  /-- Vector shift left (R404). -/
  | vshl (w : VWord)
  /-- Vector logical shift right (R404). -/
  | vshr (w : VWord)
  /-- Vector arithmetic shift right (R404). -/
  | vsar (w : VWord)
  /-- Correctly rounded 2^x per lane (R405). -/
  | vexp2 (w : VWord)
  /-- Correctly rounded log2 x per lane (R405). -/
  | vlog2 (w : VWord)
  /-- Correctly rounded reciprocal per lane (R405). -/
  | vrcp (w : VWord)
  /-- Correctly rounded reciprocal square root per lane (R405). -/
  | vrsq (w : VWord)
  /-- Correctly rounded tanh per lane (R405). -/
  | vtanh (w : VWord)
  /-- Correctly rounded sigmoid per lane (R405). -/
  | vsigm (w : VWord)
  /-- Correctly rounded GELU per lane (R405). -/
  | vgelu (w : VWord)
  /-- Correctly rounded SiLU per lane (R405). -/
  | vsilu (w : VWord)
  /-- Vector type conversion with a part selector (R406). -/
  | vcvt (w : VWord)
  /-- Vector compare into a lane bitmask (R407). -/
  | vcmp (w : VWord)
  /-- Vector select by a bitmask (R408). -/
  | vsel (w : VWord)
  /-- Broadcast a scalar into every lane (R409). -/
  | vbcast (w : VWord)
  /-- Copy lanes and tag (R409). -/
  | vmov (w : VWord)
  /-- Permute lanes by index (R410). -/
  | vperm (w : VWord)
  /-- Rotate lanes (R410). -/
  | vrot (w : VWord)
  /-- Segmented tree sum reduction (R411). -/
  | vredsum (w : VWord)
  /-- Segmented maximum reduction (R411). -/
  | vredmax (w : VWord)
  /-- Segmented minimum reduction (R411). -/
  | vredmin (w : VWord)
  /-- Segmented inclusive sum scan (R411). -/
  | vscan (w : VWord)
  /-- Top-k values and lane indices (R412). -/
  | vtopk (w : VWord)
  /-- Block-quantise lanes into codes and scales (R413). -/
  | vquant (w : VWord)
  /-- Decode quantised codes and scales (R415). -/
  | vdequant (w : VWord)
  /-- Load scratchpad bytes into a register run (R416). -/
  | vld (w : VWord)
  /-- Load an operand port's burst payload into registers (R417). -/
  | vldPort (w : VWord)
  /-- Store a register run to scratchpad (R416). -/
  | vst (w : VWord)
  /-- Indexed gather from scratchpad (R418). -/
  | vldx (w : VWord)
  /-- Indexed scatter to scratchpad (R418). -/
  | vstx (w : VWord)
  /-- Forward Haar transform of a slab group (R421). -/
  | hfwd (w : VWord)
  /-- Inverse Haar transform of a slab group (R422). -/
  | hinv (w : VWord)
  /-- Threshold coefficients and count survivors (R423). -/
  | hthr (w : VWord)
  /-- Expand a compacted image into a group (R424). -/
  | hexp (w : VWord)
  /-- Add a bias by the Haar bias rule (R425). -/
  | hbias (w : VWord)
  /-- Set the H bits of a register or group (R426). -/
  | dtag (w : VWord)
  /-- Read a register's domain tag (R426). -/
  | dtget (w : VWord)
  /-- Write a threshold register (R427). -/
  | thset (w : VWord)
  /-- Matrix multiply-accumulate into a slab, with optional zero or decay (R436). -/
  | mma (w : SWord)
  /-- Adapter matrix multiply per 8-row block (R439). -/
  | mmag (w : SWord)
  /-- Sparse matrix multiply over shared depth positions (R440). -/
  | mmas (w : SWord)
  /-- Zero a slab and clear its tag (R441). -/
  | macz (w : SWord)
  /-- Load a slab from registers (R442). -/
  | macld (w : SWord)
  /-- Load a slab from scratchpad (R442). -/
  | macldSpad (w : SWord)
  /-- Store a slab to registers (R443). -/
  | macst (w : SWord)
  /-- Store a slab to scratchpad (R443). -/
  | macstSpad (w : SWord)
  /-- Transpose a 64 × 64 register image (R444). -/
  | mtr (w : SWord)
  /-- Declare a burst of matrix instructions (R445). -/
  | mburst (w : SWord)
  /-- Load a shape record from scratchpad (R445). -/
  | srld (w : SWord)
  /-- Wait for pending shape-record loads (R445). -/
  | srfence (w : SWord)
  /-- Wait for the slot's matrix instructions and deliver faults (R445). -/
  | mwait (w : SWord)
  /-- Load from memory (R451). -/
  | ld (w : MWord)
  /-- Store to memory (R451). -/
  | st (w : MWord)
  /-- Open a stream over a checked range (R458). -/
  | sopen (w : MWord)
  /-- Close a stream, depositing its dirty-range records (R462). -/
  | sclose (w : MWord)
  /-- Element-mode stream load (R460). -/
  | sld (w : MWord)
  /-- Element-mode stream store (R460). -/
  | sst (w : MWord)
  /-- Slab-mode stream read into a group (R461). -/
  | sldSlab (w : MWord)
  /-- Slab-mode stream write with transform, threshold and compaction (R461). -/
  | sstSlab (w : MWord)
  /-- Order the masked streams' earlier and later accesses (R456). -/
  | sbar (w : MWord)
  /-- Prefetch lines into the near slice (R457). -/
  | pref (w : MWord)
  /-- Release then acquire at a scope over own and masked stream accesses (R455). -/
  | fence (w : MWord)
  /-- Atomic integer add (R452). -/
  | aadd (w : MWord)
  /-- Atomic floating add (R452). -/
  | aaddf (w : MWord)
  /-- Atomic minimum (R452). -/
  | amin (w : MWord)
  /-- Atomic maximum (R452). -/
  | amax (w : MWord)
  /-- Atomic AND (R452). -/
  | aand (w : MWord)
  /-- Atomic OR (R452). -/
  | aor (w : MWord)
  /-- Atomic XOR (R452). -/
  | axor (w : MWord)
  /-- Atomic exchange (R452). -/
  | axch (w : MWord)
  /-- Atomic compare-and-swap (R453). -/
  | acas (w : MWord)
  /-- Numbered byte copy command (R465). -/
  | cpy (w : EWord)
  /-- Numbered converting copy command (R465). -/
  | cpyf (w : EWord)
  /-- Indexed row gather command (R466). -/
  | gath (w : EWord)
  /-- Indexed row scatter command (R466). -/
  | scat (w : EWord)
  /-- Collective operation on a group (R469). -/
  | coll (w : EWord)
  /-- Masked multicast read into several tiles' scratchpads (R467). -/
  | mcrd (w : EWord)
  /-- Read the number of the last command issued on a counter (R472). -/
  | tlrd (w : EWord)
  /-- Wait until a timeline counter reaches v, then acquire (R472). -/
  | tlwait (w : EWord)
  /-- Read a timeline counter without waiting (R472). -/
  | tltest (w : EWord)
  /-- Prefetch an expert's weights (R468). -/
  | epf (w : EWord)
  /-- Copy an adapter's weights into scratchpad as a command (R468). -/
  | apf (w : EWord)
  /-- Join a barrier, releasing at a scope (R473). -/
  | bar (w : EWord)
  /-- Send a counted signal to a cwait port (R474). -/
  | csig (w : EWord)
  /-- Mark the context as having reached stepend in this step (R475). -/
  | stepend (w : EWord)
  /-- Power is applied; the retention SRAM is found invalid and cleared, BOOTS := 1, and device memory and the package number are lost (R151). -/
  | powerOnReset
  /-- A warm reset from the adapter, the sideband or after a Puver link loss re-runs bring-up and keeps the retention SRAM with BOOTS + 1 (R151). -/
  | warmReset
  /-- The adapter releases reset; the boot ROM runs its self-test, keeps the retention SRAM, clears other base-die state and reports BOOT_WAIT (R33). -/
  | resetRelease
  /-- The adapter pushes a firmware image over the Puver link into base-die SRAM (R33). -/
  | firmwareImagePush
  /-- No valid image has arrived 5 s after reset release; the module reports NO_IMAGE and waits for reset (R34). -/
  | noImageTimeout
  /-- Firmware trains HBM4E and LPDDR-6, tests the tiles, builds the remap tables, loads the plot controllers and appends log entry 2, or stops with REMAP_FAIL or TRAIN_FAIL (R33). -/
  | firmwareBringUp
  /-- The CXL and furrow ports train and join their planes, putting the written package number in force or leaving the module standalone (R25). -/
  | furrowStep
  /-- Firmware reports READY on the sideband and in every function control page, and held kicks are taken in order of arrival (R35). -/
  | readyReport
  /-- Management writes the package number through the sideband, to take effect at the next furrow step (R25). -/
  | packageNumberWrite
  /-- The sideband programs the power cap; a value of 1,000–3,200 W in 25 W steps triggers a re-evaluation, any other value is refused (R50). -/
  | capWrite
  /-- A sideband quote request with a 32-byte nonce is answered with the log, ACC, nonce and certificates signed by the attestation key (R39). -/
  | quoteRequest
  /-- The sideband clears the crash record in the retention SRAM (R150). -/
  | crashRecordClear
  /-- A checkpoint request stops placement, pre-empts or drains running launches and, once no context is placed, copies device memory to the CXL checkpoint target (R97). -/
  | checkpointRequest
  /-- A draining launch is still placed CKWAIT after a checkpoint request; the request fails with CKPT_BLOCKED and placement resumes (R97). -/
  | ckwaitExpire
  /-- Every part of the checkpoint image and its tags is performed at the target and the COMPLETE word is written 1 (R97). -/
  | checkpointComplete
  /-- A restore reads a checkpoint image, accepting it only when COMPLETE is 1 and the encoder revision and TIERCFG match, and aborts on a tag mismatch, uncorrectable read or port loss (R98). -/
  | memoryRestore
  /-- A flit exhausts its retry budget of 8 attempts and the Puver link goes down; no further host traffic completes until reset (R15). -/
  | puverLinkDown
  /-- A furrow port exhausts its retry budget or loses training; its hash classes pause, unacknowledged flits are re-sent over the remaining planes in order, and the classes resume (R28). -/
  | planeDown
  /-- A CXL port goes down; accesses to its ranges complete with poison "tier unreachable", the rotation engine stops moving there and firmware is notified (R32). -/
  | cxlPortDown
  /-- A remote access or token gets no answer within 2 ms and completes with poison "package unreachable" (R29). -/
  | packageUnreachableTimeout
  /-- A host access through BAR2 is translated under the B2CTL ASID and performed at the device home slice in PCIe order (R16). -/
  | hostBar2Access
  /-- A doorbell write of a new WPTR is accepted when enabled and in range, or dropped with ERRCNT incremented (R102). -/
  | doorbell
  /-- CONTROL word RESUME on a halted queue clears STATUS and makes it ACTIVE, dispatching from DPTR (R112). -/
  | resume
  /-- CONTROL word RESET stops dispatch, kills every dispatched packet, and once all complete sets DPTR := RPTR := WPTR and makes the queue ACTIVE (R112). -/
  | resetQueue
  /-- CONTROL word DISABLE acts as RESET, then clears EN and makes the queue IDLE (R112). -/
  | disable
  /-- CONTROL word ENABLE on an idle queue sets EN and makes it ACTIVE (R112). -/
  | enable
  /-- A write to a register with no behaviour of its own is performed, or dropped with ERRCNT incremented when it is RO or of the wrong size (R20). -/
  | registerWrite
  /-- The driver writes EVTAIL, freeing event ring slots for events waiting in firmware (R23). -/
  | evtailWrite
  /-- Firmware writes a waiting event record into a free slot of the function's event ring, then writes EVHEAD and raises MSI-X vector 1 (R23). -/
  | eventWrite
  /-- Mailbox request 0x01 writes the control block of a new queue owned by the function (R22). -/
  | queueCreate
  /-- Mailbox request 0x02 disables the queue, waits for its dispatched packets and returns the id to the function's free set (R22). -/
  | queueDestroy
  /-- Mailbox request 0x03 moves a free queue id to a function and exposes its kick page there (R22). -/
  | queueAssign
  /-- Mailbox request 0x04 allocates an empty level-1 table, writes the ASID root at every home and makes the function its owner (R22). -/
  | asidCreate
  /-- Mailbox request 0x05 invalidates the roots, shoots down the whole ASID and frees its tables, unless a page is leased (R22). -/
  | asidDestroy
  /-- Mailbox request 0x06 writes a PTE, keeping LEASE, checked against leases and overcommit, and issues a shootdown of the page (R22). -/
  | pteWrite
  /-- Mailbox request 0x07 returns the PTE of a page (R22). -/
  | pteRead
  /-- Mailbox request 0x08 writes the HOSTBASE of a function (R22). -/
  | setHostbase
  /-- Mailbox request 0x09 writes B2CTL, setting BAR2's enable, ASID and IA base (R22). -/
  | setBar2
  /-- Mailbox request 0x0A sets EVBASE and EVSIZE and zeroes EVHEAD and EVTAIL (R22). -/
  | setEvents
  /-- Mailbox request 0x0B sets DBGCTL.EN for launches dispatched from a function's queues (R22). -/
  | brkCtl
  /-- Mailbox request 0x0C resumes a codelet slot stopped at a brk (R22). -/
  | brkResume
  /-- A mailbox request with an unknown CODE is answered INVALID with no effect (R22). -/
  | mailboxInvalidRequest
  /-- A LAUNCH packet hands its launch record to the scheduler for validation, residency and placement (R115). -/
  | launch
  /-- A COPY packet starts an ascending line copy on the queue copy engine under the queue's ASID (R116). -/
  | copy
  /-- A COPY finishes, or stops at a faulting page with ACCESS_FAULT, and performs its completion signal operation (R116). -/
  | copyComplete
  /-- A NOP packet does nothing and completes (R117). -/
  | packetNop
  /-- A SIGNAL packet applies SET, ADD or SUB to its signal as one read-modify-write (R117). -/
  | signal
  /-- A WAIT packet starts and evaluates its signals against its condition (R117). -/
  | wait
  /-- A WAIT re-evaluates after a device signal changes or every 4 µs for host signals, ending with ABORTED or OK (R117). -/
  | waitEvaluate
  /-- TIMEOUT µs pass since a WAIT started, ending it with WAIT_TIMEOUT (R117). -/
  | waitTimeoutExpire
  /-- A WRITE packet stores 1–4 words at ADDR as one step (R117). -/
  | write
  /-- A WRITE_SIGNAL packet stores DATA at ADDR and then performs its signal operation (R117). -/
  | writeSignal
  /-- A COND packet compares a word with VALUE and skips SKIP packets when the condition fails (R118). -/
  | cond
  /-- A LOOP packet runs its body packets COUNT times, recording progress in LOOPIDX and LOOPREM (R119). -/
  | loopPacket
  /-- A SWITCH packet selects a skip count by matching a word against its cases (R118). -/
  | switchPacket
  /-- A TIMESTAMP packet stores the time base at ADDR (R117). -/
  | timestamp
  /-- Every TICK, or when a pending bit is set with a free slot, the headland binds, swaps or unbinds queues by effective priority (R145). -/
  | schedulerTick
  /-- Each AGESTEP, AGE of every pending unbound queue rises by 1 (R144). -/
  | ageStep
  /-- At a permitted boundary a bound queue's state is written back to its control block, LASTRUN is set and SLOT := 0xFF (R141). -/
  | queueUnbind
  /-- A queue's control block is read into a slot, SLOT is set and AGE := 0, ending a saved WAIT outcome (R141). -/
  | queueBind
  /-- A periodic queue comes within 100 µs of NEXTREL and its pending bit is set (R143). -/
  | periodicPending
  /-- A periodic launch's release time r arrives; NEXTREL advances and placement starts or pre-emption applies (R146). -/
  | periodicRelease
  /-- A periodic launch has not retired by r + DEADLINE and is ended with KILLED (R146). -/
  | deadlineExpire
  /-- After validation the headland makes every leased page resident, raising LEASE counts and posting PAGE_REQUEST events as needed (R67). -/
  | leaseResidency
  /-- RTIMEOUT passes before every page is resident; LEASE counts are restored and the launch completes with LEASE_FAIL (R67). -/
  | leaseTimeout
  /-- The headland places the first waiting launch whose tiles and sowers are free, or considers pre-emption of its victims (R138). -/
  | placement
  /-- Command PLACE makes a plot load and validate the launch's record fields, windows, channels, partitions and images, zeroing partitions and moving waiting tokens (R135). -/
  | place
  /-- Command GO makes context 0 current on the plot's tiles and injects the initial tokens (R135). -/
  | go
  /-- Command SAVE checkpoints the launch's tiles on a plot into the save image (R306). -/
  | save
  /-- Command RESTORE checks and reloads a checkpointed launch's tiles and resumes them in order (R312). -/
  | restore
  /-- Command KILL stops the launch's firings, withdraws held writes, drops its flits, zeroes its tiles and aborts its collective groups (R304). -/
  | kill
  /-- Command FREE releases the tiles of a retired or ended launch on a plot (R135). -/
  | freeTiles
  /-- Event 0x81 reports PLACED or REJECTED; the headland sends GO to every plot, or FREE and completes the launch with REJECTED (R139). -/
  | placed
  /-- Event 0x82 carries a fault record of the launch to the headland (R135). -/
  | fault
  /-- Event 0x83 reports SAVED, RESTORED or LOST; SAVED from every plot frees the victim's tiles, LOST ends it with RESTORE_LOST (R148). -/
  | saved
  /-- Event 0x84 updates the headland's held estimate for a plot and so the launch's remaining time E (R147). -/
  | estimate
  /-- Event 0x85 reports final sink tokens per context; with all plots reported the headland decides completion and retirement (R140). -/
  | sinks
  /-- Event 0x86 reports a plot's tiles of the launch stopped, cleared and free (R149). -/
  | freed
  /-- A plot controller returns no permit for 10 ms or its watchdog expires; a crash entry is written, it is reloaded and its launches complete with KILLED (R137). -/
  | plotControllerFailed
  /-- A reloaded plot controller does not answer within 10 ms; the module reports PLOT_FAIL and kills every launch touching the plot (R137). -/
  | plotFail
  /-- The 100 ms headland watchdog expires; a crash entry with CAUSE 2 is written and the module resets itself (R150). -/
  | headlandWatchdog
  /-- Firmware panics; a crash entry with CAUSE 1 is written and the module resets itself (R150). -/
  | firmwarePanic
  /-- A base-die uncorrectable error writes a crash entry with CAUSE 4 and the module resets itself (R150). -/
  | baseDieUncorrectable
  /-- The cone arbiter re-evaluates all four dies and fixes a pending grant per die within the effective cap (R49). -/
  | arbiterReevaluate
  /-- A launch's 10 µs coalescing window closes and the last held request is accepted with one re-evaluation and CLKEV.COAL set (R46). -/
  | coalesceWindowClose
  /-- A pending grant takes effect at the die's grant boundary or within 100 µs for a falling cap; CLKG and CLKEV change and clock-event tokens are sent (R51). -/
  | grantTakeEffect
  /-- Every 1 ms while a die is over or well under its limit, firmware lowers or raises the thermal cap by 25 W (R50). -/
  | thermalCapStep
  /-- A die stays over its limit 10 ms at a 1,000 W thermal cap, or exceeds it by 10 °C; firmware writes CAUSE 5 and resets the module (R50). -/
  | thermalTrip
  /-- A droop detector stretches a domain's clock period by at most 8 % for at most 1 µs, visible only in telemetry (R57). -/
  | droopStretch
  /-- A shared physical tile switches logical tiles when the active one idles or after 65,536 MAT cycles, swapping pools through the remap reserve (R14). -/
  | tileSwitch
  /-- A memory request reaches its translation home, is translated and checked, and is performed or faults late (R72). -/
  | homeRequest
  /-- The free pool grants the lowest free chunks to a held write once FREE − k ≥ RESERVE, and the write is performed (R86). -/
  | chunkGrant
  /-- A write held 1 ms without a grant notifies firmware with tier, ASID, IA and k (R91). -/
  | firmwareSpaceNotice
  /-- Firmware declares the tier exhausted, or 101 ms pass; held writes end with "capacity exhausted" and EXH rises (R91). -/
  | tierExhausted
  /-- The ballooning engine releases a page's spare chunks past its last sector in use (R88). -/
  | compactionPage
  /-- A demotion of the coldest page one tier down commits its PTE with a shootdown and returns its chunks (R88). -/
  | demotionComplete
  /-- Every 10 ms the engine clears ACCESSED and resets or raises AGE of each compressed page (R89). -/
  | ageScan
  /-- A shootdown completes once cached entries are invalidated and requests translated under the old entries have finished (R73). -/
  | shootdownComplete
  /-- A headland recode command runs the recode steps to change a page's compression kind (R96). -/
  | recode
  /-- Every 1 ms the rotation engine updates each ROT entry's HEAT (R227). -/
  | heatUpdate
  /-- Every 10 ms the rotation engine makes at most one tier move and stages at most one swap (R227). -/
  | rotationMove
  /-- After WINDOW transformed slabs the adaptive loop scales th0–th5 up or down (R286). -/
  | thresholdAdjust
  /-- A token reaches a tile's interface and is accepted into the token store or diverted to the overflow queue (R170). -/
  | tokenArrive
  /-- After a room report the overflow engine reinjects a tile's queued tokens in ascending tag (R172). -/
  | overflowReinject
  /-- The overflow region is full; the owning launch's token is dropped and the launch completes with KILLED (R173). -/
  | overflowExhausted
  /-- A token for an unplaced destination waits PTIMEOUT and is refused with poison "undeliverable" (R174). -/
  | ptimeoutExpire
  /-- A combine unit's acknowledgement reaches the tile and frees a retained bin half once every token is acknowledged (R215). -/
  | acknowledgement
  /-- A unit with no work for 64 cycles is clock-gated (R187). -/
  | unitClockGate
  /-- A ready firing issues in its class's order to its unit (R186). -/
  | firingIssue
  /-- A tlwait or mwait has waited 250 ms and ends with poison "wait timeout" (R191). -/
  | codeletWaitTimeout
  /-- Every tile has joined barrier bn; barrier tokens go to each tile's named node (R194). -/
  | barrierComplete
  /-- Phase 1 of the step barrier closes the sowers: rows finish, deferred copies, histograms and notices are sent (R220). -/
  | sowerClose
  /-- The step barrier completes: leftovers are discarded, STEPID advances, the next context becomes current and retirement is decided (R197). -/
  | stepBarrier
  /-- A row token at sower port 0 is scored, given its top-k experts and sown with a group record (R207). -/
  | sowerRowToken
  /-- A scalar at sower port 1 makes the sower read a buffer of slabs and sow each row (R206). -/
  | sowerBufferToken
  /-- A group record opens a combine group entry keyed by TAG and SEQ (R222). -/
  | groupRecord
  /-- A sown token is copied into the bin's filling half, firing a full batch when CAP is reached (R214). -/
  | binTokenArrive
  /-- A bin's timer expires outside deterministic mode and a partial batch fires (R214). -/
  | binTimerExpire
  /-- A bin notice delivers a sower's count for an expert in the step (R219). -/
  | binNotice
  /-- With all notices and counted tokens present, the bin fires its remaining tokens or a zero-count completion (R221). -/
  | binStepEndFiring
  /-- An expert result reaches the combine unit and is accepted and acknowledged, or refused with poison (R223). -/
  | combineResult
  /-- A descending firing meets an uncorrectable word, parity error or matrix error; the batch is fired again from its retained half (R301). -/
  | batchReplay
  /-- An abort from a lost member reaches a member; its collective in progress completes faulted with "peer aborted" (R314). -/
  | collectiveAbort
  /-- A matrix instruction finishes its engine steps and writes its destination and tag in one step (R433). -/
  | matrixComplete
  /-- An engine command performs all its accesses and the timeline counter advances over the completed prefix, releasing at .sys (R241). -/
  | engineCommandComplete
  /-- Every 10 ms the sensors served on the sideband (board power, temperatures, port states, error counts) refresh their values (R40). -/
  | sensorRefresh
  /-- A rotation-engine tier move of an expert's pages commits its new PTE and record with a shootdown, releasing the writes held at the home (R227). -/
  | tierMoveCommit
  /-- A collective still in progress 2 ms after SAVE is aborted as a kill would abort it, and its command completes faulted with "peer aborted" (R305). -/
  | collectiveSaveExpire
  deriving DecidableEq, Repr

end Sys2Proof
end

