-- ==== Sys2Proof/WellFormed.lean ====
section
/-! DEFINITION. Which instructions are legal encodings, each failing check by name: what an instruction's
own fields show of R319, R329 and R338. What a launch's declarations decide (reasons 15 and 18) is in
Machine/Validate.lean. -/

namespace Sys2Proof

/-- Why a word or node record is an illegal encoding (R319, R329, R338). -/
inductive WfError where
  | guard | type | unusedField | destination | condition | shift | secondType | specialRegister
  | trapCode | rounding | scalarForm | segment | count | configuration | groupBase | form | overlap
  | order | scope | immediate | mask | nops | literalFlag | stickyFlag | literal | destinationField
  deriving DecidableEq, Repr

/-- The type of a code (R321). -/
def Ty.ofCode : Nat → Option Ty
  | 0 => some .b64 | 1 => some .s8 | 2 => some .z8 | 3 => some .s32 | 4 => some .z32 | 5 => some .s64
  | 6 => some .z64 | 7 => some .f16 | 8 => some .bf16 | 9 => some .e4m3 | 10 => some .e5m2
  | 11 => some .q4 | 12 => some .f32 | _ => none

/-- The scalar codes that may stand as a destination (R322). -/
def SOp.isDest : SOp → Bool
  | .t _ => true
  | .zero => true
  | .inp _ => false
  | .tg => false

/-- As `SOp.isDest`, for a code held in a wider slot. -/
def destCode (n : Nat) : Bool := n < 8 || n = 12

def tyInt : List Ty := [.b64, .s8, .z8, .s32, .z32, .s64, .z64]
def tyFloat : List Ty := [.f16, .bf16, .f32]
def tyConv : List Ty := [.s8, .z8, .s32, .z32, .s64, .z64, .f16, .bf16, .e4m3, .e5m2, .f32]
def tyArith : List Ty := [.s8, .z8, .s32, .z32, .s64, .z64, .f16, .bf16, .f32]
def tyVInt : List Ty := [.s8, .z8, .s32, .z32, .s64, .z64]
def tyAll : List Ty := [.s8, .z8, .s32, .z32, .s64, .z64, .f16, .bf16, .e4m3, .e5m2, .q4, .f32]
def tyMat : List Ty := [.s8, .f16, .bf16, .e4m3, .e5m2, .q4]
def tyMatSparse : List Ty := [.s8, .f16, .bf16, .e4m3, .e5m2]
def tySlab : List Ty := [.s8, .f16, .bf16, .e4m3, .e5m2, .f32]
def tyMem : List Ty := [.b64, .s8, .z8, .s32, .z32, .s64, .z64, .f16, .bf16, .e4m3, .e5m2, .f32]
def tyAtomic : List Ty := [.b64, .s32, .z32, .s64, .z64]
def tySendV : List Ty := [.s8, .z8, .s32, .z32, .f16, .bf16, .e4m3, .e5m2, .q4, .f32]
def tyColl : List Ty := [.b64, .s8, .s32, .z32, .s64, .z64, .f16, .bf16, .e4m3, .e5m2, .f32]

/-- Bytes of one lane or element of a type; 4-bit data counts as byte lanes (R395). -/
def Ty.bytes : Ty → Nat
  | .b64 => 8 | .s8 => 1 | .z8 => 1 | .s32 => 4 | .z32 => 4 | .s64 => 8 | .z64 => 8
  | .f16 => 2 | .bf16 => 2 | .e4m3 => 1 | .e5m2 => 1 | .q4 => 1 | .f32 => 4

/-- Lanes of a 512-byte register under a type (R395). -/
def lanes (t : Ty) : Nat := 512 / t.bytes

/-- Registers of a 64 x 64 image of a type (R442). -/
def slabRegs (t : Ty) : Nat := 8 * t.bytes

/-- A slab group base: a multiple of 32 for FP32, of 16 for the 16-bit types (R420). -/
def groupBase (t : Ty) (v : BitVec 8) : Bool :=
  v.toNat % (if t = .f32 then 32 else 16) = 0

/-- The special register numbers that are assigned (R381). -/
def srAssigned (n : Nat) : Bool :=
  n ≤ 0x00B || (0x010 ≤ n && n ≤ 0x012) || (0x018 ≤ n && n ≤ 0x01F) || (0x020 ≤ n && n ≤ 0x05F)

/-- `none` when the condition holds. -/
def okIf (b : Bool) (e : WfError) : Option WfError := if b then none else some e

/-- With GE = 0, GP and GN are 0 (R320). -/
def Guard.ok (g : Guard) : Bool := g.ge || (g.gp = 0 && !g.gn)

/-- Fields an R word of a mnemonic uses. -/
structure UseR where
  d : Bool := false
  a : Bool := false
  b : Bool := false
  c : Bool := false
  rm : Bool := false
  cc : Bool := false
  pd : Bool := false
  pa : Bool := false
  pb : Bool := false
  sh : Bool := false

/-- The first check that fails. -/
def firstOf (l : List (Option WfError)) : Option WfError := l.findSome? id

def checkR (w : RWord) (tys : List Ty) (u : UseR) (extra : Option WfError) : Option WfError :=
  firstOf [okIf w.g.ok .guard, okIf (tys.contains w.ty) .type,
    okIf ((u.d || w.d = .t 0) && (u.a || w.a = .t 0) && (u.b || w.b = .t 0) && (u.c || w.c = .t 0)
      && (u.rm || w.rm = .rne) && (u.cc || w.cc = .eq) && (u.pd || w.pd = 0) && (u.pa || w.pa = 0)
      && (u.pb || w.pb = 0) && (u.sh || w.sh = 0)) .unusedField,
    okIf w.d.isDest .destination, extra]

/-- Fields an I word of a mnemonic uses. -/
structure UseI where
  d : Bool := false
  a : Bool := false
  cc : Bool := false
  pd : Bool := false
  imm : Bool := false

def checkI (w : IWord) (tys : List Ty) (u : UseI) (extra : Option WfError) : Option WfError :=
  firstOf [okIf w.g.ok .guard, okIf (tys.contains w.ty) .type,
    okIf ((u.d || w.d = .t 0) && (u.a || w.a = .t 0) && (u.cc || w.cc = .eq) && (u.pd || w.pd = 0)
      && (u.imm || w.imm = 0)) .unusedField,
    okIf w.d.isDest .destination, extra]

/-- Fields a V word of a mnemonic uses; `sb` and `me` permit those bits. -/
structure UseV where
  vd : Bool := false
  va : Bool := false
  vb : Bool := false
  vc : Bool := false
  rm : Bool := false
  cc : Bool := false
  sb : Bool := false
  me : Bool := false

def checkV (w : VWord) (tys : List Ty) (u : UseV) (extra : Option WfError) : Option WfError :=
  firstOf [okIf w.g.ok .guard, okIf (tys.contains w.ty) .type,
    okIf ((u.vd || w.vd = 0) && (u.va || w.va = 0) && (u.vb || w.vb = 0) && (u.vc || w.vc = 0)
      && (u.rm || w.rm = .rne) && (u.cc || w.cc = .eq) && (u.sb || !w.sb)) .unusedField,
    okIf ((u.me || !w.me) && (w.me || w.vm = 0)) .mask,
    okIf (!w.sb || w.vb.toNat < 13) .scalarForm, extra]

/-- `vcvt`: S a convertible type, PART below the width ratio (R406). -/
def vcvtFields (w : VWord) : Bool :=
  match Ty.ofCode w.vc.toNat with
  | some s => tyConv.contains s && w.vb.toNat < max w.ty.bytes s.bytes / min w.ty.bytes s.bytes
  | none => false

/-- `vquant`: S in 7, 8, 12; cfg [7:5] zero, FIX for L4 only, LT zero without FIX (R413). -/
def vquantFields (w : VWord) : Bool :=
  (Ty.ofCode w.vc.toNat).any (tyFloat.contains ·) && w.vb.toNat < 32
    && (!w.vb.getLsbD 2 || w.ty = .q4) && (w.vb.getLsbD 2 || w.vb.toNat < 8)

/-- `vdequant`: S in 1, 9, 10, 11; only BLK in cfg (R415). -/
def vdequantFields (w : VWord) : Bool :=
  (Ty.ofCode w.vc.toNat).any ([Ty.s8, .e4m3, .e5m2, .q4].contains ·) && w.vb.toNat < 4

/-- Fields an S word of a mnemonic uses. -/
structure UseS where
  ad : Bool := false
  oa : Bool := false
  ob : Bool := false
  shr : Bool := false
  z : Bool := false
  dec : Bool := false
  hold : Bool := false
  x : Bool := false
  tb : Bool := false

def checkS (w : SWord) (tys : List Ty) (u : UseS) (extra : Option WfError) : Option WfError :=
  firstOf [okIf w.g.ok .guard, okIf (tys.contains w.ty) .type,
    okIf ((u.ad || w.ad = 0) && (u.oa || w.oa = 0) && (u.ob || w.ob = 0) && (u.shr || w.shr = 0)
      && (u.z || !w.z) && (u.dec || !w.dec) && (u.hold || !w.hold) && (u.x || w.x = .t 0)
      && (u.tb || w.tb = 0)) .unusedField, extra]

/-- Fields an M word of a mnemonic uses. -/
structure UseM where
  d : Bool := false
  base : Bool := false
  data : Bool := false
  data2 : Bool := false
  strm : Bool := false
  off : Bool := false

/-- ORD from the permitted list; SCOPE zero with `.rlx`, but for `fence` (R450). -/
def checkM (w : MWord) (tys : List Ty) (u : UseM) (ords : List Ord) (freeScope : Bool)
    (extra : Option WfError) : Option WfError :=
  firstOf [okIf w.g.ok .guard, okIf (tys.contains w.ty) .type,
    okIf ((u.d || w.d = .t 0) && (u.base || w.base = .t 0) && (u.data || w.data = .t 0)
      && (u.data2 || w.data2 = .t 0) && (u.strm || w.strm = 0) && (u.off || w.off = 0)) .unusedField,
    okIf w.d.isDest .destination, okIf (ords.contains w.ord) .order,
    okIf (freeScope || w.ord ≠ .rlx || w.scope = .tile) .scope, extra]

/-- Fields an E word of a mnemonic uses. -/
structure UseE where
  a : Bool := false
  b : Bool := false
  c : Bool := false
  ch : Bool := false
  v : Bool := false
  tl : Bool := false
  scope : Bool := false
  imm : Bool := false

def checkE (w : EWord) (tys : List Ty) (u : UseE) (extra : Option WfError) : Option WfError :=
  firstOf [okIf w.g.ok .guard, okIf (tys.contains w.ty) .type,
    okIf ((u.a || w.a = .t 0) && (u.b || w.b = .t 0) && (u.c || w.c = .t 0) && (u.ch || w.ch = 0)
      && (u.v || w.v = 0) && (u.tl || w.tl = 0) && (u.scope || w.scope = .tile)
      && (u.imm || w.imm = 0)) .unusedField, extra]

/-- `cpyf`: source format 0x01 to 0x0C, RM 0 to 4, BLK for `.q4` only (R465). -/
def cpyfImm (w : EWord) : Bool :=
  let f := (w.imm.extractLsb' 2 8).toNat
  1 ≤ f && f ≤ 0x0C && (w.imm.extractLsb' 10 3).toNat ≤ 4 && (w.ty = .q4 || w.imm.extractLsb' 13 2 = 0)

/-- Whether a node kind permits LIT. -/
inductive LitUse where
  | no | any
  deriving DecidableEq, Repr

/-- A destination field with V = 0 has no other bit set (R317). -/
def Dest.ok (d : Dest) : Bool := d.v || (d.tile = 0 && d.node = 0 && d.port = 0)

/-- R180 and R338: permitted NOPS, LIT, STICKY, LITERAL and destinations. -/
def checkNode (r : NodeRec) (nops : List Nat) (lit : LitUse) (sticky : Bool) (literal dests : Bool) :
    Option WfError :=
  firstOf [okIf (nops.contains r.nops.toNat) .nops,
    okIf (!r.lit || (lit = .any && r.nops ≠ 1)) .literalFlag,
    okIf (!r.sticky || (sticky && r.nops = 3)) .stickyFlag,
    okIf literal .literal,
    okIf (r.destA.ok && r.destB.ok && (dests || (!r.destA.v && !r.destB.v))) .destinationField]

/-- The first check an instruction's own fields fail; `none` for a legal encoding. Events have no encoding. -/
def Instr.check : Instr → Option WfError
  | .powerOnReset => none
  | .warmReset => none
  | .resetRelease => none
  | .firmwareImagePush => none
  | .noImageTimeout => none
  | .firmwareBringUp => none
  | .furrowStep => none
  | .readyReport => none
  | .packageNumberWrite => none
  | .capWrite => none
  | .quoteRequest => none
  | .crashRecordClear => none
  | .checkpointRequest => none
  | .ckwaitExpire => none
  | .checkpointComplete => none
  | .memoryRestore => none
  | .puverLinkDown => none
  | .planeDown => none
  | .cxlPortDown => none
  | .packageUnreachableTimeout => none
  | .hostBar2Access => none
  | .doorbell => none
  | .resume => none
  | .resetQueue => none
  | .disable => none
  | .enable => none
  | .registerWrite => none
  | .evtailWrite => none
  | .eventWrite => none
  | .queueCreate => none
  | .queueDestroy => none
  | .queueAssign => none
  | .asidCreate => none
  | .asidDestroy => none
  | .pteWrite => none
  | .pteRead => none
  | .setHostbase => none
  | .setBar2 => none
  | .setEvents => none
  | .brkCtl => none
  | .brkResume => none
  | .mailboxInvalidRequest => none
  | .launch => none
  | .copy => none
  | .copyComplete => none
  | .packetNop => none
  | .signal => none
  | .wait => none
  | .waitEvaluate => none
  | .waitTimeoutExpire => none
  | .write => none
  | .writeSignal => none
  | .cond => none
  | .loopPacket => none
  | .switchPacket => none
  | .timestamp => none
  | .schedulerTick => none
  | .ageStep => none
  | .queueUnbind => none
  | .queueBind => none
  | .periodicPending => none
  | .periodicRelease => none
  | .deadlineExpire => none
  | .leaseResidency => none
  | .leaseTimeout => none
  | .placement => none
  | .place => none
  | .go => none
  | .save => none
  | .restore => none
  | .kill => none
  | .freeTiles => none
  | .placed => none
  | .fault => none
  | .saved => none
  | .estimate => none
  | .sinks => none
  | .freed => none
  | .plotControllerFailed => none
  | .plotFail => none
  | .headlandWatchdog => none
  | .firmwarePanic => none
  | .baseDieUncorrectable => none
  | .arbiterReevaluate => none
  | .coalesceWindowClose => none
  | .grantTakeEffect => none
  | .thermalCapStep => none
  | .thermalTrip => none
  | .droopStretch => none
  | .tileSwitch => none
  | .homeRequest => none
  | .chunkGrant => none
  | .firmwareSpaceNotice => none
  | .tierExhausted => none
  | .compactionPage => none
  | .demotionComplete => none
  | .ageScan => none
  | .shootdownComplete => none
  | .recode => none
  | .heatUpdate => none
  | .rotationMove => none
  | .thresholdAdjust => none
  | .tokenArrive => none
  | .overflowReinject => none
  | .overflowExhausted => none
  | .ptimeoutExpire => none
  | .acknowledgement => none
  | .unitClockGate => none
  | .firingIssue => none
  | .codeletWaitTimeout => none
  | .barrierComplete => none
  | .sowerClose => none
  | .stepBarrier => none
  | .sowerRowToken => none
  | .sowerBufferToken => none
  | .groupRecord => none
  | .binTokenArrive => none
  | .binTimerExpire => none
  | .binNotice => none
  | .binStepEndFiring => none
  | .combineResult => none
  | .batchReplay => none
  | .collectiveAbort => none
  | .matrixComplete => none
  | .engineCommandComplete => none
  | .nodeAdd r => checkNode r [2] .any false (r.lit || r.literal = 0) true
  | .nodeSub r => checkNode r [2] .any false (r.lit || r.literal = 0) true
  | .nodeMul r => checkNode r [2] .any false (r.lit || r.literal = 0) true
  | .nodeAnd r => checkNode r [2] .any false (r.lit || r.literal = 0) true
  | .nodeOr r => checkNode r [2] .any false (r.lit || r.literal = 0) true
  | .nodeXor r => checkNode r [2] .any false (r.lit || r.literal = 0) true
  | .nodeShl r => checkNode r [2] .any false (r.lit || r.literal = 0) true
  | .nodeShr r => checkNode r [2] .any false (r.lit || r.literal = 0) true
  | .nodeSar r => checkNode r [2] .any false (r.lit || r.literal = 0) true
  | .nodeMin r => checkNode r [2] .any false (r.lit || r.literal = 0) true
  | .nodeMax r => checkNode r [2] .any false (r.lit || r.literal = 0) true
  | .nodeCmp r => checkNode r [2] .no false (r.literal.toNat < 10) true
  | .nodeSel r => checkNode r [3] .any true (r.lit || r.literal = 0) true
  | .nodeDup r => checkNode r [1] .no false (r.literal = 0) true
  | .nodeSteer r => checkNode r [2] .any false (r.lit || r.literal = 0) true
  | .nodeMerge r => checkNode r [2] .no false (r.literal = 0) true
  | .nodeSwitch r => checkNode r [2] .no false (1 ≤ r.literal.toNat && r.literal.toNat ≤ 4095 && r.destA.v) true
  | .nodeGate r => checkNode r [2, 3] .no true (r.literal = 0 && (r.nops = 3) = r.sticky) true
  | .nodeSink r => checkNode r [1, 2, 3] .no false (r.literal.toNat ≤ 1) false
  | .nodeConst r => checkNode r [1] .no false true true
  | .nodeTagin r => checkNode r [1] .no false (1 ≤ r.literal.toNat && r.literal.toNat ≤ 19) true
  | .nodeTagnext r => checkNode r [1] .no false (1 ≤ r.literal.toNat && r.literal.toNat ≤ 19) true
  | .nodeTagout r => checkNode r [1] .no false (1 ≤ r.literal.toNat && r.literal.toNat ≤ 19) true
  | .nodeTagset r => checkNode r [2] .any false (if r.lit then r.literal.toNat ≤ 0xFFFFF else r.literal = 0) true
  | .nodeCount r => checkNode r [1, 2] .no false (if r.nops = 1 then r.literal.toNat ≤ 0x100000 else r.literal = 0) true
  | .nodeBin r => checkNode r [1] .no false (r.literal.toNat % 256 ≠ 0) true
  | .nodeJoin r => checkNode r [1] .no false (2 ≤ r.literal.toNat && r.literal.toNat ≤ 65535) true
  | .nodeCwait r => checkNode r [1, 2] .no false (if r.nops = 1 then r.literal ≠ 0 else r.literal = 0) true
  | .nodeFire r => checkNode r [1, 2, 3] .any true (r.lit || r.literal.toNat < 1024) true
  | .nodeMctl r => checkNode r [1] .no false (r.literal.toNat < 8192) true
  | .nodeIsect r => checkNode r [2] .no false (r.literal = 0) true
  | .nodeSendx r => checkNode r [1] .no false (r.literal.toNat < 32) false
  | .nodeLds r => checkNode r [1] .no false (r.literal.toNat < 16 && !(r.literal.toNat % 4 = 3 && r.literal.getLsbD 2)) true
  | .nodeSts r => checkNode r [2] .no false (r.literal.toNat < 16 && !r.literal.getLsbD 2) true
  | .nodePchk r => checkNode r [1] .no false (r.literal.toNat ≤ 1) true
  | .add w => checkR w tyInt { d := true, a := true, b := true } none
  | .sub w => checkR w tyInt { d := true, a := true, b := true } none
  | .mul w => checkR w tyInt { d := true, a := true, b := true } none
  | .mulh w => checkR w tyInt { d := true, a := true, b := true } none
  | .div w => checkR w tyInt { d := true, a := true, b := true } none
  | .rem w => checkR w tyInt { d := true, a := true, b := true } none
  | .andR w => checkR w tyInt { d := true, a := true, b := true } none
  | .orR w => checkR w tyInt { d := true, a := true, b := true } none
  | .xor w => checkR w tyInt { d := true, a := true, b := true } none
  | .andn w => checkR w tyInt { d := true, a := true, b := true } none
  | .notR w => checkR w tyInt { d := true, a := true } none
  | .shl w => checkR w tyInt { d := true, a := true, b := true } none
  | .shr w => checkR w tyInt { d := true, a := true, b := true } none
  | .sar w => checkR w tyInt { d := true, a := true, b := true } none
  | .rotl w => checkR w tyInt { d := true, a := true, b := true } none
  | .clz w => checkR w tyInt { d := true, a := true } none
  | .ctz w => checkR w tyInt { d := true, a := true } none
  | .popc w => checkR w tyInt { d := true, a := true } none
  | .min w => checkR w tyInt { d := true, a := true, b := true } none
  | .max w => checkR w tyInt { d := true, a := true, b := true } none
  | .abs w => checkR w tyInt { d := true, a := true } none
  | .neg w => checkR w tyInt { d := true, a := true } none
  | .extR w => checkR w [.b64, .s64, .z64] { d := true, a := true, b := true, sh := true } none
  | .bext w => checkR w [.b64] { d := true, a := true, b := true } none
  | .bdep w => checkR w [.b64] { d := true, a := true, b := true } none
  | .mov w => checkR w tyInt { d := true, a := true } none
  | .movi w => checkI w tyInt { d := true, imm := true } none
  | .moviHi w => checkI w [.b64] { d := true, imm := true } none
  | .lea w => checkR w [.b64] { d := true, a := true, b := true, sh := true } (okIf (w.sh.toNat ≤ 7) .shift)
  | .addI w => checkI w tyInt { d := true, a := true, imm := true } none
  | .subI w => checkI w tyInt { d := true, a := true, imm := true } none
  | .mulI w => checkI w tyInt { d := true, a := true, imm := true } none
  | .andI w => checkI w tyInt { d := true, a := true, imm := true } none
  | .orI w => checkI w tyInt { d := true, a := true, imm := true } none
  | .xorI w => checkI w tyInt { d := true, a := true, imm := true } none
  | .andnI w => checkI w tyInt { d := true, a := true, imm := true } none
  | .shlI w => checkI w tyInt { d := true, a := true, imm := true } none
  | .shrI w => checkI w tyInt { d := true, a := true, imm := true } none
  | .sarI w => checkI w tyInt { d := true, a := true, imm := true } none
  | .rotlI w => checkI w tyInt { d := true, a := true, imm := true } none
  | .minI w => checkI w tyInt { d := true, a := true, imm := true } none
  | .maxI w => checkI w tyInt { d := true, a := true, imm := true } none
  | .cmpI w => checkI w tyInt { a := true, cc := true, pd := true, imm := true } (okIf (w.cc ≠ .uo) .condition)
  | .cmp w => checkR w tyInt { pd := true, a := true, b := true, cc := true } (okIf (w.cc ≠ .uo) .condition)
  | .tst w => checkR w tyInt { pd := true, a := true, b := true } none
  | .sel w => checkR w tyInt { d := true, pa := true, a := true, b := true } none
  | .pand w => checkR w [.b64] { pd := true, pa := true, pb := true } none
  | .por w => checkR w [.b64] { pd := true, pa := true, pb := true } none
  | .pnot w => checkR w [.b64] { pd := true, pa := true } none
  | .fadd w => checkR w tyFloat { d := true, a := true, b := true, rm := true } none
  | .fsub w => checkR w tyFloat { d := true, a := true, b := true, rm := true } none
  | .fmul w => checkR w tyFloat { d := true, a := true, b := true, rm := true } none
  | .ffma w => checkR w tyFloat { d := true, a := true, b := true, c := true, rm := true } none
  | .fdiv w => checkR w tyFloat { d := true, a := true, b := true, rm := true } none
  | .fsqrt w => checkR w tyFloat { d := true, a := true, rm := true } none
  | .fmin w => checkR w tyFloat { d := true, a := true, b := true } none
  | .fmax w => checkR w tyFloat { d := true, a := true, b := true } none
  | .fabs w => checkR w tyFloat { d := true, a := true } none
  | .fneg w => checkR w tyFloat { d := true, a := true } none
  | .fcmp w => checkR w tyFloat { pd := true, a := true, b := true, cc := true } none
  | .fcvt w => checkR w tyConv { d := true, a := true, rm := true, sh := true } (okIf ((Ty.ofCode w.sh.toNat).any (tyConv.contains ·)) .secondType)
  | .fclass w => checkR w tyFloat { d := true, a := true } none
  | .send w => checkE w [.b64] { a := true, b := true, c := true, ch := true, imm := true } (okIf (w.imm.getLsbD 14 || w.imm = 0) .immediate)
  | .sendv w => checkE w tySendV { a := true, b := true, c := true, ch := true, v := true } none
  | .sendx w => checkE w tySendV { a := true, b := true, ch := true, v := true } none
  | .emit w => checkE w [.b64] { b := true, c := true, ch := true, imm := true } (okIf (w.imm.toNat < 8 && w.imm.toNat % 4 ≠ 0 && (w.imm.getLsbD 2 || w.ch = 0)) .immediate)
  | .tagmk w => checkR w [.b64] { d := true, a := true, b := true, sh := true } (okIf (1 ≤ w.sh.toNat && w.sh.toNat ≤ 19) .shift)
  | .pchk w => checkR w [.b64] { pd := true, d := true, a := true, b := true } none
  | .poison w => checkR w [.b64] { a := true, sh := true } none
  | .done w => checkR w [.b64] {  } none
  | .rdsr w => checkI w [.b64] { d := true, imm := true } (okIf (srAssigned w.imm.toNat) .specialRegister)
  | .wrsr w => checkI w [.b64] { a := true, imm := true } (okIf (srAssigned w.imm.toNat) .specialRegister)
  | .trap w => checkI w [.b64] { a := true, imm := true } (okIf (0xC0 ≤ w.imm.toNat && w.imm.toNat ≤ 0xFF) .trapCode)
  | .brk w => checkI w [.b64] { imm := true } none
  | .nop w => checkR w [.b64] {  } none
  | .clkreq w => checkR w [.b64] { a := true } none
  | .kick w => checkR w [.b64] { a := true, b := true } none
  | .winld w => checkR w [.b64] { a := true, b := true } none
  | .cflush w => checkR w [.b64] { a := true, b := true, sh := true } (okIf (w.sh.toNat ≤ 1) .shift)
  | .halt w => checkR w [.b64] {  } none
  | .pgrecode w => checkR w [.b64] { a := true, b := true } none
  | .vadd w => checkV w tyArith { vd := true, va := true, vb := true, rm := true, sb := true, me := true } (okIf (w.rm = .rne || tyFloat.contains w.ty) .rounding)
  | .vsub w => checkV w tyArith { vd := true, va := true, vb := true, rm := true, sb := true, me := true } (okIf (w.rm = .rne || tyFloat.contains w.ty) .rounding)
  | .vmul w => checkV w tyArith { vd := true, va := true, vb := true, rm := true, sb := true, me := true } (okIf (w.rm = .rne || tyFloat.contains w.ty) .rounding)
  | .vfma w => checkV w tyArith { vd := true, va := true, vb := true, vc := true, rm := true, sb := true, me := true } (okIf (w.rm = .rne || tyFloat.contains w.ty) .rounding)
  | .vmin w => checkV w tyArith { vd := true, va := true, vb := true, sb := true, me := true } none
  | .vmax w => checkV w tyArith { vd := true, va := true, vb := true, sb := true, me := true } none
  | .vabs w => checkV w tyArith { vd := true, va := true, me := true } none
  | .vneg w => checkV w tyArith { vd := true, va := true, me := true } none
  | .vand w => checkV w tyAll { vd := true, va := true, vb := true, sb := true, me := true } none
  | .vor w => checkV w tyAll { vd := true, va := true, vb := true, sb := true, me := true } none
  | .vxor w => checkV w tyAll { vd := true, va := true, vb := true, sb := true, me := true } none
  | .vshl w => checkV w tyVInt { vd := true, va := true, vb := true, sb := true, me := true } none
  | .vshr w => checkV w tyVInt { vd := true, va := true, vb := true, sb := true, me := true } none
  | .vsar w => checkV w tyVInt { vd := true, va := true, vb := true, sb := true, me := true } none
  | .vexp2 w => checkV w tyFloat { vd := true, va := true, rm := true, me := true } none
  | .vlog2 w => checkV w tyFloat { vd := true, va := true, rm := true, me := true } none
  | .vrcp w => checkV w tyFloat { vd := true, va := true, rm := true, me := true } none
  | .vrsq w => checkV w tyFloat { vd := true, va := true, rm := true, me := true } none
  | .vtanh w => checkV w tyFloat { vd := true, va := true, rm := true, me := true } none
  | .vsigm w => checkV w tyFloat { vd := true, va := true, rm := true, me := true } none
  | .vgelu w => checkV w tyFloat { vd := true, va := true, rm := true, me := true } none
  | .vsilu w => checkV w tyFloat { vd := true, va := true, rm := true, me := true } none
  | .vcvt w => checkV w tyConv { vd := true, va := true, vb := true, vc := true, rm := true, me := true } (okIf (vcvtFields w) .secondType)
  | .vcmp w => checkV w tyArith { vd := true, va := true, vb := true, sb := true, cc := true, me := true } (okIf (w.cc ≠ .uo || tyFloat.contains w.ty) .condition)
  | .vsel w => checkV w tyAll { vd := true, va := true, vb := true, vc := true, sb := true, me := true } none
  | .vbcast w => checkV w tyAll { vd := true, vb := true, sb := true, me := true } (okIf w.sb .scalarForm)
  | .vmov w => checkV w tyAll { vd := true, va := true, me := true } none
  | .vperm w => checkV w tyAll { vd := true, va := true, vb := true, me := true } none
  | .vrot w => checkV w tyAll { vd := true, va := true, vb := true, sb := true, me := true } none
  | .vredsum w => checkV w tyArith { vd := true, va := true, vc := true, me := true } (okIf (2 ^ w.vc.toNat ≤ lanes w.ty) .segment)
  | .vredmax w => checkV w tyArith { vd := true, va := true, vc := true, me := true } (okIf (2 ^ w.vc.toNat ≤ lanes w.ty) .segment)
  | .vredmin w => checkV w tyArith { vd := true, va := true, vc := true, me := true } (okIf (2 ^ w.vc.toNat ≤ lanes w.ty) .segment)
  | .vscan w => checkV w tyArith { vd := true, va := true, vc := true, me := true } (okIf (2 ^ w.vc.toNat ≤ lanes w.ty) .segment)
  | .vtopk w => checkV w [.s32, .z32, .f16, .bf16, .f32] { vd := true, va := true, vb := true, vc := true, sb := true, me := true } (okIf (w.vc ≠ w.vd && (w.sb || (1 ≤ w.vb.toNat && w.vb.toNat ≤ 64))) .count)
  | .vquant w => checkV w [.s8, .e4m3, .e5m2, .q4] { vd := true, va := true, vb := true, vc := true, rm := true } (okIf (vquantFields w) .configuration)
  | .vdequant w => checkV w tyFloat { vd := true, va := true, vb := true, vc := true, rm := true } (okIf (vdequantFields w) .configuration)
  | .vld w => checkV w tyAll { vd := true, va := true, vb := true, sb := true, me := true } (okIf (w.va.toNat < 13 && !(w.me && w.sb)) .scalarForm)
  | .vldPort w => checkV w tyAll { vd := true, va := true, vb := true, vc := true, sb := true, me := true } (okIf (8 ≤ w.va.toNat && w.va.toNat ≤ 10 && w.vc = 1 && !(w.me && w.sb)) .scalarForm)
  | .vst w => checkV w tyAll { vd := true, va := true, vb := true, sb := true, me := true } (okIf (w.va.toNat < 13 && !(w.me && w.sb)) .scalarForm)
  | .vldx w => checkV w tyAll { vd := true, va := true, vb := true, me := true } (okIf (w.va.toNat < 13) .scalarForm)
  | .vstx w => checkV w tyAll { vd := true, va := true, vb := true, me := true } (okIf (w.va.toNat < 13) .scalarForm)
  | .hfwd w => checkV w tyFloat { vd := true, va := true, vb := true } (okIf (groupBase w.ty w.vd && groupBase w.ty w.va && 1 ≤ w.vb.toNat && w.vb.toNat ≤ 3) .groupBase)
  | .hinv w => checkV w tyFloat { vd := true, va := true } (okIf (groupBase w.ty w.vd && groupBase w.ty w.va) .groupBase)
  | .hthr w => checkV w tyFloat { vd := true, va := true, vc := true } (okIf (groupBase w.ty w.vd && groupBase w.ty w.va && destCode w.vc.toNat) .groupBase)
  | .hexp w => checkV w tyFloat { vd := true, va := true, vb := true } (okIf (groupBase w.ty w.vd && w.vb.toNat < 4) .groupBase)
  | .hbias w => checkV w tyFloat { vd := true, va := true, vb := true, sb := true } (okIf (groupBase w.ty w.vd && groupBase w.ty w.va) .groupBase)
  | .dtag w => checkV w [.b64, .f16, .bf16, .f32] { vd := true, vb := true } (okIf ((w.ty = .b64 || groupBase w.ty w.vd) && w.vb.toNat < 4) .groupBase)
  | .dtget w => checkV w [.b64] { vd := true, va := true } (okIf (destCode w.vd.toNat) .destination)
  | .thset w => checkV w tyFloat { vd := true, vb := true, sb := true } (okIf (w.vd.toNat < 8 && w.sb) .scalarForm)
  | .mma w => checkS w tyMat { ad := true, oa := true, ob := true, shr := true, z := true, dec := true, hold := true, x := true, tb := true } (okIf ((Ty.ofCode w.tb.toNat).any (tyMat.contains ·) && !(w.z && w.dec) && (w.dec || w.x = .t 0)) .secondType)
  | .mmag w => checkS w tyMat { ad := true, oa := true, shr := true, z := true, hold := true, x := true, tb := true } (okIf ((Ty.ofCode w.tb.toNat).any (tyMat.contains ·)) .secondType)
  | .mmas w => checkS w tyMatSparse { ad := true, oa := true, ob := true, shr := true, z := true, dec := true, hold := true, x := true, tb := true } (okIf ((Ty.ofCode w.tb.toNat).any (tyMatSparse.contains ·) && !(w.z && w.dec) && (w.dec || w.x = .t 0)) .secondType)
  | .macz w => checkS w [.b64] { ad := true } none
  | .macld w => checkS w tySlab { ad := true, oa := true } none
  | .macldSpad w => checkS w tySlab { ad := true, x := true, tb := true } (okIf (8 ≤ w.tb.toNat && w.tb.toNat < 12) .form)
  | .macst w => checkS w tySlab { ad := true, oa := true, tb := true } (okIf (w.tb.toNat < 5) .rounding)
  | .macstSpad w => checkS w tySlab { ad := true, x := true, tb := true } (okIf (8 ≤ w.tb.toNat && w.tb.toNat < 13) .rounding)
  | .mtr w => checkS w tySlab { oa := true, ob := true } (okIf (w.oa.toNat + slabRegs w.ty ≤ w.ob.toNat || w.ob.toNat + slabRegs w.ty ≤ w.oa.toNat) .overlap)
  | .mburst w => checkS w [.b64] { x := true } none
  | .srld w => checkS w [.b64] { shr := true, x := true } none
  | .srfence w => checkS w [.b64] { oa := true, ob := true } none
  | .mwait w => checkS w [.b64] { ad := true, oa := true } (okIf (w.oa.toNat ≤ 1 && (w.oa = 1 || w.ad = 0)) .form)
  | .ld w => checkM w tyMem { d := true, base := true, off := true } [.rlx, .acq] false none
  | .st w => checkM w tyMem { base := true, data := true, off := true } [.rlx, .rel] false none
  | .sopen w => checkM w [.b64] { base := true, data := true, data2 := true, strm := true, off := true } [.rlx] false none
  | .sclose w => checkM w [.b64] { d := true, strm := true } [.rlx] false none
  | .sld w => checkM w tyMem { d := true, strm := true } [.rlx] false none
  | .sst w => checkM w tyMem { data := true, strm := true } [.rlx] false none
  | .sldSlab w => checkM w tyFloat { data := true, strm := true } [.rlx] false none
  | .sstSlab w => checkM w tyFloat { data := true, strm := true } [.rlx] false none
  | .sbar w => checkM w [.b64] { off := true } [.rlx] false none
  | .pref w => checkM w [.b64] { base := true, data := true, off := true } [.rlx] false none
  | .fence w => checkM w [.b64] { off := true } [.rlx] true none
  | .aadd w => checkM w tyAtomic { d := true, base := true, data := true, off := true } [.rlx, .acq, .rel, .ar] false none
  | .aaddf w => checkM w tyFloat { d := true, base := true, data := true, off := true } [.rlx, .acq, .rel, .ar] false none
  | .amin w => checkM w tyAtomic { d := true, base := true, data := true, off := true } [.rlx, .acq, .rel, .ar] false none
  | .amax w => checkM w tyAtomic { d := true, base := true, data := true, off := true } [.rlx, .acq, .rel, .ar] false none
  | .aand w => checkM w tyAtomic { d := true, base := true, data := true, off := true } [.rlx, .acq, .rel, .ar] false none
  | .aor w => checkM w tyAtomic { d := true, base := true, data := true, off := true } [.rlx, .acq, .rel, .ar] false none
  | .axor w => checkM w tyAtomic { d := true, base := true, data := true, off := true } [.rlx, .acq, .rel, .ar] false none
  | .axch w => checkM w tyAtomic { d := true, base := true, data := true, off := true } [.rlx, .acq, .rel, .ar] false none
  | .acas w => checkM w tyAtomic { d := true, base := true, data := true, data2 := true, off := true } [.rlx, .acq, .rel, .ar] false none
  | .cpy w => checkE w [.b64] { a := true, b := true, c := true, tl := true, imm := true } (okIf (w.imm.toNat < 4) .immediate)
  | .cpyf w => checkE w tySendV { a := true, b := true, c := true, tl := true, imm := true } (okIf (cpyfImm w) .immediate)
  | .gath w => checkE w [.b64] { a := true, tl := true } none
  | .scat w => checkE w [.b64] { a := true, tl := true } none
  | .coll w => checkE w tyColl { a := true, tl := true, imm := true } (okIf (w.imm.toNat < 8 && (w.ty = .b64) = (w.imm = 0)) .immediate)
  | .mcrd w => checkE w [.b64] { a := true, b := true, c := true, tl := true } none
  | .tlrd w => checkE w [.b64] { a := true, tl := true } (okIf w.a.isDest .destination)
  | .tlwait w => checkE w [.b64] { b := true, tl := true } none
  | .tltest w => checkE w [.b64] { a := true, tl := true } (okIf w.a.isDest .destination)
  | .epf w => checkE w [.b64] { a := true } none
  | .apf w => checkE w [.b64] { a := true, b := true, tl := true } none
  | .bar w => checkE w [.b64] { a := true, b := true, imm := true, scope := true } (okIf (w.imm.toNat < 16) .immediate)
  | .csig w => checkE w [.b64] { a := true, b := true, ch := true, scope := true } none
  | .stepend w => checkE w [.b64] {  } none
  | .sensorRefresh => none
  | .tierMoveCommit => none
  | .collectiveSaveExpire => none

/-- The instruction's fields lie in the set the manual permits for its mnemonic (R319, R329, R338). -/
abbrev Instr.WellFormed (i : Instr) : Prop := i.check = none

end Sys2Proof
end

