-- ==== Sys2Proof/Decode.lean ====
section
/-! DEFINITION. Decoding codelet words and node records (R316 to R326), total on any bits and refusing by
name, and the encoder written from the same tables. Events have no encoding in the manual. -/

namespace Sys2Proof

/-- Why bits are no instruction (R319, R329). -/
inductive DecodeError where
  | length | reservedMajor | reservedOpcode | reservedType | reservedOperand | reservedRounding
  | reservedCondition | reservedScope | zeroField | illegal (e : WfError)
  deriving DecidableEq, Repr

/-- Bits [lo + n - 1 : lo] of a word. -/
def fld (w : BitVec 64) (lo n : Nat) : Nat := (w.extractLsb' lo n).toNat

/-- A Nat placed at bit `lo` of a word. -/
def at' (v lo : Nat) : BitVec 64 := BitVec.ofNat 64 (v <<< lo)

/-- A single bit of a word. -/
def bitAt (b : Bool) (lo : Nat) : BitVec 64 := if b then at' 1 lo else 0

/-- The code of a type (R321). -/
def Ty.code : Ty → Nat
  | .b64 => 0 | .s8 => 1 | .z8 => 2 | .s32 => 3 | .z32 => 4 | .s64 => 5 | .z64 => 6 | .f16 => 7
  | .bf16 => 8 | .e4m3 => 9 | .e5m2 => 10 | .q4 => 11 | .f32 => 12

/-- The scalar operand of a code (R322). -/
def SOp.ofCode (n : Nat) : Option SOp :=
  if h : n < 8 then some (.t ⟨n, h⟩)
  else if h : n - 8 < 3 then some (.inp ⟨n - 8, h⟩)
  else if n = 11 then some .tg
  else if n = 12 then some .zero
  else none

/-- The code of a scalar operand (R322). -/
def SOp.code : SOp → Nat
  | .t i => i.val
  | .inp i => 8 + i.val
  | .tg => 11
  | .zero => 12

/-- The rounding mode of a code (R260). -/
def Rm.ofCode : Nat → Option Rm
  | 0 => some .rne | 1 => some .rtz | 2 => some .rdn | 3 => some .rup | 4 => some .sr | _ => none

/-- The code of a rounding mode. -/
def Rm.code : Rm → Nat
  | .rne => 0 | .rtz => 1 | .rdn => 2 | .rup => 3 | .sr => 4

/-- The condition of a code (R325). -/
def Cc.ofCode : Nat → Option Cc
  | 0 => some .eq | 1 => some .ne | 2 => some .lt | 3 => some .le | 4 => some .gt | 5 => some .ge
  | 6 => some .uo | _ => none

/-- The code of a condition. -/
def Cc.code : Cc → Nat
  | .eq => 0 | .ne => 1 | .lt => 2 | .le => 3 | .gt => 4 | .ge => 5 | .uo => 6

/-- The scope of a code (R163, R325). -/
def Scope.ofCode : Nat → Option Scope
  | 0 => some .tile | 1 => some .plot | 2 => some .die | 3 => some .pkg | 4 => some .dom
  | 5 => some .sys | _ => none

/-- The code of a scope; a wider scope has the greater code. -/
def Scope.code : Scope → Nat
  | .tile => 0 | .plot => 1 | .die => 2 | .pkg => 3 | .dom => 4 | .sys => 5

/-- The ordering of a code (R325). -/
def Ord.ofCode : Nat → Ord
  | 0 => .rlx | 1 => .acq | 2 => .rel | _ => .ar

/-- The code of an ordering. -/
def Ord.code : Ord → Nat
  | .rlx => 0 | .acq => 1 | .rel => 2 | .ar => 3

/-- The value or the error. -/
def need (o : Option α) (e : DecodeError) : Except DecodeError α :=
  match o with
  | some a => .ok a
  | none => .error e

/-- Guard bits [55:52] (R320). -/
def decGuard (w : BitVec 64) : Guard :=
  { gp := w.extractLsb' 54 2, gn := w.getLsbD 53, ge := w.getLsbD 52 }

def encGuard (g : Guard) : BitVec 64 := at' g.gp.toNat 54 ||| bitAt g.gn 53 ||| bitAt g.ge 52

def decTy (w : BitVec 64) : Except DecodeError Ty := need (Ty.ofCode (fld w 48 4)) .reservedType

/-- The scalar operand whose code stands at bit `lo`. -/
def decOp (w : BitVec 64) (lo : Nat) : Except DecodeError SOp := need (SOp.ofCode (fld w lo 5)) .reservedOperand

/-- The bits of a field marked 0 are zero. -/
def zeroBits (w : BitVec 64) (lo n : Nat) : Except DecodeError Unit :=
  if fld w lo n = 0 then .ok () else .error .zeroField

/-- R format, bits [47:0] (R324). -/
def decR (w : BitVec 64) : Except DecodeError RWord := do
  let ty ← decTy w
  let d ← decOp w 43
  let a ← decOp w 38
  let b ← decOp w 33
  let c ← decOp w 28
  let rm ← need (Rm.ofCode (fld w 25 3)) .reservedRounding
  let cc ← need (Cc.ofCode (fld w 22 3)) .reservedCondition
  zeroBits w 0 10
  return { g := decGuard w, ty, d, a, b, c, rm, cc, pd := w.extractLsb' 20 2, pa := w.extractLsb' 18 2,
           pb := w.extractLsb' 16 2, sh := w.extractLsb' 10 6 }

def encR (m : Nat) (w : RWord) : BitVec 64 :=
  at' m 56 ||| encGuard w.g ||| at' w.ty.code 48 ||| at' w.d.code 43 ||| at' w.a.code 38 ||| at' w.b.code 33
    ||| at' w.c.code 28 ||| at' w.rm.code 25 ||| at' w.cc.code 22 ||| at' w.pd.toNat 20
    ||| at' w.pa.toNat 18 ||| at' w.pb.toNat 16 ||| at' w.sh.toNat 10

/-- I format, bits [47:0]; HI is handed to the mnemonic (R324). -/
def decI (w : BitVec 64) : Except DecodeError IWord := do
  let ty ← decTy w
  let d ← decOp w 43
  let a ← decOp w 38
  let cc ← need (Cc.ofCode (fld w 35 3)) .reservedCondition
  return { g := decGuard w, ty, d, a, cc, pd := w.extractLsb' 33 2, imm := w.extractLsb' 0 32 }

def encI (m : Nat) (hi : Bool) (w : IWord) : BitVec 64 :=
  at' m 56 ||| encGuard w.g ||| at' w.ty.code 48 ||| at' w.d.code 43 ||| at' w.a.code 38
    ||| at' w.cc.code 35 ||| at' w.pd.toNat 33 ||| bitAt hi 32 ||| at' w.imm.toNat 0

/-- V format, bits [47:0] (R324). -/
def decV (w : BitVec 64) : Except DecodeError VWord := do
  let ty ← decTy w
  let rm ← need (Rm.ofCode (fld w 13 3)) .reservedRounding
  let cc ← need (Cc.ofCode (fld w 10 3)) .reservedCondition
  return { g := decGuard w, ty, vd := w.extractLsb' 40 8, va := w.extractLsb' 32 8, vb := w.extractLsb' 24 8,
           vc := w.extractLsb' 16 8, rm, cc, sb := w.getLsbD 9, me := w.getLsbD 8, vm := w.extractLsb' 0 8 }

def encV (m : Nat) (w : VWord) : BitVec 64 :=
  at' m 56 ||| encGuard w.g ||| at' w.ty.code 48 ||| at' w.vd.toNat 40 ||| at' w.va.toNat 32
    ||| at' w.vb.toNat 24 ||| at' w.vc.toNat 16 ||| at' w.rm.code 13 ||| at' w.cc.code 10
    ||| bitAt w.sb 9 ||| bitAt w.me 8 ||| at' w.vm.toNat 0

/-- M format, bits [47:0] (R324). -/
def decM (w : BitVec 64) : Except DecodeError MWord := do
  let ty ← decTy w
  let d ← decOp w 43
  let base ← decOp w 38
  let data ← decOp w 33
  let data2 ← decOp w 28
  let scope ← need (Scope.ofCode (fld w 25 3)) .reservedScope
  zeroBits w 16 3
  return { g := decGuard w, ty, d, base, data, data2, scope, ord := Ord.ofCode (fld w 23 2),
           strm := w.extractLsb' 19 4, off := w.extractLsb' 0 16 }

def encM (m : Nat) (w : MWord) : BitVec 64 :=
  at' m 56 ||| encGuard w.g ||| at' w.ty.code 48 ||| at' w.d.code 43 ||| at' w.base.code 38
    ||| at' w.data.code 33 ||| at' w.data2.code 28 ||| at' w.scope.code 25 ||| at' w.ord.code 23
    ||| at' w.strm.toNat 19 ||| at' w.off.toNat 0

/-- S format, bits [47:0] (R324). -/
def decS (w : BitVec 64) : Except DecodeError SWord := do
  let ty ← decTy w
  let x ← decOp w 14
  zeroBits w 0 10
  return { g := decGuard w, ty, ad := w.extractLsb' 42 6, oa := w.extractLsb' 34 8, ob := w.extractLsb' 26 8,
           shr := w.extractLsb' 22 4, z := w.getLsbD 21, dec := w.getLsbD 20, hold := w.getLsbD 19, x,
           tb := w.extractLsb' 10 4 }

def encS (m : Nat) (w : SWord) : BitVec 64 :=
  at' m 56 ||| encGuard w.g ||| at' w.ty.code 48 ||| at' w.ad.toNat 42 ||| at' w.oa.toNat 34
    ||| at' w.ob.toNat 26 ||| at' w.shr.toNat 22 ||| bitAt w.z 21 ||| bitAt w.dec 20 ||| bitAt w.hold 19
    ||| at' w.x.code 14 ||| at' w.tb.toNat 10

/-- E format, bits [47:0] (R324). -/
def decE (w : BitVec 64) : Except DecodeError EWord := do
  let ty ← decTy w
  let a ← decOp w 43
  let b ← decOp w 38
  let c ← decOp w 33
  let scope ← need (Scope.ofCode (fld w 15 3)) .reservedScope
  return { g := decGuard w, ty, a, b, c, ch := w.extractLsb' 28 5, v := w.extractLsb' 20 8,
           tl := w.extractLsb' 18 2, scope, imm := w.extractLsb' 0 15 }

def encE (m : Nat) (w : EWord) : BitVec 64 :=
  at' m 56 ||| encGuard w.g ||| at' w.ty.code 48 ||| at' w.a.code 43 ||| at' w.b.code 38 ||| at' w.c.code 33
    ||| at' w.ch.toNat 28 ||| at' w.v.toNat 20 ||| at' w.tl.toNat 18 ||| at' w.scope.code 15
    ||| at' w.imm.toNat 0

/-- The instruction of an R-format word (R326). -/
def ofR (m : Nat) (w : RWord) : Option Instr :=
  match m with
  | 0x01 => some (.add w)
  | 0x02 => some (.sub w)
  | 0x03 => some (.mul w)
  | 0x04 => some (.mulh w)
  | 0x05 => some (.div w)
  | 0x06 => some (.rem w)
  | 0x07 => some (.andR w)
  | 0x08 => some (.orR w)
  | 0x09 => some (.xor w)
  | 0x0A => some (.andn w)
  | 0x0B => some (.notR w)
  | 0x0C => some (.shl w)
  | 0x0D => some (.shr w)
  | 0x0E => some (.sar w)
  | 0x0F => some (.rotl w)
  | 0x10 => some (.clz w)
  | 0x11 => some (.ctz w)
  | 0x12 => some (.popc w)
  | 0x13 => some (.min w)
  | 0x14 => some (.max w)
  | 0x15 => some (.abs w)
  | 0x16 => some (.neg w)
  | 0x17 => some (.extR w)
  | 0x18 => some (.bext w)
  | 0x19 => some (.bdep w)
  | 0x1A => some (.mov w)
  | 0x1C => some (.lea w)
  | 0x30 => some (.cmp w)
  | 0x31 => some (.tst w)
  | 0x32 => some (.sel w)
  | 0x33 => some (.pand w)
  | 0x34 => some (.por w)
  | 0x35 => some (.pnot w)
  | 0x38 => some (.fadd w)
  | 0x39 => some (.fsub w)
  | 0x3A => some (.fmul w)
  | 0x3B => some (.ffma w)
  | 0x3C => some (.fdiv w)
  | 0x3D => some (.fsqrt w)
  | 0x3E => some (.fmin w)
  | 0x3F => some (.fmax w)
  | 0x40 => some (.fabs w)
  | 0x41 => some (.fneg w)
  | 0x42 => some (.fcmp w)
  | 0x43 => some (.fcvt w)
  | 0x44 => some (.fclass w)
  | 0x4C => some (.tagmk w)
  | 0x4D => some (.pchk w)
  | 0x4E => some (.poison w)
  | 0x4F => some (.done w)
  | 0x54 => some (.nop w)
  | 0x55 => some (.clkreq w)
  | 0x56 => some (.kick w)
  | 0x58 => some (.winld w)
  | 0x59 => some (.cflush w)
  | 0x5A => some (.halt w)
  | 0x5B => some (.pgrecode w)
  | _ => none

/-- The instruction of an I-format word; HI is `movi.hi` alone (R324, R326). -/
def ofI (m : Nat) (hi : Bool) (w : IWord) : Option Instr :=
  match m with
  | 0x1B => some (if hi then .moviHi w else .movi w)
  | 0x20 => if hi then none else some (.addI w)
  | 0x21 => if hi then none else some (.subI w)
  | 0x22 => if hi then none else some (.mulI w)
  | 0x23 => if hi then none else some (.andI w)
  | 0x24 => if hi then none else some (.orI w)
  | 0x25 => if hi then none else some (.xorI w)
  | 0x26 => if hi then none else some (.andnI w)
  | 0x27 => if hi then none else some (.shlI w)
  | 0x28 => if hi then none else some (.shrI w)
  | 0x29 => if hi then none else some (.sarI w)
  | 0x2A => if hi then none else some (.rotlI w)
  | 0x2B => if hi then none else some (.minI w)
  | 0x2C => if hi then none else some (.maxI w)
  | 0x2D => if hi then none else some (.cmpI w)
  | 0x50 => if hi then none else some (.rdsr w)
  | 0x51 => if hi then none else some (.wrsr w)
  | 0x52 => if hi then none else some (.trap w)
  | 0x53 => if hi then none else some (.brk w)
  | _ => none

/-- The instruction of a V-format word; VC tells the port form of `vld` (R417). -/
def ofV (m : Nat) (w : VWord) : Option Instr :=
  match m with
  | 0x60 => some (.vadd w)
  | 0x61 => some (.vsub w)
  | 0x62 => some (.vmul w)
  | 0x63 => some (.vfma w)
  | 0x64 => some (.vmin w)
  | 0x65 => some (.vmax w)
  | 0x66 => some (.vabs w)
  | 0x67 => some (.vneg w)
  | 0x68 => some (.vand w)
  | 0x69 => some (.vor w)
  | 0x6A => some (.vxor w)
  | 0x6B => some (.vshl w)
  | 0x6C => some (.vshr w)
  | 0x6D => some (.vsar w)
  | 0x6E => some (.vexp2 w)
  | 0x6F => some (.vlog2 w)
  | 0x70 => some (.vrcp w)
  | 0x71 => some (.vrsq w)
  | 0x72 => some (.vtanh w)
  | 0x73 => some (.vsigm w)
  | 0x74 => some (.vgelu w)
  | 0x75 => some (.vsilu w)
  | 0x76 => some (.vcvt w)
  | 0x77 => some (.vcmp w)
  | 0x78 => some (.vsel w)
  | 0x79 => some (.vbcast w)
  | 0x7A => some (.vmov w)
  | 0x7B => some (.vperm w)
  | 0x7C => some (.vrot w)
  | 0x7D => some (.vredsum w)
  | 0x7E => some (.vredmax w)
  | 0x7F => some (.vredmin w)
  | 0x80 => some (.vscan w)
  | 0x81 => some (.vtopk w)
  | 0x82 => some (.vquant w)
  | 0x83 => some (.vdequant w)
  | 0x84 => some (if w.vc = 0 then .vld w else .vldPort w)
  | 0x85 => some (.vst w)
  | 0x86 => some (.vldx w)
  | 0x87 => some (.vstx w)
  | 0x88 => some (.hfwd w)
  | 0x89 => some (.hinv w)
  | 0x8A => some (.hthr w)
  | 0x8B => some (.hexp w)
  | 0x8C => some (.hbias w)
  | 0x8D => some (.dtag w)
  | 0x8E => some (.dtget w)
  | 0x8F => some (.thset w)
  | _ => none

/-- The instruction of an M-format word. A data operand in `sld` is the slab form (R461); the mode of the stream settles the rest (log 9). -/
def ofM (m : Nat) (w : MWord) : Option Instr :=
  match m with
  | 0xA0 => some (.ld w)
  | 0xA1 => some (.st w)
  | 0xA2 => some (.sopen w)
  | 0xA3 => some (.sclose w)
  | 0xA4 => some (if w.data = .t 0 then .sld w else .sldSlab w)
  | 0xA5 => some (.sst w)
  | 0xA6 => some (.sbar w)
  | 0xA7 => some (.pref w)
  | 0xA8 => some (.fence w)
  | 0xA9 => some (.aadd w)
  | 0xAA => some (.aaddf w)
  | 0xAB => some (.amin w)
  | 0xAC => some (.amax w)
  | 0xAD => some (.aand w)
  | 0xAE => some (.aor w)
  | 0xAF => some (.axor w)
  | 0xB0 => some (.axch w)
  | 0xB1 => some (.acas w)
  | _ => none

/-- The instruction of an S-format word; TB[3] tells the scratchpad forms (R442, R443). -/
def ofS (m : Nat) (w : SWord) : Option Instr :=
  match m with
  | 0x90 => some (.mma w)
  | 0x91 => some (.mmag w)
  | 0x92 => some (.mmas w)
  | 0x93 => some (.macz w)
  | 0x94 => some (if w.tb.getLsbD 3 then .macldSpad w else .macld w)
  | 0x95 => some (if w.tb.getLsbD 3 then .macstSpad w else .macst w)
  | 0x96 => some (.mtr w)
  | 0x97 => some (.mburst w)
  | 0x98 => some (.srld w)
  | 0x99 => some (.srfence w)
  | 0x9A => some (.mwait w)
  | _ => none

/-- The instruction of an E-format word (R326). -/
def ofE (m : Nat) (w : EWord) : Option Instr :=
  match m with
  | 0x48 => some (.send w)
  | 0x49 => some (.sendv w)
  | 0x4A => some (.sendx w)
  | 0x4B => some (.emit w)
  | 0xB8 => some (.cpy w)
  | 0xB9 => some (.cpyf w)
  | 0xBA => some (.gath w)
  | 0xBB => some (.scat w)
  | 0xBC => some (.coll w)
  | 0xBD => some (.mcrd w)
  | 0xBE => some (.tlrd w)
  | 0xBF => some (.tlwait w)
  | 0xC0 => some (.tltest w)
  | 0xC1 => some (.epf w)
  | 0xC2 => some (.apf w)
  | 0xC8 => some (.bar w)
  | 0xC9 => some (.csig w)
  | 0xCA => some (.stepend w)
  | _ => none

/-- The instruction of a node record with this opcode (R318). -/
def ofNode (op : Nat) (r : NodeRec) : Option Instr :=
  match op with
  | 0x01 => some (.nodeAdd r)
  | 0x02 => some (.nodeSub r)
  | 0x03 => some (.nodeMul r)
  | 0x04 => some (.nodeAnd r)
  | 0x05 => some (.nodeOr r)
  | 0x06 => some (.nodeXor r)
  | 0x07 => some (.nodeShl r)
  | 0x08 => some (.nodeShr r)
  | 0x09 => some (.nodeSar r)
  | 0x0A => some (.nodeMin r)
  | 0x0B => some (.nodeMax r)
  | 0x0C => some (.nodeCmp r)
  | 0x0D => some (.nodeSel r)
  | 0x10 => some (.nodeDup r)
  | 0x11 => some (.nodeSteer r)
  | 0x12 => some (.nodeMerge r)
  | 0x13 => some (.nodeSwitch r)
  | 0x14 => some (.nodeGate r)
  | 0x15 => some (.nodeSink r)
  | 0x16 => some (.nodeConst r)
  | 0x20 => some (.nodeTagin r)
  | 0x21 => some (.nodeTagnext r)
  | 0x22 => some (.nodeTagout r)
  | 0x23 => some (.nodeTagset r)
  | 0x28 => some (.nodeCount r)
  | 0x29 => some (.nodeBin r)
  | 0x2A => some (.nodeJoin r)
  | 0x2B => some (.nodeCwait r)
  | 0x30 => some (.nodeFire r)
  | 0x31 => some (.nodeMctl r)
  | 0x32 => some (.nodeIsect r)
  | 0x33 => some (.nodeSendx r)
  | 0x38 => some (.nodeLds r)
  | 0x39 => some (.nodeSts r)
  | 0x3F => some (.nodePchk r)
  | _ => none

/-- What an instruction is on the wire: its opcode and format fields. -/
inductive Form where
  | r (m : Nat) (w : RWord)
  | i (m : Nat) (hi : Bool) (w : IWord)
  | v (m : Nat) (w : VWord)
  | m (m : Nat) (w : MWord)
  | s (m : Nat) (w : SWord)
  | e (m : Nat) (w : EWord)
  | node (op : Nat) (r : NodeRec)
  | event

/-- The wire form of each instruction (R318, R326). -/
def Instr.form : Instr → Form
  | .powerOnReset => .event
  | .warmReset => .event
  | .resetRelease => .event
  | .firmwareImagePush => .event
  | .noImageTimeout => .event
  | .firmwareBringUp => .event
  | .furrowStep => .event
  | .readyReport => .event
  | .packageNumberWrite => .event
  | .capWrite => .event
  | .quoteRequest => .event
  | .crashRecordClear => .event
  | .checkpointRequest => .event
  | .ckwaitExpire => .event
  | .checkpointComplete => .event
  | .memoryRestore => .event
  | .puverLinkDown => .event
  | .planeDown => .event
  | .cxlPortDown => .event
  | .packageUnreachableTimeout => .event
  | .hostBar2Access => .event
  | .doorbell => .event
  | .resume => .event
  | .resetQueue => .event
  | .disable => .event
  | .enable => .event
  | .registerWrite => .event
  | .evtailWrite => .event
  | .eventWrite => .event
  | .queueCreate => .event
  | .queueDestroy => .event
  | .queueAssign => .event
  | .asidCreate => .event
  | .asidDestroy => .event
  | .pteWrite => .event
  | .pteRead => .event
  | .setHostbase => .event
  | .setBar2 => .event
  | .setEvents => .event
  | .brkCtl => .event
  | .brkResume => .event
  | .mailboxInvalidRequest => .event
  | .launch => .event
  | .copy => .event
  | .copyComplete => .event
  | .packetNop => .event
  | .signal => .event
  | .wait => .event
  | .waitEvaluate => .event
  | .waitTimeoutExpire => .event
  | .write => .event
  | .writeSignal => .event
  | .cond => .event
  | .loopPacket => .event
  | .switchPacket => .event
  | .timestamp => .event
  | .schedulerTick => .event
  | .ageStep => .event
  | .queueUnbind => .event
  | .queueBind => .event
  | .periodicPending => .event
  | .periodicRelease => .event
  | .deadlineExpire => .event
  | .leaseResidency => .event
  | .leaseTimeout => .event
  | .placement => .event
  | .place => .event
  | .go => .event
  | .save => .event
  | .restore => .event
  | .kill => .event
  | .freeTiles => .event
  | .placed => .event
  | .fault => .event
  | .saved => .event
  | .estimate => .event
  | .sinks => .event
  | .freed => .event
  | .plotControllerFailed => .event
  | .plotFail => .event
  | .headlandWatchdog => .event
  | .firmwarePanic => .event
  | .baseDieUncorrectable => .event
  | .arbiterReevaluate => .event
  | .coalesceWindowClose => .event
  | .grantTakeEffect => .event
  | .thermalCapStep => .event
  | .thermalTrip => .event
  | .droopStretch => .event
  | .tileSwitch => .event
  | .homeRequest => .event
  | .chunkGrant => .event
  | .firmwareSpaceNotice => .event
  | .tierExhausted => .event
  | .compactionPage => .event
  | .demotionComplete => .event
  | .ageScan => .event
  | .shootdownComplete => .event
  | .recode => .event
  | .heatUpdate => .event
  | .rotationMove => .event
  | .thresholdAdjust => .event
  | .tokenArrive => .event
  | .overflowReinject => .event
  | .overflowExhausted => .event
  | .ptimeoutExpire => .event
  | .acknowledgement => .event
  | .unitClockGate => .event
  | .firingIssue => .event
  | .codeletWaitTimeout => .event
  | .barrierComplete => .event
  | .sowerClose => .event
  | .stepBarrier => .event
  | .sowerRowToken => .event
  | .sowerBufferToken => .event
  | .groupRecord => .event
  | .binTokenArrive => .event
  | .binTimerExpire => .event
  | .binNotice => .event
  | .binStepEndFiring => .event
  | .combineResult => .event
  | .batchReplay => .event
  | .collectiveAbort => .event
  | .matrixComplete => .event
  | .engineCommandComplete => .event
  | .nodeAdd r => .node 0x01 r
  | .nodeSub r => .node 0x02 r
  | .nodeMul r => .node 0x03 r
  | .nodeAnd r => .node 0x04 r
  | .nodeOr r => .node 0x05 r
  | .nodeXor r => .node 0x06 r
  | .nodeShl r => .node 0x07 r
  | .nodeShr r => .node 0x08 r
  | .nodeSar r => .node 0x09 r
  | .nodeMin r => .node 0x0A r
  | .nodeMax r => .node 0x0B r
  | .nodeCmp r => .node 0x0C r
  | .nodeSel r => .node 0x0D r
  | .nodeDup r => .node 0x10 r
  | .nodeSteer r => .node 0x11 r
  | .nodeMerge r => .node 0x12 r
  | .nodeSwitch r => .node 0x13 r
  | .nodeGate r => .node 0x14 r
  | .nodeSink r => .node 0x15 r
  | .nodeConst r => .node 0x16 r
  | .nodeTagin r => .node 0x20 r
  | .nodeTagnext r => .node 0x21 r
  | .nodeTagout r => .node 0x22 r
  | .nodeTagset r => .node 0x23 r
  | .nodeCount r => .node 0x28 r
  | .nodeBin r => .node 0x29 r
  | .nodeJoin r => .node 0x2A r
  | .nodeCwait r => .node 0x2B r
  | .nodeFire r => .node 0x30 r
  | .nodeMctl r => .node 0x31 r
  | .nodeIsect r => .node 0x32 r
  | .nodeSendx r => .node 0x33 r
  | .nodeLds r => .node 0x38 r
  | .nodeSts r => .node 0x39 r
  | .nodePchk r => .node 0x3F r
  | .add w => .r 0x01 w
  | .sub w => .r 0x02 w
  | .mul w => .r 0x03 w
  | .mulh w => .r 0x04 w
  | .div w => .r 0x05 w
  | .rem w => .r 0x06 w
  | .andR w => .r 0x07 w
  | .orR w => .r 0x08 w
  | .xor w => .r 0x09 w
  | .andn w => .r 0x0A w
  | .notR w => .r 0x0B w
  | .shl w => .r 0x0C w
  | .shr w => .r 0x0D w
  | .sar w => .r 0x0E w
  | .rotl w => .r 0x0F w
  | .clz w => .r 0x10 w
  | .ctz w => .r 0x11 w
  | .popc w => .r 0x12 w
  | .min w => .r 0x13 w
  | .max w => .r 0x14 w
  | .abs w => .r 0x15 w
  | .neg w => .r 0x16 w
  | .extR w => .r 0x17 w
  | .bext w => .r 0x18 w
  | .bdep w => .r 0x19 w
  | .mov w => .r 0x1A w
  | .movi w => .i 0x1B false w
  | .moviHi w => .i 0x1B true w
  | .lea w => .r 0x1C w
  | .addI w => .i 0x20 false w
  | .subI w => .i 0x21 false w
  | .mulI w => .i 0x22 false w
  | .andI w => .i 0x23 false w
  | .orI w => .i 0x24 false w
  | .xorI w => .i 0x25 false w
  | .andnI w => .i 0x26 false w
  | .shlI w => .i 0x27 false w
  | .shrI w => .i 0x28 false w
  | .sarI w => .i 0x29 false w
  | .rotlI w => .i 0x2A false w
  | .minI w => .i 0x2B false w
  | .maxI w => .i 0x2C false w
  | .cmpI w => .i 0x2D false w
  | .cmp w => .r 0x30 w
  | .tst w => .r 0x31 w
  | .sel w => .r 0x32 w
  | .pand w => .r 0x33 w
  | .por w => .r 0x34 w
  | .pnot w => .r 0x35 w
  | .fadd w => .r 0x38 w
  | .fsub w => .r 0x39 w
  | .fmul w => .r 0x3A w
  | .ffma w => .r 0x3B w
  | .fdiv w => .r 0x3C w
  | .fsqrt w => .r 0x3D w
  | .fmin w => .r 0x3E w
  | .fmax w => .r 0x3F w
  | .fabs w => .r 0x40 w
  | .fneg w => .r 0x41 w
  | .fcmp w => .r 0x42 w
  | .fcvt w => .r 0x43 w
  | .fclass w => .r 0x44 w
  | .send w => .e 0x48 w
  | .sendv w => .e 0x49 w
  | .sendx w => .e 0x4A w
  | .emit w => .e 0x4B w
  | .tagmk w => .r 0x4C w
  | .pchk w => .r 0x4D w
  | .poison w => .r 0x4E w
  | .done w => .r 0x4F w
  | .rdsr w => .i 0x50 false w
  | .wrsr w => .i 0x51 false w
  | .trap w => .i 0x52 false w
  | .brk w => .i 0x53 false w
  | .nop w => .r 0x54 w
  | .clkreq w => .r 0x55 w
  | .kick w => .r 0x56 w
  | .winld w => .r 0x58 w
  | .cflush w => .r 0x59 w
  | .halt w => .r 0x5A w
  | .pgrecode w => .r 0x5B w
  | .vadd w => .v 0x60 w
  | .vsub w => .v 0x61 w
  | .vmul w => .v 0x62 w
  | .vfma w => .v 0x63 w
  | .vmin w => .v 0x64 w
  | .vmax w => .v 0x65 w
  | .vabs w => .v 0x66 w
  | .vneg w => .v 0x67 w
  | .vand w => .v 0x68 w
  | .vor w => .v 0x69 w
  | .vxor w => .v 0x6A w
  | .vshl w => .v 0x6B w
  | .vshr w => .v 0x6C w
  | .vsar w => .v 0x6D w
  | .vexp2 w => .v 0x6E w
  | .vlog2 w => .v 0x6F w
  | .vrcp w => .v 0x70 w
  | .vrsq w => .v 0x71 w
  | .vtanh w => .v 0x72 w
  | .vsigm w => .v 0x73 w
  | .vgelu w => .v 0x74 w
  | .vsilu w => .v 0x75 w
  | .vcvt w => .v 0x76 w
  | .vcmp w => .v 0x77 w
  | .vsel w => .v 0x78 w
  | .vbcast w => .v 0x79 w
  | .vmov w => .v 0x7A w
  | .vperm w => .v 0x7B w
  | .vrot w => .v 0x7C w
  | .vredsum w => .v 0x7D w
  | .vredmax w => .v 0x7E w
  | .vredmin w => .v 0x7F w
  | .vscan w => .v 0x80 w
  | .vtopk w => .v 0x81 w
  | .vquant w => .v 0x82 w
  | .vdequant w => .v 0x83 w
  | .vld w => .v 0x84 w
  | .vldPort w => .v 0x84 w
  | .vst w => .v 0x85 w
  | .vldx w => .v 0x86 w
  | .vstx w => .v 0x87 w
  | .hfwd w => .v 0x88 w
  | .hinv w => .v 0x89 w
  | .hthr w => .v 0x8A w
  | .hexp w => .v 0x8B w
  | .hbias w => .v 0x8C w
  | .dtag w => .v 0x8D w
  | .dtget w => .v 0x8E w
  | .thset w => .v 0x8F w
  | .mma w => .s 0x90 w
  | .mmag w => .s 0x91 w
  | .mmas w => .s 0x92 w
  | .macz w => .s 0x93 w
  | .macld w => .s 0x94 w
  | .macldSpad w => .s 0x94 w
  | .macst w => .s 0x95 w
  | .macstSpad w => .s 0x95 w
  | .mtr w => .s 0x96 w
  | .mburst w => .s 0x97 w
  | .srld w => .s 0x98 w
  | .srfence w => .s 0x99 w
  | .mwait w => .s 0x9A w
  | .ld w => .m 0xA0 w
  | .st w => .m 0xA1 w
  | .sopen w => .m 0xA2 w
  | .sclose w => .m 0xA3 w
  | .sld w => .m 0xA4 w
  | .sst w => .m 0xA5 w
  | .sldSlab w => .m 0xA4 w
  | .sstSlab w => .m 0xA5 w
  | .sbar w => .m 0xA6 w
  | .pref w => .m 0xA7 w
  | .fence w => .m 0xA8 w
  | .aadd w => .m 0xA9 w
  | .aaddf w => .m 0xAA w
  | .amin w => .m 0xAB w
  | .amax w => .m 0xAC w
  | .aand w => .m 0xAD w
  | .aor w => .m 0xAE w
  | .axor w => .m 0xAF w
  | .axch w => .m 0xB0 w
  | .acas w => .m 0xB1 w
  | .cpy w => .e 0xB8 w
  | .cpyf w => .e 0xB9 w
  | .gath w => .e 0xBA w
  | .scat w => .e 0xBB w
  | .coll w => .e 0xBC w
  | .mcrd w => .e 0xBD w
  | .tlrd w => .e 0xBE w
  | .tlwait w => .e 0xBF w
  | .tltest w => .e 0xC0 w
  | .epf w => .e 0xC1 w
  | .apf w => .e 0xC2 w
  | .bar w => .e 0xC8 w
  | .csig w => .e 0xC9 w
  | .stepend w => .e 0xCA w
  | .sensorRefresh => .event
  | .tierMoveCommit => .event
  | .collectiveSaveExpire => .event

/-- An instruction that is a legal encoding, or the reason why not. -/
def checked (o : Option Instr) : Except DecodeError Instr :=
  match o with
  | none => .error .reservedMajor
  | some i =>
    match i.check with
    | none => .ok i
    | some e => .error (.illegal e)

/-- The format a major opcode fixes (R326), and the fields read by it. -/
def decodeWord (w : BitVec 64) : Except DecodeError Instr :=
  let m := fld w 56 8
  if (ofR m ⟨⟨0, false, false⟩, .b64, .zero, .zero, .zero, .zero, .rne, .eq, 0, 0, 0, 0⟩).isSome then do
    checked (ofR m (← decR w))
  else if (ofI m false ⟨⟨0, false, false⟩, .b64, .zero, .zero, .eq, 0, 0⟩).isSome then do
    checked (ofI m (w.getLsbD 32) (← decI w))
  else if (ofV m ⟨⟨0, false, false⟩, .b64, 0, 0, 0, 0, .rne, .eq, false, false, 0⟩).isSome then do
    checked (ofV m (← decV w))
  else if (ofM m ⟨⟨0, false, false⟩, .b64, .zero, .zero, .zero, .zero, .tile, .rlx, 0, 0⟩).isSome then do
    checked (ofM m (← decM w))
  else if (ofS m ⟨⟨0, false, false⟩, .b64, 0, 0, 0, 0, false, false, false, .zero, 0⟩).isSome then do
    checked (ofS m (← decS w))
  else if (ofE m ⟨⟨0, false, false⟩, .b64, .zero, .zero, .zero, 0, 0, 0, .tile, 0⟩).isSome then do
    checked (ofE m (← decE w))
  else .error .reservedMajor

/-- A 26-bit destination field (R317). -/
def decDest (d : BitVec 26) : Dest :=
  { v := d.getLsbD 25, tile := d.extractLsb' 14 11, node := d.extractLsb' 2 12, port := d.extractLsb' 0 2 }

def encDest (d : Dest) : BitVec 26 :=
  BitVec.ofNat 26 ((if d.v then 1 <<< 25 else 0) ||| (d.tile.toNat <<< 14) ||| (d.node.toNat <<< 2) ||| d.port.toNat)

/-- The fields of a node record (R316). -/
def decNodeRec (s : BitVec 128) : NodeRec :=
  { sticky := s.getLsbD 87, lit := s.getLsbD 86, nops := s.extractLsb' 84 2,
    destA := decDest (s.extractLsb' 58 26), destB := decDest (s.extractLsb' 32 26), literal := s.extractLsb' 0 32 }

/-- A node slot of 16 bytes: bits [127:96] are 0, the opcode is listed, the fields are permitted (R319). -/
def decodeNode (s : BitVec 128) : Except DecodeError Instr :=
  if s.extractLsb' 96 32 ≠ 0 then .error .zeroField
  else
    match ofNode (s.extractLsb' 88 8).toNat (decNodeRec s) with
    | none => .error .reservedOpcode
    | some i =>
      match i.check with
      | none => .ok i
      | some e => .error (.illegal e)

def encNode (op : Nat) (r : NodeRec) : BitVec 128 :=
  BitVec.ofNat 128 ((op <<< 88) ||| ((if r.sticky then 1 else 0) <<< 87) ||| ((if r.lit then 1 else 0) <<< 86)
    ||| (r.nops.toNat <<< 84) ||| ((encDest r.destA).toNat <<< 58) ||| ((encDest r.destB).toNat <<< 32)
    ||| r.literal.toNat)

/-- The word of a codelet instruction (R324, R326); `none` for node records and events. -/
def encode (i : Instr) : Option (BitVec 64) :=
  match i.form with
  | .r m w => some (encR m w)
  | .i m hi w => some (encI m hi w)
  | .v m w => some (encV m w)
  | .m m w => some (encM m w)
  | .s m w => some (encS m w)
  | .e m w => some (encE m w)
  | .node _ _ => none
  | .event => none

/-- The slot of a node record (R316); `none` for codelet words and events. -/
def encodeNode (i : Instr) : Option (BitVec 128) :=
  match i.form with
  | .node op r => some (encNode op r)
  | _ => none

/-- A number of a given count of bits, least byte first (R4). -/
def bytesLE : Nat → Nat → List Byte
  | 0, _ => []
  | n + 1, v => BitVec.ofNat 8 v :: bytesLE n (v / 256)

/-- The number a list of bytes holds, least byte first (R4). -/
def leNat : List Byte → Nat
  | [] => 0
  | b :: bs => b.toNat + 256 * leNat bs

/-- Decode from bytes as stored: 8 bytes are a codelet word, 16 bytes a node slot; any other count is
refused. -/
def decodeBytes (bs : List Byte) : Except DecodeError Instr :=
  if bs.length = 8 then decodeWord (BitVec.ofNat 64 (leNat bs))
  else if bs.length = 16 then decodeNode (BitVec.ofNat 128 (leNat bs))
  else .error .length

/-- The decoder on an instruction numbered as the opcode table numbers it: up to 64 bits a codelet word,
more than that a node record of 96 bits in its slot. -/
def decodeTableWord (nbits w : Nat) : Option Instr :=
  let bytes := if nbits ≤ 64 then bytesLE 8 (w % 2 ^ nbits) else bytesLE 16 (w % 2 ^ nbits)
  match decodeBytes bytes with
  | .ok i => some i
  | .error _ => none

end Sys2Proof
end

