-- ==== Sys2Proof/Machine/Mem.lean ====
section
/-! DEFINITION. Sparse maps and byte memories (R4): reading, writing, and the canonical form. Little-endian wide
accesses are built here once. -/

namespace Sys2Proof.Machine

open Sys2Proof

/-- The entry of a key. -/
def afind (m : AMap α) (k : Nat) : Option α :=
  match m with
  | [] => none
  | (j, v) :: t => if j = k then some v else afind t k

/-- The entry of a key, or a default. -/
def aget (m : AMap α) (k : Nat) (d : α) : α := (afind m k).getD d

/-- Set the entry of a key, keeping keys rising. -/
def aput (m : AMap α) (k : Nat) (v : α) : AMap α :=
  match m with
  | [] => [(k, v)]
  | (j, w) :: t => if k < j then (k, v) :: (j, w) :: t else if k = j then (k, v) :: t else (j, w) :: aput t k v

/-- Remove a key. -/
def adel (m : AMap α) (k : Nat) : AMap α := m.filter (fun p => p.1 ≠ k)

/-- Change the entry of a key, a default standing for an absent one. -/
def amod (m : AMap α) (k : Nat) (d : α) (f : α → α) : AMap α := aput m k (f (aget m k d))

/-- Set an entry, removing it when it is the value an unlisted key reads as. -/
def asetd [DecidableEq α] (m : AMap α) (k : Nat) (v d : α) : AMap α := if v = d then adel m k else aput m k v

/-- What an unlisted byte reads as: firmware clears device memory before READY (R151) and placement zeroes the
partitions (R156); for host memory the choice of log entry 3. -/
def unlisted : Byte := 0

/-- One byte of a memory. -/
def rd8 (m : AMap Byte) (a : Nat) : Byte := aget m a unlisted

/-- Write one byte, keeping the canonical form. -/
def wr8 (m : AMap Byte) (a : Nat) (b : Byte) : AMap Byte := asetd m a b unlisted

/-- `n` bytes upward from `a`. -/
def rdBytes (m : AMap Byte) (a : Nat) : Nat → List Byte
  | 0 => []
  | n + 1 => rd8 m a :: rdBytes m (a + 1) n

/-- Write bytes upward from `a`. -/
def wrBytes (m : AMap Byte) (a : Nat) : List Byte → AMap Byte
  | [] => m
  | b :: bs => wrBytes (wr8 m a b) (a + 1) bs

/-- The little-endian number of `n` bytes at `a` (R4). -/
def rdLE (m : AMap Byte) (a n : Nat) : Nat := leNat (rdBytes m a n)

/-- Store a number in `n` bytes at `a`, least byte first (R4). -/
def wrLE (m : AMap Byte) (a n v : Nat) : AMap Byte := wrBytes m a (bytesLE n v)

/-- Keys strictly rising. -/
def rising : AMap α → Bool
  | [] => true
  | [_] => true
  | (a, _) :: (b, w) :: t => a < b && rising ((b, w) :: t)

/-- The canonical form of a byte memory: addresses strictly rising, no entry equal to an unlisted byte. -/
def Memory.wf (m : AMap Byte) : Bool := rising m && m.all (fun p => p.2 ≠ unlisted)

/-- Change an element of a list; nothing when the index is past its end. -/
def lmod (l : List α) (i : Nat) (f : α → α) : List α :=
  match l, i with
  | [], _ => []
  | x :: t, 0 => f x :: t
  | x :: t, i + 1 => x :: lmod t i f

/-- Remove the element at an index. -/
def ldrop (l : List α) (i : Nat) : List α := l.take i ++ l.drop (i + 1)

/-- The number in `n` bytes of a list from offset `o`, least byte first. -/
def lnat (l : List Byte) (o n : Nat) : Nat := leNat ((l.drop o).take n)

/-- The 64-bit unit at offset `o` of a list of bytes. -/
def lword (l : List Byte) (o : Nat) : Word := BitVec.ofNat 64 (lnat l o 8)

/-- All bytes of a list between two offsets are zero. -/
def zeroes (l : List Byte) (o n : Nat) : Bool := ((l.drop o).take n).all (· = 0)

/-- A list of bytes brought to a length, cut or filled with zeros. -/
def padTo (l : List Byte) (n : Nat) : List Byte := l.take n ++ List.replicate (n - l.length) 0

/-- The bits [hi : lo] of a number. -/
def bits (v hi lo : Nat) : Nat := (v >>> lo) % 2 ^ (hi + 1 - lo)

/-- Bit `i` of a number. -/
def bit (v i : Nat) : Bool := v.testBit i

/-- Ceiling division. -/
def cdiv (a b : Nat) : Nat := (a + b - 1) / b

/-- Two extents, each by its first byte and length, have a byte in common. -/
def extMeet (a b : Nat × Nat) : Bool := a.1 < b.1 + b.2 && b.1 < a.1 + a.2

/-- The word of an integer. -/
def word (i : Int) : Word := BitVec.ofInt 64 i

end Sys2Proof.Machine
end

