-- ==== Sys2Proof/Machine/Num.lean ====
section
/-! DEFINITION. Numbers: the formats of R251 to R259, exact values as integers times powers of two, and the one
rounding of R260 to R263 that every unit uses. -/

namespace Sys2Proof.Machine

open Sys2Proof

/-- Sticky conditions an operation meets (R264); DZ is division by zero (R364, R367). -/
structure Fl where
  nv : Bool := false
  ovf : Bool := false
  nx : Bool := false
  sat : Bool := false
  dz : Bool := false
  deriving DecidableEq, Repr

def Fl.or (a b : Fl) : Fl :=
  { nv := a.nv || b.nv, ovf := a.ovf || b.ovf, nx := a.nx || b.nx, sat := a.sat || b.sat, dz := a.dz || b.dz }

/-- An exact value: NaN (signalling or not), an infinity, or (−1)^neg × m × 2^e. -/
inductive Val where
  | nan (sig : Bool)
  | inf (neg : Bool)
  | fin (neg : Bool) (m : Nat) (e : Int)
  deriving DecidableEq, Repr

/-- A floating-point format (R253): fraction bits, bias, exponent bits. -/
structure FFmt where
  frac : Nat
  bias : Nat
  ebits : Nat
  e4m3 : Bool := false
  deriving DecidableEq, Repr

def FFmt.f32 : FFmt := { frac := 23, bias := 127, ebits := 8 }
def FFmt.f16 : FFmt := { frac := 10, bias := 15, ebits := 5 }
def FFmt.bf16 : FFmt := { frac := 7, bias := 127, ebits := 8 }
def FFmt.e4m3f : FFmt := { frac := 3, bias := 7, ebits := 4, e4m3 := true }
def FFmt.e5m2 : FFmt := { frac := 2, bias := 15, ebits := 5 }

/-- Bits of a format. -/
def FFmt.width (f : FFmt) : Nat := 1 + f.ebits + f.frac

/-- The all-ones exponent. -/
def FFmt.emask (f : FFmt) : Nat := 2 ^ f.ebits - 1

/-- Magnitude bits of infinity; for E4M3 one past the largest finite encoding (R253). -/
def FFmt.infBits (f : FFmt) : Nat := if f.e4m3 then 0x7F else f.emask <<< f.frac

/-- Magnitude bits of the largest finite value. -/
def FFmt.maxBits (f : FFmt) : Nat := f.infBits - 1

/-- The canonical NaN (R253). -/
def FFmt.nanBits (f : FFmt) : Nat := if f.e4m3 then 0x7F else f.infBits + 2 ^ (f.frac - 1)

/-- Sign placed above a magnitude. -/
def FFmt.sgn (f : FFmt) (neg : Bool) (mag : Nat) : Nat := (if neg then 2 ^ (f.width - 1) else 0) + mag

/-- Decode an encoding exactly (R253). -/
def FFmt.decode (f : FFmt) (b : Nat) : Val :=
  let neg := b.testBit (f.width - 1)
  let mag := b % 2 ^ (f.width - 1)
  let ex := mag >>> f.frac
  let fr := mag % 2 ^ f.frac
  if f.e4m3 && mag = 0x7F then .nan false
  else if !f.e4m3 && ex = f.emask then
    if fr = 0 then .inf neg else .nan (!fr.testBit (f.frac - 1))
  else if ex = 0 then .fin neg fr (1 - f.bias - f.frac)
  else .fin neg (2 ^ f.frac + fr) ((ex : Int) - f.bias - f.frac)

/-- Bits of a number's binary form. -/
def blen (m : Nat) : Nat := if m = 0 then 0 else Nat.log2 m + 1

/-- Trailing zero bits of a nonzero number below `fuel`. -/
def tzc (m : Nat) : Nat → Nat
  | 0 => 0
  | n + 1 => if m % 2 = 1 then 0 else 1 + tzc (m / 2) n

/-- The draw of R261: true takes hi. -/
def srDraw (seed : BitVec 32) (d k : Nat) : Bool :=
  let x := seed ^^^ BitVec.ofNat 32 d
  let x := (x ^^^ (x >>> 16)) * 0x7FEB352D#32
  let x := (x ^^^ (x >>> 15)) * 0x846CA68B#32
  let x := x ^^^ (x >>> 16)
  x.toNat >>> (32 - k) < d

/-- Round m × 2^e to a multiple of 2^q: the magnitude in units of 2^q and whether it is inexact (R260, R261). -/
def roundAt (rm : Rm) (seed : BitVec 32) (neg : Bool) (m : Nat) (e q : Int) : Nat × Bool :=
  if q ≤ e then (m <<< (e - q).toNat, false)
  else
    let sh := (q - e).toNat
    let lo := m >>> sh
    let rem := m % 2 ^ sh
    if rem = 0 then (lo, false)
    else
      let half := 2 ^ (sh - 1)
      let up := match rm with
        | .rne => rem > half || (rem = half && lo % 2 = 1)
        | .rtz => false
        | .rdn => neg
        | .rup => !neg
        | .sr =>
          let n := sh - tzc m (blen m)
          let k := min n 16
          let d := rem >>> (sh - k)
          d ≠ 0 && srDraw seed d k
      (if up then lo + 1 else lo, true)

/-- Whether an overflowing result is infinity or the largest finite value; `hi` when rounding went away from
zero (R262). -/
def ovfInf (rm : Rm) (neg hi : Bool) : Bool :=
  match rm with
  | .rne => true
  | .rtz => false
  | .rdn => neg
  | .rup => !neg
  | .sr => hi

/-- Round an exact value to a format (R254, R262); a signalling NaN that is converted sets NV. -/
def FFmt.round (f : FFmt) (rm : Rm) (seed : BitVec 32) (v : Val) : Nat × Fl :=
  match v with
  | .nan sig => (f.nanBits, { nv := sig })
  | .inf neg => if f.e4m3 then (f.sgn neg f.maxBits, { sat := true }) else (f.sgn neg f.infBits, {})
  | .fin neg m e =>
    if m = 0 then (f.sgn neg 0, {})
    else
      let top : Int := e + blen m - 1
      let q : Int := max (top - f.frac) (1 - (f.bias : Int) - f.frac)
      let (r, nx) := roundAt rm seed neg m e q
      let mag : Nat := if r < 2 ^ f.frac then r else ((q + f.frac + f.bias).toNat <<< f.frac) + (r - 2 ^ f.frac)
      if mag ≤ f.maxBits then (f.sgn neg mag, { nx := nx })
      else if f.e4m3 then (f.sgn neg f.maxBits, { sat := true, nx := true })
      else
        let lo := (roundAt .rtz seed neg m e q).1
        (f.sgn neg (if ovfInf rm neg (lo < r) then f.infBits else f.maxBits), { ovf := true, nx := true })

/-- Signalling NaNs among the operands set NV (R254). -/
def Val.isSig : Val → Bool
  | .nan s => s
  | _ => false

def Val.isNan : Val → Bool
  | .nan _ => true
  | _ => false

def Val.isZero : Val → Bool
  | .fin _ m _ => m = 0
  | _ => false

def Val.isNeg : Val → Bool
  | .nan _ => false
  | .inf n => n
  | .fin n _ _ => n

def Val.neg : Val → Val
  | .nan s => .nan s
  | .inf n => .inf (!n)
  | .fin n m e => .fin (!n) m e

def Val.abs : Val → Val
  | .nan s => .nan s
  | .inf _ => .inf false
  | .fin _ m e => .fin false m e

/-- The mantissa as a signed integer. -/
def sint (neg : Bool) (m : Nat) : Int := if neg then -(m : Int) else m

/-- The exact value of an integer times 2^e; zero takes the sign given. -/
def ofInt (i e : Int) (zneg : Bool) : Val :=
  if i = 0 then .fin zneg 0 0 else .fin (i < 0) i.natAbs e

/-- Exact sum; the sign of a zero sum follows R254 and IEEE 754 under RDN. -/
def Val.add (rm : Rm) (a b : Val) : Val × Fl :=
  let sig := a.isSig || b.isSig
  match a, b with
  | .nan _, _ => (.nan false, { nv := sig })
  | _, .nan _ => (.nan false, { nv := sig })
  | .inf x, .inf y => if x = y then (.inf x, {}) else (.nan false, { nv := true })
  | .inf x, .fin _ _ _ => (.inf x, {})
  | .fin _ _ _, .inf y => (.inf y, {})
  | .fin na ma ea, .fin nb mb eb =>
    let e := min ea eb
    let i := sint na (ma <<< (ea - e).toNat) + sint nb (mb <<< (eb - e).toNat)
    let z := if ma = 0 && mb = 0 && na = nb then na else rm = .rdn
    (ofInt i e z, {})

/-- Exact product. -/
def Val.mul (a b : Val) : Val × Fl :=
  let sig := a.isSig || b.isSig
  match a, b with
  | .nan _, _ => (.nan false, { nv := sig })
  | _, .nan _ => (.nan false, { nv := sig })
  | .inf x, .inf y => (.inf (x != y), {})
  | .inf x, .fin n m _ => if m = 0 then (.nan false, { nv := true }) else (.inf (x != n), {})
  | .fin n m _, .inf y => if m = 0 then (.nan false, { nv := true }) else (.inf (n != y), {})
  | .fin na ma ea, .fin nb mb eb => (.fin (na != nb) (ma * mb) (ea + eb), {})

/-- Exact fused multiply-add; 0 × ∞ sets NV whatever the addend (R254). -/
def Val.fma (rm : Rm) (a b c : Val) : Val × Fl :=
  let (p, f) := a.mul b
  let (r, g) := p.add rm c
  (r, f.or g)

/-- Quotient with a sticky low bit, exact when it terminates within the precision kept. -/
def Val.div (a b : Val) : Val × Fl :=
  let sig := a.isSig || b.isSig
  match a, b with
  | .nan _, _ => (.nan false, { nv := sig })
  | _, .nan _ => (.nan false, { nv := sig })
  | .inf _, .inf _ => (.nan false, { nv := true })
  | .inf x, .fin n _ _ => (.inf (x != n), {})
  | .fin n _ _, .inf y => (.fin (n != y) 0 0, {})
  | .fin na ma ea, .fin nb mb eb =>
    if mb = 0 then if ma = 0 then (.nan false, { nv := true }) else (.inf (na != nb), { dz := true })
    else if ma = 0 then (.fin (na != nb) 0 0, {})
    else
      let s := 96 + blen mb
      let n := ma <<< s
      (.fin (na != nb) (2 * (n / mb) + (if n % mb = 0 then 0 else 1)) (ea - eb - s - 1), {})

/-- Integer square root by bits from 2^k downward. -/
def isqrtGo (n : Nat) : Nat → Nat → Nat
  | 0, r => r
  | k + 1, r =>
    let c := r + 2 ^ k
    isqrtGo n k (if c * c ≤ n then c else r)

/-- The integer square root. -/
def isqrt (n : Nat) : Nat := isqrtGo n (blen n / 2 + 1) 0

/-- Square root with a sticky low bit; −0 stays −0, other negatives are invalid. -/
def Val.sqrt (a : Val) : Val × Fl :=
  match a with
  | .nan s => (.nan false, { nv := s })
  | .inf n => if n then (.nan false, { nv := true }) else (.inf false, {})
  | .fin n m e =>
    if m = 0 then (.fin n 0 0, {})
    else if n then (.nan false, { nv := true })
    else
      let (m', e') := if e % 2 = 0 then (m, e) else (2 * m, e - 1)
      let x := m' <<< 128
      let r := isqrt x
      (.fin false (2 * r + (if r * r = x then 0 else 1)) (e' / 2 - 64 - 1), {})

/-- Order of two values that are no NaN: −1, 0, 1; −0 equals +0. -/
def Val.cmp (a b : Val) : Int :=
  match a, b with
  | .inf x, .inf y => if x = y then 0 else if x then -1 else 1
  | .inf x, _ => if x then -1 else 1
  | _, .inf y => if y then 1 else -1
  | .fin na ma ea, .fin nb mb eb =>
    let e := min ea eb
    let x := sint na (ma <<< (ea - e).toNat)
    let y := sint nb (mb <<< (eb - e).toNat)
    if x < y then -1 else if x = y then 0 else 1
  | _, _ => 0

/-- Round to an integer within [lo, hi]: saturation sets SAT, NaN gives 0 and NV (R263); NX tells of
the rounding to an integer, whether or not the integer then saturates (R264; log 56). -/
def Val.toInt (rm : Rm) (seed : BitVec 32) (lo hi : Int) (v : Val) : Int × Fl :=
  match v with
  | .nan _ => (0, { nv := true })
  | .inf n => (if n then lo else hi, { sat := true })
  | .fin n m e =>
    let (r, nx) := roundAt rm seed n m e 0
    let i := sint n r
    if i < lo then (lo, { sat := true, nx := nx }) else if hi < i then (hi, { sat := true, nx := nx }) else (i, { nx := nx })

/-- Range of the integer types under their reading (R255, R360). -/
def tyRange : Ty → Int × Int
  | .s8 => (-128, 127) | .z8 => (0, 255) | .s32 => (-2147483648, 2147483647) | .z32 => (0, 4294967295)
  | .s64 => (-9223372036854775808, 9223372036854775807) | .z64 => (0, 18446744073709551615)
  | .b64 => (0, 18446744073709551615) | _ => (0, 0)

/-- The floating-point format of a type. -/
def tyF : Ty → Option FFmt
  | .f16 => some .f16 | .bf16 => some .bf16 | .f32 => some .f32 | .e4m3 => some .e4m3f | .e5m2 => some .e5m2
  | _ => none

/-- An n-bit pattern under a signed reading. -/
def signed (n v : Nat) : Int :=
  let x := v % 2 ^ n
  if x.testBit (n - 1) then (x : Int) - 2 ^ n else x

/-- The exact value of a pattern under a type (R253, R255, R360). -/
def tyVal (t : Ty) (b : Nat) : Val :=
  match tyF t with
  | some f => f.decode (b % 2 ^ f.width)
  | none =>
    match t with
    | .s8 => ofInt (signed 8 b) 0 false
    | .z8 => .fin false (b % 256) 0
    | .s32 => ofInt (signed 32 b) 0 false
    | .z32 => .fin false (b % 2 ^ 32) 0
    | .s64 => ofInt (signed 64 b) 0 false
    | _ => .fin false (b % 2 ^ 64) 0

/-- Bits of an integer under a type's width. -/
def tyPat (t : Ty) (i : Int) : Nat := (BitVec.ofInt (8 * t.bytes) i).toNat

/-- Convert an exact value to a type's pattern (R262, R263). -/
def tyCv (t : Ty) (rm : Rm) (seed : BitVec 32) (v : Val) : Nat × Fl :=
  match tyF t with
  | some f => f.round rm seed v
  | none =>
    let (i, fl) := v.toInt rm seed (tyRange t).1 (tyRange t).2
    (tyPat t i, fl)

/-- FP32 of an exact value, RNE. -/
def f32 (v : Val) : BitVec 32 := BitVec.ofNat 32 (FFmt.f32.round .rne 0 v).1

/-- The value of FP32 bits. -/
def v32 (b : BitVec 32) : Val := FFmt.f32.decode b.toNat

/-- FP32 addition, RNE. -/
def add32 (a b : BitVec 32) : BitVec 32 := f32 ((v32 a).add .rne (v32 b)).1

/-- FP32 multiplication, RNE. -/
def mul32 (a b : BitVec 32) : BitVec 32 := f32 ((v32 a).mul (v32 b)).1

/-- FP32 division, RNE. -/
def div32 (a b : BitVec 32) : BitVec 32 := f32 ((v32 a).div (v32 b)).1

/-- FP32 fused multiply-add, RNE. -/
def fma32 (a b c : BitVec 32) : BitVec 32 := f32 (Val.fma .rne (v32 a) (v32 b) (v32 c)).1

/-- Neither NaN nor infinity. -/
def finite32 (b : BitVec 32) : Bool := b.toNat / 2 ^ 23 % 256 ≠ 255

/-- The order of R268: −0 below +0, no NaN. -/
def vless (a b : Val) : Bool := a.cmp b < 0 || (a.cmp b = 0 && a.isNeg && !b.isNeg)

/-! ## The L4 family -/

/-- Value of a code under a block type as sign and magnitude in halves (R256). -/
def l4Half (ty code : Nat) : Bool × Nat :=
  if ty = 0 then if code < 8 then (false, 2 * code) else (true, 2 * (16 - code))
  else
    let mags : List Nat := match ty with
      | 1 => [0, 1, 2, 3, 4, 6, 8, 12]
      | 2 => [0, 2, 4, 8, 16, 32, 64, 128]
      | _ => [0, 2, 4, 6, 8, 12, 16, 24]
    (8 ≤ code, mags.getD (code % 8) 0)

/-- Decode one element with its scale byte (R256). -/
def l4Val (scale code : Nat) : Val :=
  let ex := scale % 64
  if ex = 0x3F then .nan false
  else
    let (n, m) := l4Half (scale / 64) code
    .fin n m ((ex : Int) - 32 - 1)

/-- Largest magnitude of a block type, in halves (R256). -/
def l4Max (ty : Nat) : Nat := match ty with | 0 => 14 | 1 => 12 | 2 => 128 | _ => 24

/-- A value is greater than m × 2^e in magnitude. -/
def absGt (v : Val) (m : Nat) (e : Int) : Bool := v.abs.cmp (.fin false m e) > 0

/-- Magnitude index and value of the grid neighbours of |q| (R258); the index of type 0 is the integer itself. -/
def l4Grid (ty : Nat) : List Nat :=
  (List.range 8).map (fun c => (l4Half ty c).2)

/-- Round q to a code of type `ty` (R258): code, inexact, saturated. -/
def l4Code (ty : Nat) (rm : Rm) (seed : BitVec 32) (q : Val) : Nat × Bool × Bool :=
  let neg := q.isNeg
  let put (i : Nat) : Nat := if ty = 0 then (if neg && i ≠ 0 then 16 - i else i) else (if neg then 8 + i else i)
  if absGt q (l4Max ty) (-1) then (put 7, true, true)
  else
    let grid := l4Grid ty
    let le (i : Nat) : Bool := (Val.fin false (grid.getD i 0) (-1)).cmp q.abs ≤ 0
    let lo := ((List.range 8).filter le).length - 1
    let lov := Val.fin false (grid.getD lo 0) (-1)
    if lov.cmp q.abs = 0 then (put lo, false, false)
    else
      let hi := lo + 1
      let hiv := Val.fin false (grid.getD hi 0) (-1)
      let dlo := (q.abs.add .rne lov.neg).1
      let dhi := (hiv.add .rne q.abs.neg).1
      let up := match rm with
        | .rne => dhi.cmp dlo < 0 || (dhi.cmp dlo = 0 && hi % 2 = 0)
        | .rtz => false
        | .rdn => neg
        | .rup => !neg
        | .sr =>
          let gap := (grid.getD hi 0) - (grid.getD lo 0)
          match dlo with
          | .fin _ m e =>
            -- floor(dlo / (gap/2) * 2^16), the gap being counted in halves
            let d := if 0 ≤ e + 17 then (m <<< (e + 17).toNat) / gap else m / (gap <<< (-(e + 17)).toNat)
            d ≠ 0 && srDraw seed d 16
          | _ => false
      (put (if up then hi else lo), true, false)

/-- The least EXP with mt × 2^(EXP − 32) ≥ amax, in 0 to 62 (R258). -/
def l4Exp (ty : Nat) (amax : Val) : Nat :=
  if amax.isZero then 0
  else ((List.range 63).find? (fun (e : Nat) => !absGt amax (l4Max ty) ((e : Int) - 33))).getD 62

/-- A value times 2^k. -/
def Val.scale (v : Val) (k : Int) : Val :=
  match v with
  | .fin n m e => .fin n m (e + k)
  | x => x

/-- Encode a block under one type: scale byte, codes, exact squared error, flags (R258). -/
def l4Type (ty : Nat) (rm : Rm) (seed : BitVec 32) (xs : List Val) : Nat × List Nat × Val × Fl :=
  let amax := xs.foldl (fun a x => if x.abs.cmp a > 0 then x.abs else a) (.fin false 0 0)
  let e := l4Exp ty amax
  let rs := xs.map (fun x => l4Code ty rm seed (x.scale (32 - (e : Int))))
  let sb := ty * 64 + e
  let errs := (xs.zip rs).map (fun (x, c) => let d := (x.add .rne (l4Val sb c.1).neg).1; (d.mul d).1)
  (sb, rs.map (·.1), errs.foldl (fun a x => (a.add .rne x).1) (.fin false 0 0),
    { nx := rs.any (·.2.1), sat := rs.any (·.2.2) })

/-- Encode a block, choosing among the types given (R258). -/
def l4Block (tys : List Nat) (rm : Rm) (seed : BitVec 32) (xs : List Val) : Nat × List Nat × Fl :=
  if xs.any (fun x => x.isNan || (match x with | .inf _ => true | _ => false)) then
    (0x3F, xs.map (fun _ => 0), { nv := true })
  else
    let cs := tys.map (fun t => l4Type t rm seed xs)
    match cs with
    | [] => (0, xs.map (fun _ => 0), {})
    | c :: t =>
      let b := t.foldl (fun a x => if x.2.2.1.cmp a.2.2.1 < 0 then x else a) c
      (b.1, b.2.1, b.2.2.2)

/-- Consecutive pieces of a list. -/
def chunksGo (n : Nat) : Nat → List α → List (List α)
  | 0, _ => []
  | k + 1, l => if l.isEmpty then [] else l.take n :: chunksGo n k (l.drop n)

def chunks (n : Nat) (l : List α) : List (List α) := chunksGo n l.length l

/-- 4-bit codes two to a byte (R252). -/
def packNib : List Nat → List Byte
  | [] => []
  | [a] => [BitVec.ofNat 8 (a % 16)]
  | a :: b :: t => BitVec.ofNat 8 (a % 16 + 16 * (b % 16)) :: packNib t

/-- Code `i` of packed codes. -/
def nib (l : List Byte) (i : Nat) : Nat :=
  let b := (l.getD (i / 2) 0).toNat
  if i % 2 = 0 then b % 16 else b / 16

/-! ## Format codes -/

/-- What a format code names (R251). -/
inductive EFmt where
  | ty (t : Ty)
  | l4 (blk : Nat)
  | mx
  deriving DecidableEq, Repr

/-- The format of a code; `none` for reserved codes and 0 (R251). -/
def efmt (c : Nat) : Option EFmt :=
  match c with
  | 1 => some (.ty .f32) | 2 => some (.ty .f16) | 3 => some (.ty .bf16) | 4 => some (.ty .e4m3)
  | 5 => some (.ty .e5m2) | 6 => some (.ty .s8) | 7 => some (.ty .s32) | 8 => some (.l4 16)
  | 9 => some (.l4 32) | 10 => some (.l4 64) | 11 => some (.l4 128) | 12 => some .mx | _ => none

/-- Bytes of n elements with their scales (R252). -/
def fmtBytes (f : EFmt) (n : Nat) : Nat :=
  match f with
  | .ty t => n * t.bytes
  | .l4 b => cdiv n 2 + cdiv n b
  | .mx => cdiv n 2 + cdiv n 32

/-- MXFP4 value: v × 2^(X − 127) (R259). -/
def mxVal (scale code : Nat) : Val :=
  if scale = 0xFF then .nan false
  else let (n, m) := l4Half 1 code; .fin n m ((scale : Int) - 127 - 1)

/-- Decode n elements exactly (R252, R253, R256, R259). -/
def decodeAll (f : EFmt) (n : Nat) (l : List Byte) : List Val :=
  match f with
  | .ty t => (List.range n).map (fun i => tyVal t (lnat l (i * t.bytes) t.bytes))
  | .l4 b => (List.range n).map (fun i => l4Val (l.getD (cdiv n 2 + i / b) 0).toNat (nib l i))
  | .mx => (List.range n).map (fun i => mxVal (l.getD (cdiv n 2 + i / 32) 0).toNat (nib l i))

/-- Values brought to FP32: MXFP4 above the largest becomes an infinity and sets OF (R259). -/
def toF32s (xs : List Val) : List Val × Fl :=
  let rs := xs.map (fun x => FFmt.f32.round .rne 0 x)
  (rs.map (fun r => FFmt.f32.decode r.1), { ovf := rs.any (fun r => r.2.ovf) })

/-- Encode values into a format: bytes, scales after codes, flags (R252, R258, R262, R263). Code 0x0C is never
produced (R251). -/
def encodeAll (f : EFmt) (rm : Rm) (seed : BitVec 32) (xs : List Val) : List Byte × Fl :=
  match f with
  | .ty t =>
    let rs := xs.map (fun x => tyCv t rm seed x)
    ((rs.map (fun r => bytesLE t.bytes r.1)).flatten, rs.foldl (fun a r => a.or r.2) {})
  | .l4 b =>
    let bs := (chunks b xs).map (l4Block [0, 1, 2, 3] rm seed)
    (packNib (bs.map (·.2.1)).flatten ++ bs.map (fun x => BitVec.ofNat 8 x.1),
      bs.foldl (fun a x => a.or x.2.2) {})
  | .mx => ([], {})

/-- Import one MXFP4 block as an L4 block of type 1 (R259): scale byte, codes, flags. -/
def mxBlock (rm : Rm) (seed : BitVec 32) (x : Nat) (codes : List Nat) : Nat × List Nat × Fl :=
  if x = 0xFF then (0x3F, codes.map (fun _ => 0), {})
  else if 95 ≤ x && x ≤ 157 then (0x40 + (x - 95), codes, {})
  else
    let (sb, k) := if x < 95 then (0x40, (x : Int) - 95) else (0x7E, (x : Int) - 157)
    let rs := codes.map (fun c => let (n, m) := l4Half 1 c; l4Code 1 rm seed (.fin n m (k - 1)))
    (sb, rs.map (·.1), { nx := rs.any (·.2.1), sat := rs.any (·.2.2) })

/-- Import MXFP4 data of n elements as L4 block 32 (R259). -/
def mxImport (rm : Rm) (seed : BitVec 32) (n : Nat) (l : List Byte) : List Byte × Fl :=
  let codes := (List.range n).map (nib l)
  let bs := ((chunks 32 codes).zip (List.range (cdiv n 32))).map
    (fun (cs, j) => mxBlock rm seed (l.getD (cdiv n 2 + j) 0).toNat cs)
  (packNib (bs.map (·.2.1)).flatten ++ bs.map (fun x => BitVec.ofNat 8 x.1), bs.foldl (fun a x => a.or x.2.2) {})

end Sys2Proof.Machine
end

