-- ==== Sys2Proof/Machine/State.lean ====
section
/-! DEFINITION. The state of the module as plain data: everything the manual gives it, and beside it the
model's own schedule (`time`, `agenda`, `focus`, `freeCtr`, the numbers that name parties and requests and the
order clocks). Reset values that the manual does not give are named in log entry 2. -/

namespace Sys2Proof.Machine

open Sys2Proof

/-! ## Tokens, poison and order -/

/-- A poison's record: AUX and bytes 24 to 63 of its header flit (R288). -/
structure Poison where
  srcTile : BitVec 11 := 0
  srcNode : BitVec 12 := 0xFFF
  srcCtx : BitVec 3 := 0
  prec : Bool := false
  hops : BitVec 8 := 0
  code : BitVec 8 := 0
  addr : Word := 0
  detail : Word := 0
  step : BitVec 32 := 0
  tag : BitVec 20 := 0
  strm : Option (BitVec 4) := none
  addrKind : BitVec 2 := 0
  time : Word := 0
  deriving DecidableEq, Repr

/-- Payload of a burst or coordinate-sparse token: AUX fields and payload flits (R158). -/
structure Burst where
  nelem : BitVec 16 := 0
  fmt : BitVec 8 := 0
  dtag : BitVec 3 := 0
  bytes : List Byte := []
  /-- Zeros are restored where it is received (R168, KEEP = 0). -/
  zx : Bool := false
  deriving DecidableEq, Repr

/-- The kinds of token with what each carries (R158). -/
inductive Body where
  | scalar (w : Word)
  | burst (b : Burst)
  | poison (p : Poison)
  | control (w : Word)
  | sparse (b : Burst)
  | notice (aux : Word)
  | barrier (aux : Word)
  deriving DecidableEq, Repr

/-- How far each party's accesses are known: party number and its position (R234, R249; log 6). -/
abbrev Clock := AMap Nat

/-- What a release publishes: its scope, the place of the releasing party, what it covers (R234). -/
structure Release where
  scope : Scope := .tile
  place : BitVec 11 := 0
  clock : Clock := []
  deriving DecidableEq, Repr

/-- A batch that a firing descends from: the key of its bin, its number, how often it has been fired (R301). -/
structure BatchRef where
  key : Nat
  batch : Nat
  attempt : Nat := 1
  deriving DecidableEq, Repr

/-- A token: the header of R157, its body, and the release its sending made (R165). -/
structure Token where
  dest : Dest := ⟨false, 0, 0, 0⟩
  ctx : BitVec 3 := 0
  tag : BitVec 20 := 0
  chan : BitVec 5 := 0
  seq : BitVec 16 := 0
  rankw : BitVec 16 := 0
  origin : BitVec 11 := 0
  reply : Bool := false
  rnode : BitVec 12 := 0
  rport : BitVec 2 := 0
  rctx : BitVec 3 := 0
  body : Body := .scalar 0
  rel : Release := {}
  /-- Further releases that its receipt acquires from: the joins of a barrier (R242). -/
  more : List Release := []
  /-- The bin batch of the sending tile that the sending firing descends from (R301). -/
  batch : Option BatchRef := none
  /-- The expert a sown copy is for (R230; log 13). -/
  expert : Nat := 0
  /-- A word of it in the token store is uncorrectable (R10). -/
  bad : Bool := false
  deriving DecidableEq, Repr

/-- A token in the network, with the launch that sent it (0: none), the package it goes to, whether the device
formed it for a launch (R174), and for a sown copy the sower that sent it. -/
structure Flight where
  tok : Token
  launch : Nat := 0
  pkg : BitVec 8 := 255
  formedFor : Option Nat := none
  sower : Option Nat := none
  since : Nat := 0
  /-- Requests that its release covers and that must come before its receipt (R165, R235). -/
  after : List Nat := []
  /-- The package it was sent from, when that is another (R226). -/
  src : Option (BitVec 8) := none
  /-- It stands in the initial token list of its launch (R128). -/
  first : Bool := false
  deriving DecidableEq, Repr

/-- What a bin's own firing presents: its half, the tokens with their slots (`none`: a padding row), why it fires
(R214, R230, R351, R352). -/
structure BinFire where
  half : Nat
  entries : List (Option (Nat × Token))
  full : Bool := false
  stepEnd : Bool := false
  deriving DecidableEq, Repr

/-- A firing that is ready or being performed: the matched operands by port, the active MAT cycles of its tile when it became ready,
the number of its party and what is ordered before it. `err` is the fault the match unit itself found (R180, R201); `rels` the releases of tokens
counted before (R242, R348, R349). -/
structure Firing where
  node : Nat := 0
  ctx : BitVec 3 := 0
  tag : BitVec 20 := 0
  ops : AMap Token := []
  since : Nat := 0
  party : Nat := 0
  clock : Clock := []
  rels : List Release := []
  err : Option Poison := none
  batch : Option BatchRef := none
  bin : Option BinFire := none
  deriving DecidableEq, Repr

/-! ## Windows, streams, commands, matrix work -/

/-- A window as its three words (R61). -/
structure Win where
  base : Word := 0
  limit : Word := 0
  offset : Word := 0
  deriving DecidableEq, Repr

/-- An address formed at issue: IA, ASID and the function whose host base applies (R64, R65, R17). -/
structure Formed where
  ia : BitVec 52 := 0
  asid : BitVec 12 := 0
  func : Nat := 0
  va : Word := 0
  deriving DecidableEq, Repr

/-- A range in memory or in the scratchpad of a tile. -/
inductive Range where
  | mem (f : Formed)
  | spad (off : Nat)
  deriving DecidableEq, Repr

/-- A buffer header (R92). -/
structure BufHdr where
  fmt : BitVec 8 := 0
  tags : BitVec 8 := 0
  rows : Nat := 0
  cols : Nat := 0
  slabs : Nat := 0
  snap : List (BitVec 32) := []
  deriving DecidableEq, Repr

/-- A stream (R458), its dirty ranges (R75), its slab header (R461) and its party. -/
structure Stream where
  isOpen : Bool := false
  ctl : Word := 0
  start : Range := .spad 0
  len : Nat := 0
  pos : Nat := 0
  failed : Option Poison := none
  log : List (Nat × Nat) := []
  openTag : BitVec 20 := 0
  hdr : BufHdr := {}
  party : Nat := 0
  clock : Clock := []
  /-- Requests that `sbar` puts before the stream's next accesses (R456). -/
  after : List Nat := []
  deriving DecidableEq, Repr

/-- A timeline counter (R463): the last number issued, the numbers completed past the counter, and the faulted
commands whose poison is not yet delivered (R294). -/
structure Timeline where
  issued : Nat := 0
  counter : Nat := 0
  ahead : AMap Clock := []
  faulted : AMap Poison := []
  clock : Clock := []
  deriving DecidableEq, Repr

/-- What an engine command does (R465 to R470), as copied at issue. -/
inductive CmdKind where
  | cpy (n : Nat)
  | cpyf (n : Nat) (ty : Ty) (fmt : BitVec 8) (rm : Rm) (blk : BitVec 2)
  | gath (rowb : Nat) (idx : List Nat)
  | scat (rowb : Nat) (idx : List Nat)
  | mcrd (lines : Nat) (mask : BitVec 16)
  | nothing
  | coll (gid : Nat) (op : Nat) (ty : Ty) (count : Nat) (root : Nat) (seq : Nat)
  deriving DecidableEq, Repr

/-- An engine command outstanding (R463): its number, ranges, progress in lines (R306) and party. -/
structure Cmd where
  id : Nat
  tile : Nat
  ctx : BitVec 3
  tl : BitVec 2
  num : Nat
  kind : CmdKind
  src : Range := .spad 0
  dst : Range := .spad 0
  progress : Nat := 0
  seed : BitVec 32 := 0
  tag : BitVec 20 := 0
  node : BitVec 12 := 0
  party : Nat := 0
  clock : Clock := []
  deriving DecidableEq, Repr

/-- A shape record slot (R428, R429): 192 bytes and whether it holds a record. -/
structure ShapeRec where
  valid : Bool := false
  bytes : List Byte := []
  deriving DecidableEq, Repr

/-- What a word or matrix instruction reads or writes: registers, slabs, scratchpad extents, shape records and memory
extents under their ASID (R432). -/
structure Foot where
  regs : List Nat := []
  slabs : List Nat := []
  spad : List (Nat × Nat) := []
  recs : List Nat := []
  mem : List (Nat × Nat) := []
  deriving DecidableEq, Repr

/-- Why a matrix instruction was issued: the S-format word with its mnemonic, the value of X, the SEED copy, the
node and tag of the issuing firing, its slot if a codelet issued it (R432). -/
structure MatOp where
  id : Nat
  instr : Instr
  xval : Word := 0
  seed : BitVec 32 := 0
  slot : Option Nat := none
  firing : Firing := {}
  /-- The shape record and row-block table as read at issue. -/
  shape : List Byte := []
  foot : Foot := {}
  /-- The tag of the result and the slab it is for (R433). -/
  rtag : BitVec 3 := 0
  dst : Option Nat := none
  /-- The weights and ranks `mmag` latched by row block: where each lies and its rank (R439). -/
  blocks : List (Range × Nat) := []
  deriving DecidableEq, Repr

/-! ## Memory requests -/

/-- Parties of the order (R231): a firing, a stream of a tile and context, an engine command, an edge unit, a
queue, the host. -/
inductive PartyId where
  | firing (n : Nat)
  | stream (tile : Nat) (ctx : BitVec 3) (s : BitVec 4)
  | command (n : Nat)
  | edge (unit : Nat)
  | queue (q : Nat)
  | host
  deriving DecidableEq, Repr

/-- What an atomic computes (R452). -/
inductive AtomOp where
  | add | addf | min | max | and | or | xor | xch | cas
  deriving DecidableEq, Repr

/-- What a request asks of its point of performance. -/
inductive ReqOp where
  | load (n : Nat)
  | store (bytes : List Byte)
  | atom (op : AtomOp) (ty : Ty) (v : Word) (v2 : Word) (discard : Bool)
  | prefetch (n : Nat)
  deriving DecidableEq, Repr

/-- Where an answer goes. -/
inductive ReqDest where
  | none
  | reg (slot : Nat) (r : Fin 8) (ty : Ty)
  | group (slot : Nat) (v : Nat) (ty : Ty) (fmt : BitVec 8) (tags : BitVec 8)
  /-- The `lds` or `sts` firing that waits for it (R357). -/
  | node
  deriving DecidableEq, Repr

/-- A memory request issued and not yet performed. `pte` holds the translation once it has passed it (R72,
R73); `held` the time since which the home holds it for space (R87). -/
structure Req where
  id : Nat
  tile : Nat
  ctx : BitVec 3
  party : PartyId
  pnum : Nat
  addr : Formed
  op : ReqOp
  dest : ReqDest := .none
  ord : Ord := .rlx
  scope : Scope := .tile
  clock : Clock := []
  after : List Nat := []
  pte : Option (List Word) := none
  since : Nat := 0
  held : Option Nat := none
  tag : BitVec 20 := 0
  node : BitVec 12 := 0xFFF
  slot : Option Nat := none
  deriving DecidableEq, Repr

/-- A read kept in a tracking entry: party number, position, tile and tag, stream (R249). -/
structure TrackBy where
  pnum : Nat
  pos : Nat
  tile : BitVec 11
  tag : BitVec 20
  strm : Option (BitVec 4)
  deriving DecidableEq, Repr

/-- One 8-byte unit of a tracking entry: the last write, whether it was a commuting atomic and which, and the
reads since (R248, R249). -/
structure TrackUnit where
  write : Option TrackBy := none
  atom : Option AtomOp := none
  reads : List TrackBy := []
  deriving DecidableEq, Repr

/-! ## The tile -/

/-- The graph partition's share of one context: node slots and codelets (R127). -/
structure GraphPart where
  nodes : List (BitVec 128) := []
  codes : List (List Word) := []
  deriving DecidableEq, Repr

/-- A send that waits for the requests issued before it (R290). -/
structure HeldSend where
  after : List Nat
  flight : Flight
  deriving DecidableEq, Repr

/-- What a codelet slot is doing (R191, R290, R388). -/
inductive SlotPhase where
  | free
  | running
  | waiting (since : Nat)
  | stopped
  | draining
  deriving DecidableEq, Repr

/-- A codelet slot (R189 to R191): the firing, the codelet and its next word, temporaries, predicates and marks,
the copies of SEED and WINSEL (R384), results and sends outstanding. -/
structure Slot where
  phase : SlotPhase := .free
  firing : Firing := {}
  code : Nat := 0
  word : Nat := 0
  t : Vector Word 8 := Vector.replicate 8 0
  inp : Vector Word 3 := Vector.replicate 3 0
  p : Vector Bool 4 := Vector.replicate 4 false
  tm : Vector Bool 8 := Vector.replicate 8 false
  pm : Vector Bool 4 := Vector.replicate 4 false
  seed : BitVec 32 := 0
  winsel : BitVec 8 := 0
  pend : List (Fin 8 × Nat) := []
  reqs : List Nat := []
  fence : List Nat := []
  /-- What a flush or `halt` that waits still waits for, fixed at its first try (R392, R393). -/
  due : Option (List Nat) := none
  mats : List Nat := []
  mfault : List (Foot × Poison) := []
  held : List HeldSend := []
  late : Option Poison := none
  deriving DecidableEq, Repr

/-- A half of a bin that has fired and is kept for replay, with the TAG, SEQ and RANKW of the tokens not yet acknowledged
(R214, R215, R301). -/
structure BinHalf where
  half : Nat
  batch : Nat
  fire : BinFire
  waits : List (BitVec 20 × BitVec 16 × BitVec 16) := []
  fired : Nat := 1
  deriving DecidableEq, Repr

/-- A bin (R213 to R215, R221). -/
structure Bin where
  cap : Nat := 0
  timer : Nat := 0
  adapter : Bool := false
  /-- The half that fills, its tokens in order of arrival, and when the first came. -/
  half : Nat := 0
  filling : List Token := []
  fillSince : Nat := 0
  batches : Nat := 0
  retained : List BinHalf := []
  /-- Notices by expert, and the sum of their counts (R219). -/
  notices : AMap Nat := []
  noticed : Nat := 0
  /-- What the notices of the step released (R165, R218). -/
  rels : List Release := []
  received : Nat := 0
  stepFired : Bool := false
  /-- Batches to be fired again, with the fault met (R301). -/
  replayDue : List (Nat × Poison) := []
  deriving DecidableEq, Repr

/-- A `join` or counted `cwait` in progress (R348, R349). -/
structure Counting where
  count : Nat := 0
  sum : Word := 0
  lead : Option Token := none
  rels : List Release := []
  batch : Option BatchRef := none
  deriving DecidableEq, Repr

/-- A count run in progress (R347): the next index, the end and the trigger. -/
structure CountRun where
  next : Nat
  stop : Nat
  firing : Firing
  deriving DecidableEq, Repr

/-- Everything a logical tile holds. -/
structure Tile where
  launch : Nat := 0
  ctx : BitVec 3 := 0
  stepid : BitVec 32 := 0
  partw : BitVec 32 := 0
  estr : BitVec 32 := 0
  stat : BitVec 64 := 0
  thctl : Word := 0
  th : Vector (BitVec 32) 8 := Vector.replicate 8 0
  dbgctl : Bool := false
  clkq : Word := 0
  clkev : Word := 0
  seed : AMap (BitVec 32) := []
  winsel : AMap (BitVec 8) := []
  wins : AMap (List Win) := []
  chan : List (BitVec 128) := []
  graph : AMap GraphPart := []
  scratch : AMap Byte := []
  vreg : AMap Byte := []
  vtag : AMap (BitVec 3) := []
  slab : AMap (BitVec 32) := []
  stag : AMap (BitVec 3) := []
  /-- The slab whose values the array holds, and the slot that asked for it (R438). -/
  heldSlab : Option Nat := none
  heldBy : Option Nat := none
  shapes : AMap ShapeRec := []
  /-- Tokens of the store that no firing has taken, in order of arrival (R170, R179). -/
  store : List Flight := []
  diverted : List (BitVec 5) := []
  sticky : AMap Token := []
  /-- Counters of `join` and `cwait` by node and tag (R348, R349). -/
  counts : AMap Counting := []
  runs : List CountRun := []
  /-- Final sink tokens of the step (R198). -/
  sunk : Nat := 0
  ready : List Firing := []
  busy : List Firing := []
  slots : Vector Slot 4 := Vector.replicate 4 {}
  streams : AMap Stream := []
  timelines : AMap Timeline := []
  mat : List MatOp := []
  bins : AMap Bin := []
  track : AMap (List TrackUnit) := []
  /-- Slabs and survivors counted in the window of R286, and the windows complete but not yet answered. -/
  adapt : Nat × Nat := (0, 0)
  adaptDue : List Nat := []
  /-- Uncorrectable words (R10): pool words of the scratchpad, from 2^32 of the vector registers, from 2^36 of the slabs; from
  2^40 of the matrix arrays, from 2^41 node records, from 2^42 codelet words. -/
  badWords : List Nat := []
  gated : List TileUnit := []
  /-- Matrix instructions still declared by `mburst`, and since when none was accepted (R446). -/
  burst : Nat × Nat := (0, 0)
  stepended : Bool := false
  /-- Shared physical tile: 1 while this logical tile is the inactive one (R14). -/
  parked : Bool := false
  /-- MAT cycles (as `State.cyc`) at the last switch, at which this one was parked, and that it has spent parked (R14). -/
  active : Nat := 0
  pausedAt : Nat := 0
  idleCyc : Nat := 0
  /-- Since which cycle of its domain each unit has been idle (R187). -/
  idle : AMap Nat := []
  /-- The codelet slot that issued last, and those that have been tried since and wait (R191). -/
  lastSlot : Nat := 3
  blocked : List Nat := []
  deriving DecidableEq, Repr

/-! ## Edge units -/

/-- A copy that a sower owes (R209, R217). -/
structure SownCopy where
  gate : Nat
  expert : Nat
  rank : Nat
  renorm : Bool
  tok : Token
  deriving DecidableEq, Repr

/-- A rank of a group: expert, weight, dropped with or without RENORM, the result held (R222 to R224). -/
structure GroupRank where
  expert : Nat
  weight : BitVec 32
  dropped : Option Bool := none
  result : Option (List (BitVec 32)) := none
  deriving DecidableEq, Repr

/-- A group entry of a combine unit (R222, R224). -/
structure Group where
  tag : BitVec 20
  seq : BitVec 16
  gate : Nat
  sower : Nat
  launch : Nat := 0
  ranks : List GroupRank
  poison : Option Poison := none
  deriving DecidableEq, Repr

/-- A row that has been scored and waits for its group record to be taken (R209, R217, R222): its port token, the
group, its combine unit, what is sent and deferred, and what the counters then hold. -/
structure SownRow where
  port : Flight
  group : Group
  unit : Nat
  sends : List SownCopy := []
  defers : List SownCopy := []
  counters : AMap Nat := []
  policyHit : List Nat := []
  sat : Bool := false
  deriving DecidableEq, Repr

/-- A buffer that a sower reads: its port token, header and next row (R206). -/
structure SowBuf where
  port : Flight
  hdr : BufHdr
  next : Nat := 0
  deriving DecidableEq, Repr

/-- A sower (R203 to R221): holder, gate SRAM, input store, counters of the step, deferred copies, the buffer
being read with its next row. -/
structure Sower where
  holder : Nat := 0
  image : List Byte := []
  store : List Flight := []
  diverted : List (BitVec 5) := []
  closed : Bool := false
  counters : AMap Nat := []
  policyHit : List Nat := []
  prefetched : List Nat := []
  deferred : List SownCopy := []
  buffer : Option SowBuf := none
  pend : Option SownRow := none
  clock : Clock := []
  deriving DecidableEq, Repr

/-- A finished row of a Haar slab that waits for its slab: its gate's key, tag and sequence index, and its values unless it
ended in poison (R224). -/
structure SlabRow where
  gate : Nat
  tag : BitVec 20
  seq : Nat
  vals : Option (List (BitVec 32))
  deriving DecidableEq, Repr

/-- A combine unit (R222 to R225): open groups, rows written in the step by gate, rows that wait for their slab, the
launches whose completion tokens of the step are sent. -/
structure Combine where
  groups : List Group := []
  rows : AMap Nat := []
  slabRows : List SlabRow := []
  told : List Nat := []
  clock : Clock := []
  deriving DecidableEq, Repr

/-- A directory entry (R210) with its HEAT and the copies sown in the current millisecond (R227). -/
structure DirEntry where
  bin : Dest := ⟨false, 0, 0, 0⟩
  ctx : BitVec 3 := 0
  state : BitVec 2 := 0
  pkg : BitVec 8 := 255
  capm1 : BitVec 8 := 0
  pol : BitVec 8 := 0
  timer : Nat := 0
  quota : Nat := 0
  arank : BitVec 3 := 0
  alt : Nat := 0
  gen : BitVec 16 := 0
  wbytes : Nat := 0
  waddr : Word := 0
  heat : Nat := 0
  sown : Nat := 0
  deriving DecidableEq, Repr

/-! ## Launches, plots, queues -/

/-- A graph image as read (R126 to R128). -/
structure Image where
  ia : BitVec 52 := 0
  check : BitVec 32 := 0
  vregs : Nat := 0
  aslabs : Nat := 0
  bars : Nat := 0
  scratch : Nat := 0
  maxtok : Nat := 0
  sinks : Nat := 0
  codes : List (List Word) := []
  nodes : AMap (List (BitVec 128)) := []
  init : List (Dest × BitVec 20 × BitVec 5 × Word) := []
  entered : Bool := false
  sunk : Nat := 0
  deriving DecidableEq, Repr

/-- A lease descriptor (R66). -/
structure Lease where
  start : BitVec 52 := 0
  pages : Nat := 0
  access : BitVec 3 := 0
  deriving DecidableEq, Repr

/-- Where a launch stands; `freeing`: FREE has gone to its plots; `ending`: it holds no tiles and has only to complete. -/
inductive LPhase where
  | validating | leasing | waiting | placing | running | draining | saving | saved | restoring | killing
  | freeing | ending | done
  deriving DecidableEq, Repr

/-- Joins of one generation of a barrier (R194): tile, destination node and port, tag, release. -/
structure BarJoin where
  tile : Nat
  dest : Dest
  tag : BitVec 20
  rel : Release
  deriving DecidableEq, Repr

/-- A barrier of a launch: generation and the joins of it and of the next (R194, R473). -/
structure Barrier where
  gen : BitVec 24 := 0
  joins : List BarJoin := []
  next : List BarJoin := []
  deriving DecidableEq, Repr

/-- What a member on another package brings to one collective (R470, R471): the sequence number, its op, type, COUNT and ROOT, its
input. -/
structure PeerIn where
  seq : Nat
  op : Nat
  ty : Ty
  count : Nat
  root : Nat
  bytes : List Byte
  deriving DecidableEq, Repr

/-- A collective group (R469 to R471, R314, R315): its GROUP and members as tile and package, the members that have issued
FORM with the launch each ran, and how many collectives each has issued since; members on other packages by rank, with what they
bring. -/
structure CollGroup where
  id : Nat
  group : Nat
  members : List (Nat × BitVec 8)
  formed : Bool := false
  broken : Bool := false
  seq : Nat := 0
  joined : List Nat := []
  owner : AMap Nat := []
  issued : AMap Nat := []
  farFormed : List Nat := []
  farIn : AMap PeerIn := []
  deriving DecidableEq, Repr

/-- Plot answers to a command (R135). -/
inductive PlotAns where
  | placed
  | rejected (reason ctx tile node : Nat)
  /-- A table or image that check `chk` needs could not be read (R131). -/
  | accessFault (chk : Nat)
  | saved
  | restored
  | lost
  | freed
  deriving DecidableEq, Repr

/-- The save image of a checkpointed launch (R306 to R311): its tiles as saved, scanned flights, the inbound queue,
BOOTS and STEPID at the save, and what the region holds beside what the device wrote. -/
structure SaveImage where
  tiles : AMap Tile := []
  scanned : List Flight := []
  inbound : List Flight := []
  cmds : List Cmd := []
  /-- Held writes withdrawn by the save (R306). -/
  reqs : List Req := []
  boots : BitVec 32 := 0
  stepid : BitVec 32 := 0
  time : Nat := 0
  checks : List (BitVec 32) := []
  stepPending : Bool := false
  units : Nat := 0
  /-- Entries of the tag table that may differ from what their unit gives (R309; `tableTag`), the bytes overwritten past the device by unit
  and offset, and the units with an uncorrectable word. -/
  tags : AMap Word := []
  patches : List (Nat × Nat × Byte) := []
  badUnits : List Nat := []
  deriving DecidableEq, Repr

/-- A launch (R121 to R132) with its tables, its place and what the scheduler knows of it. -/
structure Launch where
  handle : Nat := 0
  lrec : BitVec 52 := 0
  qid : Nat := 0
  func : Nat := 0
  cls : Nat := 0
  asid : BitVec 12 := 0
  dispatched : Nat := 0
  det : Bool := false
  periodic : Bool := false
  pclass : Nat := 0
  seed : BitVec 32 := 0
  estime : BitVec 32 := 0
  clkreq : Word := 0
  clkdst : BitVec 32 := 0
  partw : BitVec 32 := 0
  tileset : List Nat := []
  wins : List Win := []
  leases : List Lease := []
  ptimeout : Nat := 0
  rtimeout : Nat := 0
  chan : List (BitVec 128) := []
  dir : List DirEntry := []
  sowers : List (Nat × Nat × BitVec 52) := []
  dlog : BitVec 52 := 0
  flog : BitVec 52 := 0
  period : Nat := 0
  start : Nat := 0
  deadline : Nat := 0
  release : Nat := 0
  images : List Image := []
  phase : LPhase := .validating
  leaseSince : Nat := 0
  raised : List (BitVec 52) := []
  toRaise : List (BitVec 52) := []
  requested : List (BitVec 52) := []
  answers : AMap PlotAns := []
  est : AMap (BitVec 32) := []
  /-- The estimate each plot sent last, and when (R147). -/
  estSent : AMap (BitVec 32 × Nat) := []
  /-- The gate images as read (R123), and the chunks of its directory store (R210). -/
  gates : List (List Byte) := []
  dstore : List Nat := []
  stepid : BitVec 32 := 0
  ctx : BitVec 3 := 0
  closing : Bool := false
  /-- An access has violated the lease: the contexts have stopped and the headland will end the launch (R68). -/
  violated : Bool := false
  /-- SINKS reports taken and not yet added, by plot, and the headland's totals by context (R140, R198). -/
  sinkAns : AMap (List (Nat × Nat)) := []
  sinkTotals : AMap Nat := []
  bars : AMap Barrier := []
  /-- When SAVE was asked for (R305). -/
  saveSince : Nat := 0
  save : Option SaveImage := none
  savedOrder : Nat := 0
  drainAsk : Bool := false
  /-- KILL has been sent for a newcomer and has not taken effect on any plot (R148). -/
  killAsk : Bool := false
  status : Option Nat := none
  /-- When it began to complete (R132). -/
  endTime : Nat := 0
  reason : Nat := 0
  failCtx : Nat := 0
  failTile : Nat := 0
  failNode : Nat := 0
  clkWindow : Option Nat := none
  clkHeld : Option Word := none
  swap : List (Nat × Nat) := []
  logWait : List (Bool × List Byte) := []
  deriving DecidableEq, Repr

/-- A command or event message on a plot's link (R135). -/
inductive Msg where
  | place (handle : Nat)
  | go (handle : Nat)
  | save (handle : Nat)
  | restore (handle : Nat)
  | kill (handle : Nat)
  | freeTiles (handle : Nat)
  | answer (handle : Nat) (a : PlotAns)
  | fault (handle : Nat) (p : Poison)
  | estimate (handle : Nat) (v : BitVec 32)
  | sinks (handle : Nat) (counts : List (Nat × Nat))
  deriving DecidableEq, Repr

/-- A message on its way, with the sequence number of its link and direction (R135). -/
structure Sent where
  seq : BitVec 8
  msg : Msg
  deriving DecidableEq, Repr

/-- A command link (R135, R136): permits, the inbox and the event queue, the messages that wait for a permit. -/
structure Link where
  cmdPermits : Nat := 4
  evPermits : Nat := 8
  cmds : List Sent := []
  events : List Sent := []
  cmdWait : List Msg := []
  evWait : List Msg := []
  cmdSeq : BitVec 8 := 0
  evSeq : BitVec 8 := 0
  failed : Bool := false
  stuckSince : Nat := 0
  deriving DecidableEq, Repr

/-- A packet that has been dispatched and has not left the queue (R109 to R120). -/
structure Pkt where
  idx : Nat
  uid : Nat := 0
  bytes : List Byte
  start : Nat := 0
  copied : Nat := 0
  launch : Nat := 0
  step : Nat := 0
  outcome : Option Nat := none
  status : Option Nat := none
  async : Bool := false
  deriving DecidableEq, Repr

/-- STATE of a queue (R105). -/
inductive QState where
  | idle | active | halting | halted
  deriving DecidableEq, Repr

/-- A queue control block (R105) with the packets dispatched and the skips still owed (R118). -/
structure Queue where
  base : BitVec 52 := 0
  logsz : Nat := 4
  cls : Nat := 0
  en : Bool := false
  dkick : Bool := false
  func : Nat := 0
  asid : BitVec 12 := 0
  wptr : Nat := 0
  dptr : Nat := 0
  rptr : Nat := 0
  rmirror : BitVec 52 := 0
  errsig : BitVec 52 := 0
  state : QState := .idle
  status : Nat := 0
  step : Nat := 0
  errcnt : BitVec 32 := 0
  erridx : Nat := 0
  loopIdx : Option Nat := none
  loopRem : Nat := 0
  loopBody : Nat := 0
  slot : Option Nat := none
  age : BitVec 32 := 0
  lastrun : Nat := 0
  nextrel : Nat := 0
  period : Nat := 0
  /-- RPTR as it was last written to RMIRROR. -/
  mirrored : Nat := 0
  pktsave : List Byte := []
  pkts : List Pkt := []
  skip : Nat := 0
  draining : Option Nat := none
  clock : Clock := []
  deriving DecidableEq, Repr

/-! ## Functions, boot, clocks, tiers -/

/-- A function's control page (R20) and mailbox (R21), its event waiting list (R23). -/
structure Fn where
  fen : Bool := false
  vf : Bool := false
  parent : Nat := 0
  b2ctl : Word := 0
  hostbase : Word := 0
  errcnt : BitVec 32 := 0
  evbase : Word := 0
  evsize : Nat := 0
  evhead : Nat := 0
  evtail : Nat := 0
  req : List Byte := List.replicate 256 0
  rsp : List Byte := List.replicate 256 0
  rspseq : Word := 0
  inflight : Option Word := none
  waiting : List (List Byte) := []
  brk : Bool := false
  /-- Accesses through BAR2 that wait in PCIe order behind one that cannot be performed yet. -/
  bar2 : List (Nat × HostAccess) := []
  msix : List Nat := []
  deriving DecidableEq, Repr

/-- FSTAT.BOOT (R20). -/
inductive BootCode where
  | bootWait | ready | authFail | lengthFail | rollbackFail | noImage | remapFail | trainFail
  deriving DecidableEq, Repr

/-- How far bring-up has come (R33). -/
inductive BootStage where
  | held | waitImage | imageHeld | firmware | trained | furrowed | ready | failed
  deriving DecidableEq, Repr

/-- An attestation log entry (R37): TYPE, DIGEST and the 56 bytes of DATA; its INDEX is its place in the log. -/
structure LogEntry where
  kind : Nat
  digest : BitVec 512
  data : List Byte := List.replicate 56 0
  deriving DecidableEq, Repr

/-- An RSA-4096 key pair (R38): modulus and private exponent. -/
structure RsaKey where
  modulus : BitVec 4096
  secret : BitVec 4096
  deriving DecidableEq, Repr

/-- The attestation key of a boot with its certificate (R38). -/
structure Attestation where
  key : RsaKey
  cert : List Byte
  deriving DecidableEq, Repr

/-- The reply to a quote request (R39): the log's entries of 128 bytes, ACC, the nonce, both certificates and the signature. -/
structure Quote where
  log : List Byte
  acc : BitVec 512
  nonce : BitVec 256
  identityCert : List Byte
  attestationCert : List Byte
  signature : List Byte
  deriving DecidableEq, Repr

/-- A crash entry (R150); `bytes` is the whole entry of 128 bytes, its ECRC included. -/
structure Retention where
  magic : BitVec 32 := 0x43520001
  boots : BitVec 32 := 1
  next : Nat := 0
  count : BitVec 32 := 0
  hcrc : BitVec 32 := 0x1F5464FE
  entries : AMap (List Byte) := []
  deriving DecidableEq, Repr

/-- The boot and identity state of the package. -/
structure Boot where
  code : BootCode := .bootWait
  stage : BootStage := .held
  released : Option Nat := none
  image : Option FwImage := none
  pkgWritten : Option (BitVec 8) := none
  pkg : Option (BitVec 8) := none
  log : List LogEntry := []
  acc : BitVec 512 := 0
  remap : List (List (BitVec 16)) := List.replicate 4 (List.replicate 320 0)
  unusable : List (List Nat) := List.replicate 4 []
  ret : Retention := {}
  puverUp : Bool := false
  planes : BitVec 24 := 0
  cxl : BitVec 6 := 0
  /-- Kicks held before READY: function, queue, size, value (R35). -/
  heldKicks : List (Nat × Nat × Nat × Word) := []
  /-- The package number that log entry 2 covers (R37). -/
  cfgPkg : Option (BitVec 8) := none
  plotFail : List Nat := []
  /-- Plot controllers that are being reloaded, with the time of the reload (R137). -/
  reloads : AMap Nat := []
  memLocked : Bool := false
  /-- Anti-rollback fuses blown; the SHA-512 digests of the four key slots and which of them are revoked (R34). -/
  fuses : Nat := 0
  keyFuses : List (BitVec 512) := List.replicate 4 0
  revoked : BitVec 4 := 0
  attestation : Option Attestation := none
  /-- K of R309: the key under which save images are tagged until the next reset. -/
  saveKey : BitVec 512 := 0
  hostAtomics : Bool := true
  saveUnits : Nat := 0
  sets : List (Nat × Nat × List Nat) := []
  target : List Nat := []
  quotes : List Quote := []
  /-- QCBBASE (R100), once firmware has fixed it. -/
  qcbbase : Option Nat := none
  /-- The entries of channels 0 to 3 (R134, R162). -/
  chans : List (BitVec 128) := []
  /-- Ports whose loss the adapter has reported to firmware (R32). -/
  portNotices : List Nat := []
  deriving DecidableEq, Repr

/-- A grant that waits for its boundary (R51): entry, cause, whether its boundary has come, since when, and whether it lowers
COST because the effective cap fell. -/
structure Grant where
  entry : Nat
  cause : BitVec 2
  forced : Bool
  since : Nat
  capLow : Bool := false
  deriving DecidableEq, Repr

/-- Clock and power state (R41 to R57). -/
structure Clk where
  opp : List Word := List.replicate 64 0
  pbase : Nat := 0
  cap : Nat := 3000
  /-- The thermal cap while firmware holds it away from the programmed cap (R50). -/
  thermal : Option Nat := none
  temp : List Nat := [0, 0, 0, 0]
  limit : List Nat := [0, 0, 0, 0]
  floorSince : Option Nat := none
  lastStep : Option Nat := none
  clkg : List Word := [0, 0, 0, 0]
  pend : List (Option Grant) := [none, none, none, none]
  reeval : Option (BitVec 2) := none
  capFell : Bool := false
  stretches : Nat := 0
  linkAdapts : Nat := 0
  deriving DecidableEq, Repr

/-- A line that a near slice holds a copy of, under the key of its line (R175). -/
structure NearLine where
  key : Nat
  bytes : List Byte
  deriving DecidableEq, Repr

/-- What releases have left at a line: the last one, while the home slice holds its record (R236), and for each 8-byte unit the one
that last wrote it, with its party (R234). -/
structure LineRel where
  last : Option Release := none
  units : AMap (Nat × Release) := []
  deriving DecidableEq, Repr

/-- A page record (R81): KTAG, FMT, EXPP, the 256 size codes, the chunk indices it holds, SECTORS, AGE. -/
structure PageRec where
  ktag : BitVec 3 := 0
  fmt : BitVec 8 := 0
  expp : BitVec 2 := 0
  codes : List Nat := List.replicate 256 0
  chunks : List Nat := []
  sectors : Nat := 0
  age : BitVec 8 := 0
  deriving DecidableEq, Repr

/-- What a held write is of (R87, R96): a request, a recode, or a write of an engine or of the headland by its ASID and IA. -/
inductive HeldBy where
  | req (id : Nat)
  | recode (id : Nat)
  | dev (asid : BitVec 12) (ia : Nat)
  deriving DecidableEq, Repr

/-- A write held for space: since when, its extent, the chunks it needs, whether firmware has been told (R87, R91). -/
structure HeldWrite where
  who : HeldBy
  since : Nat
  asid : BitVec 12
  ia : BitVec 52
  size : Nat := 1
  k : Nat
  told : Bool := false
  deriving DecidableEq, Repr

/-- A memory tier (R78, R79): configuration, the free chunk pool in ascending order, the chunks of its reported capacity, the
writes held for space in the order they reached the pool, EXH, the records of its record area, and the frame or record of each
page mapped on it. -/
structure Tier where
  cfg : Word := 0
  chbase : Nat := 0
  prbase : Nat := 0
  free : List Nat := []
  physical : Nat := 0
  held : List HeldWrite := []
  exh : BitVec 16 := 0
  exhausted : Bool := false
  /-- Writes of engines and of the headland that an exhaustion has ended and that have yet to meet it, with their k (R91). -/
  ended : List (HeldBy × Nat) := []
  used : AMap Nat := []
  area : Nat := 0
  deriving DecidableEq, Repr

/-- A shootdown in progress (R73): what it covers, the requests translated under the old entries, what to finish when it
completes: a mailbox request by function and sequence number, or a recode. -/
structure Shoot where
  id : Nat
  asid : BitVec 12
  ia : BitVec 52
  pages : Nat
  waits : List Nat
  reply : Option (Nat × Word) := none
  /-- What the old entries held, given back when it completes: kind-0 PTEs, moved pages, page tables (R78, R88, R22). -/
  frames : List Nat := []
  moved : List Nat := []
  tables : List Nat := []
  recode : Option Nat := none
  deriving DecidableEq, Repr

/-- A recode asked for or in progress (R96); `old` is the PTE it replaced, while its shootdown is awaited. -/
structure Recode where
  id : Nat
  asid : BitVec 12
  ia : BitVec 52
  kind : BitVec 3
  fmt : BitVec 8
  expp : BitVec 2
  begun : Bool := false
  /-- The page already has the kind asked for: steps 1 and 5 only. -/
  same : Bool := false
  old : Option Nat := none
  issuer : Option (Nat × Nat) := none
  deriving DecidableEq, Repr

/-- A tier move of an expert's pages that the rotation engine has begun (R227, R90). -/
structure PageMove where
  handle : Nat
  expert : Nat
  up : Bool
  asid : BitVec 12
  pages : List Nat
  deriving DecidableEq, Repr

/-- A checkpoint request (R97): since when, and whether the copy runs. -/
structure Ckpt where
  since : Nat
  copying : Bool := false
  deriving DecidableEq, Repr

/-- A memory image at the checkpoint target (R97, R98): the header's COMPLETE word, encoder revision, TIERCFG values and region
sizes, then page tables' roots, tiers and the cells of the parts copied, and the tag of each 4 KiB that holds any. -/
structure CkptImage where
  complete : Bool := false
  revision : Nat := 0
  cfgs : List Word := []
  sizes : List Nat := []
  roots : AMap Word := []
  tiers : AMap Tier := []
  mem : List Host.Cell := []
  tags : AMap Word := []
  deriving DecidableEq, Repr

/-- Firmware's parameters (R97, R144, R227). -/
structure Params where
  ckwait : Nat := 600000
  quantum : Nat := 2000000
  agediv : Nat := 8
  drainmax : Nat := 200
  quota : List Nat := List.replicate 64 64
  promote : Nat := 0
  demote : Nat := 0
  hyst : Nat := 0
  deriving DecidableEq, Repr

/-- What the sideband serves and counts (R10, R40, R50, R97): `ckptStatus` is 0 for none, 1 for CKPT_BLOCKED, 2 for CKPT_FAIL. -/
structure Sensors where
  served : SensorData := {}
  refreshed : Option Nat := none
  corrected : Nat := 0
  uncorrectable : Nat := 0
  ckptStatus : Nat := 0
  capRefused : Nat := 0
  deriving DecidableEq, Repr

/-- An overflow queue (R171): tile or sower id, channel and its tokens. -/
structure Ovf where
  tile : Nat
  chan : BitVec 5
  toks : List Flight
  deriving DecidableEq, Repr

/-- A token that waits for a destination not yet placed (R174): since when, and for how many ns. -/
structure Limbo where
  flight : Flight
  since : Nat
  limit : Nat
  deriving DecidableEq, Repr

/-- An access to another package of a unit that is no tile port (R29, R231): what it reads or writes there; an atomic by its
width; a recode by its kind word (R394). -/
inductive FarOp where
  | read (n : Nat)
  | write (bytes : List Byte)
  | atom (n : Nat)
  | recode (kindWord : Word)
  deriving DecidableEq, Repr

/-- Such an access while it is outstanding: who asked, where, since when, and once it has completed its bytes or its fault. -/
structure FarReq where
  id : Nat
  asker : Nat
  asid : BitVec 12
  ia : Nat
  op : FarOp
  since : Nat
  answer : Option (List Byte) := none
  fault : Option (BitVec 8) := none
  deriving DecidableEq, Repr

/-- What the sideband is asked for (R10, R11, R40, R43, R44, R79, R82, R97, R144, R150, R227, R307). -/
inductive SideItem where
  | served
  | opp (i : Nat)
  | pbase
  | remap (die : Nat)
  | tiercfg (tier : Nat)
  | tierst (tier : Nat)
  | tierFailed
  | records (tier : Nat)
  | saveRegion
  | crash (i : Nat)
  | crashHeader
  | telemetry
  | scheduler
  | rotation
  | checkpoint
  | plotsFailed
  deriving DecidableEq, Repr

/-- The items of R40 as they are served. -/
structure Served where
  pkg : Option (BitVec 8)
  cap : Nat
  limits : List Nat
  sensors : SensorData
  puver : Bool
  furrow : BitVec 24
  cxl : BitVec 6
  corrected : Nat
  uncorrectable : Nat
  unusable : List Nat
  boot : BootCode
  deriving DecidableEq, Repr

/-- A reply of the sideband: the items of R40, numbers, bytes, or an entry found corrupt (R151). -/
inductive SideData where
  | items (x : Served)
  | nums (l : List Nat)
  | bytes (l : List Byte)
  | corrupt
  deriving DecidableEq, Repr

/-- What an agent outside the module has read from it: through BAR2 (R16), at a control page (R20) or a kick page (R101), in its
own memory (R246), over the sideband (R40), or as another module (R231). -/
inductive Got where
  | bar2 (func off : Nat) (bytes : List Byte)
  | reg (func off : Nat) (value : Word)
  | kick (func qid off : Nat) (value : Word)
  | host (addr : Nat) (bytes : List Byte)
  | side (item : SideItem) (data : SideData)
  | peer (asid : BitVec 12) (ia : Nat) (fault : BitVec 8) (bytes : List Byte)
  | token (tok : Token) (pkg : BitVec 8)
  | lease (asid : BitVec 12) (ia : Nat) (raised : Bool)
  deriving DecidableEq, Repr

/-- What waits to be performed next: which agent moves (log 1). -/
inductive Move where
  | event (i : Instr) (a : EvArgs)
  | word (tile : Nat) (slot : Nat)
  | tick (ns : Nat)
  | evict (plot : Nat) (line : Nat)
  | forget (key : Nat)
  | line (cmd : Nat)
  | run (tile : Nat) (k : Nat)
  /-- A soft error on a word of a tile: uncorrectable, or single-bit and corrected (R10). -/
  | strike (tile : Nat) (addr : Nat)
  | correct
  /-- An uncorrectable error in a line of device memory, or in a unit of a save image (R98, R133, R312). -/
  | strikeMem (addr : Nat)
  | strikeSave (launch : Nat) (unit : Nat)
  /-- A byte of the retention SRAM fails: of an entry, or of the header as entry 511 (R151). -/
  | strikeRet (i : Nat) (off : Nat) (b : Byte)
  /-- A unit of a save image is overwritten past the device (R309). -/
  | tamper (launch : Nat) (unit : Nat) (off : Nat) (b : Byte)
  /-- The storage of the checkpoint target holds another image (R98). -/
  | target (x : Option CkptImage)
  /-- A link adapts its equalisation (R57). -/
  | adapt
  /-- The host's own accesses make compare-and-swap loops fail, or no longer do (R19). -/
  | contend (b : Bool)
  | hostStore (addr : Nat) (bytes : List Byte)
  | hostLoad (addr : Nat) (n : Nat)
  | regRead (func off n : Nat)
  | kickRead (func qid off n : Nat)
  | kickWrite (func qid off n : Nat) (v : Word)
  | side (i : SideItem)
  /-- A token from another package comes in, its sender's package with it (R226). -/
  | tokenIn (f : Flight) (src : BitVec 8)
  /-- A token of the network reaches another package (R226). -/
  | tokenOut (n : Nat)
  /-- Another module accesses this package's memory (R231). -/
  | peerRead (asid : BitVec 12) (ia : Nat) (n : Nat)
  | peerWrite (asid : BitVec 12) (ia : Nat) (bytes : List Byte)
  | peerAtom (asid : BitVec 12) (ia : Nat) (op : AtomOp) (ty : Ty) (v v2 : Word)
  /-- Another package's headland asks for a page of this package to be leased, or lets it go (R67, R69). -/
  | peerLease (asid : BitVec 12) (ia : Nat) (up : Bool)
  /-- A group member on another package, by its rank, has issued FORM, brings its part of a collective, or is lost (R314, R471). -/
  | peerForm (gid rank : Nat)
  | peerIn (gid rank : Nat) (x : PeerIn)
  | peerLost (gid : Nat)
  /-- Firmware clears device memory (R98), creates a queue of ASID 0 (R100), or a reloaded plot controller answers (R137). -/
  | clearMem
  | fwQueue (qid func : Nat) (q : List Byte)
  | reloaded (plot : Nat)
  deriving DecidableEq, Repr

/-- What the instruction being performed belongs to: an event's data, a codelet slot, a firing (log 1). -/
inductive Focus where
  | idle
  | event (a : EvArgs)
  | slot (tile : Nat) (k : Fin 4)
  | issue (tile : Nat) (f : Firing)
  | firing (tile : Nat) (f : Firing)
  deriving DecidableEq, Repr

/-- The module. -/
structure State where
  time : Nat
  agenda : List Move
  focus : Focus
  freeCtr : Nat
  nextId : Nat
  boot : Boot
  clk : Clk
  params : Params
  sens : Sensors
  fns : AMap Fn
  qidOwner : AMap Nat
  asidOwner : AMap Nat
  tablePool : List Nat
  queues : AMap Queue
  pending : BitVec 4096
  slotQ : AMap (Nat × Nat)
  /-- Slots claimed by a selection pass: slot to the queue that takes it (R145). -/
  claims : AMap Nat
  launches : AMap Launch
  links : AMap Link
  mem : List Host.Cell
  roots : AMap Word
  tcache : AMap (List Word)
  shoots : List Shoot
  tiers : AMap Tier
  recodes : List Recode
  moves : List PageMove
  near : AMap (List NearLine)
  lineRel : AMap LineRel
  /-- Lines whose write-back met a kind mismatch (R95), and lines of device memory with an uncorrectable word. -/
  badLines : AMap Poison
  badMem : List Nat
  reqs : List Req
  /-- Accesses of other units to other packages, and which unit is asking (R29). -/
  far : List FarReq
  asker : Nat
  /-- The queue whose copy had the last turn of the copy engine (R116). -/
  copyLast : Nat
  track : AMap (List TrackUnit)
  cmds : List Cmd
  groups : List CollGroup
  net : List Flight
  ovf : List Ovf
  ovfUsed : AMap Nat
  ovfTurn : AMap Nat
  /-- Units whose overflow queues are being reinjected since a report of room (R172). -/
  ovfOn : List Nat
  limbo : List Limbo
  tiles : AMap Tile
  sowers : AMap Sower
  combs : AMap Combine
  ckpt : Option Ckpt
  ckptImage : Option CkptImage
  /-- Twentieths of a cycle that each domain of each die has had: die times 4 plus the domain's place in a ratio set (R41). -/
  cyc : AMap Nat
  /-- When work that comes at fixed intervals was last done (R40, R89, R144). -/
  timers : AMap Nat
  /-- Compare-and-swap loops on host memory fail (R19). -/
  hostBusy : Bool
  /-- What the tokens that have left for other packages released (R234). -/
  outClock : Clock
  got : List Got
  deriving DecidableEq, Repr

/-- The module right after power-on reset: nothing placed, nothing mapped, registers at the values of their tables
(R151: the boot ROM has found no retention record, so BOOTS is 1). Values the manual does not give: log 2. -/
def State.reset : State where
  time := 0
  agenda := []
  focus := .idle
  freeCtr := 0
  nextId := 1
  boot := {}
  clk := {}
  params := {}
  sens := {}
  fns := []
  qidOwner := []
  asidOwner := []
  tablePool := []
  queues := []
  pending := 0
  slotQ := []
  claims := []
  launches := []
  links := []
  mem := []
  roots := []
  tcache := []
  shoots := []
  tiers := []
  recodes := []
  moves := []
  near := []
  lineRel := []
  badLines := []
  badMem := []
  reqs := []
  far := []
  asker := 0
  copyLast := 0
  track := []
  cmds := []
  groups := []
  net := []
  ovf := []
  ovfUsed := []
  ovfTurn := []
  ovfOn := []
  limbo := []
  tiles := []
  sowers := []
  combs := []
  ckpt := none
  ckptImage := none
  cyc := []
  timers := []
  hostBusy := false
  outClock := []
  got := []

/-- Why the machine stops for good. No instruction of this model does: every fault of the manual is a poison
or a status that the machine itself takes (R289, R111), which is a next state. -/
inductive Fault where
  /-- Raised by nothing; the manual has no state in which the module stops. Safe. -/
  | none
  deriving DecidableEq, Repr

/-- Why the model gives no next state. -/
inductive Refusal where
  /-- An arm of `exec` whose meaning is not written. Safe: nothing is claimed of it. -/
  | notModelled (mnemonic : String)
  deriving DecidableEq, Repr

end Sys2Proof.Machine
end

