-- ==== Sys2Proof/Machine/Attest.lean ====
section
/-! DEFINITION. Keys and signatures: RSASSA-PSS with SHA-512 (R34, R38, R39), HMAC-SHA-512 (R309), the attestation log and a
quote (R37 to R39). The schemes are those of the standards named (log 31, 60). -/

namespace Sys2Proof.Machine

open Sys2Proof

/-! ## RSASSA-PSS (PKCS #1 v2.2) with SHA-512, MGF1 with SHA-512 and a salt of 64 bytes -/

/-- MGF1: `n` blocks of mask from a seed, the first under counter `c`. -/
def mgf1 (seed : List Byte) (c : Nat) : Nat → List Byte
  | 0 => []
  | n + 1 => sha512 (seed ++ bytesBE 4 c) ++ mgf1 seed (c + 1) n

/-- The bytewise exclusive or of two lists. -/
def xorBytes (a b : List Byte) : List Byte := List.zipWith (· ^^^ ·) a b

/-- The encoded message of 512 bytes for a 4,096-bit modulus. -/
def pssEncode (salt msg : List Byte) : List Byte :=
  let h := sha512 (List.replicate 8 0 ++ sha512 msg ++ salt)
  let db := List.replicate (512 - 64 - 64 - 2) 0 ++ [1] ++ salt
  let masked := xorBytes db ((mgf1 h 0 7).take (512 - 64 - 1))
  [(masked.headD 0) &&& 0x7F] ++ masked.tail ++ h ++ [0xBC]

/-- `b ^ e` modulo `n` for an exponent of at most `k` bits. -/
def powMod (n : Nat) : Nat → Nat → Nat → Nat
  | 0, _, _ => 1 % n
  | k + 1, b, e =>
    let r := powMod n k (b * b % n) (e / 2)
    if e % 2 = 1 then r * b % n else r

/-- The number of a big-endian list of bytes. -/
def beNat (l : List Byte) : Nat := leNat l.reverse

/-- A signature of 512 bytes. -/
def pssSign (modulus exponent : BitVec 4096) (salt msg : List Byte) : List Byte :=
  bytesBE 512 (powMod modulus.toNat 4096 (beNat (pssEncode salt msg)) exponent.toNat)

/-! ## HMAC-SHA-512 -/

/-- HMAC-SHA-512 under a key of 64 bytes. -/
def hmac512 (key msg : List Byte) : List Byte :=
  let k := key ++ List.replicate (128 - key.length) 0
  sha512 (k.map (· ^^^ 0x5C) ++ sha512 (k.map (· ^^^ 0x36) ++ msg))

/-! ## The attestation log (R37) -/

/-- An entry as the 128 bytes of the log, with its INDEX. -/
def LogEntry.image (e : LogEntry) (index : Nat) : List Byte :=
  bytesLE 4 index ++ bytesLE 4 e.kind ++ bytesLE 64 e.digest.toNat ++ (e.data.take 56 ++ List.replicate (56 - e.data.length) 0)

/-- The log's entries, in order. -/
def logImage (l : List LogEntry) : List Byte := (l.zip (List.range l.length)).flatMap (fun x => x.1.image x.2)

/-- The SHA-512 of a list of bytes as a DIGEST. -/
def digestOf (l : List Byte) : BitVec 512 := BitVec.ofNat 512 (leNat (sha512 l))

/-- Append an attestation log entry; ACC takes its digest. A full log takes none. -/
def attest (b : Boot) (kind : Nat) (d : BitVec 512) : Boot :=
  if 64 ≤ b.log.length then b
  else { b with log := b.log ++ [{ kind := kind, digest := d }],
                acc := digestOf (bytesLE 64 b.acc.toNat ++ bytesLE 64 d.toNat) }

/-- The DIGEST of the configuration (R37, R79): remap tables, package number, interleave sets and overcommit ratios. -/
def configDigest (remap : List (List (BitVec 16))) (pkg : Option (BitVec 8)) (sets : List (Nat × Nat × List Nat))
    (cfgs : List Word) : BitVec 512 :=
  digestOf (Config.cfgBytes remap pkg sets (cfgs.map (fun w => (w.extractLsb' 48 8).toNat)))

/-! ## The keys of a boot and a quote (R38, R39) -/

/-- The private exponent of the identity key, as the boot ROM decrypts it. -/
def identityExponent : BitVec 4096 := Config.unseal Config.fusedSecret Config.identitySealed

/-- The attestation key of an image, certified with the identity key (R38); `n` numbers the signature's salt. -/
def attestationOf (digest : BitVec 512) (n : Nat) : Attestation :=
  let m := Config.attestationModulus Config.fusedSecret digest
  { key := { modulus := m, secret := Config.attestationExponent Config.fusedSecret digest },
    cert := Config.certBody m ++ pssSign Config.identityModulus identityExponent (Config.salt n) (Config.certBody m) }

/-- What a quote signs: the log, ACC, the nonce and both certificates, in the order in which R39 names them (log 60). -/
def quoteBody (b : Boot) (a : Attestation) (nonce : BitVec 256) : List Byte :=
  logImage b.log ++ bytesLE 64 b.acc.toNat ++ bytesLE 32 nonce.toNat ++ Config.identityCert ++ a.cert

/-- The reply to a quote request (R39). -/
def quoteReply (b : Boot) (a : Attestation) (nonce : BitVec 256) (n : Nat) : Quote :=
  { log := logImage b.log, acc := b.acc, nonce := nonce, identityCert := Config.identityCert, attestationCert := a.cert
    signature := pssSign a.key.modulus a.key.secret (Config.salt n) (quoteBody b a nonce) }

end Sys2Proof.Machine
end

