-- ==== Sys2Proof/Machine/Base.lean ====
section
/-! DEFINITION. Accessors of the state, the geometry of tiles, dies and plots (R3), scopes (R231), order clocks
(R234, R249) and the making of poison (R288). -/

namespace Sys2Proof.Machine

open Sys2Proof

/-! ## Accessors -/

def tileOf (s : State) (t : Nat) : Tile := aget s.tiles t {}
def setTile (s : State) (t : Nat) (x : Tile) : State := { s with tiles := aput s.tiles t x }
def modTile (s : State) (t : Nat) (f : Tile → Tile) : State := setTile s t (f (tileOf s t))
def launchOf (s : State) (h : Nat) : Launch := aget s.launches h {}
def setLaunch (s : State) (h : Nat) (x : Launch) : State := { s with launches := aput s.launches h x }
def modLaunch (s : State) (h : Nat) (f : Launch → Launch) : State := setLaunch s h (f (launchOf s h))
def queueOf (s : State) (q : Nat) : Queue := aget s.queues q {}

/-- STATE of a control block (R105). -/
def QState.code : QState → Nat
  | .idle => 0 | .active => 1 | .halting => 2 | .halted => 3

/-- A control block as its 256 bytes (R105). -/
def qcbBytes (q : Nat) (x : Queue) : List Byte :=
  bytesLE 8 x.base.toNat ++ bytesLE 1 x.logsz ++ bytesLE 1 x.cls
    ++ bytesLE 1 ((if x.en then 1 else 0) + (if x.dkick then 2 else 0)) ++ bytesLE 1 x.func ++ bytesLE 2 q
    ++ bytesLE 2 x.asid.toNat ++ bytesLE 8 x.wptr ++ bytesLE 8 x.dptr ++ bytesLE 8 x.rptr ++ bytesLE 8 x.rmirror.toNat
    ++ bytesLE 8 x.errsig.toNat ++ bytesLE 1 x.state.code ++ bytesLE 1 x.status ++ bytesLE 2 x.step
    ++ bytesLE 4 x.errcnt.toNat ++ bytesLE 8 x.erridx ++ bytesLE 8 (x.loopIdx.getD (2 ^ 64 - 1)) ++ bytesLE 4 x.loopRem
    ++ List.replicate 12 0 ++ bytesLE 1 (x.slot.getD 0xFF) ++ List.replicate 3 0 ++ bytesLE 4 x.age.toNat
    ++ bytesLE 8 x.lastrun ++ bytesLE 8 x.nextrel ++ bytesLE 8 x.period ++ padTo x.pktsave 64 ++ List.replicate 64 0

/-- Device memory with the control block of a queue written, once firmware has placed the blocks; while the queue is bound its
slot holds it (R100, R141, R142). -/
def qcbMem (s : State) (q : Nat) (x : Queue) : AMap Byte :=
  match x.slot, s.boot.qcbbase with
  | none, some b => wrBytes s.mem (b + q * 256) (qcbBytes q x)
  | _, _ => s.mem

/-- Replace a queue, and its control block with it. -/
def setQueue (s : State) (q : Nat) (x : Queue) : State := { s with queues := aput s.queues q x, mem := qcbMem s q x }

/-- Change a queue that exists. -/
def modQueue (s : State) (q : Nat) (f : Queue → Queue) : State :=
  match afind s.queues q with
  | none => s
  | some x => setQueue s q (f x)
def fnOf (s : State) (f : Nat) : Fn := aget s.fns f {}
def modFn (s : State) (f : Nat) (g : Fn → Fn) : State := { s with fns := aput s.fns f (g (fnOf s f)) }
def tierOf (s : State) (t : Nat) : Tier := aget s.tiers t {}
def modTier (s : State) (t : Nat) (g : Tier → Tier) : State := { s with tiers := aput s.tiers t (g (tierOf s t)) }
def linkOf (s : State) (p : Nat) : Link := aget s.links p {}
def modLink (s : State) (p : Nat) (g : Link → Link) : State := { s with links := aput s.links p (g (linkOf s p)) }
def sowerOf (s : State) (u : Nat) : Sower := aget s.sowers u {}
def modSower (s : State) (u : Nat) (g : Sower → Sower) : State := { s with sowers := aput s.sowers u (g (sowerOf s u)) }
def combOf (s : State) (u : Nat) : Combine := aget s.combs u {}
def modComb (s : State) (u : Nat) (g : Combine → Combine) : State := { s with combs := aput s.combs u (g (combOf s u)) }

/-- The launch a tile runs. -/
def tileLaunch (s : State) (t : Nat) : Launch := launchOf s (tileOf s t).launch

/-- Replace a codelet slot of a tile. -/
def setSlot (s : State) (t : Nat) (k : Fin 4) (x : Slot) : State :=
  modTile s t (fun tl => { tl with slots := tl.slots.set k x })

def slotOf (s : State) (t : Nat) (k : Fin 4) : Slot := (tileOf s t).slots[k]

def modSlot (s : State) (t : Nat) (k : Fin 4) (f : Slot → Slot) : State := setSlot s t k (f (slotOf s t k))

/-- A number not yet used for a party, request or command. -/
def newId (s : State) : Nat × State := (s.nextId, { s with nextId := s.nextId + 1 })

/-- A value the manual leaves open (log 5). -/
def drawFree (s : State) : Word × State := (Config.freeWord s.freeCtr, { s with freeCtr := s.freeCtr + 1 })

/-- n free bytes. -/
def drawBytes (s : State) (n : Nat) : List Byte × State :=
  ((List.range n).map (fun i => (Config.freeWord (s.freeCtr + i)).setWidth 8), { s with freeCtr := s.freeCtr + n })

/-- The image of a context of the launch a tile runs. -/
def imageOf (s : State) (t : Nat) (c : BitVec 3) : Image := (tileLaunch s t).images.getD c.toNat {}

/-- At least `n` ns have passed on the time base since it read `t0`; it wraps past 2^64 - 1 (R6). -/
def due (s : State) (t0 n : Nat) : Bool := n ≤ (s.time + (2 ^ 64 - t0 % 2 ^ 64)) % 2 ^ 64

/-- The bytes a request is for. -/
def ReqOp.size : ReqOp → Nat
  | .load n => n
  | .store bs => bs.length
  | .atom _ ty _ _ _ => ty.bytes
  | .prefetch n => n

/-- The access may write. -/
def ReqOp.mayWrite : ReqOp → Bool
  | .load _ => false
  | .prefetch _ => false
  | .store _ => true
  | .atom _ _ _ _ _ => true

/-! ## Gated units (R187) -/

/-- A unit's number, and the place of its domain in a ratio set (R41; the memory port and the network interface: log 68). -/
def unitCode : TileUnit → Nat
  | .matchUnit => 0 | .codeletCore => 1 | .vectorEngine => 2 | .matrixEngine => 3 | .memoryPort => 4 | .networkInterface => 5
def unitDom : TileUnit → Nat
  | .matchUnit => 1 | .codeletCore => 1 | .vectorEngine => 1 | .matrixEngine => 0 | .memoryPort => 3 | .networkInterface => 2

/-- A unit has work: its clock runs. -/
def wakeUnit (s : State) (t : Nat) (u : TileUnit) : State :=
  modTile s t (fun x => { x with gated := x.gated.filter (· ≠ u), idle := adel x.idle (unitCode u) })

/-! ## Geometry (R3, R203) -/

def dieOf (t : Nat) : Nat := t / 512
def rowOf (t : Nat) : Nat := t / 32 % 16
def colOf (t : Nat) : Nat := t % 32

/-- Package plot of a tile. -/
def plotOf (t : Nat) : Nat := dieOf t * 20 + rowOf t / 4 * 5 + colOf t / 4

/-- Position of a tile in its plot, for multicast masks (R467). -/
def plotPos (t : Nat) : Nat := rowOf t % 4 * 4 + colOf t % 4

/-- An id that names a tile (R3). -/
def isTile (t : Nat) : Bool := t < 2048 && colOf t < 20

/-- The id of a sower by package index (R203). -/
def sowerId (u : Nat) : Nat := u / 8 * 512 + 24 + u % 8

/-- The id of a combine unit by package index (R203). -/
def combId (u : Nat) : Nat := u / 8 * 512 + 32 + 24 + u % 8

/-- The sower an id names. -/
def asSower (t : Nat) : Option Nat :=
  if rowOf t = 0 && 24 ≤ colOf t then some (dieOf t * 8 + (colOf t - 24)) else none

/-- The combine unit an id names. -/
def asComb (t : Nat) : Option Nat :=
  if rowOf t = 1 && 24 ≤ colOf t then some (dieOf t * 8 + (colOf t - 24)) else none

/-- The tile of bit n of a tile-set bitmap (R122). -/
def tileOfBit (n : Nat) : Nat := n / 320 * 512 + n % 320 / 20 * 32 + n % 20

/-- The place of the base die: inside the package, on no die (R231). -/
def basePlace : BitVec 11 := 0x7FF

/-- The place of the host, within `.sys` alone, and of the other packages of the domain, within `.dom` (R231). -/
def hostPlace : BitVec 11 := 0x7FE
def peerPlace : BitVec 11 := 0x7FD

/-- Place `b` lies within scope `sc` of place `a` (R231). -/
def within (sc : Scope) (a b : BitVec 11) : Bool :=
  match sc with
  | .tile => a = b
  | .plot => a = b || (isTile a.toNat && isTile b.toNat && plotOf a.toNat = plotOf b.toNat)
  | .die => a = b || (!([basePlace, hostPlace, peerPlace].contains a) && !([basePlace, hostPlace, peerPlace].contains b) && dieOf a.toNat = dieOf b.toNat)
  | .pkg => a = b || (!([hostPlace, peerPlace].contains a) && !([hostPlace, peerPlace].contains b))
  | .dom => a = b || (a ≠ hostPlace && b ≠ hostPlace)
  | .sys => true

/-- Of two scopes the wider. -/
def wider (a b : Scope) : Scope := if a.code < b.code then b else a

/-! ## Order clocks (R234, R249) -/

/-- Pointwise greatest. -/
def clkJoin (a b : Clock) : Clock := b.foldl (fun m (k, v) => aput m k (max v (aget m k 0))) a

/-- A release by a party at a place. -/
def mkRelease (sc : Scope) (place : BitVec 11) (c : Clock) : Release := { scope := sc, place := place, clock := c }

/-- The pair of a release and an acquire synchronises (R234). -/
def syncs (r : Release) (sc : Scope) (place : BitVec 11) : Bool := within r.scope r.place place && within sc place r.place

/-! ## Sticky bits of STAT (R383) -/

def statNX : Word := 0x001
def statOF : Word := 0x002
def statNV : Word := 0x004
def statSAT : Word := 0x008
def statDZ : Word := 0x010
def statSCOPEMISS : Word := 0x100
def statCOUNTSAT : Word := 0x200
def statLEFTOVER : Word := 0x400

/-- The STAT bits of the conditions an operation met (R264, R364, R367). -/
def Fl.stat (f : Fl) : Word :=
  (if f.nx then statNX else 0) ||| (if f.ovf then statOF else 0) ||| (if f.nv then statNV else 0)
    ||| (if f.sat then statSAT else 0) ||| (if f.dz then statDZ else 0)

/-! ## Fault codes (R289) -/

def cNonCanonical : BitVec 8 := 0x01
def cWindowMiss : BitVec 8 := 0x02
def cWindowRange : BitVec 8 := 0x03
def cWindowPermission : BitVec 8 := 0x04
def cWindowDescriptor : BitVec 8 := 0x05
def cLeaseViolation : BitVec 8 := 0x06
def cPackageRange : BitVec 8 := 0x07
def cNonLocalHost : BitVec 8 := 0x08
def cTranslationInvalid : BitVec 8 := 0x09
def cPagePermission : BitVec 8 := 0x0A
def cRecordCorrupt : BitVec 8 := 0x0B
def cKindMismatch : BitVec 8 := 0x0C
def cCapacity : BitVec 8 := 0x0D
def cTierUnreachable : BitVec 8 := 0x0E
def cPkgUnreachable : BitVec 8 := 0x0F
def cHostContention : BitVec 8 := 0x10
def cHostUnsupported : BitVec 8 := 0x11
def cUncorrectable : BitVec 8 := 0x12
def cIllegal : BitVec 8 := 0x13
def cPartition : BitVec 8 := 0x14
def cTagOverflow : BitVec 8 := 0x15
def cDuplicate : BitVec 8 := 0x16
def cNondet : BitVec 8 := 0x17
def cConflict : BitVec 8 := 0x18
def cTracking : BitVec 8 := 0x19
def cWaitTimeout : BitVec 8 := 0x1A
def cChanReserved : BitVec 8 := 0x1B
def cChanInvalid : BitVec 8 := 0x1C
def cRouteFilter : BitVec 8 := 0x1D
def cBurstLength : BitVec 8 := 0x1E
def cDomain : BitVec 8 := 0x1F
def cThreshold : BitVec 8 := 0x20
def cClockRange : BitVec 8 := 0x21
def cKickRefused : BitVec 8 := 0x22
def cUndeliverable : BitVec 8 := 0x23
def cSowerNotHeld : BitVec 8 := 0x24
def cSowerClosed : BitVec 8 := 0x25
def cGateShape : BitVec 8 := 0x26
def cGateScore : BitVec 8 := 0x27
def cExpertInvalid : BitVec 8 := 0x28
def cCombDuplicate : BitVec 8 := 0x29
def cCombOrphan : BitVec 8 := 0x2A
def cCombShape : BitVec 8 := 0x2B
def cMatrixError : BitVec 8 := 0x2C
def cReplayExhausted : BitVec 8 := 0x2D
def cPeerAborted : BitVec 8 := 0x2E
def cGroupBroken : BitVec 8 := 0x2F
def cOverflowExhausted : BitVec 8 := 0x30

/-- The faults that are not precise (R290). -/
def codePrecise (c : BitVec 8) : Bool :=
  !(c = cUndeliverable || c = cPeerAborted || c = cReplayExhausted || 0xC0 ≤ c.toNat)

/-- A poison raised by a firing on a tile (R288). -/
def mkPoison (s : State) (t : Nat) (f : Firing) (code : BitVec 8) : Poison :=
  { srcTile := BitVec.ofNat 11 t, srcNode := BitVec.ofNat 12 f.node, srcCtx := f.ctx, prec := codePrecise code,
    code := code, step := (tileOf s t).stepid, tag := f.tag, time := BitVec.ofNat 64 s.time }

/-- A poison of an access at a virtual address. -/
def Poison.atVA (p : Poison) (va : Word) : Poison := { p with addr := va, addrKind := 1 }

/-- A poison raised by a unit that performs no firing (R288). -/
def unitPoison (s : State) (unit : Nat) (code : BitVec 8) : Poison :=
  { srcTile := BitVec.ofNat 11 unit, prec := codePrecise code, code := code, time := BitVec.ofNat 64 s.time }

/-- AUX of a poison token (R288). -/
def Poison.aux (p : Poison) : Word :=
  BitVec.ofNat 64 (p.srcTile.toNat <<< 32 ||| p.srcNode.toNat <<< 20 ||| p.srcCtx.toNat <<< 17
    ||| (if p.prec then 1 else 0) <<< 16 ||| p.hops.toNat <<< 8 ||| p.code.toNat)

/-- Bytes 24 to 55 of a poison token (R288). -/
def Poison.tail (p : Poison) : List Byte :=
  let src := p.tag.toNat ||| (match p.strm with | some x => x.toNat <<< 20 ||| 1 <<< 24 | none => 0)
    ||| p.addrKind.toNat <<< 25
  bytesLE 8 p.addr.toNat ++ bytesLE 8 p.detail.toNat ++ bytesLE 4 p.step.toNat ++ bytesLE 4 src
    ++ bytesLE 8 p.time.toNat

/-- The token kind code (R158). -/
def Body.kind : Body → Nat
  | .scalar _ => 0 | .burst _ => 1 | .poison _ => 2 | .control _ => 3 | .sparse _ => 4 | .notice _ => 5
  | .barrier _ => 6

/-- Payload flits of a token (R157). -/
def Body.beats : Body → Nat
  | .burst b => cdiv b.bytes.length 64
  | .sparse b => cdiv b.bytes.length 64
  | _ => 0

/-- Header bytes 0 to 15 of a token (R157). -/
def Token.header (k : Token) : List Byte :=
  let d := (encDest k.dest).toNat
  bytesLE 16 (k.rctx.toNat <<< 121 ||| k.rport.toNat <<< 119 ||| k.rnode.toNat <<< 107
    ||| (if k.reply then 1 else 0) <<< 106 ||| k.ctx.toNat <<< 103 ||| k.origin.toNat <<< 92
    ||| k.rankw.toNat <<< 76 ||| k.seq.toNat <<< 60 ||| k.body.beats <<< 54 ||| k.body.kind <<< 51
    ||| k.chan.toNat <<< 46 ||| k.tag.toNat <<< 26 ||| d)

/-- The poison a token is, if it is one. -/
def Token.poison? (k : Token) : Option Poison :=
  match k.body with
  | .poison p => some p
  | _ => none

end Sys2Proof.Machine
end

