-- ==== Sys2Proof/Machine/Image.lean ====
section
/-! DEFINITION. The save image of a launch as 4 KiB units, and the tags of its units (R307 to R312). -/

namespace Sys2Proof

/-- The state block of a tile, whose layout is private to the device (R308), and the IA of the image of a launch in the save region.
Log entry 61. -/
opaque Config.stateBlock : Machine.Tile → List Machine.Cmd → List Byte
opaque Config.saveIA : Nat → Nat

end Sys2Proof

namespace Sys2Proof.Machine

open Sys2Proof

/-! ## Partition words and the flits of a token -/

/-- Fields of a partition word (R130, R155). -/
def pwGB (w : Nat) : Nat := bits w 3 0
def pwVB (w : Nat) : Nat := bits w 10 4
def pwAB (w : Nat) : Nat := bits w 17 11

/-- AUX of a burst or coordinate-sparse token (R158). -/
def burstAux (b : Burst) : Nat := b.nelem.toNat ||| b.fmt.toNat <<< 16 ||| b.dtag.toNat <<< 24

/-- AUX of a token (R158). -/
def Body.auxNat : Body → Nat
  | .scalar w => w.toNat
  | .control w => w.toNat
  | .notice w => w.toNat
  | .barrier w => w.toNat
  | .burst b => burstAux b
  | .sparse b => burstAux b
  | .poison p => p.aux.toNat

/-- What follows AUX in the header flit (R157, R288). -/
def Body.rest : Body → List Byte
  | .poison p => p.tail
  | _ => []

/-- The payload flits of a token (R158). -/
def Body.payload : Body → List Byte
  | .burst b => padTo b.bytes (64 * cdiv b.bytes.length 64)
  | .sparse b => padTo b.bytes (64 * cdiv b.bytes.length 64)
  | _ => []

/-- A token as its flits (R157). -/
def Token.flits (k : Token) : List Byte :=
  padTo (k.header ++ bytesLE 8 k.body.auxNat ++ k.body.rest) 64 ++ k.body.payload

/-- Flits of a token in an overflow region or an image. -/
def flitsOf (k : Token) : Nat := 1 + k.body.beats

/-! ## The parts of a tile section (R308) -/

/-- Node states that a save image holds for a tile. -/
def statefulNodes (tl : Tile) : Nat := tl.sticky.length + tl.counts.length + tl.runs.length

/-- Unit `j` of bytes that begin at a unit, zeros after their end. -/
def unitBytes (b : List Byte) (j : Nat) : List Byte := padTo (b.drop (4096 * j)) 4096

/-- Units of a tile's state block. -/
def stateUnits (tl : Tile) : Nat := cdiv (4096 + 16 * statefulNodes tl) 4096

/-- The place of an uncorrectable word among the pool words saved: vector, then accumulator, then scratchpad partition. -/
def poolWord (pw k : Nat) : Nat :=
  if k < 2 ^ 32 then (pwVB pw + pwAB pw) * 3072 + k
  else if k < 2 ^ 36 then k - 2 ^ 32
  else pwVB pw * 3072 + (k - 2 ^ 36)

/-- The poison map (R310). -/
def poisonMap (pw : Nat) (tl : Tile) : List Byte :=
  bytesLE 24576 ((tl.badWords.filter (· < 2 ^ 40)).eraseDups.foldl (fun n k => n ||| 2 ^ poolWord pw k) 0)

/-- The token store of a tile. -/
def storeBytes (tl : Tile) : List Byte :=
  padTo (tl.store.flatMap (fun f => f.tok.header)) 4096 ++ padTo (tl.store.flatMap (fun f => f.tok.body.payload)) 65536

/-- Unit `k` of the partitions of a tile: vector, then accumulator, then scratchpad. -/
def partUnit (pw : Nat) (tl : Tile) (k : Nat) : List Byte :=
  let v := pwVB pw * 12
  let a := v + pwAB pw * 12
  if k < v then rdBytes tl.vreg (4096 * k) 4096
  else if k < a then (List.range 1024).flatMap (fun i => bytesLE 4 (aget tl.slab (1024 * (k - v) + i) 0).toNat)
  else rdBytes tl.scratch (4096 * (k - a)) 4096

/-- Units of the partitions of a tile. -/
def partUnits (pw : Nat) : Nat := (64 - pwGB pw) * 12

/-- Scanned flits that a tile's section holds: those of its own tokens, and in the first section those of the launch's edge units. -/
def scannedOf (l : Launch) (x : SaveImage) (t : Nat) : List Flight :=
  x.scanned.filter (fun f => f.tok.origin.toNat = t || (!l.tileset.contains f.tok.origin.toNat && l.tileset.head? = some t))

/-- Units of the flits of tokens. -/
def flitUnits (fs : List Flight) : Nat := cdiv (64 * (fs.map (fun f => flitsOf f.tok)).sum) 4096

/-- Units of a tile's section. -/
def sectionUnits (l : Launch) (x : SaveImage) (t : Nat) : Nat :=
  stateUnits (aget x.tiles t {}) + 23 + flitUnits (scannedOf l x t) + partUnits l.partw.toNat

/-- Unit `j` of the section of a tile. -/
def sectionUnit (l : Launch) (x : SaveImage) (t j : Nat) : List Byte :=
  let tl := aget x.tiles t {}
  let n := stateUnits tl
  let m := n + 23 + flitUnits (scannedOf l x t)
  if j < n then unitBytes (Config.stateBlock { tl with graph := [] } (x.cmds.filter (fun c => c.tile = t))) j
  else if j < n + 6 then unitBytes (poisonMap l.partw.toNat tl) (j - n)
  else if j < n + 23 then unitBytes (storeBytes tl) (j - n - 6)
  else if j < m then unitBytes ((scannedOf l x t).flatMap (fun f => f.tok.flits)) (j - n - 23)
  else partUnit l.partw.toNat tl (j - m)

/-! ## The image (R307) -/

/-- Flits in an inbound queue. -/
def inboundUse (x : SaveImage) : Nat := (x.inbound.map (fun f => flitsOf f.tok)).sum

/-- Units of the directory. -/
def dirUnits (l : Launch) : Nat := cdiv (16 * l.tileset.length) 4096

/-- The sections of an image: tile and units. -/
def imageSections (l : Launch) (x : SaveImage) : List (Nat × Nat) := l.tileset.map (fun t => (t, sectionUnits l x t))

/-- The directory of the sections that begin at unit `first`. -/
def imageDir : Nat → List (Nat × Nat) → List Byte
  | _, [] => []
  | first, (t, n) :: r => bytesLE 4 t ++ bytesLE 4 first ++ bytesLE 4 n ++ bytesLE 4 0 ++ imageDir (first + n) r

/-- The section that a unit lies in, and which of its units it is. -/
def sectionAt : List (Nat × Nat) → Nat → Option (Nat × Nat)
  | [], _ => none
  | (t, n) :: r, j => if j < n then some (t, j) else sectionAt r (j - n)

/-- The first unit of the inbound queue. -/
def inqUnit (l : Launch) (x : SaveImage) : Nat := 1 + dirUnits l + ((imageSections l x).map (·.2)).sum

/-- Units of an image. -/
def imageLen (l : Launch) (x : SaveImage) : Nat := inqUnit l x + flitUnits x.inbound

/-- MAGIC of a save image. -/
def saveMagic : Nat := 0x53490001

/-- The header of an image. -/
def imageHeader (l : Launch) (x : SaveImage) : List Byte :=
  padTo (bytesLE 4 saveMagic ++ bytesLE 4 (imageLen l x) ++ bytesLE 2 (l.handle % 65536) ++ bytesLE 1 l.images.length ++ [0]
    ++ bytesLE 4 l.tileset.length ++ bytesLE 8 l.lrec.toNat ++ bytesLE 4 x.boots.toNat ++ bytesLE 4 x.stepid.toNat ++ bytesLE 8 x.time
    ++ bytesLE 4 x.inbound.length ++ bytesLE 4 (inqUnit l x) ++ (x.checks.flatMap (fun c => bytesLE 4 c.toNat))) 4096

/-- A unit of an image as the device has written it: header, directory, sections, inbound queue. -/
def unitBase (l : Launch) (x : SaveImage) : Nat → List Byte
  | 0 => imageHeader l x
  | k + 1 =>
    if k < dirUnits l then unitBytes (imageDir (1 + dirUnits l) (imageSections l x)) k
    else match sectionAt (imageSections l x) (k - dirUnits l) with
      | some (t, j) => sectionUnit l x t j
      | none => unitBytes (x.inbound.flatMap (fun f => f.tok.flits)) (k + 1 - inqUnit l x)

/-- A unit of an image as the save region holds it: what was overwritten past the device stands in it. -/
def imageUnit (l : Launch) (x : SaveImage) (i : Nat) : List Byte :=
  (x.patches.filter (fun p => p.1 = i)).foldl (fun b p => lmod b p.2.1 (fun _ => p.2.2)) (unitBase l x i)

/-! ## Tags (R309) -/

/-- The tag of a unit under K: the first 8 bytes of the HMAC, over the image's IA and the unit's number as 8 bytes each and the unit. -/
def unitTag (key : BitVec 512) (l : Launch) (x : SaveImage) (i : Nat) : Word :=
  lword (hmac512 (bytesLE 64 key.toNat) (bytesLE 8 (Config.saveIA l.handle) ++ bytesLE 8 i ++ imageUnit l x i)) 0

/-- The entry of a unit in the tag table: the device tags what it writes, so only a unit or an entry that was overwritten past it can
have another tag than what stands in the unit gives, and those alone are listed. -/
def tableTag (key : BitVec 512) (l : Launch) (x : SaveImage) (i : Nat) : Word := (afind x.tags i).getD (unitTag key l x i)

/-- The device has written every unit of an image and its tag. -/
def sealImage (x : SaveImage) : SaveImage := { x with tags := [], patches := [], badUnits := [] }

/-- A byte of an image is overwritten past the device; units past the last are the tag table. -/
def overwrite (key : BitVec 512) (l : Launch) (x : SaveImage) (u off : Nat) (b : Byte) : SaveImage :=
  if u < imageLen l x then { x with tags := aput x.tags u (tableTag key l x u), patches := x.patches ++ [(u, off, b)] }
  else
    let j := 4096 * (u - imageLen l x) + off
    if imageLen l x ≤ j / 8 then x
    else { x with tags := aput x.tags (j / 8) (lword (lmod (bytesLE 8 (tableTag key l x (j / 8)).toNat) (j % 8) (fun _ => b)) 0) }

/-- Bytes that the append of a token writes: the counts in the header, the token's flits. -/
def appendWrites (l : Launch) (x : SaveImage) (f : Flight) (p : Nat × Nat × Byte) : Bool :=
  (p.1 = 0 && ((4 ≤ p.2.1 && p.2.1 < 8) || (40 ≤ p.2.1 && p.2.1 < 44)))
    || (let b := p.1 * 4096 + p.2.1
        let lo := inqUnit l x * 4096 + inboundUse x * 64
        lo ≤ b && b < lo + flitsOf f.tok * 64)

/-- Units that the append of a token writes. -/
def appendUnit (l : Launch) (x : SaveImage) (f : Flight) (i : Nat) : Bool :=
  i = 0 || (inqUnit l x + inboundUse x / 64 ≤ i && i ≤ inqUnit l x + (inboundUse x + flitsOf f.tok - 1) / 64)

/-- A token is appended to the inbound queue, and the units written are tagged again as they then stand (R309, R311). -/
def appendInbound (l : Launch) (x : SaveImage) (f : Flight) : SaveImage :=
  { x with inbound := x.inbound ++ [f], patches := x.patches.filter (fun p => !appendWrites l x f p)
           tags := x.tags.filter (fun p => !appendUnit l x f p.1) }

/-! ## What a restore checks of an image (R312) -/

/-- MAGIC, HANDLE and BOOT match. -/
def imageHeadOk (boots : BitVec 32) (l : Launch) (x : SaveImage) : Bool :=
  let u := imageUnit l x 0
  lnat u 0 4 = saveMagic && lnat u 8 2 = l.handle % 65536 && lnat u 24 4 = boots.toNat

/-- A unit bears its tag: one that no entry of the list names does. -/
def unitSound (key : BitVec 512) (l : Launch) (x : SaveImage) (i : Nat) : Bool :=
  match afind x.tags i with
  | none => true
  | some t => t = unitTag key l x i

/-- Every unit is read and matches its tag. -/
def imageSound (key : BitVec 512) (l : Launch) (x : SaveImage) : Bool :=
  (List.range (imageLen l x)).all (fun i => !x.badUnits.contains i && unitSound key l x i)

end Sys2Proof.Machine
end

