-- ==== Sys2Proof/Machine/Addr.lean ====
section
/-! DEFINITION. Virtual to intermediate addresses at issue: canonical form (R59, R60), windows (R61 to R65), leases
(R66, R68), package and host aperture (R17, R25). -/

namespace Sys2Proof.Machine

open Sys2Proof

/-- Kinds of access for permissions (R64). -/
inductive Acc where
  | load | store | atomic
  deriving DecidableEq, Repr

/-- Bits [63:57] all equal bit 56 (R59). -/
def canonical (va : Nat) : Bool := va / 2 ^ 56 = 0 || va / 2 ^ 56 = 255

/-- R60: every byte of the extent is canonical and none carries out of bit 63. -/
def extentOk (first size : Nat) : Bool :=
  let last := first + size - 1
  last < 2 ^ 64 && canonical first && canonical last && first / 2 ^ 56 = last / 2 ^ 56

def Win.valid (w : Win) : Bool := w.base.getLsbD 63
def Win.asid (w : Win) : BitVec 12 := w.base.extractLsb' 0 12

/-- First and last byte of a window as signed addresses (R61). -/
def Win.lo (w : Win) : Int := ((w.base.extractLsb' 16 41).toInt) * 65536
def Win.hi (w : Win) : Int := ((w.limit.extractLsb' 16 41).toInt) * 65536 + 0xFFFF

/-- The host aperture's first local offset (R17). -/
def hostLo : Nat := 0xF0000000000

/-- Local offset and package field of an IA (R25). -/
def iaLocal (ia : Nat) : Nat := ia % 2 ^ 44
def iaPkg (ia : Nat) : Nat := ia / 2 ^ 44 % 256
def isHostIA (ia : Nat) : Bool := hostLo ≤ iaLocal ia

/-- The package field names this package (R25). -/
def pkgIsLocal (s : State) (p : Nat) : Bool := p = 255 || s.boot.pkg = some (BitVec.ofNat 8 p)

/-- The IA with the package field 255 when it names this package. -/
def iaNorm (s : State) (ia : Nat) : Nat := if pkgIsLocal s (iaPkg ia) then 255 * 2 ^ 44 + iaLocal ia else ia

/-- R62: a window is accepted. -/
def Win.ok (w : Win) (asid : BitVec 12) : Bool :=
  !w.valid ||
    (w.base.extractLsb' 57 6 = 0 && w.base.extractLsb' 12 4 = 0 && w.limit.extractLsb' 57 7 = 0
      && w.limit.extractLsb' 3 13 = 0 && w.offset.extractLsb' 52 12 = 0 && w.offset.extractLsb' 0 16 = 0
      && w.asid = asid && w.lo ≤ w.hi
      && (let g := (w.offset.extractLsb' 16 28).toNat
          let n := ((w.limit.extractLsb' 16 41).toInt - (w.base.extractLsb' 16 41).toInt).toNat
          g + n ≤ 0xFFFFFFF && ((g + n) * 65536 + 0xFFFF < hostLo || hostLo ≤ g * 65536)))

/-- perm_ok of R64. -/
def Win.perm (w : Win) (k : Acc) : Bool :=
  match k with
  | .load => w.limit.getLsbD 0
  | .store => w.limit.getLsbD 1
  | .atomic => w.limit.getLsbD 0 && w.limit.getLsbD 1 && w.limit.getLsbD 2

/-- A canonical address as a signed number. -/
def vaInt (va : Nat) : Int := if va < 2 ^ 63 then va else (va : Int) - 2 ^ 64

/-- The window search of R64 over win0 upward. -/
def findWin (ws : List Win) (sel : BitVec 8) (k : Acc) (first size : Nat) (i : Nat) :
    Except (BitVec 8) (Nat × BitVec 12) :=
  match ws with
  | [] => .error cWindowMiss
  | w :: t =>
    if w.valid && sel.getLsbD i && w.lo ≤ vaInt first && vaInt first ≤ w.hi then
      if w.hi < vaInt (first + size - 1) then .error cWindowRange
      else if !w.perm k then .error cWindowPermission
      else .ok (w.offset.toNat + (vaInt first - w.lo).toNat, w.asid)
    else findWin t sel k first size (i + 1)

/-- A lease descriptor covers [ia, ia + size) with the needed access (R66, R68). -/
def Lease.covers (s : State) (d : Lease) (k : Acc) (ia size : Nat) : Bool :=
  let b := iaNorm s d.start.toNat
  let a := iaNorm s ia
  b ≤ a && a + size ≤ b + d.pages * 65536
    && (match k with
        | .load => d.access.getLsbD 0
        | .store => d.access.getLsbD 1
        | .atomic => d.access.getLsbD 0 && d.access.getLsbD 1 && d.access.getLsbD 2)

/-- R25 and R17 for an IA. -/
def pkgCheck (s : State) (ia : Nat) : Except (BitVec 8) Unit :=
  let p := iaPkg ia
  if 192 ≤ p && p ≤ 254 then .error cPackageRange
  else if isHostIA ia && !pkgIsLocal s p then .error cNonLocalHost
  else .ok ()

/-- The issue checks of R449 in their order: canonical form, window, lease, package and host aperture. -/
def formAddr (s : State) (l : Launch) (ws : List Win) (sel : BitVec 8) (k : Acc) (va : Word) (size : Nat) :
    Except (BitVec 8) Formed :=
  if !extentOk va.toNat size then .error cNonCanonical
  else
    match findWin ws sel k va.toNat size 0 with
    | .error e => .error e
    | .ok (ia, asid) =>
      if !l.leases.any (fun d => d.covers s k ia size) then .error cLeaseViolation
      else
        match pkgCheck s ia with
        | .error e => .error e
        | .ok _ => .ok { ia := BitVec.ofNat 52 ia, asid := asid, func := l.func, va := va }

/-- An address `n` bytes further on. -/
def Formed.plus (f : Formed) (n : Nat) : Formed :=
  { f with ia := f.ia + BitVec.ofNat 52 n, va := f.va + BitVec.ofNat 64 n }

/-- The translation home of a page (R70). -/
def homeOf (ia : Nat) (asid : Nat) : Nat :=
  (bits ia 20 16 ^^^ bits ia 25 21 ^^^ bits ia 30 26 ^^^ bits ia 35 31 ^^^ bits ia 40 36 ^^^ bits ia 43 41
    ^^^ bits asid 4 0 ^^^ bits asid 9 5 ^^^ bits asid 11 10) % 32

/-- The home slice's package plot of a line (R175). -/
def sliceOf (ia : Nat) : Nat := bits ia 43 7 % 80

end Sys2Proof.Machine
end

