-- ==== Sys2Proof/Machine/Tier.lean ====
section
/-! DEFINITION. Memory-side translation (R70 to R73), tiers, compressed pages and space (R78 to R91), host memory
(R17). Every reader and writer of memory goes through here. -/

namespace Sys2Proof.Machine

open Sys2Proof

/-! ## Where bytes stand in `State.mem` -/

/-- Physical address `a` of a tier (R78). -/
def physKey (tier a : Nat) : Nat := tier * 2 ^ 48 + a

/-- The decoded contents of the page of a record (R81). -/
def pageKey (tier rec : Nat) : Nat := 2 ^ 60 + (tier * 2 ^ 32 + rec) * 65536

/-- Host memory at a PCIe address (R17). -/
def hostKey (a : Nat) : Nat := 2 ^ 64 * 2 ^ 8 + a

/-! ## Page tables (R71, R72) -/

/-- A root register or level-1 entry: valid, reserved bits zero, table address. -/
def tabValid (w : Nat) : Bool := bit w 0
def tabRsv (w : Nat) : Bool := w / 2 ^ 48 = 0 && bits w 16 1 = 0
def tabAddr (w : Nat) : Nat := bits w 47 17 * 2 ^ 17

/-- Fields of a PTE (R71). -/
def pteValid (w : Nat) : Bool := bit w 0
def ptePerm (w : Nat) : Nat := bits w 2 1
def pteKind (w : Nat) : Nat := bits w 5 3
def pteTier (w : Nat) : Nat := bits w 7 6
def ptePinned (w : Nat) : Bool := bit w 8
def pteAddr (w : Nat) : Nat := bits w 47 16
def pteLease (w : Nat) : Nat := bits w 63 56
def pteRsv (w : Nat) : Bool := bits w 55 48 = 0 && bits w 15 12 = 0 && !bit w 9

/-- The location of a page's PTE, with the words met on the way; `none` where a table is missing. -/
def pteLoc (s : State) (asid : BitVec 12) (ia : Nat) : Option (Nat × Nat × Nat) :=
  let root := (aget s.roots asid.toNat 0).toNat
  if !tabValid root then none
  else
    let l1 := rdLE s.mem (physKey 0 (tabAddr root + bits ia 43 30 * 8)) 8
    if !tabValid l1 then none
    else some (root, l1, physKey 0 (tabAddr l1 + bits ia 29 16 * 8))

/-- The key of a page in the translation caches (R72). -/
def tcKey (asid : BitVec 12) (ia : Nat) : Nat := asid.toNat * 2 ^ 28 + bits ia 43 16

/-- A tier is enabled only with a legal TIERCFG (R79). -/
def tierOn (s : State) (t : Nat) : Bool :=
  let c := (tierOf s t).cfg.toNat
  16 ≤ bits c 55 48 && bits c 55 48 ≤ 32 && 16 ≤ bits c 47 32 && bits c 47 32 < bits c 31 0

/-- PERM covers the access (R71, R72). -/
def permOk (w : Nat) (k : Acc) : Bool :=
  match k with
  | .load => 1 ≤ ptePerm w
  | .store => 2 ≤ ptePerm w
  | .atomic => ptePerm w = 3

/-- The translation home of a cached entry (R70). -/
def keyHome (key : Nat) : Nat := homeOf (key % 2 ^ 28 * 65536) (key / 2 ^ 28)

/-- Put an entry into its home's translation cache of 8,192 entries; from a full one another entry leaves (R72, log 62). -/
def cachePte (m : AMap (List Word)) (key : Nat) (e : List Word) : AMap (List Word) :=
  let own := m.filter (fun p => keyHome p.1 = keyHome key)
  if (afind m key).isNone && 8192 ≤ own.length then aput (adel m ((own.map (·.1)).headD 0)) key e else aput m key e

/-- The PTE an access is translated under, from the home's cache or by a walk that fills it (R72). -/
def translate (s : State) (asid : BitVec 12) (ia : Nat) (k : Acc) (asid0 : Bool) : State × Except (BitVec 8) Nat :=
  let key := tcKey asid ia
  let look : Option (Nat × Nat × Nat) := match afind s.tcache key with
    | some [a, b, c] => some (a.toNat, b.toNat, c.toNat)
    | _ => (pteLoc s asid ia).map (fun (r, l, p) => (r, l, rdLE s.mem p 8))
  match look with
  | none => (s, .error cTranslationInvalid)
  | some (r, l, w) =>
    if !pteValid w then (s, .error cTranslationInvalid)
    else
      let s1 := { s with tcache := cachePte s.tcache key [BitVec.ofNat 64 r, BitVec.ofNat 64 l, BitVec.ofNat 64 w] }
      if !(tabRsv r && tabRsv l && pteRsv w) || pteTier w = 3 || 5 ≤ pteKind w || !tierOn s (pteTier w) then
        (s1, .error cIllegal)
      else if !permOk w k || (asid = 0 && !asid0) then (s1, .error cPagePermission)
      else (s1, .ok w)

/-- Set ACCESSED, and DIRTY for a write, in the PTE and its cached copy (R71). -/
def touchPte (s : State) (asid : BitVec 12) (ia : Nat) (wr : Bool) : State :=
  match pteLoc s asid ia with
  | none => s
  | some (r, l, p) =>
    let w := rdLE s.mem p 8
    let w' := w ||| 2 ^ 10 ||| (if wr then 2 ^ 11 else 0)
    if w' = w then s
    else
      let key := tcKey asid ia
      let tc := match afind s.tcache key with
        | some [_, _, c] => aput s.tcache key [BitVec.ofNat 64 r, BitVec.ofNat 64 l, c ||| BitVec.ofNat 64 (w' ^^^ w)]
        | _ => s.tcache
      { s with mem := wrLE s.mem p 8 w', tcache := tc }

/-! ## Compressed pages (R81 to R86) -/

/-- Sectors of a size code (R82). -/
def codeSectors (c : Nat) : Nat := if c = 9 then 1 else c

/-- The size code of a block (R82, R83). -/
def blockCode (kind fmt : Nat) (b : List Byte) : Nat :=
  if b.all (· = 0) then 0
  else if b = (List.replicate 32 (b.take 8)).flatten then 9
  else if kind = 1 then 8
  else 1 + Config.sizeCode kind fmt b % 8

/-- S(256) of R82. -/
def sectorSum (codes : List Nat) : Nat := (codes.map codeSectors).sum

/-- An unused entry of CPTR (R81). -/
def noChunk : Nat := 0xFFFFFFFF

/-- A record as its 256 bytes (R81). -/
def PageRec.bytes (r : PageRec) : List Byte :=
  (List.range 128).map (fun i => BitVec.ofNat 8 (r.codes.getD (2 * i) 0 % 16 + r.codes.getD (2 * i + 1) 0 % 16 * 16))
    ++ bytesLE 1 r.ktag.toNat ++ bytesLE 1 r.chunks.length ++ [r.fmt] ++ bytesLE 1 r.expp.toNat ++ bytesLE 2 r.sectors
    ++ [r.age] ++ List.replicate 57 0
    ++ (List.range 16).flatMap (fun i => bytesLE 4 (r.chunks.getD i noChunk))

/-- Entry `i` of CPTR (R81). -/
def cptr (b : List Byte) (i : Nat) : Nat := lnat b (192 + 4 * i) 4

/-- The fields of a record's bytes (R81). -/
def recDecode (b : List Byte) : PageRec :=
  { ktag := BitVec.ofNat 3 (lnat b 128 1), fmt := b.getD 130 0, expp := BitVec.ofNat 2 (lnat b 131 1)
    codes := (List.range 256).map (fun i => bits (lnat b (i / 2) 1) (i % 2 * 4 + 3) (i % 2 * 4))
    chunks := (List.range (min 16 (lnat b 129 1))).map (cptr b), sectors := lnat b 132 2, age := b.getD 134 0 }

/-- The reserved fields of a record are 0 (R81). -/
def recRsv (b : List Byte) : Bool :=
  lnat b 128 1 < 8 && zeroes b 135 57
    && (if lnat b 128 1 = 4 then lnat b 131 1 < 4 else lnat b 130 1 = 0 && lnat b 131 1 = 0)

/-- A record's bytes are well-formed (R82); `n` bounds the tier's chunk indices. -/
def recWellFormed (n : Nat) (b : List Byte) : Bool :=
  let r := recDecode b
  r.codes.all (· ≤ 9) && r.sectors = sectorSum r.codes && lnat b 129 1 ≤ 16 && cdiv r.sectors 128 ≤ lnat b 129 1
    && r.chunks.all (· < n) && (List.range 16).all (fun i => i < lnat b 129 1 || cptr b i = noChunk) && recRsv b

/-- Where the record of an index stands (R71, R81). -/
def recKey (s : State) (tier i : Nat) : Nat := physKey tier ((tierOf s tier).prbase + i * 256)

/-- The bytes of a record. -/
def recBytes (s : State) (tier i : Nat) : List Byte := rdBytes s.mem (recKey s tier i) 256

def recOf (s : State) (tier i : Nat) : PageRec := recDecode (recBytes s tier i)

def setRec (s : State) (tier i : Nat) (r : PageRec) : State := { s with mem := wrBytes s.mem (recKey s tier i) r.bytes }

/-- Chunk indices of a tier (R78, R32): those of its physical capacity, or of the ranges declared for the cold tier. -/
def chunkBound (s : State) (tier : Nat) : Nat :=
  match tier with
  | 0 => 125000000
  | 1 => 375000000
  | _ => (s.boot.sets.map (fun x => x.1 + x.2.1)).foldl max 0

/-- The checks of a page record in the order of R82 and R95. -/
def recCheck (s : State) (w : Nat) : Except (BitVec 8) Unit :=
  if pteKind w = 0 then .ok ()
  else if (tierOf s (pteTier w)).area ≤ pteAddr w then .error cRecordCorrupt
  else
    let b := recBytes s (pteTier w) (pteAddr w)
    if bits (lnat b 128 1) 2 0 ≠ pteKind w then .error cKindMismatch
    else if !recWellFormed (chunkBound s (pteTier w)) b then .error cRecordCorrupt
    else .ok ()

/-- Where byte `off` of the page of a PTE stands in `State.mem`. -/
def pageByte (w off : Nat) : Nat :=
  if pteKind w = 0 then physKey (pteTier w) (pteAddr w * 65536 + off) else pageKey (pteTier w) (pteAddr w) + off

/-- The ports that serve chunk `c` of the cold tier are up (R32). -/
def chunkUp (s : State) (c : Nat) : Bool :=
  s.boot.sets.all (fun (lo, n, ports) => !(lo ≤ c && c < lo + n) || ports.all (fun p => s.boot.cxl.getLsbD p))

/-- The chunks of a page of the cold tier are reachable (R32). -/
def pageUp (s : State) (w : Nat) : Bool :=
  pteTier w ≠ 2 ||
    (if pteKind w = 0 then chunkUp s ((pteAddr w * 65536 - (tierOf s 2).chbase) / 4096)
     else (recOf s 2 (pteAddr w)).chunks.all (chunkUp s))

/-- TIERST of a tier (R79). -/
def tierst (s : State) (tier : Nat) : Word :=
  let t := tierOf s tier
  BitVec.ofNat 64 (t.free.length <<< 32 ||| min t.held.length 0xFFFF <<< 16 ||| t.exh.toNat)

/-- RESERVE and LOW of a tier (R79). -/
def tierReserve (t : Tier) : Nat := bits t.cfg.toNat 47 32
def tierLow (t : Tier) : Nat := bits t.cfg.toNat 31 0

/-- Insert a chunk in the ascending free pool. -/
def chunkInsert (c : Nat) : List Nat → List Nat
  | [] => [c]
  | x :: t => if c < x then c :: x :: t else if c = x then x :: t else x :: chunkInsert c t

/-- Return chunks to the pool; an exhausted tier is so no longer once FREE ≥ LOW (R91). -/
def giveChunks (s : State) (tn : Nat) (cs : List Nat) : State :=
  modTier s tn (fun t =>
    let f := cs.foldl (fun l c => chunkInsert c l) t.free
    { t with free := f, exhausted := t.exhausted && f.length < tierLow t })

/-- A write takes its place among those held, unless it holds one; its k is then the present one (R87). -/
def noteHeld (s : State) (tn : Nat) (w : HeldWrite) : State :=
  let put (l : List HeldWrite) : List HeldWrite :=
    if l.any (fun x => x.who = w.who) then l.map (fun x => if x.who = w.who then { x with k := w.k } else x) else l ++ [w]
  modTier s tn (fun t => { t with held := put t.held })

/-- A write is held no longer. -/
def dropHeld (s : State) (tn : Nat) (who : HeldBy) : State :=
  if (tierOf s tn).held.any (fun x => x.who = who) then
    modTier s tn (fun t => { t with held := t.held.filter (fun x => x.who ≠ who) })
  else s

/-- A write that waits in another place may take chunks: no other write stands before it (R86). -/
def poolTurn (t : Tier) (who : HeldBy) : Bool :=
  match t.held with
  | [] => true
  | x :: _ => x.who = who

/-- EXH counts a write that ends in "capacity exhausted" (R79, R91); the tier stands in the low bits of the detail. -/
def countExh (s : State) (c : BitVec 8) (detail : Nat) : State :=
  if c = cCapacity then modTier s (detail % 4) (fun t => { t with exh := if t.exh = 0xFFFF then t.exh else t.exh + 1 }) else s

/-- What a write does to its page (R85 to R87, R91). -/
inductive WriteRes where
  | done (s : State)
  | fault (s : State) (code : BitVec 8) (detail : Nat)
  | held (tier k : Nat)

/-- Codes of the blocks that bytes [off, off + n) of a page touch, read from memory. -/
def recode (s : State) (w : Nat) (r : PageRec) (off n : Nat) : List Nat :=
  let lo := off / 256
  let cnt := (off + n - 1) / 256 + 1 - lo
  (List.range cnt).foldl
    (fun cs j => lmod cs (lo + j)
      (fun _ => blockCode (pteKind w) r.fmt.toNat (rdBytes s.mem (pageByte w ((lo + j) * 256)) 256))) r.codes

/-- Write bytes into one page under its PTE: the merged blocks are re-encoded and committed together; growth takes
the lowest free chunks, or the write is out of space (R85 to R87, R91). -/
def pageWrite (s : State) (who : HeldBy) (w off : Nat) (bs : List Byte) : WriteRes :=
  let a := pageByte w off
  let s1 := { s with mem := wrBytes s.mem a bs
                     badMem := s.badMem.filter (fun x => !(a ≤ x * 128 && x * 128 + 128 ≤ a + bs.length)) }
  if pteKind w = 0 || bs.isEmpty then .done s1
  else
    let tn := pteTier w
    let r := recOf s tn (pteAddr w)
    let codes := recode s1 w r off bs.length
    let sectors := sectorSum codes
    let k := cdiv sectors 128 - r.chunks.length
    let t := tierOf s tn
    if k = 0 then .done (setRec s1 tn (pteAddr w) { r with codes := codes, sectors := sectors })
    else if t.exhausted then .fault s cCapacity (tn + 4 * k)
    else if t.free.length < k + tierReserve t || !poolTurn t who then .held tn k
    else
      let s2 := modTier s1 tn (fun t => { t with free := t.free.drop k })
      .done (setRec s2 tn (pteAddr w) { r with codes := codes, sectors := sectors, chunks := r.chunks ++ t.free.take k })

/-! ## Whole accesses by one IA extent -/

/-- Pieces of an extent by page: first byte and length (R70). -/
def pagesGo : Nat → Nat → Nat → List (Nat × Nat)
  | 0, _, _ => []
  | fuel + 1, ia, n =>
    if n = 0 then []
    else
      let m := min n (65536 - ia % 65536)
      (ia, m) :: pagesGo fuel (ia + m) (n - m)

def pagesOf (ia n : Nat) : List (Nat × Nat) := pagesGo (n / 65536 + 2) ia n

/-- Outcome of an access: an answer, a late fault, or no answer yet (held for space, the link down, another
package). -/
inductive MRes (α : Type) where
  | ok (s : State) (v : α)
  | fault (s : State) (code : BitVec 8) (detail : Nat)
  | held (s : State) (tier k : Nat)
  | stall (s : State)

/-- Translate and check every page of an extent before any part is performed (R70, R72, R82, R95, R32). -/
def transAll (s : State) (asid : BitVec 12) (asid0 : Bool) (k : Acc) :
    List (Nat × Nat) → State × Except (BitVec 8) (List Nat)
  | [] => (s, .ok [])
  | (ia, _) :: t =>
    match translate s asid ia k asid0 with
    | (s1, .error e) => (s1, .error e)
    | (s1, .ok w) =>
      match transAll s1 asid asid0 k t with
      | (s2, .error e) => (s2, .error e)
      | (s2, .ok ws) => (s2, .ok (w :: ws))

/-- Record and port checks of every page. -/
def checkAll (s : State) : List Nat → Except (BitVec 8) Unit
  | [] => .ok ()
  | w :: t =>
    match recCheck s w with
    | .error e => .error e
    | .ok _ => if !pageUp s w then .error cTierUnreachable else checkAll s t

/-- Bytes of translated pages. -/
def readPages (s : State) : List ((Nat × Nat) × Nat) → List Byte
  | [] => []
  | ((ia, n), w) :: t => rdBytes s.mem (pageByte w (ia % 65536)) n ++ readPages s t

/-- A line of the extent has an uncorrectable word (R98, R133). -/
def memBad (s : State) (ps : List ((Nat × Nat) × Nat)) : Bool :=
  ps.any (fun ((ia, n), w) => let a := pageByte w (ia % 65536); s.badMem.any (fun x => a / 128 ≤ x && x ≤ (a + (n - 1)) / 128))

/-- Write bytes over translated pages; the first page that is out of space holds the whole write. -/
def writePages (s0 : State) (who : HeldBy) (s : State) : List ((Nat × Nat) × Nat) → List Byte → WriteRes
  | [], _ => .done s
  | ((ia, n), w) :: t, bs =>
    match pageWrite s who w (ia % 65536) (bs.take n) with
    | .done s1 => writePages s0 who s1 t (bs.drop n)
    | .fault _ c d => .fault s0 c d
    | .held a b => .held a b

/-- Set ACCESSED and DIRTY on every page. -/
def touchAll (s : State) (asid : BitVec 12) (wr : Bool) (ps : List (Nat × Nat)) : State :=
  ps.foldl (fun s p => touchPte s asid p.1 wr) s

/-- A write is held on none of the tiers of its pages. -/
def dropAll (s : State) (ws : List Nat) (who : HeldBy) : State := ws.foldl (fun s w => dropHeld s (pteTier w) who) s

/-- Of a state in which something was found to have to wait, keep only what waits: the writes held for space and the accesses
on their way to other packages (R29, R87). -/
def keepWaits (s w : State) : State :=
  { s with tiers := s.tiers.map (fun p => (p.1, { p.2 with held := (tierOf w p.1).held }))
           far := s.far ++ w.far.filter (fun x => s.nextId ≤ x.id), nextId := w.nextId }

/-- Requests and recodes that are no more are held no longer. -/
def pruneHeld (s : State) : State :=
  { s with tiers := s.tiers.map (fun p => (p.1, { p.2 with held := p.2.held.filter (fun x => match x.who with
      | .req i => s.reqs.any (fun r => r.id = i)
      | .recode i => s.recodes.any (fun r => r.id = i)
      | .dev _ _ => true) })) }

/-- A write of an engine or of the headland under this ASID. -/
def devOf (asid : BitVec 12) (w : HeldBy) : Bool :=
  match w with
  | .dev a _ => a = asid
  | _ => false

/-- Writes of a withdrawn engine command or packet of an ASID are held no longer. -/
def forgetHeld (s : State) (asid : BitVec 12) : State :=
  { s with tiers := s.tiers.map (fun p => (p.1, { p.2 with
      held := p.2.held.filter (fun x => !devOf asid x.who), ended := p.2.ended.filter (fun x => !devOf asid x.1) })) }

/-- The accesses of a unit that has withdrawn are no longer awaited. -/
def forgetFar (s : State) (asker : Nat) : State := { s with far := s.far.filter (fun x => x.asker ≠ asker) }

/-- A unit of the device makes the accesses that follow (R29). -/
def asAsker (s : State) (n : Nat) : State := { s with asker := n }

/-- The PCIe address of a local offset in the host aperture (R17). -/
def hostAddr (s : State) (func ia : Nat) : Nat := ((fnOf s func).hostbase.toNat + (iaLocal ia - hostLo)) % 2 ^ 64

/-! ## Order at the home of a page (R85, R87, R90, R96) -/

/-- The pages of two extents meet. -/
def pageMeet (a na b nb : Nat) : Bool :=
  extMeet (iaLocal a / 65536, (iaLocal a + na - 1) / 65536 - iaLocal a / 65536 + 1)
    (iaLocal b / 65536, (iaLocal b + nb - 1) / 65536 - iaLocal b / 65536 + 1)

/-- A recode holds all requests to a page of the extent (R96, step 2). -/
def recodeHolds (s : State) (asid : BitVec 12) (ia n : Nat) : Bool :=
  s.recodes.any (fun c => c.begun && !c.same && c.asid = asid && pageMeet c.ia.toNat 65536 ia n)

/-- A move holds the writes to a page of the extent (R90). -/
def moveHolds (s : State) (asid : BitVec 12) (ia n : Nat) : Bool :=
  s.moves.any (fun m => m.asid = asid && m.pages.any (fun p => pageMeet p 65536 ia n))

/-- A request that has passed translation stands at the home of a page of the extent (R85). -/
def passedAt (s : State) (asid : BitVec 12) (ia n : Nat) : Bool :=
  s.reqs.any (fun r => r.pte.isSome && !isHostIA r.addr.ia.toNat && r.addr.asid = asid && pageMeet r.addr.ia.toNat r.op.size ia n)

/-- A write, of another than `who` if that is given, is held on a page of the extent (R87). -/
def heldAt (s : State) (who : Option HeldBy) (asid : BitVec 12) (ia n : Nat) : Bool :=
  s.tiers.any (fun t => t.2.held.any (fun x => some x.who ≠ who && x.asid = asid && pageMeet x.ia.toNat x.size ia n))

/-- An access of a unit other than a tile port has to wait at the home: behind what came before it, a recode, or a move. -/
def homeBusy (s : State) (who : HeldBy) (wr : Bool) (asid : BitVec 12) (ia n : Nat) : Bool :=
  recodeHolds s asid ia n || (wr && moveHolds s asid ia n) || heldAt s (some who) asid ia n
    || (passedAt s asid ia n && !s.tiers.any (fun t => t.2.held.any (fun x => x.who = who)))

/-- The key of a line in the near slices and in the tables of releases and of tracking: its ASID and line (R175, R249). -/
def lineKey (asid : BitVec 12) (ia : Nat) : Nat := asid.toNat * 2 ^ 37 + iaLocal ia / 128

/-- The poison of a line of the extent whose write-back met a mismatch (R95). -/
def badLineAt (s : State) (asid : BitVec 12) (ia n : Nat) : Option Poison :=
  (s.badLines.find? (fun p => lineKey asid ia ≤ p.1 && p.1 ≤ lineKey asid (ia + (n - 1)))).map (·.2)

/-! ## Accesses to other packages (R25 to R29) -/

/-- The module is joined to the domain: its number is in force and a plane is up (R25, R28). -/
def joined (s : State) : Bool := s.boot.pkg.isSome && s.boot.planes ≠ 0

/-- The planes that are up. -/
def planesUp (s : State) : List Nat := (List.range 24).filter (fun i => s.boot.planes.getLsbD i)

/-- The plane of an access, by destination package and IA[43:7] (R27). -/
def planeOf (s : State) (ia : Nat) : Option Nat :=
  (planesUp s)[Config.planeHash [iaPkg ia, bits ia 43 7] % (planesUp s).length]?

/-- Two accesses of this package share a plane and a line, and so keep their order (R27, R244). -/
def sharePlane (s : State) (a na b nb : Nat) : Bool :=
  iaPkg a = iaPkg b && planeOf s a = planeOf s b
    && extMeet (iaLocal a / 128, (iaLocal a + na - 1) / 128 - iaLocal a / 128 + 1)
         (iaLocal b / 128, (iaLocal b + nb - 1) / 128 - iaLocal b / 128 + 1)

/-- Bytes an access to another package covers. -/
def FarOp.size : FarOp → Nat
  | .read n => n
  | .write bs => bs.length
  | .atom n => n
  | .recode _ => 1

/-- The access to another package that the asking unit makes: it is sent once, and its answer or fault is taken when that has
come. -/
def farAccess (s : State) (asid : BitVec 12) (ia : Nat) (op : FarOp) : MRes (List Byte) :=
  match s.far.find? (fun x => x.asker = s.asker && x.asid = asid && x.ia = ia && x.op = op) with
  | some x =>
    match x.answer, x.fault with
    | some b, _ => .ok { s with far := s.far.erase x } b
    | none, some c => .fault { s with far := s.far.erase x } c 0
    | none, none => .stall s
  | none =>
    let (i, s1) := newId s
    .stall { s1 with far := s1.far ++ [{ id := i, asker := s.asker, asid := asid, ia := ia, op := op, since := s.time }] }

/-! ## Accesses of units other than tile ports -/

/-- Read an extent at its point of performance: host aperture, this package, or another package. -/
def memRead (s : State) (asid : BitVec 12) (asid0 : Bool) (func ia n : Nat) : MRes (List Byte) :=
  if n = 0 then .ok s []
  else match pkgCheck s ia with
  | .error e => .fault s e 0
  | .ok _ =>
    if isHostIA ia then
      if !s.boot.puverUp then .stall s else .ok s (rdBytes s.mem (hostKey (hostAddr s func ia)) n)
    else if !pkgIsLocal s (iaPkg ia) then farAccess s asid ia (.read n)
    else if homeBusy s (.dev asid ia) false asid ia n then .stall s
    else
      let ps := pagesOf ia n
      match transAll s asid asid0 .load ps with
      | (s1, .error e) => .fault s1 e 0
      | (s1, .ok ws) =>
        match badLineAt s1 asid ia n with
        | some p => .fault s1 p.code 0
        | none =>
          match checkAll s1 ws with
          | .error e => .fault s1 e 0
          | .ok _ =>
            if memBad s1 (ps.zip ws) then .fault s1 cUncorrectable 0
            else let s2 := touchAll s1 asid false ps; .ok s2 (readPages s2 (ps.zip ws))

/-- The k with which an exhaustion has ended this write, if one has (R91). -/
def endedAt (s : State) (ws : List Nat) (who : HeldBy) : Option (Nat × Nat) :=
  (ws.map pteTier).findSome? (fun tn => ((tierOf s tn).ended.find? (fun x => x.1 = who)).map (fun x => (tn, x.2)))

/-- A write of a party (none: a unit without firings) ends what other parties' releases had left in the units it covers (R234). -/
def staleRel (s : State) (pnum : Option Nat) (asid : BitVec 12) (ia n : Nat) : State :=
  { s with lineRel := s.lineRel.map (fun p => (p.1,
      if lineKey asid ia ≤ p.1 && p.1 ≤ lineKey asid (ia + (n - 1)) then
        let base := (p.1 - lineKey asid ia) * 128
        { p.2 with units := p.2.units.filter (fun u => some u.2.1 = pnum || !extMeet (base + u.1 * 8, 8) (ia % 128, n)) }
      else p.2)) }

/-- Write translated pages for a unit other than a tile port; an exhaustion that has ended the write is met now (R87, R91). -/
def devWrite (s : State) (asid : BitVec 12) (ia : Nat) (ps : List (Nat × Nat)) (ws : List Nat) (bs : List Byte) : MRes Unit :=
  let who := HeldBy.dev asid ia
  match endedAt s ws who with
  | some (tn, k) =>
    .fault (modTier s tn (fun t => { t with ended := t.ended.filter (fun x => x.1 ≠ who) })) cCapacity (tn + 4 * k)
  | none =>
    match writePages s who s (ps.zip ws) bs with
    | .done s2 => .ok (staleRel (dropAll (touchAll s2 asid true ps) ws who) none asid ia bs.length) ()
    | .fault _ c d => .fault (countExh (dropAll s ws who) c d) c d
    | .held t k =>
      .held (noteHeld s t { who := who, since := s.time, asid := asid, ia := BitVec.ofNat 52 ia, size := bs.length, k := k }) t k

/-- Write an extent at its point of performance. -/
def memWrite (s : State) (asid : BitVec 12) (asid0 : Bool) (func ia : Nat) (bs : List Byte) : MRes Unit :=
  if bs.isEmpty then .ok s ()
  else match pkgCheck s ia with
  | .error e => .fault s e 0
  | .ok _ =>
    if isHostIA ia then
      if !s.boot.puverUp then .stall s
      else .ok { s with mem := wrBytes s.mem (hostKey (hostAddr s func ia)) bs } ()
    else if !pkgIsLocal s (iaPkg ia) then
      match farAccess s asid ia (.write bs) with
      | .ok s1 _ => .ok s1 ()
      | .fault s1 c d => .fault s1 c d
      | .held s1 t k => .held s1 t k
      | .stall s1 => .stall s1
    else if homeBusy s (.dev asid ia) true asid ia bs.length then .stall s
    else
      let ps := pagesOf ia bs.length
      match transAll s asid asid0 .store ps with
      | (s1, .error e) => .fault s1 e 0
      | (s1, .ok ws) =>
        match checkAll s1 ws with
        | .error e => .fault s1 e 0
        | .ok _ => devWrite s1 asid ia ps ws bs

/-- Read, modify and write n bytes as one step: the old number comes back, `f` gives the new one if there is one
(R114, R240). Host memory needs a root complex that completes AtomicOps, and an operation done by a compare-and-swap loop
(`loop`) one in which the loop succeeds (R19). -/
def memAtomic (s : State) (loop : Bool) (asid : BitVec 12) (asid0 : Bool) (func ia n : Nat) (f : Nat → Option Nat) : MRes Nat :=
  match pkgCheck s ia with
  | .error e => .fault s e 0
  | .ok _ =>
    if isHostIA ia then
      if !s.boot.puverUp then .stall s
      else if !s.boot.hostAtomics then .fault s cHostUnsupported 0
      else if loop && s.hostBusy then .fault s cHostContention 0
      else
        let a := hostKey (hostAddr s func ia)
        let old := rdLE s.mem a n
        match f old with
        | none => .ok s old
        | some v => .ok { s with mem := wrLE s.mem a n v } old
    else if !pkgIsLocal s (iaPkg ia) then
      match farAccess s asid ia (.atom n) with
      | .ok s1 b => .ok s1 (leNat (b.take n))
      | .fault s1 c d => .fault s1 c d
      | .held s1 t k => .held s1 t k
      | .stall s1 => .stall s1
    else if homeBusy s (.dev asid ia) true asid ia n then .stall s
    else
      let ps := pagesOf ia n
      match transAll s asid asid0 .atomic ps with
      | (s1, .error e) => .fault s1 e 0
      | (s1, .ok ws) =>
        match badLineAt s1 asid ia n with
        | some p => .fault s1 p.code 0
        | none =>
          match checkAll s1 ws with
          | .error e => .fault s1 e 0
          | .ok _ =>
            let old := leNat (readPages s1 (ps.zip ws))
            if memBad s1 (ps.zip ws) then .fault s1 cUncorrectable 0
            else match f old with
            | none => .ok (touchAll s1 asid false ps) old
            | some v =>
              match devWrite s1 asid ia ps ws (bytesLE n v) with
              | .ok s2 _ => .ok s2 old
              | .fault s2 c d => .fault s2 c d
              | .held s2 t k => .held s2 t k
              | .stall s2 => .stall s2

/-! ## Lines of the near slices -/

/-- The lines of an extent leave every slice: their near copies, and at their homes the records of releases (R95, R96, R236,
R392). -/
def dropNear (s : State) (asid : BitVec 12) (ia n : Nat) : State :=
  let lo := lineKey asid ia
  let hi := lineKey asid (ia + (n - 1))
  { s with near := s.near.map (fun (p, ls) => (p, ls.filter (fun l => !(lo ≤ l.key && l.key ≤ hi))))
           lineRel := s.lineRel.map (fun p => (p.1, if lo ≤ p.1 && p.1 ≤ hi then { p.2 with last := none } else p.2)) }

end Sys2Proof.Machine
end

