-- ==== Sys2Proof/Machine/Ops.lean ====
section
/-! DEFINITION. The named operations that meanings share: links and the end of a launch, log rings (R76, R77, R297,
R298), sending, releasing and acquiring (R165, R234 to R236), determinism tracking (R248 to R250), and taking an
exception: a firing or codelet that faults sends its poison on (R192, R290, R292). -/

namespace Sys2Proof.Machine

open Sys2Proof

/-- An agent outside the module has read this. -/
def gotOut (s : State) (g : Got) : State := { s with got := s.got ++ [g] }

/-! ## Command links (R135, R136) -/

/-- The numbers of an answer, and its code (R135). -/
def PlotAns.nums : PlotAns → Nat × List Nat
  | .placed => (0x81, [])
  | .rejected r c t n => (0x81, [r, c, t, n])
  | .accessFault n => (0x81, [n])
  | .saved => (0x83, [0])
  | .restored => (0x83, [1])
  | .lost => (0x83, [2])
  | .freed => (0x86, [])

/-- Code, launch handle and the numbers that a message carries (R135). -/
def Msg.nums : Msg → Nat × Nat × List Nat
  | .place h => (0x01, h, [])
  | .go h => (0x02, h, [])
  | .save h => (0x03, h, [])
  | .restore h => (0x04, h, [])
  | .kill h => (0x05, h, [])
  | .freeTiles h => (0x06, h, [])
  | .answer h a => (a.nums.1, h, a.nums.2)
  | .fault h p => (0x82, h, [p.aux.toNat, leNat p.tail])
  | .estimate h v => (0x84, h, [v.toNat])
  | .sinks h cs => (0x85, h, cs.flatMap (fun x => [x.1, x.2]))

/-- A message as its 64 bytes (R135). -/
def Sent.bytes (x : Sent) : List Byte :=
  let (code, h, ns) := x.msg.nums
  bytesLE 1 code ++ [x.seq] ++ bytesLE 2 (h % 65536) ++ padTo (Config.msgBody (code :: ns)) 60

/-- Send a command to a plot; without a permit it waits. -/
def sendCmd (s : State) (p : Nat) (m : Msg) : State :=
  modLink s p (fun k =>
    if k.cmdPermits = 0 || !k.cmdWait.isEmpty then { k with cmdWait := k.cmdWait ++ [m] }
    else { k with cmdPermits := k.cmdPermits - 1, cmds := k.cmds ++ [{ seq := k.cmdSeq, msg := m }], cmdSeq := k.cmdSeq + 1,
                  stuckSince := if k.cmds.isEmpty then s.time else k.stuckSince })

/-- Send an event to the headland; without a permit it waits. -/
def sendEv (s : State) (p : Nat) (m : Msg) : State :=
  modLink s p (fun k =>
    if k.evPermits = 0 || !k.evWait.isEmpty then { k with evWait := k.evWait ++ [m] }
    else { k with evPermits := k.evPermits - 1, events := k.events ++ [{ seq := k.evSeq, msg := m }], evSeq := k.evSeq + 1 })

/-- The plots of a launch. -/
def plotsOf (l : Launch) : List Nat := (l.tileset.map plotOf).eraseDups

/-- Send one message to every plot of a launch. -/
def cmdAll (s : State) (l : Launch) (m : Msg) : State := (plotsOf l).foldl (fun s p => sendCmd s p m) s

/-! ## Log rings (R76, R77, R297, R298) -/

/-- What comes of something that may have to wait: it was performed, or it waits and this is what waits. -/
inductive Tried where
  | done (s : State)
  | wait (w : State)

/-- What was done, or the state as it was with what now waits. -/
def Tried.orWait (s : State) : Tried → State
  | .done s1 => s1
  | .wait w => keepWaits s w

/-- An access whose fault leaves the field unwritten without further effect, and what follows it. -/
def MRes.thenTry (r : MRes α) (f : State → α → Tried) : Tried :=
  match r with
  | .ok s v => f s v
  | .fault s _ _ => .done s
  | .held w _ _ => .wait w
  | .stall w => .wait w

/-- The askers of R29 that are no engine command: a codelet slot, the headland for a launch, a log ring, an edge unit, a function's
BAR2, a packet. -/
def askSlot (t k : Nat) : Nat := 2 ^ 79 + t * 4 + k
def askLaunch (h : Nat) : Nat := 2 ^ 80 + h
def askRing (h : Nat) : Nat := 2 ^ 81 + h
def askEdge (u : Nat) : Nat := 2 ^ 82 + u
def askBar2 (f : Nat) : Nat := 2 ^ 83 + f
def askQueue (q idx : Nat) : Nat := 2 ^ 84 * (q + 1) + idx

/-- Append one record to a ring. A fault on the read of its header drops the record (log 63). -/
def ringAppend (s0 : State) (l : Launch) (ring : Nat) (bs : List Byte) : Tried :=
  let s := asAsker s0 (askRing l.handle)
  let z := l.asid = 0
  (memRead s l.asid z l.func ring 24).thenTry (fun s1 h =>
    let head := lnat h 0 8
    let tail := lnat h 8 8
    let size := lnat h 16 4
    let ovf := lnat h 20 4
    let legal := size ≠ 0 && size ≤ 65536 && 2 ^ Nat.log2 size = size
    if legal && (head + 2 ^ 64 - tail) % 2 ^ 64 < size then
      (memWrite s1 l.asid z l.func (ring + 64 + head % size * bs.length) bs).thenTry (fun s2 _ =>
        (memWrite s2 l.asid z l.func ring (bytesLE 8 (head + 1))).thenTry (fun s3 _ => .done s3))
    else (memWrite s1 l.asid z l.func (ring + 20) (bytesLE 4 (min (ovf + 1) 0xFFFFFFFF))).thenTry (fun s2 _ => .done s2))

/-- Append what waits for a launch's rings, in order, as far as it can be performed. -/
def flushLogs (s : State) (h : Nat) : List (Bool × List Byte) → State
  | [] => modLaunch s h (fun l => { l with logWait := [] })
  | (f, bs) :: t =>
    let l := launchOf s h
    match ringAppend s l (if f then l.flog else l.dlog).toNat bs with
    | .done s1 => flushLogs s1 h t
    | .wait w => modLaunch (keepWaits s w) h (fun l => { l with logWait := (f, bs) :: t })

/-- Append a record to the fault log (`f`) or dirty log of a launch; nothing when it names none. -/
def appendLog (s : State) (h : Nat) (f : Bool) (bs : List Byte) : State :=
  let l := launchOf s h
  if (if f then l.flog else l.dlog) = 0 then s else flushLogs s h (l.logWait ++ [(f, bs)])

/-- A fault record (R298). -/
def faultRecord (ty : Nat) (code : BitVec 8) (node tile ctx : Nat) (aux : Word) (body hdr : List Byte) : List Byte :=
  bytesLE 1 ty ++ [code] ++ bytesLE 2 node ++ bytesLE 2 tile ++ bytesLE 1 ctx ++ [0] ++ bytesLE 8 aux.toNat
    ++ padTo body 32 ++ padTo hdr 16

/-- Record a poison in a launch's fault log (R293, R296, R298). -/
def logPoison (s : State) (h ty : Nat) (p : Poison) (node tile : Nat) (ctx : BitVec 3) (hdr : List Byte) : State :=
  appendLog s h true (faultRecord ty p.code node tile ctx.toNat p.aux p.tail hdr)

/-! ## The end of a launch (R68, R149, R387) -/

/-- The members of a launch are lost: their groups are broken and the sequence number advances (R314, R315). -/
def loseMembers (s : State) (h : Nat) : State :=
  { s with groups := s.groups.map (fun g =>
      if g.owner.any (fun p => p.2 = h) && !g.broken then { g with broken := true, seq := g.seq + 1 } else g) }

/-- End a launch with a status: its tiles receive KILL, its collective groups are broken (R304, R314). -/
def askEnd (s : State) (h status : Nat) : State :=
  let l := launchOf s h
  if l.status.isSome || l.phase = .done then s
  else
    let s1 := setLaunch s h { l with status := some status, phase := .killing, answers := [] }
    cmdAll (loseMembers s1 h) l (.kill h)

/-! ## Sending, release and acquire -/

/-- A release at this scope covers the point of the address (R234). -/
def covers (s : State) (sc : Scope) (a : Formed) : Bool :=
  if isHostIA a.ia.toNat then sc = .sys
  else if pkgIsLocal s (iaPkg a.ia.toNat) then true
  else sc = .dom || sc = .sys

/-- A request is not yet where a release at this scope needs it (R235): at this package it must have passed the near slice, and
from `.die` on be performed; elsewhere only a scope that covers it waits (R244, R245). -/
def stands (s : State) (sc : Scope) (r : Req) : Bool :=
  covers s sc r.addr
    && (isHostIA r.addr.ia.toNat || !pkgIsLocal s (iaPkg r.addr.ia.toNat) || r.pte.isNone || (sc ≠ .tile && sc ≠ .plot))

/-- As `stands`, by number. -/
def standsBefore (s : State) (sc : Scope) (id : Nat) : Bool := s.reqs.any (fun r => r.id = id && stands s sc r)

/-- The request is an access that a party with this clock made or has acquired (R234). -/
def knows (c : Clock) (r : Req) : Bool := 1 ≤ aget r.clock r.pnum 0 && aget r.clock r.pnum 0 ≤ aget c r.pnum 0

/-- What a release with this clock still waits for beside the releaser's own accesses: those it had acquired (R234, R235). -/
def knownBefore (s : State) (sc : Scope) (c : Clock) : List Nat :=
  if sc = .tile then [] else (s.reqs.filter (fun r => knows c r && stands s sc r)).map (·.id)

/-- A release at this scope by a party with these accesses and this clock has to wait. -/
def relWaits (s : State) (own : List Nat) (c : Clock) (sc : Scope) : Bool :=
  own.any (standsBefore s sc) || !(knownBefore s sc c).isEmpty

/-- Put a token into the network (R159); it can be received once what its release covers is where it has to be (R165, R235). -/
def inject (s : State) (f : Flight) : State :=
  { s with net := s.net ++ [{ f with since := s.time, after := f.after ++ knownBefore s f.tok.rel.scope f.tok.rel.clock }] }

/-- A channel entry of a tile. -/
def chanOf (tl : Tile) (c : BitVec 5) : BitVec 128 := tl.chan.getD c.toNat 0

/-- RSCOPE of a channel entry (R163). -/
def chanScope (e : BitVec 128) : Scope := (Scope.ofCode (e.extractLsb' 64 3).toNat).getD .sys

/-- RSCOPE of a system channel, as firmware set its entry (R134, R162). -/
def sysScope (s : State) (c : Nat) : Scope := chanScope (s.boot.chans.getD c 0)

/-- The scope at which tokens of a channel are released and acquired at a tile (R165). -/
def tokScope (tl : Tile) (c : BitVec 5) : Scope := chanScope (chanOf tl c)

/-- Discard the near copies of a plot (R235). -/
def discardNear (s : State) (plot : Nat) : State := { s with near := adel s.near plot }

/-- What an acquire does at a tile's near slice (R235). -/
def acquireAt (s : State) (t : Nat) (sc : Scope) : State :=
  match sc with
  | .tile => s
  | .plot => s
  | _ => discardNear s (plotOf t)

/-! ## Determinism tracking (R248 to R250, R385) -/

/-- An access as it is tracked. -/
structure TrackAcc where
  by_ : TrackBy
  clock : Clock
  write : Bool
  atom : Option AtomOp

/-- Atomics of one operation that commute when both discard their result (R248). -/
def commuting (a : Option AtomOp) (b : Option AtomOp) : Bool :=
  a = b && (match a with
    | some .add => true | some .min => true | some .max => true | some .and => true | some .or => true
    | some .xor => true | _ => false)

/-- The earlier access is of the same party or ordered before the later one (R234). -/
def orderedBefore (e : TrackBy) (a : TrackAcc) : Bool := e.pnum = a.by_.pnum || e.pos ≤ aget a.clock e.pnum 0

/-- What tracking finds for one unit: the new unit, or the other party of a conflict (R249). -/
inductive TrackRes where
  | ok (u : TrackUnit)
  | conflict (e : TrackBy)

def trackUnit (u : TrackUnit) (a : TrackAcc) : TrackRes :=
  let clashW : Option TrackBy := match u.write with
    | some e => if orderedBefore e a || (a.write && commuting u.atom a.atom) then none else some e
    | none => none
  match clashW with
  | some e => .conflict e
  | none =>
    if a.write then
      match u.reads.find? (fun e => !orderedBefore e a) with
      | some e => .conflict e
      | none => .ok { write := some a.by_, atom := a.atom, reads := [] }
    else
      .ok { u with reads := u.reads.filter (fun e => e.pnum ≠ a.by_.pnum) ++ [a.by_] }

/-- The reads kept in a line entry: one place for each party and unit (R249). -/
def lineReads (us : List TrackUnit) : Nat := (us.map (fun u => u.reads.length)).sum

/-- Track an access to one unit of a line entry, which keeps up to 16 reads (R249, R250). -/
def trackLine (us : List TrackUnit) (a : TrackAcc) (i : Nat) : Except (BitVec 8 × Option TrackBy) (List TrackUnit) :=
  match trackUnit (us.getD i {}) a with
  | .ok u =>
    let us1 := lmod us i (fun _ => u)
    if 16 < lineReads us1 then .error (cTracking, none) else .ok us1
  | .conflict e => .error (cConflict, some e)

/-- Track an access to `n` units from the one that holds byte `a0`, in a table of line entries in which `full` says
that a line finds no free entry (R249, R250). -/
def trackBytes (full : AMap (List TrackUnit) → Nat → Bool) (m : AMap (List TrackUnit)) (acc : TrackAcc) (a0 : Nat) :
    Nat → Except (BitVec 8 × Option TrackBy) (AMap (List TrackUnit))
  | 0 => .ok m
  | n + 1 =>
    let line := a0 / 128
    if (afind m line).isNone && full m line then .error (cTracking, none)
    else
      match trackLine (aget m line (List.replicate 16 {})) acc (a0 / 8 % 16) with
      | .error e => .error e
      | .ok us => trackBytes full (aput m line us) acc (a0 / 8 * 8 + 8) n

/-- A tile has 4,096 entries (R250). -/
def tileFull (m : AMap (List TrackUnit)) (_ : Nat) : Bool := 4096 ≤ m.length

/-- The number of 8-byte units that bytes [a, a + n) touch. -/
def unitsOf (a n : Nat) : Nat := if n = 0 then 0 else (a + n - 1) / 8 - a / 8 + 1

/-- The line of the tracked registers of a tile (R385, R400, R448): STAT is at this line, vector register `v` 1 + `v` lines on,
slab `n` 513 + `n`, shape record `n` 1025 + `n`, THCTL 2048, threshold register `n` 2049 + `n`: an entry each. -/
def regLine : Nat := 2 ^ 40

/-- The other party of a conflict as DETAIL names it (R288). -/
def conflictDetail (e : Option TrackBy) : Word :=
  match e with
  | none => 0
  | some e => BitVec.ofNat 64 (e.tile.toNat ||| e.tag.toNat <<< 11
      ||| (match e.strm with | some x => x.toNat <<< 31 ||| 1 <<< 35 | none => 0))

/-- The next position of a party in its own order, and its clock with it. -/
def bumpClock (c : Clock) (pnum : Nat) : Nat × Clock := let n := aget c pnum 0 + 1; (n, aput c pnum n)

/-- Track an access of a firing to a tile's own units (scratchpad bytes or registers); outside deterministic mode
nothing is tracked. The firing's clock advances. -/
def trackTile (s : State) (t : Nat) (f : Firing) (write : Bool) (a n : Nat) :
    Except (BitVec 8 × Option TrackBy) (State × Firing) :=
  if !(tileLaunch s t).det || n = 0 then .ok (s, f)
  else
    let (pos, c) := bumpClock f.clock f.party
    let acc : TrackAcc := { by_ := ⟨f.party, pos, BitVec.ofNat 11 t, f.tag, none⟩, clock := f.clock, write := write, atom := none }
    match trackBytes tileFull (tileOf s t).track acc a (unitsOf a n) with
    | .error e => .error e
    | .ok m => .ok (modTile s t (fun x => { x with track := m }), { f with clock := c })

/-- Set sticky bits of STAT as a write of the firing's party (R264, R385). -/
def setSticky (s : State) (t : Nat) (f : Firing) (b : Word) : Except (BitVec 8 × Option TrackBy) (State × Firing) :=
  if b = 0 then .ok (s, f)
  else
    match trackTile s t f true (regLine * 128) 8 with
    | .error e => .error e
    | .ok (s1, f1) => .ok (modTile s1 t (fun x => { x with stat := x.stat ||| b }), f1)

/-! ## Taking an exception (R192, R290, R292) -/

/-- The record of a node (R316): `none` past the tile's NODES. -/
def nodeSlot (s : State) (t : Nat) (c : BitVec 3) (n : Nat) : Option (BitVec 128) :=
  (aget (tileOf s t).graph c.toNat {}).nodes[n]?

/-- The fields of a node's record. -/
def nodeRec (s : State) (t : Nat) (c : BitVec 3) (n : Nat) : NodeRec := decNodeRec ((nodeSlot s t c n).getD 0)

/-- The leading token: the port-3 token of a trigger-fired kind, otherwise that of the lowest port (R340). -/
def leadTok (f : Firing) : Token :=
  match afind f.ops 3 with
  | some k => k
  | none => match f.ops with | (_, k) :: _ => k | [] => {}

/-- A copy of a poison for one destination field (R288, R292), released at the scope of ch2. -/
def poisonTok (sc : Scope) (t : Nat) (f : Firing) (p : Poison) (d : Dest) : Token :=
  let k := leadTok f
  { dest := d, ctx := f.ctx, tag := f.tag, chan := 2, seq := k.seq, rankw := k.rankw, origin := BitVec.ofNat 11 t,
    body := .poison p, rel := mkRelease sc (BitVec.ofNat 11 t) f.clock, batch := f.batch }

/-- TAKE AN EXCEPTION: the firing's poison goes to each valid destination field A and B of its node record; with none,
it is recorded as a sink does (R292, R293). -/
def raiseFiring (s : State) (t : Nat) (f : Firing) (p : Poison) : State :=
  let r := nodeRec s t f.ctx f.node
  let ds := [r.destA, r.destB].filter (·.v)
  let h := (tileOf s t).launch
  if ds.isEmpty then logPoison s h 1 p f.node t f.ctx []
  else ds.foldl (fun s d => inject s { tok := poisonTok (sysScope s 2) t f p d, launch := h }) s

/-- The faults after which a batch is fired again (R301). -/
def replayable (c : BitVec 8) : Bool := c = cUncorrectable || c = cMatrixError

/-- The poison of a fault of a codelet or firing. A lease violation also stops the launch's context and reports to the headland,
which ends the launch (R68, R135); a soft error in a firing that descends from a batch is left to the batch's replay (R301). -/
def takeFault (s : State) (t : Nat) (f : Firing) (p : Poison) : State :=
  match f.batch.filter (fun r => replayable p.code && (aget (tileOf s t).bins r.key {}).retained.any (fun h => h.batch = r.batch)) with
  | some r =>
    modTile s t (fun x => { x with bins := amod x.bins r.key {} (fun y =>
      { y with replayDue := if y.replayDue.any (fun d => d.1 = r.batch) then y.replayDue else y.replayDue ++ [(r.batch, p)] }) })
  | none =>
    let s1 := raiseFiring s t f p
    if p.code = cLeaseViolation then
      let h := (tileOf s t).launch
      sendEv (modLaunch (logPoison s1 h 3 p f.node t f.ctx []) h (fun l => { l with violated := true })) (plotOf t) (.fault h p)
    else s1

/-- Poison a firing that had a poison operand: one hop more (R292). -/
def hop (p : Poison) : Poison := { p with hops := if p.hops = 0xFF then 0xFF else p.hops + 1 }

/-! ## Codelet slots -/

/-- Remove a firing from the list of firings in progress of its tile. -/
def doneFiring (s : State) (t : Nat) (party : Nat) : State :=
  modTile s t (fun x => { x with busy := x.busy.filter (fun f => f.party ≠ party) })

/-- A request has not passed translation, or in deterministic mode the conflict tracking that comes with its performance or with its
being held; one for another package has not until it is answered (R249, R290). -/
def unpassed (s : State) (id : Nat) : Bool :=
  s.reqs.any (fun r => r.id = id
    && (r.pte.isNone || ((tileLaunch s r.tile).det && r.held.isNone && !isHostIA r.addr.ia.toNat)))

/-- Let the held sends leave, in order, whose earlier accesses have passed translation and no longer stand before them (R235,
R290, R372). -/
def pumpGo (s : State) : List HeldSend → State × List HeldSend
  | [] => (s, [])
  | h :: t =>
    if h.after.any (fun i => unpassed s i || standsBefore s h.flight.tok.rel.scope i) then (s, h :: t)
    else pumpGo (inject s h.flight) t

/-- Let a slot's held sends leave as far as they can. -/
def pump (s : State) (t : Nat) (k : Fin 4) : State :=
  let sl := slotOf s t k
  let (s1, held) := pumpGo s sl.held
  setSlot s1 t k { sl with held := held }

/-- A load is still to be written to the slot. -/
def awaits (s : State) (t : Nat) (k : Fin 4) : Bool :=
  s.reqs.any (fun r => r.tile = t && r.slot = some k.val && r.dest ≠ .none)

/-- After a codelet has ended and all it issued is settled: send its poison if it has one, free the slot. -/
def settle (s : State) (t : Nat) (k : Fin 4) : State :=
  let s2 := pump s t k
  let sl := slotOf s2 t k
  if sl.phase = .draining && sl.reqs.isEmpty && sl.held.isEmpty && sl.mats.isEmpty && !awaits s2 t k then
    let s3 := match sl.late.or (sl.mfault.head?.map (·.2)) with
      | some p => takeFault s2 t sl.firing p
      | none => s2
    doneFiring (modTile (setSlot s3 t k {}) t (fun x => { x with heldSlab := if x.heldBy = some k.val then none else x.heldSlab })) t sl.firing.party
  else s2

/-- A codelet ends (R190). -/
def endCodelet (s : State) (t : Nat) (k : Fin 4) : State :=
  settle (modSlot s t k (fun x => { x with phase := .draining })) t k

/-- A codelet word faults: earlier words keep their effects, the codelet ends there (R192, R290). -/
def faultCodelet (s : State) (t : Nat) (k : Fin 4) (p : Poison) : State :=
  settle (modSlot s t k (fun x => { x with phase := .draining, late := x.late.or (some p) })) t k

/-- The words of the codelet in a slot. -/
def codeOf (s : State) (t : Nat) (k : Fin 4) : List Word :=
  let sl := slotOf s t k
  (aget (tileOf s t).graph sl.firing.ctx.toNat {}).codes.getD sl.code []

/-- The word after this one; past the last word the codelet ends (R190). -/
def advance (s : State) (t : Nat) (k : Fin 4) : State :=
  let s1 := modSlot s t k (fun x => { x with word := x.word + 1, phase := .running, due := none })
  if (codeOf s1 t k).length ≤ (slotOf s1 t k).word then endCodelet s1 t k else s1

/-- The word waits: it is tried again later; the wait of R191 is counted from its first try. -/
def waitWord (s : State) (t : Nat) (k : Fin 4) : State :=
  modSlot s t k (fun x => { x with phase := match x.phase with | .waiting n => .waiting n | _ => .waiting s.time })

/-- What performing a codelet word comes to. -/
inductive WRes where
  | go (s : State)
  | fin (s : State)
  | fault (s : State) (p : Poison)
  | wait (s : State)
  | stop (s : State)

/-- Carry out the result of a word in slot k of tile t. -/
def finishWord (t : Nat) (k : Fin 4) : WRes → State
  | .go s => advance s t k
  | .fin s => endCodelet s t k
  | .fault s p => faultCodelet s t k p
  | .wait s => waitWord s t k
  | .stop s => s

end Sys2Proof.Machine
end

