-- ==== Sys2Proof/Machine/Operands.lean ====
section
/-! DEFINITION. Operand forms of codelet words: scalar operands and their marks (R322, R202), reading and writing under a
type (R360 to R362), immediates (R361), guards (R190, R202) and the frame every codelet word runs in. -/

namespace Sys2Proof.Machine

open Sys2Proof

/-- The value of a scalar operand (R322): temporaries, operand ports, the tag, `zero`. -/
def opVal (sl : Slot) : SOp → Word
  | .t i => sl.t[i]
  | .inp i => sl.inp[i]
  | .tg => sl.firing.tag.setWidth 64
  | .zero => 0

/-- The scalar operand of a code held in a wider field. -/
def opCode (n : Nat) : SOp := (SOp.ofCode n).getD .zero

/-- Whether an operand is marked nondeterministic (R202). -/
def opMark (sl : Slot) : SOp → Bool
  | .t i => sl.tm[i]
  | _ => false

/-- The result of an earlier word that an operand waits for (R190). -/
def opPending (sl : Slot) : SOp → Bool
  | .t i => sl.pend.any (fun p => p.1 = i)
  | _ => false

/-- Index of a predicate. -/
def pIdx (p : BitVec 2) : Fin 4 := p.toFin

/-- Write a temporary with its mark; `zero` discards (R360, R202). -/
def wrT (sl : Slot) (d : SOp) (v : Word) (m : Bool) : Slot :=
  match d with
  | .t i => { sl with t := sl.t.set i v, tm := sl.tm.set i m }
  | _ => sl

/-- Write a predicate with its mark. -/
def wrP (sl : Slot) (p : BitVec 2) (v m : Bool) : Slot :=
  { sl with p := sl.p.set (pIdx p) v, pm := sl.pm.set (pIdx p) m }

/-- Mark the destinations of a word that does not run under a marked false guard (R202). -/
def markDests (sl : Slot) (ds : List SOp) (ps : List (BitVec 2)) : Slot :=
  let a := ds.foldl (fun x d => match d with | .t i => { x with tm := x.tm.set i true } | _ => x) sl
  ps.foldl (fun x p => { x with pm := x.pm.set (pIdx p) true }) a

/-- Bits of a scalar integer operation (R360). -/
def tyW : Ty → Nat
  | .s8 => 8 | .z8 => 8 | .s32 => 32 | .z32 => 32 | _ => 64

/-- Whether a type reads as signed (R360). -/
def tySigned : Ty → Bool
  | .z8 => false | .z32 => false | .z64 => false | _ => true

/-- rd(x) of R360 as an integer. -/
def rdInt (t : Ty) (x : Word) : Int :=
  if tySigned t then signed (tyW t) x.toNat else (x.toNat % 2 ^ tyW t : Nat)

/-- The w-bit pattern of an operand. -/
def rdPat (t : Ty) (x : Word) : Nat := x.toNat % 2 ^ tyW t

/-- wr(r) of R360. -/
def wrInt (t : Ty) (r : Int) : Word :=
  let p := (r % 2 ^ tyW t).toNat
  if tySigned t then BitVec.ofInt 64 (signed (tyW t) p) else BitVec.ofNat 64 p

/-- wr of a bit pattern. -/
def wrPat (t : Ty) (p : Nat) : Word := wrInt t (p : Nat)

/-- The immediate of an I-format word before rd() (R361). -/
def immVal (t : Ty) (i : BitVec 32) : Word := if tySigned t then i.signExtend 64 else i.zeroExtend 64

/-- Write under a type: integers by wr(), floats with the bits above cleared (R360, R362). -/
def wrTy (t : Ty) (pat : Nat) : Word :=
  match tyF t with
  | some _ => BitVec.ofNat 64 pat
  | none => wrPat t pat

/-- Effective address of an M-format access (R449). -/
def effAddr (sl : Slot) (w : MWord) : Word := opVal sl w.base + w.off.signExtend 64

/-- The poison of a fault raised by the word in a slot. -/
def slotPoison (s : State) (t : Nat) (k : Fin 4) (code : BitVec 8) : Poison := mkPoison s t (slotOf s t k).firing code

/-- The poison of a tracking failure (R249, R250). -/
def trackPoison (s : State) (t : Nat) (f : Firing) (e : BitVec 8 × Option TrackBy) : Poison :=
  { mkPoison s t f e.1 with detail := conflictDetail e.2 }

/-- Fault the word. -/
def wfault (s : State) (t : Nat) (k : Fin 4) (code : BitVec 8) : WRes := .fault s (slotPoison s t k code)

/-! ## Parity of the codelet core (R299) -/

/-- Keys of a slot's temporary and predicate among the words in error. -/
def badTemp (k : Fin 4) (i : Nat) : Nat := 2 ^ 44 + k.val * 16 + i
def badPred (k : Fin 4) (p : BitVec 2) : Nat := badTemp k (8 + p.toNat)

/-- The keys of the temporaries among operands. -/
def tempKeys (k : Fin 4) (l : List SOp) : List Nat := l.filterMap (fun x => match x with | .t i => some (badTemp k i.val) | _ => none)

/-- One of these is in error. -/
def parityBad (tl : Tile) (keys : List Nat) : Bool := tl.badWords.any keys.contains

/-- What is written is in error no more. -/
def mendTile (s : State) (t : Nat) (keys : List Nat) : State :=
  if parityBad (tileOf s t) keys then modTile s t (fun x => { x with badWords := x.badWords.filter (fun y => !keys.contains y) }) else s

/-- A word that completes has written these. -/
def WRes.mend (t : Nat) (keys : List Nat) : WRes → WRes
  | .go s => .go (mendTile s t keys)
  | r => r

/-- The frame of a codelet word (R190, R192, R202, R330): it runs in the slot in focus; it waits while an operand is
pending; a marked guard faults unless the word writes only temporaries and predicates (`scalar`); a false guard changes
nothing but marks, but operand values that break an encoding (`enc`) fault all the same; a temporary or predicate read in error
delivers its poison (R299). `f` receives the tile, the slot
number, the slot and whether the guard is marked. -/
def runWordE (g : Guard) (enc : State → Nat → Slot → Bool) (scalar : Bool) (srcs ds : List SOp) (ps : List (BitVec 2))
    (f : Nat → Fin 4 → Slot → Bool → State → WRes) (s : State) : Host.Outcome State Fault Refusal :=
  match s.focus with
  | .slot t k =>
    let sl := slotOf s t k
    if sl.phase = .free || sl.phase = .stopped || sl.phase = .draining then .next s
    else if (srcs ++ ds).any (opPending sl) then .next (waitWord s t k)
    else
      let gm := g.ge && sl.pm[pIdx g.gp]
      if g.ge && parityBad (tileOf s t) [badPred k g.gp] then .next (finishWord t k (wfault s t k cUncorrectable))
      else if gm && !scalar then .next (finishWord t k (wfault s t k cNondet))
      else if g.ge && sl.p[pIdx g.gp] = g.gn then
        if enc s t sl then .next (finishWord t k (wfault s t k cIllegal))
        else .next (finishWord t k (.go (if gm then setSlot s t k (markDests sl ds ps) else s)))
      else if parityBad (tileOf s t) (tempKeys k srcs) then .next (finishWord t k (wfault s t k cUncorrectable))
      else .next (finishWord t k ((f t k sl gm s).mend t (tempKeys k ds ++ ps.map (badPred k))))
  | _ => .next s

/-- No operand value of the word carries an encoding. -/
def noEnc (_ : State) (_ : Nat) (_ : Slot) : Bool := false

/-- The frame of a word whose operand values carry no encoding. -/
def runWord (g : Guard) (scalar : Bool) (srcs ds : List SOp) (ps : List (BitVec 2))
    (f : Nat → Fin 4 → Slot → Bool → State → WRes) (s : State) : Host.Outcome State Fault Refusal :=
  runWordE g noEnc scalar srcs ds ps f s

/-! ## Interlocks with matrix work and group loads (R190, R432, R435) -/

/-- Two footprints meet. -/
def Foot.meets (a b : Foot) : Bool :=
  a.regs.any (b.regs.contains ·) || a.slabs.any (b.slabs.contains ·) || a.recs.any (b.recs.contains ·)
    || a.spad.any (fun x => b.spad.any (extMeet x)) || a.mem.any (fun x => b.mem.any (extMeet x))

/-- Registers of a slab group under a type: 32 for 32-bit elements, 16 for 16-bit ones (R281). -/
def groupLen (t : Ty) : Nat := 8 * t.bytes

/-- A request that a slot issued and that will write registers of the footprint. -/
def groupPending (s : State) (t : Nat) (k : Fin 4) (fo : Foot) : Bool :=
  s.reqs.any (fun r => r.tile = t && r.slot = some k.val && (match r.dest with
    | .group _ v ty _ _ => fo.regs.any (fun x => v ≤ x && x < v + groupLen ty)
    | _ => false))

/-- Run a word once nothing it touches is still to be written: it waits for earlier matrix instructions of its slot and
for group loads, and meets the fault of a matrix instruction it would have waited for (R432, R435). -/
def locked (s : State) (t : Nat) (k : Fin 4) (fo : Foot) (f : State → WRes) : WRes :=
  let sl := slotOf s t k
  if (tileOf s t).mat.any (fun m => sl.mats.contains m.id && m.foot.meets fo) || groupPending s t k fo then .wait s
  else
    match sl.mfault.find? (fun m => m.1.meets fo) with
    | some m => .fault (setSlot s t k { sl with mfault := sl.mfault.filter (· ≠ m) }) m.2
    | none => f s

end Sys2Proof.Machine
end

