-- ==== Sys2Proof/Machine/Clocks.lean ====
section
/-! DEFINITION. Clock requests, the cone arbiter and clock events (R41 to R57), and the frame of events. -/

namespace Sys2Proof.Machine

open Sys2Proof

/-! ## The frame of an event (log 1) -/

/-- Make an event whose agent brings data of this kind; an event made without fitting data changes nothing. -/
def onEvent (pick : EvArgs → Option α) (f : α → State → State) (s : State) : Host.Outcome State Fault Refusal :=
  match s.focus with
  | .event a => match pick a with
    | some x => .next (f x { s with focus := .idle })
    | none => .next { s with focus := .idle }
  | _ => .next s

def argNone : EvArgs → Option Unit
  | .none => some ()
  | _ => none

def argN : EvArgs → Option Nat
  | .n a => some a
  | _ => none

def argNN : EvArgs → Option (Nat × Nat)
  | .nn a b => some (a, b)
  | _ => none

/-! ## Operating points and requests -/

/-- Fields of an operating-point entry (R43). -/
def oppValid (w : Word) : Bool := w.getLsbD 63
def oppCost (w : Word) : Nat := (w.extractLsb' 40 12).toNat

/-- The multipliers MAT, VEC, NET, MEM of an entry, request or grant (R43, R45, R53). -/
def mults (w : Word) : List Nat :=
  [(w.extractLsb' 0 6).toNat, (w.extractLsb' 6 6).toNat, (w.extractLsb' 12 6).toNat, (w.extractLsb' 18 6).toNat]

/-- The weights MAT, VEC, NET, MEM of a request (R45). -/
def weights (w : Word) : List Nat :=
  [(w.extractLsb' 24 4).toNat, (w.extractLsb' 28 4).toNat, (w.extractLsb' 32 4).toNat, (w.extractLsb' 36 4).toNat]

/-- Ranges of the multipliers (R41). -/
def multRanges : List (Nat × Nat) := [(8, 40), (8, 40), (16, 48), (16, 40)]

/-- Every nonzero multiplier lies in its range (R46). -/
def clkReqOk (w : Word) : Bool :=
  ((mults w).zip multRanges).all (fun (m, r) => m = 0 || (r.1 ≤ m && m ≤ r.2))

/-- What a request asks: all multipliers 0 means the nominal set with weights 1 (R45). -/
def reqTerms (w : Word) : List (Nat × Nat) :=
  if (mults w).all (· = 0) then [(32, 1), (32, 1), (40, 1), (32, 1)] else (mults w).zip (weights w)

/-! ## Cycles (R41) -/

/-- Twentieths of a cycle that a domain of a die has had. -/
def cycNow (s : State) (die d : Nat) : Nat := aget s.cyc (die * 4 + d) 0

/-- At least `n` cycles of a domain of a tile's die have passed since `from_`. -/
def cycDue (s : State) (t d n from_ : Nat) : Bool := from_ + n * 20 ≤ cycNow s (dieOf t) d

/-- The cycles of all domains as `n` ns pass. -/
def cycPass (s : State) (n : Nat) : AMap Nat :=
  (List.range 4).foldl (fun m die =>
    ((mults (s.clk.clkg.getD die 0)).zip (List.range 4)).foldl (fun m (x, d) =>
      if n * x = 0 then m else aput m (die * 4 + d) (aget m (die * 4 + d) 0 + n * x)) m) s.cyc

/-- The MAT cycles during which a tile has been active (R14). -/
def matCyc (s : State) (t : Nat) : Nat :=
  let x := tileOf s t
  (if x.parked then x.pausedAt else cycNow s (dieOf t) 0) - x.idleCyc

/-- The other logical tile of a shared physical tile becomes the active one (R14). -/
def parkTile (s : State) (t : Nat) : State := modTile s t (fun x => { x with parked := true, pausedAt := cycNow s (dieOf t) 0 })
def unparkTile (s : State) (t : Nat) : State :=
  let now := cycNow s (dieOf t) 0
  modTile s t (fun x => { x with parked := false, active := now, idleCyc := x.idleCyc + (now - x.pausedAt) })

/-- Work that comes every `n` ns is due: it has not been done yet, or that long ago. -/
def timerDue (s : State) (code n : Nat) : Bool :=
  match afind s.timers code with
  | none => true
  | some t => due s t n

/-- The intervals that are timed so: a step of AGE and of the scheduler's TICK (R144), the scan of R89, HEAT and the moves of R227. -/
def tmAge : Nat := 1
def tmTick : Nat := 2
def tmScan : Nat := 3
def tmHeat : Nat := 4
def tmRotate : Nat := 5

/-- Such work is done. -/
def timerSet (s : State) (code : Nat) : State := { s with timers := aput s.timers code s.time }

/-- A launch holds its tiles, from its PLACE or RESTORE until they are free; DESIGN CHOICE (log 64): it counts as placed on its
dies for as long. -/
def holdsTiles (l : Launch) : Bool :=
  match l.phase with
  | .placing | .running | .draining | .saving | .restoring | .killing | .freeing => true
  | _ => false

/-- The launches placed on a die. -/
def onDie (s : State) (d : Nat) : List (Nat × Launch) :=
  s.launches.filter (fun p => holdsTiles p.2 && p.2.tileset.any (fun t => dieOf t = d))

/-- The die request: per domain the largest multiplier and weight of the highest class (R47). -/
def dieRequest (s : State) (d : Nat) : List (Nat × Nat) :=
  let ls := onDie s d
  let top := (ls.map (fun p => p.2.cls)).foldl max 0
  ((ls.filter (fun p => p.2.cls = top)).map (fun p => reqTerms p.2.clkreq)).foldl
    (fun acc t => List.zipWith (fun a b => (max a.1 b.1, max a.2 b.2)) acc t) [(0, 0), (0, 0), (0, 0), (0, 0)]

/-- The distance of an entry from a die request (R48). -/
def oppDistance (w : Word) (q : List (Nat × Nat)) : Nat :=
  (List.zipWith (fun m (r : Nat × Nat) => if r.1 = 0 then 0 else r.2 * (m - r.1 + (r.1 - m))) (mults w) q).sum

/-- The nearest valid entry within a cost limit; ties to lower cost, then lower index (R48). -/
def nearest (opp : List Word) (q : List (Nat × Nat)) (limit : Nat) : Nat :=
  let better (a b : Nat) : Bool :=
    let x := opp.getD a 0
    let y := opp.getD b 0
    let dx := oppDistance x q
    let dy := oppDistance y q
    dx < dy || (dx = dy && oppCost x < oppCost y)
  let ok := (List.range 64).filter (fun i => oppValid (opp.getD i 0) && oppCost (opp.getD i 0) ≤ limit)
  ok.foldl (fun best i => if better i best then i else best) (ok.headD 0)

/-- Insert a die in the order of R49. -/
def dieInsert (x : Nat × Nat) : List (Nat × Nat) → List (Nat × Nat)
  | [] => [x]
  | y :: t => if y.1 < x.1 then x :: y :: t else y :: dieInsert x t

/-- Grant the active dies in order (R49). -/
def grantGo (s : State) : List Nat → Nat → List (Nat × Nat)
  | [], _ => []
  | d :: t, b =>
    let e := nearest s.clk.opp (dieRequest s d) (b - t.length * oppCost (s.clk.opp.getD 0 0))
    (d, e) :: grantGo s t (b - oppCost (s.clk.opp.getD e 0))

/-- The effective cap (R50). -/
def effCap (s : State) : Nat := min s.clk.cap (s.clk.thermal.getD s.clk.cap)

/-- The entry of every die by R49. -/
def grants (s : State) : List (Nat × Nat) :=
  let idle := (List.range 4).filter (fun d => (onDie s d).isEmpty)
  let active := (List.range 4).filter (fun d => !(onDie s d).isEmpty)
  let ranked := active.foldl (fun l d => dieInsert (((onDie s d).map (fun p => p.2.cls)).foldl max 0, d) l) []
  let b := effCap s - s.clk.pbase - idle.length * oppCost (s.clk.opp.getD 0 0)
  idle.map (fun d => (d, 0)) ++ grantGo s (ranked.map (·.2)) b

/-- ENTRY of a CLKG word (R53). -/
def clkEntry (w : Word) : Nat := (w.extractLsb' 34 6).toNat

/-- A CLKG word (R53). -/
def clkWord (gseq entry : Nat) (cause : BitVec 2) (opp : Word) : Word :=
  BitVec.ofNat 64 ((gseq % 65536) <<< 48 ||| entry <<< 34 ||| cause.toNat <<< 32 ||| (opp.extractLsb' 0 24).toNat)

/-- Ask for a re-evaluation (R50). DESIGN CHOICE (log 64): of several triggers before it, the CAUSE of the last is carried. -/
def askReeval (s : State) (cause : BitVec 2) : State := { s with clk := { s.clk with reeval := some cause } }

/-- Change every tile of a launch: those it holds and those in its save image. -/
def eachTile (s : State) (h : Nat) (f : Tile → Tile) : State :=
  let s1 := ((launchOf s h).tileset.filter (fun t => (tileOf s t).launch = h)).foldl (fun s t => modTile s t f) s
  modLaunch s1 h (fun l => { l with save := l.save.map (fun x => { x with tiles := x.tiles.map (fun p => (p.1, f p.2)) }) })

/-- The arbiter accepts a request of a launch (R46). -/
def acceptReq (s : State) (h : Nat) (v : Word) : State :=
  let s1 := modLaunch s h (fun l => { l with clkreq := v })
  askReeval (eachTile s1 h (fun t => { t with clkq := v })) 0

/-- A request of a launch in CLKQ layout: refused when a multiplier lies outside its range; held while the launch's
window is open; otherwise accepted, opening a window (R46). -/
def clkRequest (s : State) (h : Nat) (a : Word) : Option State :=
  let v := a &&& 0xFFFFFFFFFF#64
  if !clkReqOk v then none
  else
    let l := launchOf s h
    match l.clkWindow with
    | some _ => some (setLaunch s h { l with clkHeld := some v })
    | none => some (acceptReq (setLaunch s h { l with clkWindow := some s.time }) h v)

/-- A launch that has ended has no window open and no request held (R46). -/
def dropClkReq (s : State) (h : Nat) : State := modLaunch s h (fun l => { l with clkWindow := none, clkHeld := none })

/-! ## CLKEV (R54) -/

def evCHG : Word := 1
def evLIMIT : Word := 2
def evBELOW : Word := 4
def evCOAL : Word := 8

/-- Add one to COUNT, saturating. -/
def evCount (w : Word) : Word :=
  let c := (w.extractLsb' 8 8).toNat
  (w &&& 0xFF#64) ||| BitVec.ofNat 64 (min (c + 1) 255 <<< 8)

/-- A granted multiplier lies below the die request in a domain of nonzero weight. -/
def grantBelow (opp : Word) (q : List (Nat × Nat)) : Bool :=
  ((mults opp).zip q).any (fun (m, r) => r.1 ≠ 0 && r.2 ≠ 0 && m < r.1)

/-- `CAP_WRITE` (R50): a write of the cap in force changes nothing and is followed by no re-evaluation. -/
def execCapWrite (s : State) : Host.Outcome State Fault Refusal :=
  onEvent argN (fun w s =>
    if 1000 ≤ w && w ≤ 3200 && w % 25 = 0 then
      if w = s.clk.cap then s
      else
        let s1 := { s with clk := { s.clk with cap := w } }
        askReeval { s1 with clk := { s1.clk with capFell := s.clk.capFell || effCap s1 < effCap s } } 2
    else { s with sens := { s.sens with capRefused := s.sens.capRefused + 1 } }) s

/-- The pending grant of one die after a re-evaluation (R51): it is due at once when it lowers COST because the effective cap fell,
now or at the re-evaluation that chose the grant it replaces. -/
def newGrant (s : State) (cause : BitVec 2) (d e : Nat) : Option Grant :=
  let now := clkEntry (s.clk.clkg.getD d 0)
  let old := (s.clk.pend.getD d none).filter (·.capLow)
  let low := (s.clk.capFell || old.isSome) && oppCost (s.clk.opp.getD e 0) < oppCost (s.clk.opp.getD now 0)
  if e = now then none
  else some { entry := e, cause := cause, forced := low, capLow := low
              since := if low then (old.map (·.since)).getD s.time else s.time }

/-- `ARBITER_REEVALUATE` (R49 to R51). -/
def execArbiterReevaluate (s : State) : Host.Outcome State Fault Refusal :=
  onEvent argNone (fun _ s =>
    match s.clk.reeval with
    | none => s
    | some cause =>
      let gs := grants s
      let pend := (List.range 4).map (fun d => match gs.find? (fun g => g.1 = d) with
        | some g => newGrant s cause d g.2
        | none => none)
      { s with clk := { s.clk with pend := pend, reeval := none, capFell := false } }) s

/-- `COALESCE_WINDOW_CLOSE` (R46). -/
def execCoalesceWindowClose (s : State) : Host.Outcome State Fault Refusal :=
  onEvent argN (fun h s =>
    let l := launchOf s h
    match l.clkWindow with
    | none => s
    | some t0 =>
      if !due s t0 10000 then s
      else
        let s1 := setLaunch s h { l with clkWindow := none, clkHeld := none }
        match l.clkHeld with
        | none => s1
        | some v => eachTile (acceptReq s1 h v) h (fun t => { t with clkev := t.clkev ||| evCOAL })) s

/-- The clock-event token of a launch (R55, R56). -/
def clockToken (s : State) (d : Nat) (h : Nat) (l : Launch) (g : Word) : State :=
  let dest := decDest (l.clkdst.extractLsb' 0 26)
  if l.det || !dest.v then s
  else inject s { tok := { dest := dest, ctx := l.clkdst.extractLsb' 26 3, tag := (g.extractLsb' 48 16).setWidth 20, chan := 1,
                           origin := BitVec.ofNat 11 (d * 512), body := .control g,
                           rel := mkRelease (sysScope s 1) basePlace [] },
                  launch := h }

/-- A changed grant takes effect on a die (R53 to R55). DESIGN CHOICE (log 64): BELOW compares with the die request of now. -/
def takeGrant (s : State) (d : Nat) (g : Grant) : State :=
  let old := s.clk.clkg.getD d 0
  let opp := s.clk.opp.getD g.entry 0
  let w := clkWord ((old.extractLsb' 48 16).toNat + 1) g.entry g.cause opp
  let q := dieRequest s d
  let bits := evCHG ||| (if g.cause = 2 || g.cause = 3 then evLIMIT else 0) ||| (if grantBelow opp q then evBELOW else 0)
  let s1 := { s with clk := { s.clk with clkg := lmod s.clk.clkg d (fun _ => w), pend := lmod s.clk.pend d (fun _ => none) } }
  (onDie s d).foldl (fun s p =>
    let s2 := (p.2.tileset.filter (fun t => dieOf t = d)).foldl
      (fun s t => modTile s t (fun x => { x with clkev := evCount x.clkev ||| bits })) s
    clockToken s2 d p.1 p.2 w) s1

/-- `GRANT_TAKE_EFFECT`: at the grant boundary (R51). -/
def execGrantTakeEffect (s : State) : Host.Outcome State Fault Refusal :=
  onEvent argN (fun d s =>
    match s.clk.pend.getD d none with
    | none => s
    | some g => if g.forced || due s g.since 1000000 then takeGrant s d g else s) s

/-- A step barrier of a context on these dies is a grant boundary (R51). -/
def grantBoundary (s : State) (l : Launch) : State :=
  let dies := (l.tileset.map dieOf).eraseDups
  { s with clk := { s.clk with pend := (s.clk.pend.zip (List.range 4)).map (fun (g, d) =>
      if dies.contains d then g.map (fun g => { g with forced := true }) else g) } }

/-- The dies' temperatures as a sensor reading brings them. -/
def argTemps : EvArgs → Option (List Nat × CpuRegs)
  | .temps t r => some (t, r)
  | _ => none

/-- A die exceeds its limit; every die is 5 °C below its own (R50). -/
def tooHot (temp limit : List Nat) : Bool := (temp.zip limit).any (fun p => p.2 < p.1)
def coolAll (temp limit : List Nat) : Bool := (temp.zip limit).all (fun p => p.1 + 5 ≤ p.2)

/-- The thermal cap after a step up: it follows the programmed cap again once it has reached it (R50). -/
def thermalUp (k : Clk) (th : Nat) : Option Nat := if k.cap ≤ th + 25 then none else some (th + 25)

/-- The thermal cap moves (R50). -/
def moveThermal (s : State) (th : Option Nat) (floor : Option Nat) : State :=
  let s1 := { s with clk := { s.clk with thermal := th, lastStep := some s.time, floorSince := floor } }
  askReeval { s1 with clk := { s1.clk with capFell := s.clk.capFell || effCap s1 < effCap s } } 3

/-- `THERMAL_CAP_STEP`: 25 W down or up, one step a millisecond (R50). -/
def execThermalCapStep (s : State) : Host.Outcome State Fault Refusal :=
  onEvent argTemps (fun (temp, _) s0 =>
    let s := { s0 with clk := { s0.clk with temp := temp } }
    let k := s.clk
    let th := k.thermal.getD k.cap
    if k.lastStep.any (fun t => !due s t 1000000) then s
    else if tooHot temp k.limit then
      if th ≤ 1000 then { s with clk := { k with floorSince := k.floorSince.or (some s.time) } }
      else moveThermal s (some (th - 25)) (if th - 25 ≤ 1000 then some s.time else none)
    else if coolAll temp k.limit && k.thermal.isSome then moveThermal s (thermalUp k th) none
    else { s with clk := { k with floorSince := none } }) s

/-- `DROOP_STRETCH`: telemetry alone (R57). -/
def execDroopStretch (s : State) : Host.Outcome State Fault Refusal :=
  onEvent (fun a => match a with | .dom d _ => some d | _ => none)
    (fun _ s => { s with clk := { s.clk with stretches := s.clk.stretches + 1 } }) s

/-- `SENSOR_REFRESH`: every 10 ms (R40). -/
def execSensorRefresh (s : State) : Host.Outcome State Fault Refusal :=
  onEvent (fun a => match a with | .sensors d => some d | _ => none)
    (fun d s => if s.sens.refreshed.any (fun t => !due s t 10000000) then s
      else { s with sens := { s.sens with served := d, refreshed := some s.time } }) s

end Sys2Proof.Machine
end

