-- ==== Sys2Proof/Machine/Fetch.lean ====
section
/-! DEFINITION. Fetching: the next word of a codelet slot and the node record of a firing, decoded (R189, R190, R316,
R461). -/

namespace Sys2Proof.Machine

open Sys2Proof

/-- Stream sN of a tile and context. -/
def streamOf (s : State) (t : Nat) (c : BitVec 3) (n : BitVec 4) : Stream :=
  aget (tileOf s t).streams (c.toNat * 16 + n.toNat) {}

def setStream (s : State) (t : Nat) (c : BitVec 3) (n : BitVec 4) (x : Stream) : State :=
  modTile s t (fun tl => { tl with streams := aput tl.streams (c.toNat * 16 + n.toNat) x })

/-- The stream is open in slab mode (R459, R461). -/
def slabMode (x : Stream) : Bool := x.isOpen && x.ctl.getLsbD 2

/-- `sld` and `sst` share their words with the slab forms; the mode of the stream settles which one runs (R461;
log 9). -/
def resolve (s : State) (t : Nat) (k : Fin 4) (i : Instr) : Except DecodeError Instr :=
  let mode (w : MWord) := slabMode (streamOf s t (slotOf s t k).firing.ctx w.strm)
  let form (j : Instr) := match j.check with
    | none => Except.ok j
    | some e => Except.error (DecodeError.illegal e)
  match i with
  | .sld w => if mode w then form (.sldSlab w) else .ok i
  | .sldSlab w => if mode w then .ok i else .error (.illegal .unusedField)
  | .sst w => if mode w then form (.sstSlab w) else .ok i
  | j => .ok j

/-- The words of R10 that hold a node record and a codelet word of a context. -/
def badNodeWord (c n : Nat) : Nat := 2 ^ 41 + c * 2 ^ 16 + n
def badCodeWord (c code w : Nat) : Nat := 2 ^ 42 + c * 2 ^ 16 + code * 128 + w / 2

/-- What fetching meets: no legal encoding, or an uncorrectable word of the graph partition or the token store (R10, R190). -/
inductive FetchError where
  | encoding (e : DecodeError)
  | uncorrectable
  deriving DecidableEq, Repr

/-- The fault of it. -/
def FetchError.code : FetchError → BitVec 8
  | .encoding _ => cIllegal
  | .uncorrectable => cUncorrectable

/-- Decode what was fetched. -/
def fetched (bs : List Byte) (f : Instr → Except DecodeError Instr) : Except FetchError Instr :=
  match decodeBytes bs with
  | .error e => .error (.encoding e)
  | .ok i => match f i with
    | .error e => .error (.encoding e)
    | .ok j => .ok j

/-- A launch whose tiles stand still: stopped by a violation of its lease (R68), or restored and not yet resumed (R312, R313). -/
def standsStill (l : Launch) : Bool := l.violated || l.phase = .restoring || (l.phase = .running && l.save.isSome)

/-- The slot has a word to run: a codelet runs there, its tile is the active one of its physical tile (R14) and its launch does not
stand still. -/
def slotLive (s : State) (t : Nat) (k : Fin 4) : Bool :=
  let sl := slotOf s t k
  !(sl.phase = .free || sl.phase = .stopped || sl.phase = .draining) && !(tileOf s t).parked && !standsStill (tileLaunch s t)

/-- The next word of a slot, decoded; `none` when it has none to run. -/
def nextWord (s : State) (t : Nat) (k : Fin 4) : Option (Except FetchError Instr) :=
  let sl := slotOf s t k
  if !slotLive s t k then none
  else
    match (codeOf s t k)[sl.word]? with
    | none => none
    | some w =>
      if (tileOf s t).badWords.contains (badCodeWord sl.firing.ctx.toNat sl.code sl.word) then some (.error .uncorrectable)
      else some (fetched (bytesLE 8 w.toNat) (resolve s t k))

/-- The node record of a firing, decoded; `none` past the tile's NODES. -/
def nextNode (s : State) (t : Nat) (f : Firing) : Option (Except FetchError Instr) :=
  match nodeSlot s t f.ctx f.node with
  | none => none
  | some b =>
    if (tileOf s t).badWords.contains (badNodeWord f.ctx.toNat f.node) || f.ops.any (fun p => p.2.bad) then some (.error .uncorrectable)
    else some (fetched (bytesLE 16 b.toNat) .ok)

/-! ## The turn of codelet slots (R191) -/

/-- The slots between the one that issued last and slot `k`, in round-robin order. -/
def slotsAhead (last k : Nat) : List (Fin 4) :=
  ((List.range 4).map (fun i => (⟨(last + 1 + i) % 4, Nat.mod_lt _ (by decide)⟩ : Fin 4))).takeWhile (fun j => j.val ≠ k)

/-- Slot `k` has the turn: each slot ahead of it has no word, or has been tried since the last issue and waits. -/
def hasTurn (s : State) (t : Nat) (k : Fin 4) : Bool :=
  (slotsAhead (tileOf s t).lastSlot k.val).all (fun j => (nextWord s t j).isNone || (tileOf s t).blocked.contains j.val)

/-- The word of a slot waits. -/
def isBlocked (x : Slot) : Bool := match x.phase with | .waiting _ => true | _ => false

/-- After slot `k` was tried: it waits, or it issued and the turn passes on. -/
def tookTurn (s : State) (t : Nat) (k : Fin 4) : State :=
  modTile s t (fun x => if isBlocked x.slots[k] then { x with blocked := k.val :: x.blocked } else { x with lastSlot := k.val, blocked := [] })

/-- A word or record that is no legal encoding faults whatever its guard (R190); one that cannot be read delivers its poison
(R10). -/
def faultWord (s : State) (t : Nat) (k : Fin 4) (e : FetchError) : State := finishWord t k (wfault s t k e.code)

/-- As `faultWord`, for a firing. -/
def faultNode (s : State) (t : Nat) (f : Firing) (e : FetchError) : State := takeFault s t f (mkPoison s t f e.code)

end Sys2Proof.Machine
end

