-- ==== Sys2Proof/Machine/Match.lean ====
section
/-! DEFINITION. Matching tokens into firings (R178 to R184, R201, R339, R344, R348, R349), refusals and dead letters
(R174, R508). -/

namespace Sys2Proof.Machine

open Sys2Proof

/-! ## Refusals (R174, R508) -/

/-- The reply that a refused token asked for (R508). -/
def replyTok (s : State) (f : Flight) (p : Poison) (unit : Nat) : Flight :=
  let k := f.tok
  { tok := { dest := ⟨true, k.origin, k.rnode, k.rport⟩, ctx := k.rctx, tag := k.tag, chan := 2, seq := k.seq, rankw := k.rankw,
             origin := BitVec.ofNat 11 unit, body := .poison p, rel := mkRelease (sysScope s 2) (BitVec.ofNat 11 unit) [] },
    launch := f.launch, formedFor := some f.launch, pkg := f.src.getD 255 }

/-- The poison a unit raises about a token, in the step of the launch that sent it (R288). -/
def tokPoison (s : State) (unit : Nat) (f : Flight) (code : BitVec 8) : Poison :=
  { unitPoison s unit code with tag := f.tok.tag, step := (launchOf s f.launch).stepid }

/-- Refuse a token with a poison: a reply, or a record of TYPE 4 (R508). -/
def refuseWith (s : State) (f : Flight) (unit : Nat) (p : Poison) : State :=
  if f.tok.reply then inject s (replyTok s f p unit)
  else logPoison s f.launch 4 p 0xFFFF unit f.tok.ctx f.tok.header

/-- Refuse a token for this reason (R508). -/
def refuse (s : State) (f : Flight) (unit : Nat) (code : BitVec 8) : State := refuseWith s f unit (tokPoison s unit f code)

/-- Drop a token as for an exited destination: a dead letter, and the reply it asked for (R174, R508). -/
def deadLetter (s : State) (f : Flight) : State :=
  let t := f.tok.dest.tile.toNat
  let p := tokPoison s t f cUndeliverable
  let s1 := logPoison s f.launch 2 p 0xFFFF t f.tok.ctx f.tok.header
  if f.tok.reply then inject s1 (replyTok s f p t) else s1

/-! ## Node kinds (R180, R185) -/

/-- The instruction of a node's record. -/
def nodeInstr (s : State) (t : Nat) (c : BitVec 3) (n : Nat) : Option Instr :=
  match nodeSlot s t c n with
  | none => none
  | some b => match decodeBytes (bytesLE 16 b.toNat) with
    | .ok i => some i
    | .error _ => none

/-- The class of a kind (R185). -/
def classOf : Option Instr → IssueClass
  | some (.nodeFire _) => .b
  | some (.nodeMctl _) => .c
  | some (.nodeLds _) => .d
  | some (.nodeSts _) => .d
  | some (.nodeIsect _) => .e
  | some (.nodeSendx _) => .e
  | _ => .a

/-- The unit that performs a class (R185). -/
def unitOf : IssueClass → TileUnit
  | .a => .matchUnit | .b => .codeletCore | .c => .matrixEngine | .d => .memoryPort | .e => .networkInterface

/-- Kinds fired by a trigger (R180). -/
def trigKind : Instr → Bool
  | .nodeConst _ => true
  | .nodeCount _ => true
  | .nodeCwait _ => true
  | _ => false

/-- The ports a node awaits, a held sticky value not yet considered (R180). -/
def awaited (i : Instr) (r : NodeRec) : List Nat :=
  ((List.range r.nops.toNat).filter (fun p => !(p = 1 && r.lit))).map (fun p => if p = 0 && trigKind i then 3 else p)

/-- Key of a node of a context: for sticky values and bins. -/
def nodeKey (c : BitVec 3) (n : Nat) : Nat := c.toNat * 4096 + n

/-- Key of a node and tag: for counters. -/
def countKey (c : BitVec 3) (n : Nat) (tag : BitVec 20) : Nat := nodeKey c n * 2 ^ 20 + tag.toNat

/-! ## Ready firings (R179, R186) -/

/-- The batch a token makes its receiver descend from (R301). -/
def batchOf (t : Nat) (k : Token) : Option BatchRef := if k.origin.toNat = t then k.batch else none

/-- A firing of a node with these operands. -/
def mkFiring (t : Nat) (c : BitVec 3) (n : Nat) (tag : BitVec 20) (ops : AMap Token) : Firing :=
  { node := n, ctx := c, tag := tag, ops := ops, batch := (ops.filterMap (fun p => batchOf t p.2)).head? }

/-- A firing becomes ready; its unit's clock resumes (R186, R187). -/
def readyFiring (s : State) (t : Nat) (f : Firing) : State :=
  let u := unitOf (classOf (nodeInstr s t f.ctx f.node))
  modTile (wakeUnit s t u) t (fun x => { x with ready := x.ready ++ [{ f with since := matCyc s t }] })

/-- A firing that the match unit itself finds faulty (R180, R201). -/
def errFiring (s : State) (t : Nat) (f : Firing) (code : BitVec 8) (detail : Word) : State :=
  readyFiring s t { f with err := some { mkPoison s t f code with detail := detail } }

/-- A single token that counts as a firing producing "illegal encoding" (R180). -/
def illegalTok (s : State) (t : Nat) (k : Token) : State :=
  errFiring s t (mkFiring t k.ctx k.dest.node.toNat k.tag [(k.dest.port.toNat, k)]) cIllegal 0

/-- The other token of a "duplicate operand" (R288). -/
def dupDetail (k : Token) : Word := BitVec.ofNat 64 (k.origin.toNat ||| k.seq.toNat <<< 11)

/-- Two tokens of one key and port in deterministic mode: the poisoned one travels if there is one (R201, R292). -/
def dupFiring (s : State) (t : Nat) (held k : Token) : State :=
  let op := if held.poison?.isSome then held else k
  errFiring s t (mkFiring t k.ctx k.dest.node.toNat k.tag [(k.dest.port.toNat, op)]) cDuplicate (dupDetail held)

/-! ## The token store -/

/-- A token of the store is for this node, tag and port. -/
def isFor (c : BitVec 3) (n : Nat) (tag : BitVec 20) (p : Nat) (f : Flight) : Bool :=
  f.tok.ctx = c && f.tok.dest.node.toNat = n && f.tok.tag = tag && f.tok.dest.port.toNat = p

/-- The first token of the store for a node, tag and port. -/
def held (tl : Tile) (c : BitVec 3) (n : Nat) (tag : BitVec 20) (p : Nat) : Option Token :=
  (tl.store.find? (isFor c n tag p)).map (·.tok)

/-- Remove the first element that satisfies a test. -/
def dropFirst (q : α → Bool) : List α → List α
  | [] => []
  | x :: t => if q x then t else x :: dropFirst q t

/-- Remove the first token for a node, tag and port. -/
def takeTok (tl : Tile) (c : BitVec 3) (n : Nat) (tag : BitVec 20) (p : Nat) : Tile :=
  { tl with store := dropFirst (isFor c n tag p) tl.store }

/-- Keep a token in the store. -/
def keepTok (s : State) (t : Nat) (f : Flight) : State := modTile s t (fun x => { x with store := x.store ++ [f] })

/-! ## Matching by key (R179 to R182) -/

/-- Pair the first tokens of a key on every awaited port, as long as that can be done. -/
def tryKey (i : Instr) (r : NodeRec) (t : Nat) (c : BitVec 3) (n : Nat) (tag : BitVec 20) : Nat → State → State
  | 0, s => s
  | fuel + 1, s =>
    let tl := tileOf s t
    let st := if r.sticky then afind tl.sticky (nodeKey c n) else none
    let need := (awaited i r).filter (fun p => !(p = 2 && st.isSome))
    let got := need.map (fun p => (held tl c n tag p).map (fun k => (p, k)))
    if need.isEmpty || got.any (·.isNone) then s
    else
      let ops0 := (got.filterMap id).foldl (fun m p => aput m p.1 p.2) []
      let ops := match st with | some k => aput ops0 2 k | none => ops0
      let s1 := setTile s t (need.foldl (fun x p => takeTok x c n tag p) tl)
      tryKey i r t c n tag fuel (readyFiring s1 t (mkFiring t c n tag ops))

/-- A token at an awaited port of a kind that pairs its operands. -/
def pairTok (i : Instr) (r : NodeRec) (s : State) (t : Nat) (f : Flight) : State :=
  let k := f.tok
  let c := k.ctx
  let n := k.dest.node.toNat
  let p := k.dest.port.toNat
  let det := (tileLaunch s t).det
  if !(awaited i r).contains p then illegalTok s t k
  else if p = 2 && r.sticky then
    match afind (tileOf s t).sticky (nodeKey c n), det with
    | some old, true => dupFiring s t old k
    | _, _ =>
      let s1 := modTile s t (fun x => { x with sticky := aput x.sticky (nodeKey c n) k })
      let tags := (((tileOf s1 t).store.filter (fun g => g.tok.ctx = c && g.tok.dest.node.toNat = n)).map (·.tok.tag)).eraseDups
      tags.foldl (fun s g => tryKey i r t c n g ((tileOf s t).store.length + 1) s) s1
  else
    match held (tileOf s t) c n k.tag p, det with
    | some old, true => dupFiring (modTile s t (fun x => takeTok x c n k.tag p)) t old k
    | _, _ => tryKey i r t c n k.tag 1 (keepTok s t f)

/-! ## Counting kinds (R348, R349) -/

/-- A node may count a token of this tag: it holds a counter for it or fewer than 8. -/
def canCount (tl : Tile) (c : BitVec 3) (n : Nat) (tag : BitVec 20) : Bool :=
  (afind tl.counts (countKey c n tag)).isSome || (tl.counts.filter (fun p => p.1 / 2 ^ 20 = nodeKey c n)).length < 8

/-- The lower channel leads. -/
def leadOf (a : Option Token) (k : Token) : Option Token :=
  match a with
  | some x => if k.chan.toNat < x.chan.toNat then some k else some x
  | none => some k

/-- The payload of a scalar or control token; AUX of a notice or barrier token (R339). -/
def tokVal (k : Token) : Option Word :=
  match k.body with
  | .scalar w => some w
  | .control w => some w
  | .notice w => some w
  | .barrier w => some w
  | .burst _ => none
  | .sparse _ => none
  | .poison _ => some 0

/-- A counter after one more token. -/
def countTok (t : Nat) (x : Counting) (k : Token) : Counting :=
  { x with count := x.count + 1, sum := x.sum + (tokVal k).getD 0, lead := leadOf x.lead k, rels := x.rels ++ k.rel :: k.more,
           batch := x.batch.or (batchOf t k) }

/-- Set or free a counter. -/
def setCount (s : State) (t : Nat) (key : Nat) (x : Option Counting) : State :=
  modTile s t (fun tl => { tl with counts := match x with | some x => aput tl.counts key x | none => adel tl.counts key })

/-- A counting firing: its leading token with the result as payload, what it acquires. -/
def countFiring (t : Nat) (c : BitVec 3) (n : Nat) (tag : BitVec 20) (p : Nat) (lead : Token) (v : Word) (x : Counting)
    (more : AMap Token) : Firing :=
  let f := mkFiring t c n tag (aput more p { lead with body := .scalar v })
  { f with rels := x.rels, batch := x.batch.or f.batch }

/-- A poison at a counting kind fires the node at once; the tag's counter is discarded (R348). -/
def countPoison (s : State) (t : Nat) (k : Token) : State :=
  let c := k.ctx
  let n := k.dest.node.toNat
  setCount (readyFiring s t (mkFiring t c n k.tag [(k.dest.port.toNat, k)])) t (countKey c n k.tag) none

/-- One token on port 0 of a `join` that may count it. -/
def joinOne (r : NodeRec) (s : State) (t : Nat) (k : Token) : State :=
  let c := k.ctx
  let n := k.dest.node.toNat
  let key := countKey c n k.tag
  let x := countTok t (aget (tileOf s t).counts key {}) k
  if x.count < (r.literal.extractLsb' 0 16).toNat then setCount s t key (some x)
  else setCount (readyFiring s t (countFiring t c n k.tag 0 (x.lead.getD k) x.sum x [])) t key none

/-- The target of a `cwait` for a tag, with the port-1 token that gives it. -/
def cwaitTarget (r : NodeRec) (tl : Tile) (c : BitVec 3) (n : Nat) (tag : BitVec 20) : Option (Nat × Option Token) :=
  if r.nops = 1 then some (r.literal.toNat, none)
  else (held tl c n tag 1).bind (fun k => (tokVal k).map (fun v => (v.toNat, some k)))

/-- Fire a `cwait` whose count has reached its target (R349). -/
def cwaitCheck (r : NodeRec) (t : Nat) (c : BitVec 3) (n : Nat) (tag : BitVec 20) : Nat → State → State
  | 0, s => s
  | fuel + 1, s =>
    let tl := tileOf s t
    let key := countKey c n tag
    let x := aget tl.counts key {}
    match cwaitTarget r tl c n tag with
    | none => s
    | some (v, k) =>
      if x.count < v || (x.count = 0 && k.isNone) then s
      else
        let lead := match k with | some k => leadOf x.lead k | none => x.lead
        let more := match k with | some k => [(1, k)] | none => []
        let s1 := modTile s t (fun x => if k.isSome then takeTok x c n tag 1 else x)
        let f := countFiring t c n tag 3 (lead.getD {}) (BitVec.ofNat 64 x.count) x more
        let s2 := setCount (readyFiring s1 t f) t key none
        if k.isSome then cwaitCheck r t c n tag fuel s2 else s2

/-- One token on port 3 of a `cwait` that may count it. -/
def cwaitOne (r : NodeRec) (s : State) (t : Nat) (k : Token) : State :=
  let c := k.ctx
  let n := k.dest.node.toNat
  let key := countKey c n k.tag
  let s1 := setCount s t key (some (countTok t (aget (tileOf s t).counts key {}) k))
  cwaitCheck r t c n k.tag ((tileOf s t).store.length + 1) s1

/-- Count the tokens of the store that waited for a counter of the node, as far as counters are free (R348). -/
def recount (one : State → Nat → Token → State) (t : Nat) (c : BitVec 3) (n p : Nat) : Nat → State → State
  | 0, s => s
  | fuel + 1, s =>
    let tl := tileOf s t
    let q (f : Flight) : Bool := f.tok.ctx = c && f.tok.dest.node.toNat = n && f.tok.dest.port.toNat = p
      && canCount tl c n f.tok.tag
    match tl.store.find? q with
    | none => s
    | some f => recount one t c n p fuel (one (setTile s t { tl with store := dropFirst q tl.store }) t f.tok)

/-- A token of a burst kind at a value port. -/
def isData (k : Token) : Bool := match k.body with | .burst _ => true | .sparse _ => true | _ => false

/-- A token at a counted port. -/
def countArrive (one : State → Nat → Token → State) (valuePort : Bool) (s : State) (t : Nat) (f : Flight) : State :=
  let k := f.tok
  let c := k.ctx
  let n := k.dest.node.toNat
  let again (s : State) : State := recount one t c n k.dest.port.toNat ((tileOf s t).store.length + 1) s
  if k.poison?.isSome then again (countPoison s t k)
  else if valuePort && isData k then illegalTok s t k
  else if canCount (tileOf s t) c n k.tag then again (one s t k)
  else keepTok s t f

/-- A token at a `cwait` (R349). -/
def cwaitArrive (i : Instr) (r : NodeRec) (s : State) (t : Nat) (f : Flight) : State :=
  let k := f.tok
  let c := k.ctx
  let n := k.dest.node.toNat
  if !(awaited i r).contains k.dest.port.toNat then illegalTok s t k
  else if k.dest.port = 3 then countArrive (cwaitOne r) false s t f
  else if k.poison?.isSome then
    recount (cwaitOne r) t c n 3 ((tileOf s t).store.length + 1) (countPoison s t k)
  else if isData k then illegalTok s t k
  else match held (tileOf s t) c n k.tag 1, (tileLaunch s t).det with
    | some old, true => dupFiring (modTile s t (fun x => takeTok x c n k.tag 1)) t old k
    | _, _ =>
      let s1 := cwaitCheck r t c n k.tag ((tileOf s t).store.length + 2) (keepTok s t f)
      recount (cwaitOne r) t c n 3 ((tileOf s1 t).store.length + 1) s1

/-! ## A token of the current context (R179, R183, R344, R351) -/

/-- A token that a bin takes: sown, a notice, or poison (R351). -/
def binTakes (k : Token) : Bool :=
  match k.body with
  | .burst _ => true | .sparse _ => true | .notice _ => true | .poison _ => true | _ => false

/-- Match a token of the current context as though it had just arrived. -/
def matchTok (s : State) (t : Nat) (f : Flight) : State :=
  let k := f.tok
  let n := k.dest.node.toNat
  let r := nodeRec s t k.ctx n
  match nodeSlot s t k.ctx n, nodeInstr s t k.ctx n with
  | none, _ => deadLetter s f
  | some _, none => illegalTok s t k
  | some _, some i =>
    match i with
    | .nodeMerge _ =>
      if k.dest.port.toNat ≤ 1 then readyFiring s t (mkFiring t k.ctx n k.tag [(k.dest.port.toNat, k)]) else illegalTok s t k
    | .nodeBin _ =>
      if k.dest.port ≠ 0 || !binTakes k then illegalTok s t k
      else if k.poison?.isNone && (afind (tileOf s t).bins (nodeKey k.ctx n)).isNone then illegalTok s t k
      else keepTok s t f
    | .nodeJoin _ => if k.dest.port = 0 then countArrive (joinOne r) true s t f else illegalTok s t k
    | .nodeCwait _ => cwaitArrive i r s t f
    | _ => pairTok i r s t f

/-- Take a token into a tile: it is matched, or waits for its context (R179). -/
def acceptTok (s : State) (t : Nat) (f : Flight) : State :=
  if f.tok.ctx = (tileOf s t).ctx then matchTok (wakeUnit s t .matchUnit) t f else keepTok s t f

/-! ## Issue (R186) -/

/-- A firing has waited 2,048 MAT cycles during which its tile was active (R14, R186). -/
def aged (s : State) (t : Nat) (f : Firing) : Bool := f.since + 2048 * 20 ≤ matCyc s t

/-- Ascending tag, then node index (R186). -/
def keyBefore (a b : Firing) : Bool := a.tag.toNat < b.tag.toNat || (a.tag = b.tag && a.node < b.node)

/-- The first of a list in an order. -/
def firstBy (before : α → α → Bool) (l : List α) : Option α :=
  l.foldl (fun a f => match a with
    | some b => if before f b then some f else some b
    | none => some f) none

/-- The firing that issues next in a class: those that waited 2,048 MAT cycles by when they became ready, then the lowest tag and
node, which also order those that became ready in one cycle (R186). -/
def nextFiring (s : State) (t : Nat) (cls : IssueClass) : Option Firing :=
  let fs := (tileOf s t).ready.filter (fun f => classOf (nodeInstr s t f.ctx f.node) = cls)
  match firstBy (fun a b => a.since / 20 < b.since / 20 || (a.since / 20 = b.since / 20 && keyBefore a b)) (fs.filter (aged s t)) with
  | some f => some f
  | none => firstBy keyBefore fs

/-- GO for a launch has not reached the plot of a tile. -/
def goPending (s : State) (t h : Nat) : Bool :=
  let k := linkOf s (plotOf t)
  k.cmds.any (fun x => x.msg = .go h) || k.cmdWait.contains (.go h)

/-- A collective of a launch's tiles is in progress (R305). -/
def collBusy (s : State) (l : Launch) : Bool :=
  s.cmds.any (fun c => l.tileset.contains c.tile && (match c.kind with | .coll _ _ _ _ _ _ => true | _ => false))

/-- SAVE has taken effect for a launch without sowers: no collective of its tiles is in progress (R305, R306). -/
def saveStops (s : State) (l : Launch) : Bool := l.phase = .saving && l.sowers.isEmpty && !collBusy s l

/-- The tile runs firings: it is placed, not saved, and the active one of its physical tile, its last step is
not over, its launch does not stand still and it waits at no barrier for its save (R14, R139, R198, R305, R306). -/
def tileRuns (s : State) (t : Nat) : Bool :=
  let l := tileLaunch s t
  (tileOf s t).launch ≠ 0 && !(tileOf s t).parked && !goPending s t (tileOf s t).launch && !l.closing
    && !standsStill l && !l.save.any (·.stepPending) && !saveStops s l
    && (match l.phase with | .running => true | .draining => true | .saving => true | .killing => true | _ => false)

/-- The unit of a class can take a firing (R191, R432). -/
def unitFree (s : State) (t : Nat) (cls : IssueClass) : Bool :=
  match cls with
  | .b => (tileOf s t).slots.toList.any (fun x => x.phase = .free)
  | .c => (tileOf s t).mat.length < 8
  | _ => true

/-- Acquire from one release; one whose scope conditions fail acquires all the same and sets SCOPEMISS (R165, R234 to R236). -/
def acquireRel (s : State) (t : Nat) (f : Firing) (r : Release) : State × Firing :=
  let place := BitVec.ofNat 11 t
  let s1 := acquireAt s t r.scope
  if syncs r r.scope place then (s1, { f with clock := clkJoin f.clock r.clock })
  else match setSticky s1 t f statSCOPEMISS with
    | .ok p => p
    | .error e => (s1, { f with err := f.err.or (some (trackPoison s t f e)) })

/-- Receipt of a firing's tokens acquires (R165, R242). -/
def acquireFiring (s : State) (t : Nat) (f : Firing) : State × Firing :=
  ((f.ops.flatMap (fun p => p.2.rel :: p.2.more)) ++ f.rels).foldl (fun a r => acquireRel a.1 t a.2 r) (s, f)

/-- `FIRING_ISSUE` (R186): the next step performs the firing. -/
def execFiringIssue (s : State) : Host.Outcome State Fault Refusal :=
  onEvent (fun a => match a with | .issue t k => some (t, k) | _ => none) (fun (t, cls) s =>
    if !tileRuns s t || !unitFree s t cls then s
    else match nextFiring s t cls with
      | none => s
      | some f =>
        let (p, s1) := newId s
        let s2 := modTile s1 t (fun x => { x with ready := dropFirst (· = f) x.ready })
        let (s3, f1) := acquireFiring s2 t { f with party := p }
        { modTile s3 t (fun x => { x with busy := x.busy ++ [f1] }) with focus := .issue t f1 }) s

end Sys2Proof.Machine
end

