-- ==== Sys2Proof/Machine/Flags.lean ====
section
/-! DEFINITION. Conditions (R325, R366, R368), sticky bits set by a word (R264, R371, R385) and the words that write only
temporaries and predicates. -/

namespace Sys2Proof.Machine

open Sys2Proof

/-- cond(CC, a, b) over an order given as −1, 0, 1 (R325, R366). -/
def condOf (cc : Cc) (c : Int) : Bool :=
  match cc with
  | .eq => c = 0 | .ne => c ≠ 0 | .lt => c < 0 | .le => c ≤ 0 | .gt => 0 < c | .ge => 0 ≤ c | .uo => false

/-- The order of two integers. -/
def icmp (a b : Int) : Int := if a < b then -1 else if a = b then 0 else 1

/-- Floating comparison with its NV (R368). -/
def fcond (cc : Cc) (a b : Val) : Bool × Fl :=
  if a.isNan || b.isNan then
    let sig := a.isSig || b.isSig
    match cc with
    | .ne => (true, { nv := sig }) | .uo => (true, { nv := sig }) | .eq => (false, { nv := sig })
    | _ => (false, { nv := true })
  else (condOf cc (a.cmp b), {})

/-- Set sticky bits for a word in a slot, unless a marked source discards them (R202, R371). -/
def stickyWord (s : State) (t : Nat) (sl : Slot) (marked : Bool) (fl : Fl)
    (next : State → Slot → WRes) : WRes :=
  if marked then next s sl
  else
    match setSticky s t sl.firing fl.stat with
    | .error e => .fault s (trackPoison s t sl.firing e)
    | .ok (s1, f1) => next s1 { sl with firing := f1 }

/-- What a scalar word computes: a value for D, a value for PD, the conditions it met. -/
structure Calc where
  val : Word := 0
  pred : Bool := false
  fl : Fl := {}

/-- A word that writes only a temporary and a predicate (R371): marks go from sources to what is written. -/
def scalarWord (g : Guard) (srcs : List SOp) (psrcs : List (BitVec 2)) (d : Option SOp) (pd : Option (BitVec 2))
    (work : Slot → Calc) (s : State) : Host.Outcome State Fault Refusal :=
  runWord g true srcs d.toList pd.toList (fun t k sl gm s =>
    if parityBad (tileOf s t) (psrcs.map (badPred k)) then wfault s t k cUncorrectable else
    let m := gm || srcs.any (opMark sl) || psrcs.any (fun p => sl.pm[pIdx p])
    let c := work sl
    stickyWord s t sl m c.fl (fun s sl =>
      let sl1 := match d with | some d => wrT sl d c.val m | none => sl
      let sl2 := match pd with | some p => wrP sl1 p c.pred m | none => sl1
      .go (setSlot s t k sl2))) s

end Sys2Proof.Machine
end

