-- ==== Sys2Proof/Machine/Route.lean ====
section
/-! DEFINITION. Channels and route filters (R162 to R169). -/

namespace Sys2Proof.Machine

open Sys2Proof

/-- Fields of a channel entry (R163). -/
def chScale (e : BitVec 128) : BitVec 32 := e.extractLsb' 80 32
def chOfmt (e : BitVec 128) : Nat := (e.extractLsb' 72 8).toNat
def chRnd (e : BitVec 128) : Rm := (Rm.ofCode (e.extractLsb' 69 3).toNat).getD .rne
def chBlk (e : BitVec 128) : Nat := (e.extractLsb' 67 2).toNat
def chValid (e : BitVec 128) : Bool := e.getLsbD 63
def chConv (e : BitVec 128) : Bool := e.getLsbD 62
def chZr (e : BitVec 128) : Bool := e.getLsbD 61
def chKeep (e : BitVec 128) : Bool := e.getLsbD 60
def chTr (e : BitVec 128) : Bool := e.getLsbD 59
def chTrows (e : BitVec 128) : Nat := (e.extractLsb' 53 6).toNat
def chIfmt (e : BitVec 128) : Nat := (e.extractLsb' 40 8).toNat

/-- R162 and R164 for a send on a channel. -/
def chanCheck (tl : Tile) (c : BitVec 5) : Except (BitVec 8) (BitVec 128) :=
  if c.toNat < 4 then .error cChanReserved
  else if !chValid (chanOf tl c) then .error cChanInvalid
  else .ok (chanOf tl c)

/-- R164 and R257: an entry of ch4 to ch31 is accepted at validation. -/
def chanOk (e : BitVec 128) : Bool :=
  if !chValid e then e = 0
  else
    e.extractLsb' 112 16 = 0 && e.extractLsb' 48 5 = 0 && e.extractLsb' 0 40 = 0
      && (e.extractLsb' 69 3).toNat ≤ 4 && (e.extractLsb' 64 3).toNat ≤ 5
      && (if chConv e then (efmt (chOfmt e)).isSome && chOfmt e ≠ 0x0C && finite32 (chScale e)
              && (chScale e).toNat % 2 ^ 31 ≠ 0
              && (!(8 ≤ chOfmt e && chOfmt e ≤ 11) || chBlk e = chOfmt e - 8)
          else chOfmt e = 0 && (e.extractLsb' 67 5) = 0 && chScale e = 0)
      && (chTr e || chTrows e = 0) && (!chKeep e || chZr e)
      && (chIfmt e = 0 || (efmt (chIfmt e)).isSome)

/-- Transpose `rows` rows, row-major to column-major (R167). -/
def transpose (rows : Nat) (xs : List α) : List α :=
  let cols := xs.length / rows
  ((List.range cols).map (fun c => (List.range rows).filterMap (fun r => xs[r * cols + c]?))).flatten

/-- Whether element i of encoded data is +0 or −0 (R168). -/
def zeroElem (f : EFmt) (n : Nat) (l : List Byte) (i : Nat) : Bool :=
  match f with
  | .ty t => (tyVal t (lnat l (i * t.bytes) t.bytes)).isZero
  | .l4 b => (l4Val (l.getD (cdiv n 2 + i / b) 0).toNat (nib l i)).isZero
  | .mx => false

/-- A survivor bitmap (R168). -/
def bitmapOf (keep : List Bool) : List Byte :=
  (chunks 8 keep).map (fun c => BitVec.ofNat 8 ((c.zip (List.range 8)).foldl (fun a (b, i) => a + if b then 2 ^ i else 0) 0))

/-- Zero removal: bitmap, survivors in ascending order, block scales unchanged (R168). -/
def removeZeros (f : EFmt) (n : Nat) (l : List Byte) : List Byte :=
  let keep := (List.range n).map (fun i => !zeroElem f n l i)
  let idx := (List.range n).filter (fun i => keep.getD i false)
  let data := match f with
    | .ty t => (idx.map (fun i => (l.drop (i * t.bytes)).take t.bytes)).flatten
    | _ => packNib (idx.map (nib l))
  let scales := match f with
    | .l4 b => (l.drop (cdiv n 2)).take (cdiv n b)
    | _ => []
  bitmapOf keep ++ data ++ scales

/-- Expand zero-removed data: zeros restored (R168). -/
def expandZeros (f : EFmt) (n : Nat) (l : List Byte) : List Byte :=
  let nb := cdiv n 8
  let keep := (List.range n).map (fun i => (l.getD (i / 8) 0).getLsbD (i % 8))
  let cnt := (keep.filter id).length
  let body := l.drop nb
  let pos (i : Nat) : Nat := ((keep.take i).filter id).length
  match f with
  | .ty t => ((List.range n).map (fun i =>
      if keep.getD i false then padTo ((body.drop (pos i * t.bytes)).take t.bytes) t.bytes
      else List.replicate t.bytes 0)).flatten
  | .l4 b => packNib ((List.range n).map (fun i => if keep.getD i false then nib body (pos i) else 0))
      ++ (body.drop (cdiv cnt 2)).take (cdiv n b)
  | .mx => l

/-- Pad payload bytes to whole flits (R158). -/
def toFlits (l : List Byte) : List Byte := padTo l (cdiv l.length 64 * 64)

/-- H0 and H1 exchanged (R285, R431, R444). -/
def swapH (d : BitVec 3) : BitVec 3 := d.extractLsb' 2 1 ++ d.extractLsb' 0 1 ++ d.extractLsb' 1 1

/-- The route filter (R166 to R169): data in `ifmt`, NELEM and domain tag give a burst or a coordinate-sparse body and
the conditions met, or a fault. -/
def routeFilter (e : BitVec 128) (ifmt n : Nat) (dtag : BitVec 3) (seed : BitVec 32) (data : List Byte) :
    Except (BitVec 8) (Body × Fl) :=
  match efmt ifmt with
  | none => .error cRouteFilter
  | some fi =>
    if chTr e && n % (chTrows e + 1) ≠ 0 then .error cRouteFilter
    else
      let rm := chRnd e
      let raw := decodeAll fi n data
      let (x0, fl0) := if fi = .mx && (chConv e || chTr e) then toF32s raw else (raw, {})
      let sc := v32 (chScale e)
      let (x1, fl1) := if chConv e then
          let rs := x0.map (fun v => let (p, f) := v.mul sc; let (b, g) := FFmt.f32.round .rne 0 p; (FFmt.f32.decode b, f.or g))
          (rs.map (·.1), rs.foldl (fun a r => a.or r.2) fl0)
        else (x0, fl0)
      let x2 := if chTr e then transpose (chTrows e + 1) x1 else x1
      let (code, out, fl2) : Nat × List Byte × Fl :=
        if chConv e then
          let (o, g) := encodeAll ((efmt (chOfmt e)).getD .mx) rm seed x2
          (chOfmt e, o, g)
        else if chTr e then
          let f := if fi = .mx then 9 else ifmt
          let (o, g) := encodeAll ((efmt f).getD .mx) .rne seed x2
          (f, o, g)
        else if fi = .mx then
          let (o, g) := mxImport rm seed n data
          (9, o, g)
        else (ifmt, data.take (fmtBytes fi n), {})
      let out' := if chZr e then removeZeros ((efmt code).getD .mx) n out else out
      if 2048 < out'.length then .error cBurstLength
      else
        let b : Burst := { nelem := BitVec.ofNat 16 n, fmt := BitVec.ofNat 8 code,
                           dtag := if chTr e then swapH dtag else dtag, bytes := toFlits out', zx := chZr e && !chKeep e }
        .ok (if chZr e then .sparse b else .burst b, fl1.or fl2)

/-- A destination operand value (R373): context and DEST. -/
def sendDest (v : Word) : Option (BitVec 3 × Dest) :=
  if v.extractLsb' 29 35 = 0 && v.getLsbD 25 then some (v.extractLsb' 26 3, decDest (v.extractLsb' 0 26)) else none

/-- The channel of tokens that go on the leading token's channel: ch0 to ch3 become ch4 (R340). -/
def leadChan (c : BitVec 5) : BitVec 5 := if c.toNat < 4 then 4 else c

end Sys2Proof.Machine
end

