-- ==== Sys2Proof/Machine/Emit.lean ====
section
/-! DEFINITION. What a node firing sends (R340, R341). -/

namespace Sys2Proof.Machine

open Sys2Proof

/-- What one emission of a node says: the leading token's channel, tag, SEQ, RANKW, body. -/
structure Emission where
  chan : BitVec 5
  tag : BitVec 20
  seq : BitVec 16
  rankw : BitVec 16
  body : Body
  deriving DecidableEq, Repr

/-- The token of an emission for one destination field (R340). -/
def emitTok (t : Nat) (f : Firing) (e : BitVec 128) (m : Emission) (d : Dest) : Token :=
  { dest := d, ctx := f.ctx, tag := m.tag, chan := leadChan m.chan, seq := m.seq, rankw := m.rankw,
    origin := BitVec.ofNat 11 t, body := m.body, rel := mkRelease (chanScope e) (BitVec.ofNat 11 t) f.clock, batch := f.batch }

/-- Send an emission to destination fields in order, A before B; fields with V = 0 receive nothing; on a channel that is
not valid the firing faults in place of the token (R340, R341). -/
def emitTo (s : State) (t : Nat) (f : Firing) (m : Emission) (ds : List Dest) : State :=
  let vs := ds.filter (·.v)
  if vs.isEmpty then s
  else match chanCheck (tileOf s t) (leadChan m.chan) with
    | .error c => takeFault s t f (mkPoison s t f c)
    | .ok e => vs.foldl (fun s d => inject s { tok := emitTok t f e m d, launch := (tileOf s t).launch }) s

/-- An emission with the leading token's header fields and the firing's tag. -/
def emission (f : Firing) (lead : Token) (body : Body) : Emission :=
  { chan := lead.chan, tag := f.tag, seq := lead.seq, rankw := lead.rankw, body := body }

/-- Both destination fields of the firing's record. -/
def bothDests (r : NodeRec) : List Dest := [r.destA, r.destB]

/-- SIZE, SEXT and SPAD of `lds` and `sts` (R357). -/
def accBytes (r : NodeRec) : Nat := 2 ^ (r.literal.extractLsb' 0 2).toNat
def accSext (r : NodeRec) : Bool := r.literal.getLsbD 2
def accSpad (r : NodeRec) : Bool := r.literal.getLsbD 3

/-- What `lds` sends for the bytes it loaded (R357). -/
def ldsValue (r : NodeRec) (bs : List Byte) : Word :=
  if accSext r then BitVec.ofInt 64 (signed (8 * bs.length) (leNat bs)) else BitVec.ofNat 64 (leNat bs)

/-- An `lds` or `sts` firing whose access has been performed sends its token and ends (R357, R237). -/
def accDone (s : State) (t : Nat) (f : Firing) (v : Word) : State :=
  let r := nodeRec s t f.ctx f.node
  doneFiring (emitTo s t f (emission f (leadTok f) (.scalar v)) (bothDests r)) t f.party

end Sys2Proof.Machine
end

