-- ==== Sys2Proof/Machine/Haar.lean ====
section
/-! DEFINITION. The Haar domain (R269 to R283): transform, levels, thresholds, the compacted layout, the bias rule. A slab
is 4,096 FP32 bit patterns, row-major. -/

namespace Sys2Proof.Machine

open Sys2Proof

/-- An exact FP32 sum or difference, halved or not, rounded once with RNE (R270). -/
def haarOp (half minus : Bool) (a b : Nat) : Nat × Fl :=
  let y := FFmt.f32.decode b
  let (r, f) := (FFmt.f32.decode a).add .rne (if minus then y.neg else y)
  let (p, g) := FFmt.f32.round .rne 0 (if half then r.scale (-1) else r)
  (p, f.or g)

/-- Neighbouring pairs of a list. -/
def pairsOf : List α → List (α × α)
  | a :: b :: t => (a, b) :: pairsOf t
  | _ => []

/-- One of the conditions of several results. -/
def flsOf (rs : List (Nat × Fl)) : Fl := rs.foldl (fun a r => a.or r.2) {}

/-- The forward transform of 2^k elements into coefficient-tree rows (R270). -/
def haarFwd : Nat → List Nat → List Nat × Fl
  | 0, c => (c, {})
  | k + 1, c =>
    let a := (pairsOf c).map (fun p => haarOp true false p.1 p.2)
    let d := (pairsOf c).map (fun p => haarOp true true p.1 p.2)
    let (r, f) := haarFwd k (a.map (·.1))
    (r ++ d.map (·.1), ((flsOf a).or (flsOf d)).or f)

/-- The inverse, the approximations `c` against the details still to come (R270). -/
def haarInv : Nat → List Nat → List Nat → List Nat × Fl
  | 0, c, _ => (c, {})
  | k + 1, c, ds =>
    let u := (c.zip ds).flatMap (fun p => [haarOp false false p.1 p.2, haarOp false true p.1 p.2])
    let (r, f) := haarInv k (u.map (·.1)) (ds.drop c.length)
    (r, (flsOf u).or f)

/-- Forward transform of 64 elements. -/
def fwd64 (c : List Nat) : List Nat × Fl := haarFwd 6 c

/-- Inverse transform of 64 coefficients. -/
def inv64 (c : List Nat) : List Nat × Fl := haarInv 6 (c.take 1) (c.drop 1)

/-- Rows to columns of a list of equal rows. -/
def trRows : List (List α) → List (List α)
  | [] => []
  | [r] => r.map (fun x => [x])
  | r :: t => List.zipWith (fun x l => x :: l) r (trRows t)

/-- The slab with rows and columns exchanged. -/
def slabTr (s : List α) : List α := (trRows (chunks 64 s)).flatten

/-- A line transform along axis 1 of a slab. -/
def alongRows (f : List Nat → List Nat × Fl) (s : List Nat) : List Nat × Fl :=
  let rs := (chunks 64 s).map f
  ((rs.map (·.1)).flatten, rs.foldl (fun a r => a.or r.2) {})

/-- A line transform along axis 0 of a slab. -/
def alongCols (f : List Nat → List Nat × Fl) (s : List Nat) : List Nat × Fl :=
  let (r, fl) := alongRows f (slabTr s)
  (slabTr r, fl)

/-- Forward transform along the tagged axes, axis 0 first (R272). -/
def slabFwd (h : BitVec 3) (s : List Nat) : List Nat × Fl :=
  let (a, f) := if h.getLsbD 0 then alongCols fwd64 s else (s, {})
  let (b, g) := if h.getLsbD 1 then alongRows fwd64 a else (a, {})
  (b, f.or g)

/-- Inverse transform for a tag, axis 1 first (R272). -/
def slabInv (h : BitVec 3) (s : List Nat) : List Nat × Fl :=
  let (a, f) := if h.getLsbD 1 then alongRows inv64 s else (s, {})
  let (b, g) := if h.getLsbD 0 then alongCols inv64 a else (a, {})
  (b, f.or g)

/-- The level of a coefficient row (R271). -/
def haarLevel (i : Nat) : Nat := if i = 0 then 7 else 6 - Nat.log2 i

/-- The threshold register of coefficient (i, j) under H bits; without them th7 (R274, R423). -/
def thIndex (h : BitVec 3) (i j : Nat) : Nat :=
  match h.getLsbD 0, h.getLsbD 1 with
  | true, false => haarLevel i - 1
  | false, true => haarLevel j - 1
  | true, true => min (haarLevel i) (haarLevel j) - 1
  | false, false => 7

/-- A coefficient survives: a NaN, or |c| > T (R274). -/
def survives (c t : Nat) : Bool :=
  let a := c % 2 ^ 31
  0x7F800000 < a || t % 2 ^ 31 < a

/-- Which coefficients of a slab survive under eight thresholds. -/
def slabKeep (h : BitVec 3) (th : List (BitVec 32)) (s : List Nat) : List Bool :=
  (s.zip (List.range 4096)).map (fun (c, n) => survives c ((th.getD (thIndex h (n / 64) (n % 64)) 0).toNat))

/-- Removed coefficients become +0. -/
def applyKeep (keep : List Bool) (s : List Nat) : List Nat := List.zipWith (fun (k : Bool) c => if k then c else 0) keep s

/-- The bias rule: b is added to row 0 for tags with H0, to every row otherwise; under H1 its axis-1 transform
(R283, R425). The sums are exact values, rounded by the caller. -/
def slabBias (h : BitVec 3) (b : List Nat) (s : List Nat) : List (Option (Val × Fl)) × Fl :=
  let (b', f) := if h.getLsbD 1 then fwd64 b else (b, {})
  ((s.zip (List.range 4096)).map (fun (c, n) =>
    if h.getLsbD 0 && 64 ≤ n then none else some ((FFmt.f32.decode c).add .rne (FFmt.f32.decode (b'.getD (n % 64) 0)))), f)

/-- The bitmap and packed survivors of a compacted slab of element codes (R275). -/
def compactSlab (width : Nat) (keep : List Bool) (codes : List Nat) : List Byte :=
  let bm := (chunks 8 keep).map (fun c => BitVec.ofNat 8 ((c.zip (List.range 8)).foldl (fun a (b, i) => a + if b then 2 ^ i else 0) 0))
  bm ++ ((keep.zip codes).filterMap (fun p => if p.1 then some (bytesLE width p.2) else none)).flatten

/-- Expanding survivors: +0 where the bit is 0 (R277). -/
def expandGo (width : Nat) : List Bool → List Byte → List Nat
  | [], _ => []
  | true :: t, l => leNat (l.take width) :: expandGo width t (l.drop width)
  | false :: t, l => 0 :: expandGo width t l

/-- The element codes of a compacted slab (R275, R277). -/
def expandSlab (width : Nat) (l : List Byte) : List Nat :=
  expandGo width ((List.range 4096).map (fun i => (l.getD (i / 8) 0).getLsbD (i % 8))) (l.drop 512)

/-- Survivors of a compacted slab. -/
def slabPop (bitmap : List Byte) : Nat :=
  (bitmap.map (fun b => ((List.range 8).filter (fun i => b.getLsbD i)).length)).sum

end Sys2Proof.Machine
end

