-- ==== Sys2Proof/Machine/VecBase.lean ====
section
/-! DEFINITION. What vector words share: register images and lanes (R395), masks (R398), scalar operands (R397), the
checks of R399, implicit reconstruction (R281, R282), tracking (R400) and the one commit of a word (R396). -/

namespace Sys2Proof.Machine

open Sys2Proof

/-! ## Images, lanes, tags -/

/-- The 512-byte image of a vector register. -/
def regImg (tl : Tile) (v : Nat) : List Byte := rdBytes tl.vreg (512 * v) 512

/-- The domain tag of a vector register. -/
def regTag (tl : Tile) (v : Nat) : BitVec 3 := aget tl.vtag v 0

/-- Write a register and its tag (R396). -/
def setReg (tl : Tile) (v : Nat) (img : List Byte) (tag : BitVec 3) : Tile :=
  { tl with vreg := wrBytes tl.vreg (512 * v) img, vtag := asetd tl.vtag v tag 0,
            badWords := tl.badWords.filter (fun k => k / 32 ≠ 2 ^ 27 + v) }

/-- Write a register of which only the lanes where `on` holds are new: a 16-byte word that is not written whole keeps its error
(R10, R398). -/
def setRegOn (on : Nat → Bool) (b : Nat) (tl : Tile) (v : Nat) (img : List Byte) (tag : BitVec 3) : Tile :=
  { setReg tl v img tag with badWords := tl.badWords.filter (fun k =>
      k / 32 ≠ 2 ^ 27 + v || !(List.range (16 / b)).all (fun i => on (k % 32 * (16 / b) + i))) }

/-- Write scratchpad bytes; a 16-byte word written whole gets new check bits (R10). -/
def wrScratch (tl : Tile) (a : Nat) (bs : List Byte) : Tile :=
  { tl with scratch := wrBytes tl.scratch a bs,
            badWords := tl.badWords.filter (fun k => !(a ≤ k * 16 && k * 16 + 16 ≤ a + bs.length)) }

/-- The lanes of an image under a lane size in bytes (R395). -/
def toLanes (b : Nat) (img : List Byte) : List Nat := (chunks b img).map leNat

/-- Lanes back to bytes. -/
def ofLanes (b : Nat) (ls : List Nat) : List Byte := (ls.map (bytesLE b)).flatten

/-- The lanes of a register under a type. -/
def lanesAt (tl : Tile) (t : Ty) (v : Nat) : List Nat := toLanes t.bytes (regImg tl v)

/-- Bit i of an image (R398). -/
def imgBit (img : List Byte) (i : Nat) : Bool := (img.getD (i / 8) 0).getLsbD (i % 8)

/-- Types whose registers form slab groups (R282). -/
def haarTy (t : Ty) : Bool := t = .f16 || t = .bf16 || t = .f32

/-! ## What a word works on and what it gives -/

/-- What a vector word sees: the tile, the slot, the context's declared limits (R130). -/
structure VEnv where
  tl : Tile
  sl : Slot
  vregs : Nat
  scratch : Nat

/-- What a vector word does: the tile with its registers and scratchpad written, the units it read and wrote (R400),
its scalar result, the conditions it met. -/
structure VOut where
  tl : Tile
  reads : List Nat := []
  writes : List Nat := []
  sreads : List (Nat × Nat) := []
  swrites : List (Nat × Nat) := []
  treads : List Nat := []
  twrites : List Nat := []
  out : Option (SOp × Word) := none
  fl : Fl := {}

/-- The footprint of what a word did. -/
def VOut.foot (o : VOut) : Foot := { regs := o.reads ++ o.writes, spad := o.sreads ++ o.swrites }

/-- Track extents of a tile's units (R400, R249). -/
def trackMany (t : Nat) (wr : Bool) : List (Nat × Nat) → State → Firing → Except (BitVec 8 × Option TrackBy) (State × Firing)
  | [], s, f => .ok (s, f)
  | (a, n) :: r, s, f =>
    match trackTile s t f wr a n with
    | .error e => .error e
    | .ok (s1, f1) => trackMany t wr r s1 f1

/-- Where a vector register is tracked (R400). -/
def vregUnit (v : Nat) : Nat × Nat := ((regLine + 1 + v) * 128, 8)

/-- Where a threshold register is tracked (R385). -/
def thUnit (n : Nat) : Nat × Nat := ((regLine + 2049 + n) * 128, 8)

/-- Track what a vector word read and wrote. -/
def trackOut (s : State) (t : Nat) (f : Firing) (o : VOut) : Except (BitVec 8 × Option TrackBy) (State × Firing) :=
  match trackMany t false (o.reads.map vregUnit ++ o.sreads ++ o.treads.map thUnit) s f with
  | .error e => .error e
  | .ok (s1, f1) => trackMany t true (o.writes.map vregUnit ++ o.swrites ++ o.twrites.map thUnit) s1 f1

/-- Keys of uncorrectable 16-byte words: scratchpad, vector registers (R10, R310). -/
def badSpad (a : Nat) : Nat := a / 16
def badReg (v j : Nat) : Nat := 2 ^ 32 + v * 32 + j

/-- A word read is uncorrectable (R10). -/
def readsBad (tl : Tile) (regs : List Nat) (spad : List (Nat × Nat)) : Bool :=
  tl.badWords.any (fun k =>
    if k < 2 ^ 32 then spad.any (fun p => extMeet (k * 16, 16) p) else regs.contains ((k - 2 ^ 32) / 32))

/-- The tile after a word, every other part of the tile as it is now. -/
def commitTile (now o : Tile) : Tile := { now with vreg := o.vreg, vtag := o.vtag, scratch := o.scratch, th := o.th,
                                                             badWords := o.badWords }

/-- The environment of a word in a slot. -/
def vEnv (s : State) (t : Nat) (sl : Slot) : VEnv :=
  let im := imageOf s t sl.firing.ctx
  { tl := tileOf s t, sl := sl, vregs := im.vregs, scratch := im.scratch }

/-- Commit what a vector word did: tracking, registers and scratchpad, sticky bits, the scalar result with its mark. -/
def vecCommit (s : State) (t : Nat) (k : Fin 4) (sl : Slot) (o : VOut) (gm : Bool) : WRes :=
  if readsBad (tileOf s t) o.reads o.sreads then wfault s t k cUncorrectable
  else
    match trackOut s t sl.firing o with
    | .error e => .fault s (trackPoison s t sl.firing e)
    | .ok (s1, f1) =>
      stickyWord s1 t { sl with firing := f1 } false o.fl (fun s2 sl2 =>
        let s3 := modTile (wakeUnit s2 t .vectorEngine) t (fun now => commitTile now o.tl)
        let sl3 := match o.out with | some (d, v) => wrT sl2 d v gm | none => sl2
        .go (setSlot s3 t k sl3))

/-- A vector word (R395 to R427): `regs` are the registers its fields name; `work` makes the checks of R399 and gives
what the word does. It waits while a register it touches is still to be written; one that writes only a temporary runs under a
marked guard (`scalar`, R202). -/
def vecWordM (scalar : Bool) (g : Guard) (enc : State → Nat → Slot → Bool) (srcs ds : List SOp) (regs : Slot → List Nat)
    (work : VEnv → Except (BitVec 8) VOut) (s : State) : Host.Outcome State Fault Refusal :=
  runWordE g enc scalar srcs ds [] (fun t k sl gm s =>
    if srcs.any (opMark sl) then wfault s t k cNondet
    else locked s t k { regs := regs sl } (fun s =>
      match work (vEnv s t sl) with
      | .error c => wfault s t k c
      | .ok o => locked s t k o.foot (fun s => vecCommit s t k sl o gm))) s

/-- A vector word that writes more than a temporary (R202). -/
def vecWord (g : Guard) (enc : State → Nat → Slot → Bool) (srcs ds : List SOp) (regs : Slot → List Nat)
    (work : VEnv → Except (BitVec 8) VOut) (s : State) : Host.Outcome State Fault Refusal :=
  vecWordM false g enc srcs ds regs work s

/-! ## Operands and reconstruction -/

/-- The scalar operand of a V word (R397). -/
def vScalar (w : VWord) : SOp := opCode (w.vb.toNat % 32)

/-- The scalar sources of a V word whose VB may be a scalar. -/
def vSrc (w : VWord) : List SOp := if w.sb then [vScalar w] else []

/-- The scalar read at the lane type (R397). -/
def vScal (e : VEnv) (w : VWord) : Nat := (opVal e.sl (vScalar w)).toNat % 2 ^ (8 * w.ty.bytes)

/-- Operand b in every lane: VB's lanes or the scalar. -/
def vLanesB (e : VEnv) (tl : Tile) (w : VWord) : List Nat :=
  if w.sb then List.replicate (lanes w.ty) (vScal e w) else lanesAt tl w.ty w.vb.toNat

/-- The mask register of a V word. -/
def vMask (w : VWord) : List Nat := if w.me then [w.vm.toNat] else []

/-- Lane i is enabled (R398). -/
def laneOn (tl : Tile) (w : VWord) : Nat → Bool :=
  if w.me then imgBit (regImg tl w.vm.toNat) else fun _ => true

/-- Every register lies below VREGS (R399 step 2). -/
def regsBelow (e : VEnv) (rs : List Nat) : Except (BitVec 8) Unit :=
  if rs.all (· < e.vregs) then .ok () else .error cPartition

/-- The groups of the tagged registers among the sources (R281). -/
def taggedGroups (tl : Tile) (t : Ty) (rs : List Nat) : List Nat :=
  ((rs.filter (fun r => regTag tl r ≠ 0)).map (fun r => r - r % groupLen t)).eraseDups

/-- The registers of a group. -/
def groupRegs (t : Ty) (base : Nat) : List Nat := (List.range (groupLen t)).map (base + ·)

/-- The slab of a group as FP32 bits, row-major (R281, R420). -/
def groupSlab (tl : Tile) (t : Ty) (base : Nat) : List Nat :=
  ((groupRegs t base).map (fun r => (lanesAt tl t r).map (fun x => (f32 (tyVal t x)).toNat))).flatten

/-- Put a slab of FP32 bits into a group: each value rounded RNE once to the type (R420). -/
def putGroup (tl : Tile) (t : Ty) (base : Nat) (slab : List Nat) (tag : BitVec 3) : Tile × Fl :=
  let rs := slab.map (fun x => if t = .f32 then (x, {}) else tyCv t .rne 0 (FFmt.f32.decode x))
  let imgs := chunks 512 (ofLanes t.bytes (rs.map (·.1)))
  (((groupRegs t base).zip imgs).foldl (fun tl p => setReg tl p.1 p.2 tag) tl, flsOf rs)

/-- Reconstruct one group in place (R281). -/
def reconOne (tl : Tile) (t : Ty) (base : Nat) : Tile × Fl :=
  let (x, f) := slabInv (regTag tl base) (groupSlab tl t base)
  let (tl1, g) := putGroup tl t base x 0
  (tl1, f.or g)

/-- Reconstruct several groups. -/
def reconAll (t : Ty) : List Nat → Tile → Tile × Fl
  | [], tl => (tl, {})
  | b :: r, tl =>
    let (tl1, f) := reconOne tl t b
    let (tl2, g) := reconAll t r tl1
    (tl2, f.or g)

/-- All registers of a group carry one tag (R420). -/
def evenGroup (tl : Tile) (t : Ty) (base : Nat) : Bool := (groupRegs t base).all (fun r => regTag tl r = regTag tl base)

/-- The checks and the implicit reconstruction of the reconstructing class (R282, R399): the tile with every tagged
source group reconstructed, the registers of those groups, the conditions met. -/
def recon (e : VEnv) (t : Ty) (rs named : List Nat) : Except (BitVec 8) (Tile × List Nat × Fl) := do
  let gs := if haarTy t then taggedGroups e.tl t rs else []
  let gr := gs.flatMap (groupRegs t)
  regsBelow e (named ++ gr)
  if !haarTy t && rs.any (fun r => regTag e.tl r ≠ 0) then throw cDomain
  if gs.any (fun b => !evenGroup e.tl t b) then throw cDomain
  let (tl, fl) := reconAll t gs e.tl
  return (tl, gr, fl)

/-- With a mask, a destination whose disabled lanes stay must carry the result's tag (R398). -/
def keepTag (tl : Tile) (w : VWord) (vd : Nat) (tag : BitVec 3) : Except (BitVec 8) Unit :=
  if w.me && regTag tl vd ≠ tag then .error cDomain else .ok ()

/-- New lanes where enabled, old ones elsewhere. -/
def mergeLanes (on : Nat → Bool) (old new : List Nat) : List Nat :=
  ((old.zip new).zip (List.range old.length)).map (fun (p, i) => if on i then p.2 else p.1)

/-- Conditions of the enabled lanes. -/
def onFl (on : Nat → Bool) (rs : List (Nat × Fl)) : Fl :=
  (rs.zip (List.range rs.length)).foldl (fun a (r, i) => if on i then a.or r.2 else a) {}

/-- Write lane results to VD under the mask with a tag. -/
def putLanes (tl : Tile) (w : VWord) (t : Ty) (rs : List (Nat × Fl)) (tag : BitVec 3) : Tile × Fl :=
  let on := laneOn tl w
  let vd := w.vd.toNat
  (setRegOn on t.bytes tl vd (ofLanes t.bytes (mergeLanes on (lanesAt tl t vd) (rs.map (·.1)))) tag, onFl on rs)

end Sys2Proof.Machine
end

