-- ==== Sys2Proof/Machine/Home.lean ====
section
/-! DEFINITION. Memory requests on their way: passing translation and conflict tracking, being performed at their point,
and how a late fault reaches its issuer (R72, R87, R232 to R240, R248, R290, R294; log 10). -/

namespace Sys2Proof.Machine

open Sys2Proof

/-! ## Tracking at the home slices (R248 to R250) -/

/-- The key of a launch's entry for a line. -/
def trackKey (h : Nat) (asid : BitVec 12) (ia : Nat) : Nat := h * 2 ^ 49 + lineKey asid ia

/-- The home slice of a tracking entry. -/
def trackSlice (key : Nat) : Nat := key % 2 ^ 37 % 80

/-- A home slice has 65,536 entries (R250). -/
def homeFull (m : AMap (List TrackUnit)) (line : Nat) : Bool :=
  65536 ≤ (m.filter (fun p => trackSlice p.1 = trackSlice line)).length

/-- Track an access of a launch to device memory of this package; outside deterministic mode and in the host aperture
nothing is tracked. -/
def trackHome (s : State) (h : Nat) (f : Formed) (n : Nat) (acc : TrackAcc) :
    Except (BitVec 8 × Option TrackBy) State :=
  let ia := f.ia.toNat
  if !(launchOf s h).det || isHostIA ia || !pkgIsLocal s (iaPkg ia) then .ok s
  else
    match trackBytes homeFull s.track acc (trackKey h f.asid ia * 128 + ia % 128) (unitsOf ia n) with
    | .error e => .error e
    | .ok m => .ok { s with track := m }

/-- Track an access of a firing to memory at the home slices; its clock advances. -/
def trackMem (s : State) (t : Nat) (f : Firing) (a : Formed) (n : Nat) (write : Bool) :
    Except (BitVec 8 × Option TrackBy) (State × Firing) :=
  let (pos, c) := bumpClock f.clock f.party
  let acc : TrackAcc := { by_ := ⟨f.party, pos, BitVec.ofNat 11 t, f.tag, none⟩, clock := f.clock, write := write, atom := none }
  match trackHome s (tileOf s t).launch a n acc with
  | .error e => .error e
  | .ok s1 => .ok (s1, { f with clock := c })

/-! ## Requests -/

/-- Put a request on its way. An access to the host aperture passes no translation of the device (R17). -/
def issueReq (s : State) (r : Req) : State :=
  { wakeUnit s r.tile .memoryPort with reqs := s.reqs ++ [{ r with since := s.time, pte := if isHostIA r.addr.ia.toNat then some [] else none }] }

/-- A slot by its number. -/
def slotFin (k : Nat) : Option (Fin 4) := if h : k < 4 then some ⟨k, h⟩ else none

/-- Drop a request and let its slot go on. -/
def dropReq (s : State) (r : Req) : State :=
  let s0 := { s with reqs := s.reqs.filter (fun x => x.id ≠ r.id) }
  let s1 := if r.held.isSome then pruneHeld s0 else s0
  match r.slot.bind slotFin with
  | none => s1
  | some k =>
    settle (modSlot s1 r.tile k (fun x => { x with
      reqs := x.reqs.filter (· ≠ r.id), fence := x.fence.filter (· ≠ r.id), pend := x.pend.filter (fun p => p.2 ≠ r.id) }))
      r.tile k

/-- The poison of a late fault (R288, R290). -/
def latePoison (s : State) (r : Req) (code : BitVec 8) (detail : Nat) : Poison :=
  { srcTile := BitVec.ofNat 11 r.tile, srcNode := r.node, srcCtx := r.ctx, prec := codePrecise code, code := code,
    addr := r.addr.ia.setWidth 64, addrKind := 2, detail := BitVec.ofNat 64 detail, step := (tileOf s r.tile).stepid,
    tag := r.tag, strm := match r.party with | .stream _ _ n => some n | _ => none, time := BitVec.ofNat 64 s.time }

/-- A late fault reaches a codelet: it ends where it has run to, sends still held are not made (R290). -/
def lateSlot (s : State) (t : Nat) (k : Fin 4) (p : Poison) : State :=
  settle (modSlot s t k (fun x => { x with phase := .draining, late := x.late.or (some p), held := [] })) t k

/-- The firing in progress with a party number. -/
def busyFiring (s : State) (t pnum : Nat) : Option Firing := (tileOf s t).busy.find? (fun f => f.party = pnum)

/-- A stream fails: its later accesses are not performed, and those that load deliver the same poison (R239, R294). -/
def failStream (s : State) (t : Nat) (c : BitVec 3) (n : BitVec 4) (p : Poison) : State :=
  let st := streamOf s t c n
  let s1 := setStream s t c n { st with failed := st.failed.or (some p) }
  let rs := s1.reqs.filter (fun r => r.party = .stream t c n)
  rs.foldl (fun s r =>
    let s2 := match r.slot.bind slotFin with
      | some k => modSlot s r.tile k (fun x => { x with phase := .draining, late := x.late.or (some p), held := [] })
      | none => s
    dropReq s2 r) s1

/-- A late fault of a request reaches its issuer as this poison (R294). -/
def lateFaultBy (s : State) (r : Req) (p : Poison) : State :=
  match r.party with
  | .stream t c n => failStream s t c n p
  | _ =>
    match r.op, r.dest, r.slot.bind slotFin with
    | .prefetch _, _, _ => dropReq s r
    | _, .node, _ =>
      match busyFiring s r.tile r.pnum with
      | some f => doneFiring (takeFault (dropReq s r) r.tile f p) r.tile f.party
      | none => dropReq s r
    | _, _, some k => dropReq (lateSlot s r.tile k p) r
    | _, _, none => dropReq s r

/-- A late fault of a request with its code and detail. -/
def lateFault (s : State) (r : Req) (code : BitVec 8) (detail : Nat) : State := lateFaultBy s r (latePoison s r code detail)

/-! ## Answers -/

/-- Expand a compacted slab, decode and convert it (R461, R277). -/
def slabLanes (ty : Ty) (fmt : Nat) (cmp : Bool) (bs : List Byte) : List Nat × Fl :=
  match efmt fmt with
  | none => ([], {})
  | some f =>
    let vs := match cmp, f with
      | true, .ty e => (expandSlab e.bytes bs).map (tyVal e)
      | _, _ => decodeAll f 4096 bs
    let rs := vs.map (fun v => tyCv ty .rne 0 v)
    (rs.map (·.1), flsOf rs)

/-- Write an answer where it goes. -/
def putAnswer (s : State) (r : Req) (bs : List Byte) : State :=
  match r.dest with
  | .none => s
  | .node => s
  | .reg k d ty =>
    match slotFin k with
    | none => s
    | some k => modSlot s r.tile k (fun x =>
        { x with t := x.t.set d (wrTy ty (leNat bs)) })
  | .group k v ty fmt tags =>
    match slotFin k with
    | none => s
    | some k =>
      let (ls, fl) := slabLanes ty fmt.toNat (tags.getLsbD 2) bs
      let imgs := chunks 512 (ofLanes ty.bytes ls)
      let tag : BitVec 3 := tags.setWidth 3 &&& 3#3
      let s1 := modTile s r.tile (fun tl => ((groupRegs ty v).zip imgs).foldl (fun tl p => setReg tl p.1 p.2 tag) tl)
      match setSticky s1 r.tile (slotOf s1 r.tile k).firing fl.stat with
      | .ok (s2, f) => modSlot s2 r.tile k (fun x => { x with firing := f })
      | .error e => lateSlot s1 r.tile k (trackPoison s1 r.tile (slotOf s1 r.tile k).firing e)

/-- The request is performed at a home slice of this package. -/
def atHome (s : State) (r : Req) : Bool := !isHostIA r.addr.ia.toNat && pkgIsLocal s (iaPkg r.addr.ia.toNat)

/-- The ordering half of an access: it acquires, it releases. -/
def ordAcq (o : Ord) : Bool := o = .acq || o = .ar
def ordRel (o : Ord) : Bool := o = .rel || o = .ar

/-- The lines of an extent as their first addresses. -/
def linesOf (ia n : Nat) : List Nat := (List.range ((ia + n - 1) / 128 - ia / 128 + 1)).map (fun i => (ia / 128 + i) * 128)

/-- What releases have left at the lines of a request, each with the line's first address. -/
def relsAt (s : State) (r : Req) : List (Nat × LineRel) :=
  (linesOf r.addr.ia.toNat r.op.size).filterMap (fun a => (afind s.lineRel (lineKey r.addr.asid a)).map (fun x => (a, x)))

/-- The unit of a line is among the bytes of a request. -/
def unitMeets (r : Req) (line u : Nat) : Bool := extMeet (line + u * 8, 8) (r.addr.ia.toNat, r.op.size)

/-- The clock of a request once it has acquired from the releases it observes and synchronises with (R234). -/
def reqClock (s : State) (r : Req) : Clock :=
  if !ordAcq r.ord || !atHome s r then r.clock
  else (relsAt s r).foldl (fun c (a, x) => x.units.foldl (fun c (u, _, rel) =>
    if unitMeets r a u && syncs rel r.scope (BitVec.ofNat 11 r.tile) then clkJoin c rel.clock else c) c) r.clock

/-- An acquire access one of whose lines holds a release it does not synchronise with sets SCOPEMISS (R236). -/
def scopeMiss (s : State) (r : Req) : State :=
  let miss := (relsAt s r).any (fun x => x.2.last.any (fun rel => !syncs rel r.scope (BitVec.ofNat 11 r.tile)))
  match r.slot.bind slotFin with
  | some k =>
    if !miss then s
    else
      match setSticky s r.tile (slotOf s r.tile k).firing statSCOPEMISS with
      | .ok (s1, f) => modSlot s1 r.tile k (fun x => { x with firing := f })
      | .error e => lateSlot s r.tile k (trackPoison s r.tile (slotOf s r.tile k).firing e)
  | none => s

/-- An access acquires: its firing knows what the releases it observed cover, and near copies are discarded (R234 to R236). -/
def acquireReq (s : State) (r : Req) : State :=
  let s1 := match r.slot.bind slotFin with
    | some k => modSlot s r.tile k (fun x => { x with firing := { x.firing with clock := clkJoin x.firing.clock (reqClock s r) } })
    | none => s
  acquireAt (if atHome s r then scopeMiss s1 r else s1) r.tile r.scope

/-- Leave a release at every line and unit of a request (R236). -/
def leaveRel (s : State) (r : Req) : State :=
  let rel := mkRelease r.scope (BitVec.ofNat 11 r.tile) (reqClock s r)
  { s with lineRel := (linesOf r.addr.ia.toNat r.op.size).foldl (fun m a => amod m (lineKey r.addr.asid a) {} (fun x =>
      { last := some rel
        units := ((List.range 16).filter (unitMeets r a)).foldl (fun us u => aput us u (r.pnum, rel)) x.units })) s.lineRel }

/-- What the ordering of a performed access does: an acquire, a release recorded with its lines, a plain write over another
party's release (R234 to R236). -/
def orderDone (s : State) (r : Req) (wrote : Bool) : State :=
  let s1 := if ordAcq r.ord then acquireReq s r else s
  if !atHome s r then s1
  else if ordRel r.ord then leaveRel s1 r
  else if wrote then staleRel s1 (some r.pnum) r.addr.asid r.addr.ia.toNat r.op.size else s1

/-- Add a line range to a stream's log, merging across the smallest gap before a fifth range starts (R75). -/
def logInsert (x : Nat × Nat) : List (Nat × Nat) → List (Nat × Nat)
  | [] => [x]
  | y :: t =>
    if x.2 + 1 < y.1 then x :: y :: t
    else if y.2 + 1 < x.1 then y :: logInsert x t
    else logInsert (min x.1 y.1, max x.2 y.2) t

/-- Merge the two ranges with the smallest gap; ties go to the lower addresses (R75). -/
def logMerge (l : List (Nat × Nat)) : List (Nat × Nat) :=
  let gaps := (l.zip (l.drop 1)).map (fun p => p.2.1 - p.1.2)
  match gaps.min? with
  | none => l
  | some g => match gaps.findIdx? (· = g), l with
    | some i, l => l.take i ++ ((l.drop i).take 2 |> fun ab => match ab with
        | [a, b] => [(a.1, b.2)]
        | o => o) ++ l.drop (i + 2)
    | none, l => l

def logAdd (l : List (Nat × Nat)) (va n : Nat) : List (Nat × Nat) :=
  let x := (va / 128, (va + n - 1) / 128)
  let touches := l.any (fun y => y.1 ≤ x.2 + 1 && x.1 ≤ y.2 + 1)
  if 4 ≤ l.length && !touches then logInsert x (logMerge l) else logInsert x l

/-- A store of a stream has been performed: it counts in the dirty log (R75, R239). -/
def streamWrote (s : State) (r : Req) : State :=
  match r.party, r.op with
  | .stream t c n, .store bs =>
    if (tileLaunch s t).dlog = 0 then s
    else setStream s t c n (let x := streamOf s t c n; { x with log := logAdd x.log r.addr.va.toNat bs.length })
  | _, _ => s

/-- A request has been performed with these bytes as its answer. -/
def reqDone (s : State) (r : Req) (bs : List Byte) (wrote : Bool) : State :=
  let s1 := dropReq (orderDone (streamWrote (putAnswer s r bs) r) r wrote) r
  match r.dest with
  | .node =>
    match busyFiring s1 r.tile r.pnum with
    | some f =>
      let rec_ := nodeRec s1 r.tile f.ctx f.node
      accDone s1 r.tile f (match r.op with | .load _ => ldsValue rec_ bs | _ => r.addr.va)
    | none => s1
  | _ => s1

/-! ## Performing -/

/-- The new value of an atomic, if it writes (R452, R453). -/
def atomNew (op : AtomOp) (ty : Ty) (v v2 old : Nat) : Option Nat :=
  let w := 8 * ty.bytes
  let x := signed w old
  let y := signed w v
  let lt := if tySigned ty then x ≤ y else old ≤ v
  match op with
  | .add => some ((old + v) % 2 ^ w)
  | .addf => some (((tyF ty).getD .f32).round .rne 0 ((tyVal ty old).add .rne (tyVal ty v)).1).1
  | .min => some (if lt then old else v)
  | .max => some (if lt then v else old)
  | .and => some (old &&& v)
  | .or => some (old ||| v)
  | .xor => some (old ^^^ v)
  | .xch => some v
  | .cas => if old = v then some v2 else none

/-- Bytes of `ty` in an atomic's operand. -/
def atomArg (ty : Ty) (v : Word) : Nat := v.toNat % 2 ^ (8 * ty.bytes)

/-- The word of the page an address lies in, among those of an extent that starts at `ia`. -/
def wordAt (ws : List Nat) (ia a : Nat) : Nat := ws.getD (a / 65536 - ia / 65536) 0

/-! ## Near slices (R175, R232) -/

/-- Put a line first in the order of use; a full set of 16 ways loses its least recently used copy (R175, log 62). -/
def nearPut (l : List NearLine) (x : NearLine) : List NearLine :=
  let l1 := l.filter (fun y => y.key ≠ x.key)
  match (l1.filter (fun y => y.key % 2048 = x.key % 2048)).drop 15 with
  | y :: _ => x :: l1.filter (fun z => z.key ≠ y.key)
  | [] => x :: l1

/-- The copy of a line. -/
def nearFind (l : List NearLine) (key : Nat) : Option NearLine := l.find? (fun y => y.key = key)

/-- Fill a plot's near copies of the lines of an extent that are homed elsewhere (R175, R232). -/
def fillNear (s : State) (plot : Nat) (f : Formed) (n : Nat) (ws : List Nat) : State :=
  let ia := f.ia.toNat
  let ls := (linesOf ia n).filter (fun a => sliceOf a ≠ plot)
  ls.foldl (fun s a =>
    { s with near := amod s.near plot [] (fun l =>
        nearPut l ⟨lineKey f.asid a, rdBytes s.mem (pageByte (wordAt ws ia a) (a % 65536)) 128⟩) }) s

/-- A request of a tile of the plot that has passed and is not performed stands on lines of the extent: what the slice holds of them
is not their latest (R232, R233). -/
def nearOld (s : State) (plot : Nat) (asid : BitVec 12) (ia n : Nat) : Bool :=
  s.reqs.any (fun x => x.pte.isSome && plotOf x.tile = plot && !isHostIA x.addr.ia.toNat && x.addr.asid = asid
    && extMeet (iaLocal x.addr.ia.toNat / 128 * 128, iaLocal x.addr.ia.toNat % 128 + x.op.size) (iaLocal ia / 128 * 128, iaLocal ia % 128 + n))

/-- The bytes of an extent from a plot's near slice, if all its lines are there and current; they are then the ones used last. -/
def nearHit (s : State) (plot : Nat) (f : Formed) (n : Nat) : Option (State × List Byte) :=
  let ia := f.ia.toNat
  let l := aget s.near plot []
  let xs := (linesOf ia n).map (fun a => nearFind l (lineKey f.asid a))
  if xs.all (·.isSome) && !nearOld s plot f.asid ia n then
    let ys := xs.filterMap id
    some ({ s with near := aput s.near plot (ys.foldl nearPut l) }, (((ys.map (·.bytes)).flatten).drop (ia % 128)).take n)
  else none

/-- A tile's store updates its near slice's copies (R232). -/
def nearStore (s : State) (plot : Nat) (f : Formed) (bs : List Byte) : State :=
  let ia := f.ia.toNat
  { s with near := amod s.near plot [] (fun l => l.map (fun x =>
      match (linesOf ia bs.length).find? (fun a => lineKey f.asid a = x.key) with
      | none => x
      | some a => { x with bytes := (x.bytes.zip (List.range 128)).map (fun (b, i) =>
          if ia ≤ a + i && a + i < ia + bs.length then bs.getD (a + i - ia) 0 else b) })) }

/-- An atomic discards the near slice's copy of its line (R232). -/
def nearDrop (s : State) (plot : Nat) (f : Formed) (n : Nat) : State :=
  { s with near := amod s.near plot [] (fun l => l.filter (fun x => !((linesOf f.ia.toNat n).any (fun a => lineKey f.asid a = x.key)))) }

/-- What a performed write does to the near slice of its tile. -/
def nearWrote (s : State) (r : Req) : State :=
  match r.op with
  | .store bs => nearStore s (plotOf r.tile) r.addr bs
  | .atom _ _ _ _ _ => nearDrop s (plotOf r.tile) r.addr r.op.size
  | _ => s

/-! ## Performing at a home slice -/

/-- The kind of access of a request. -/
def ReqOp.acc : ReqOp → Acc
  | .load _ => .load
  | .store _ => .store
  | .atom _ _ _ _ _ => .atomic
  | .prefetch _ => .load

/-- The access writes: a comparison that differs counts as a read (R453). -/
def reqWrites (op : ReqOp) (old : Nat) : Bool :=
  match op with
  | .load _ => false
  | .prefetch _ => false
  | .store _ => true
  | .atom o ty v v2 _ => (atomNew o ty (atomArg ty v) (atomArg ty v2) old).isSome

/-- The request as the home slice tracks it, after what it acquires. -/
def reqTrack (s : State) (r : Req) (old : Nat) : TrackAcc :=
  let strm : Option (BitVec 4) := match r.party with | .stream _ _ n => some n | _ => none
  { by_ := ⟨r.pnum, aget r.clock r.pnum 0, BitVec.ofNat 11 r.tile, r.tag, strm⟩, clock := reqClock s r,
    write := reqWrites r.op old,
    atom := match r.op with | .atom o _ _ _ true => some o | _ => none }

/-- The pages of an extent under their words. -/
def extPages (r : Req) (ws : List Nat) : List ((Nat × Nat) × Nat) := (pagesOf r.addr.ia.toNat r.op.size).zip ws

/-- The launch's own address space 0 may use ASID 0 pages (R71). -/
def reqAsid0 (s : State) (r : Req) : Bool := (tileLaunch s r.tile).asid = 0

/-- A write that is out of space is held at the home; HELD counts it (R87). -/
def holdReq (s : State) (r : Req) (tier k : Nat) : State :=
  let s1 := { s with reqs := s.reqs.map (fun x => if x.id = r.id then { x with held := some (x.held.getD s.time) } else x) }
  let s2 := noteHeld s1 tier { who := .req r.id, since := s.time, asid := r.addr.asid, ia := r.addr.ia, size := r.op.size, k := k }
  match r.slot.bind slotFin with
  | some k => pump s2 r.tile k
  | none => s2

/-- Perform a write of this package. -/
def performWrite (s : State) (r : Req) (ws : List Nat) (bs ans : List Byte) : State :=
  match writePages s (.req r.id) s (extPages r ws) bs with
  | .done s1 =>
    reqDone (nearWrote (touchAll (dropAll s1 ws (.req r.id)) r.addr.asid true (pagesOf r.addr.ia.toNat r.op.size)) r) r ans true
  | .fault _ c d => lateFault (countExh (dropAll s ws (.req r.id)) c d) r c d
  | .held tn k => holdReq s r tn k

/-- A request tracked at the home slice; a held write was tracked when it came (R249). -/
def trackReq (s : State) (r : Req) (ws : List Nat) : Except (BitVec 8 × Option TrackBy) State :=
  match r.op with
  | .prefetch _ => .ok s
  | _ =>
    if r.held.isSome then .ok s
    else trackHome s (tileOf s r.tile).launch r.addr r.op.size (reqTrack s r (leNat (readPages s (extPages r ws))))

/-- A store of whole lines that the home slice takes without asking the controller (R95, R232): its write-back will meet the
mismatch. -/
def absorbable (r : Req) : Bool :=
  match r.op with
  | .store bs => r.addr.ia.toNat % 128 = 0 && bs.length % 128 = 0
  | _ => false

/-- The slice has taken the lines of a store, and their write-back has met a mismatch: they stay in it, poisoned (R95). -/
def absorb (s : State) (r : Req) : State :=
  let p := latePoison s r cKindMismatch 0
  let bad := (linesOf r.addr.ia.toNat r.op.size).foldl (fun m a => aput m (lineKey r.addr.asid a) p) s.badLines
  reqDone (nearWrote { s with badLines := bad } r) r [] true

/-- The request reads what its lines hold. -/
def ReqOp.reads : ReqOp → Bool
  | .store _ => false
  | _ => true

/-- Perform a request of this package at its home slice (R85, R95, R249); a prefetch leaves ACCESSED as it was: the manual does not
say whether it is a first access (DESIGN CHOICE, log 67). -/
def performLocal (s : State) (r : Req) (ws : List Nat) (dirty : Bool) : State :=
  let plot := plotOf r.tile
  match if r.op.reads then badLineAt s r.addr.asid r.addr.ia.toNat r.op.size else none with
  | some p => lateFaultBy s r p
  | none =>
    match checkAll s ws with
    | .error c => if dirty && c = cKindMismatch && absorbable r then absorb s r else lateFault s r c 0
    | .ok _ =>
      if r.op.reads && memBad s (extPages r ws) then lateFault s r cUncorrectable 0
      else match trackReq s r ws with
      | .error e => lateFault s r e.1 (conflictDetail e.2).toNat
      | .ok s0 =>
        let pages := pagesOf r.addr.ia.toNat r.op.size
        match r.op with
        | .load n =>
          let s1 := touchAll s0 r.addr.asid false pages
          reqDone (fillNear s1 plot r.addr n ws) r (readPages s1 (extPages r ws)) false
        | .prefetch n => dropReq (fillNear s0 plot r.addr n ws) r
        | .store bs => performWrite s0 r ws bs []
        | .atom o ty v v2 _ =>
          let ob := readPages s0 (extPages r ws)
          match atomNew o ty (atomArg ty v) (atomArg ty v2) (leNat ob) with
          | none => reqDone (nearWrote (touchAll s0 r.addr.asid false pages) r) r ob false
          | some x => performWrite s0 r ws (bytesLE ty.bytes x) ob

/-- An operation that the adapter performs as a compare-and-swap loop (R19). -/
def AtomOp.loops : AtomOp → Bool
  | .add => false
  | .xch => false
  | .cas => false
  | _ => true

/-- Perform a request in host memory (R17, R19). -/
def performHost (s : State) (r : Req) : State :=
  let ia := r.addr.ia.toNat
  match r.op with
  | .prefetch _ => dropReq s r
  | .load n =>
    match memRead s r.addr.asid true r.addr.func ia n with
    | .ok s1 bs => reqDone s1 r bs false
    | .fault s1 c d => lateFault s1 r c d
    | _ => s
  | .store bs =>
    match memWrite s r.addr.asid true r.addr.func ia bs with
    | .ok s1 _ => reqDone s1 r [] true
    | .fault s1 c d => lateFault s1 r c d
    | _ => s
  | .atom o ty v v2 _ =>
    match memAtomic s o.loops r.addr.asid true r.addr.func ia ty.bytes (atomNew o ty (atomArg ty v) (atomArg ty v2)) with
    | .ok s1 old => reqDone s1 r (bytesLE ty.bytes old) true
    | .fault s1 c d => lateFault s1 r c d
    | _ => s

/-! ## Order (R85, R87, R237 to R239) -/

/-- The bytes of two requests meet. -/
def bytesMeet (s : State) (a b : Req) : Bool :=
  a.addr.asid = b.addr.asid && extMeet (iaNorm s a.addr.ia.toNat, a.op.size) (iaNorm s b.addr.ia.toNat, b.op.size)

/-- What must come before a request has been performed: accesses it was put after, the stream's earlier accesses. -/
def reqTurn (s : State) (r : Req) : Bool :=
  !s.reqs.any (fun x => r.after.contains x.id)
    && (match r.party with
        | .stream _ _ _ => !s.reqs.any (fun x => x.party = r.party && x.id < r.id)
        | _ => true)

/-- The request may pass to its home: overlapping accesses of its tile issued before it have passed, and neither a held write, a
recode nor, for a write, a move stands on its pages (R87, R90, R96, R237). -/
def mayPass (s : State) (r : Req) : Bool :=
  let ia := r.addr.ia.toNat
  reqTurn s r && !recodeHolds s r.addr.asid ia r.op.size && !(r.op.mayWrite && moveHolds s r.addr.asid ia r.op.size)
    && !heldAt s none r.addr.asid ia r.op.size
    && !s.reqs.any (fun x => x.tile = r.tile && x.id < r.id && x.pte.isNone && bytesMeet s x r)

/-- A write of another unit than a tile port is held on a page of the extent. -/
def devHeld (s : State) (asid : BitVec 12) (ia n : Nat) : Bool :=
  s.tiers.any (fun t => t.2.held.any (fun x => devOf asid x.who && pageMeet x.ia.toNat x.size ia n))

/-- The request may be performed: those that reached a page of it before have been (R85, R87). -/
def mayPerform (s : State) (r : Req) : Bool :=
  reqTurn s r && !devHeld s r.addr.asid r.addr.ia.toNat r.op.size
    && !(s.reqs.takeWhile (fun x => x.id ≠ r.id)).any (fun x =>
        x.pte.isSome && !isHostIA x.addr.ia.toNat && x.addr.asid = r.addr.asid
          && pageMeet x.addr.ia.toNat x.op.size r.addr.ia.toNat r.op.size)

/-- A load or prefetch is answered by the near slice: tracked as the access it is (R175, R249). -/
def nearAnswer (s : State) (r : Req) (bs : List Byte) : State :=
  match r.op with
  | .load _ =>
    match trackHome s (tileOf s r.tile).launch r.addr r.op.size (reqTrack s r 0) with
    | .error e => lateFault s r e.1 (conflictDetail e.2).toNat
    | .ok s1 => reqDone s1 r bs false
  | _ => dropReq s r

/-- A request passes translation at the homes of its pages and stands at the end of those that have (R70, R72, R85); a load whose
lines are in the near slice is answered there. -/
def passReq (s : State) (r : Req) : State :=
  match transAll s r.addr.asid (reqAsid0 s r) r.op.acc (pagesOf r.addr.ia.toNat r.op.size) with
  | (s1, .error c) => lateFault s1 r c 0
  | (s1, .ok ws) =>
    match if r.op.mayWrite then none else nearHit s1 (plotOf r.tile) r.addr r.op.size with
    | some (s2, bs) => nearAnswer s2 r bs
    | none =>
      let r' := { r with pte := some (ws.map (BitVec.ofNat 64)) }
      let s2 := { s1 with reqs := s1.reqs.filter (fun x => x.id ≠ r.id) ++ [r'] }
      match r.slot.bind slotFin with
      | some k => pump s2 r.tile k
      | none => s2

/-- The next thing that happens to a request; `dirty`: a store is taken by its home slice before the controller sees it. -/
def moveReq (s : State) (r : Req) (dirty : Bool) : State :=
  let ia := r.addr.ia.toNat
  if isHostIA ia then
    if reqTurn s r && !s.reqs.any (fun x => x.tile = r.tile && x.id < r.id && bytesMeet s x r) then performHost s r else s
  else if !pkgIsLocal s (iaPkg ia) then s
  else match r.pte with
    | none => if mayPass s r then passReq s r else s
    | some ws => if r.held.isNone && mayPerform s r then performLocal s r (ws.map (·.toNat)) dirty else s

/-! ## Answers of other packages (R27, R29, R244) -/

/-- A request that another package may answer: the module is joined, and what its party sent before to the same line has been. -/
def farTurn (s : State) (r : Req) : Bool :=
  joined s && reqTurn s r
    && !s.reqs.any (fun x => x.party = r.party && x.id < r.id
          && sharePlane s x.addr.ia.toNat x.op.size r.addr.ia.toNat r.op.size)

/-- As `farTurn`, for an access of another unit. -/
def farUnitTurn (s : State) (x : FarReq) : Bool :=
  joined s && x.answer.isNone && x.fault.isNone
    && !s.far.any (fun y => y.asker = x.asker && y.id < x.id && y.answer.isNone && y.fault.isNone
          && sharePlane s y.ia y.op.size x.ia x.op.size)

/-- The faults that the homes of another package answer with (R72, R82, R91, R95). -/
def farFaults : List (BitVec 8) :=
  [cTranslationInvalid, cPagePermission, cRecordCorrupt, cKindMismatch, cCapacity, cTierUnreachable, cUncorrectable, cIllegal]

/-- An access of another unit has its answer or its fault. -/
def setFar (s : State) (i : Nat) (f : FarReq → FarReq) : State :=
  { s with far := s.far.map (fun x => if x.id = i then f x else x) }

/-- Another package answers an access, with its bytes or with a fault. -/
def farAnswer (s : State) (i : Nat) (ans : Except (BitVec 8) (List Byte)) : State :=
  match s.reqs.find? (fun r => r.id = i), s.far.find? (fun x => x.id = i) with
  | some r, _ =>
    if isHostIA r.addr.ia.toNat || pkgIsLocal s (iaPkg r.addr.ia.toNat) || !farTurn s r then s
    else match ans with
      | .ok bs => reqDone s r (padTo bs r.op.size) true
      | .error c => lateFault s r c 0
  | none, some x =>
    if !farUnitTurn s x then s
    else setFar s i (fun x => match ans with
      | .ok bs => { x with answer := some (padTo bs x.op.size) }
      | .error c => { x with fault := some c })
  | none, none => s

/-- `HOME_REQUEST`: a request passes to its homes, then is performed at its point; one for another package completes with that
package's answer (R72, R85, R232, R244; log 10). -/
def execHomeRequest (s : State) : Host.Outcome State Fault Refusal :=
  match s.focus with
  | .event a =>
    let s1 := { s with focus := .idle }
    let go (i : Nat) (dirty : Bool) : State :=
      match s1.reqs.find? (fun r => r.id = i) with
      | some r => moveReq s1 r dirty
      | none => s1
    match a with
    | .n i => .next (go i false)
    | .nn i d => .next (go i (d = 1))
    | .answer i bs => .next (farAnswer s1 i (.ok bs))
    | .answerBad i c => .next (if farFaults.contains c then farAnswer s1 i (.error c) else s1)
    | _ => .next s1
  | _ => .next s

end Sys2Proof.Machine
end

