-- ==== Sys2Proof/Machine/Signal.lean ====
section
/-! DEFINITION. Queues as the device keeps them (R99 to R105), doorbells and kicks (R102, R104, R142, R143), signals
(R113, R114), and how a packet ends (R110 to R112). -/

namespace Sys2Proof.Machine

open Sys2Proof

/-- Add one to a 32-bit counter that saturates. -/
def satInc (x : BitVec 32) : BitVec 32 := if x = 0xFFFFFFFF#32 then x else x + 1

/-! ## The pending bitmap (R143) -/

def setPendBit (s : State) (q : Nat) (b : Bool) : State :=
  { s with pending := if b then s.pending ||| BitVec.twoPow 4096 q else s.pending &&& ~~~(BitVec.twoPow 4096 q) }

def pendBit (s : State) (q : Nat) : Bool := s.pending.getLsbD q

/-- Mark an unbound active queue that could dispatch. -/
def wakeQueue (s : State) (q : Nat) : State :=
  let x := queueOf s q
  if x.slot.isNone && x.state = .active then setPendBit s q true else s

/-! ## Doorbells and kicks -/

/-- A doorbell value is acceptable (R102). -/
def doorbellOk (q : Queue) (w : Nat) : Bool := q.en && q.wptr ≤ w && w - q.rptr ≤ 2 ^ q.logsz

/-- Count a dropped doorbell in the control block. -/
def queueErr (s : State) (q : Nat) : State := modQueue s q (fun x => { x with errcnt := satInc x.errcnt })

/-- A doorbell takes effect (R102, R143). -/
def doorbell (s : State) (q w : Nat) : State :=
  if !doorbellOk (queueOf s q) w then queueErr s q
  else
    let s1 := modQueue s q (fun x => { x with wptr := w })
    if (queueOf s1 q).dptr < w then wakeQueue s1 q else s1

/-- A device kick is acceptable (R104). -/
def kickOk (s : State) (q w : Nat) (asid : BitVec 12) : Bool :=
  (afind s.queues q).isSome && doorbellOk (queueOf s q) w && (queueOf s q).dkick && (queueOf s q).asid = asid

/-! ## Signals -/

/-- A signed 64-bit word. -/
def sigInt (n : Nat) : Int := signed 64 n

/-- The new value of a signal operation (R113). -/
def sigNew (op : Nat) (val old : Int) : Int :=
  if op = 0 then val
  else if old < 0 then old
  else if op = 1 then min (old + val) 0x7FFFFFFFFFFFFFFF
  else max (old - val) 0

/-- How a memory operation of a packet ends: performed, failed with a status (R111), or not yet possible. -/
inductive SRes where
  | ok (s : State)
  | fail (s : State) (status : Nat)
  | wait (w : State)

/-- The status of a fault in a packet's own access (R111, R114). -/
def accStatus (c : BitVec 8) : Nat := if c = cHostUnsupported || c = cHostContention then 10 else 9

/-- What an access of a packet comes to. -/
def MRes.toS (r : MRes α) : SRes :=
  match r with
  | .ok s _ => .ok s
  | .fault s c _ => .fail s (accStatus c)
  | .held w _ _ => .wait w
  | .stall w => .wait w

/-- A read-modify-write of a signal under a queue's address space; all but SET are loops on host memory (R114). -/
def sigRmw (s : State) (loop : Bool) (q : Queue) (a : Nat) (f : Int → Int) : SRes :=
  (memAtomic s loop q.asid (q.asid = 0) q.func a 8 (fun old => some (f (sigInt old) % 2 ^ 64).toNat)).toS

/-- A signal operation of a packet (R113, R114). -/
def sigOp (s : State) (q : Queue) (a op val : Nat) : SRes := sigRmw s (op ≠ 0) q a (sigNew op (sigInt val))

/-- A plain store of a packet. -/
def pktStore (s : State) (q : Queue) (a : Nat) (bs : List Byte) : SRes :=
  (memWrite s q.asid (q.asid = 0) q.func a bs).toS

/-- Apply an abort. -/
def sigAbort (s : State) (q : Queue) (a status : Nat) : SRes :=
  if a = 0 then .ok s else sigRmw s true q a (fun old => if 0 ≤ old then -(status : Int) else old)

/-- Apply aborts one after the other; a failing one ends them (R114). -/
def sigAborts (q : Queue) (status : Nat) : List Nat → State → Tried
  | [], s => .done s
  | a :: t, s => match sigAbort s q a status with
    | .ok s1 => sigAborts q status t s1
    | .fail s1 _ => .done s1
    | .wait w => .wait w

/-! ## RPTR -/

/-- The index below which every packet has completed: nothing in flight lies below it, and it does not pass the first body
packet of a LOOP before its last run (R99, R119). -/
def rptrOf (q : Queue) : Nat :=
  let m := (q.pkts.map (·.idx)).foldl min q.dptr
  match q.loopIdx with
  | some i => if 1 < q.loopRem then min m (i + 1) else m
  | none => m

/-- Write RPTR to its mirror if that does not hold it; a write that has to wait is tried again (R105). -/
def mirror (s : State) (qid : Nat) : State :=
  let q := queueOf s qid
  if q.rmirror = 0 || q.mirrored = q.rptr then s
  else
    let note (s : State) : State := modQueue s qid (fun x => { x with mirrored := q.rptr })
    match pktStore (asAsker s (askQueue qid (2 ^ 64))) q q.rmirror.toNat (bytesLE 8 q.rptr) with
    | .ok s1 => note s1
    | .fail s1 _ => note s1
    | .wait w => keepWaits s w

/-- Set RPTR and its mirror (R105). -/
def updRptr (s : State) (qid : Nat) : State :=
  let q := queueOf s qid
  let r := rptrOf q
  mirror (if r = q.rptr then s else modQueue s qid (fun q => { q with rptr := r })) qid

/-- Apply owed skips and the end of a loop body (R118, R119). -/
def settleQueue (q : Queue) : Queue :=
  if q.pkts.any (fun p => !p.async) then q
  else
    let room := q.wptr - q.dptr
    let stop := match q.loopIdx with | some i => i + 1 + q.loopBody - q.dptr | none => room
    let n := min q.skip (min room stop)
    let d := q.dptr + n
    match q.loopIdx with
    | some i =>
      if d = i + 1 + q.loopBody then
        if 1 < q.loopRem then { q with dptr := i + 1, skip := 0, loopRem := q.loopRem - 1 }
        else { q with dptr := d, skip := 0, loopIdx := none, loopRem := 0 }
      else { q with dptr := d, skip := q.skip - n }
    | none => { q with dptr := d, skip := q.skip - n }

/-! ## The end of a packet -/

/-- CSIG of a packet; 0 when it has none or its address is no legal one (R108). -/
def pktCsig (p : Pkt) : Nat :=
  let a := lnat p.bytes 56 8
  if a < 2 ^ 52 && a % 8 = 0 then a else 0

/-- After a RESET or DISABLE, once every dispatched packet has completed (R112). -/
def drained (q : Queue) : Queue :=
  match q.draining with
  | none => q
  | some w =>
    if !q.pkts.isEmpty then q
    else
      let q1 := { q with dptr := q.wptr, rptr := q.wptr, status := 0, loopIdx := none, loopRem := 0, skip := 0, step := 0,
                         draining := none, state := .active }
      if w = 3 then { q1 with en := false, state := .idle } else q1

/-- A queue after one of its packets has completed with a status (R111). -/
def endedQueue (q : Queue) (p : Pkt) (status : Nat) : Queue :=
  let pk := q.pkts.filter (fun x => x.uid ≠ p.uid)
  let q1 := { q with pkts := pk, step := if p.async then q.step else 0, pktsave := if p.async then q.pktsave else [] }
  if q1.draining.isSome then drained q1
  else
    let q2 := if status = 0 then q1
      else if q1.status = 0 || p.idx < q1.erridx then
        { q1 with status := status, erridx := p.idx, state := if q1.state = .active then .halting else q1.state }
      else { q1 with state := if q1.state = .active then .halting else q1.state }
    if q2.state = .halting && pk.isEmpty then { q2 with state := .halted } else q2

/-- The packet at DPTR waits for BARRIER (R109). -/
def waitsBarrier (s : State) (q : Queue) : Bool :=
  q.dptr < q.wptr && !q.pkts.isEmpty &&
    (match memRead s q.asid (q.asid = 0) q.func (q.base.toNat + q.dptr % 2 ^ q.logsz * 64) 64 with
     | .ok _ b => (b.getD 1 0).getLsbD 0
     | _ => false)

/-- A queue has a packet it could dispatch (R143). -/
def couldDispatch (s : State) (q : Queue) : Bool :=
  q.state = .active && q.draining.isNone && q.dptr < q.wptr && q.pkts.all (·.async) && !waitsBarrier s q

/-- An unbound queue that could dispatch is pending; one that has left ACTIVE is not (R143). -/
def noteQueue (s : State) (qid : Nat) : State :=
  let q := queueOf s qid
  if q.state ≠ .active then setPendBit s qid false else if couldDispatch s q then wakeQueue s qid else s

/-- The signal operations that end a packet with a status, and the status it then has: SUB 1, or aborts (R111, R114). -/
def endSignals (s : State) (q : Queue) (p : Pkt) (status : Nat) : Tried × Nat :=
  let c := pktCsig p
  if status = 0 then
    if c = 0 then (.done s, 0)
    else match sigOp s q c 2 1 with
      | .ok s1 => (.done s1, 0)
      | .fail s1 e => (sigAborts q e [q.errsig.toNat] s1, e)
      | .wait w => (.wait w, 0)
  else (sigAborts q status [c, q.errsig.toNat] s, status)

/-- End a packet with a status: the completion signal first, then the queue goes on or halts (R110, R111, R114). -/
def endPkt (s0 : State) (qid : Nat) (p : Pkt) (status : Nat) : Tried :=
  let s := asAsker s0 (askQueue qid p.idx)
  match endSignals s (queueOf s qid) p status with
  | (.wait w, _) => .wait w
  | (.done s1, st) =>
    .done (noteQueue (updRptr (modQueue s1 qid (fun q => settleQueue (endedQueue q p st))) qid) qid)

/-- As `endPkt`; the packet stays when it cannot end yet. -/
def tryEnd (s : State) (qid : Nat) (p : Pkt) (status : Nat) : State := (endPkt s qid p status).orWait s

end Sys2Proof.Machine
end

