-- ==== Sys2Proof/Machine/TokenInstr.lean ====
section
/-! DEFINITION. Token words of a codelet (R372 to R380). -/

namespace Sys2Proof.Machine

open Sys2Proof

/-- A token leaves in program order once the codelet's earlier accesses have passed (R290, R372); after a late fault
nothing more leaves. -/
def sendFrom (s : State) (t : Nat) (k : Fin 4) (sl : Slot) (f : Flight) : State :=
  if sl.late.isSome then setSlot s t k sl
  else pump (setSlot (wakeUnit s t .networkInterface) t k { sl with held := sl.held ++ [{ after := sl.reqs, flight := f }] }) t k

/-- The port-0 token of a firing, whose SEQ and RANKW sends take (R372). -/
def port0 (f : Firing) : Token := aget f.ops 0 {}

/-- The header a codelet's send starts from (R372). -/
def sendTok (t : Nat) (sl : Slot) (sc : Scope) : Token :=
  let k := port0 sl.firing
  { ctx := sl.firing.ctx, tag := sl.firing.tag, seq := k.seq, rankw := k.rankw, origin := BitVec.ofNat 11 t,
    rel := mkRelease sc (BitVec.ofNat 11 t) sl.firing.clock, batch := sl.firing.batch }

/-- A tag operand: above 0xFFFFF is "tag overflow" (R372). -/
def tagOperand (v : Word) : Option (BitVec 20) := if v.toNat ≤ 0xFFFFF then some (v.setWidth 20) else none

/-- The poison at the first failed check, for a word in a slot. -/
def failWord (s : State) (t : Nat) (k : Fin 4) (r : Except (BitVec 8) WRes) : WRes :=
  match r with
  | .ok x => x
  | .error c => wfault s t k c

/-- The launch of the slot's tile. -/
def flightOf (s : State) (t : Nat) (tok : Token) (pkg : BitVec 8) : Flight :=
  { tok := tok, launch := (tileOf s t).launch, pkg := pkg }

/-- `send dst, val, tag, chN` with an optional reply node (R374). -/
def execSend (w : EWord) (s : State) : Host.Outcome State Fault Refusal :=
  runWordE w.g (fun _ _ sl => (sendDest (opVal sl w.a)).isNone) false [w.a, w.b, w.c] [] [] (fun t k sl _ s => failWord s t k (do
    if opMark sl w.a || opMark sl w.b || opMark sl w.c then throw cNondet
    let (ctx, dest) ← (sendDest (opVal sl w.a)).elim (throw cIllegal) pure
    let tag ← (tagOperand (opVal sl w.c)).elim (throw cTagOverflow) pure
    let e ← chanCheck (tileOf s t) w.ch
    let rep := w.imm.getLsbD 14
    let tok := { sendTok t sl (chanScope e) with
      dest := dest, ctx := ctx, tag := tag, chan := w.ch, body := .scalar (opVal sl w.b),
      reply := rep, rnode := w.imm.extractLsb' 2 12, rport := w.imm.extractLsb' 0 2,
      rctx := if rep then sl.firing.ctx else 0 }
    return .go (sendFrom s t k sl (flightOf s t tok 255)))) s

/-- The format code of an instruction type (R375). -/
def typeCode : Ty → Nat
  | .s8 => 6 | .z8 => 6 | .s32 => 7 | .z32 => 7 | .f16 => 2 | .bf16 => 3 | .e4m3 => 4 | .e5m2 => 5 | .f32 => 1
  | _ => 0

/-- Registers that L bytes from vK span. -/
def regSpan (v len : Nat) : List Nat := (List.range (cdiv len 512)).map (v + ·)

/-- The format of a burst that a codelet sends (R375). -/
def sendFmt (e : BitVec 128) (ty : Ty) : Nat := if chIfmt e ≠ 0 then chIfmt e else typeCode ty

/-- The registers whose image a burst of n elements is read from (R374, R375). -/
def sendRegs (e : BitVec 128) (ty : Ty) (n v : Nat) : List Nat :=
  regSpan v (match efmt (sendFmt e ty) with | some fm => fmtBytes fm (min n 4096) | none => 0)

/-- Data of `sendv` and `sendx`: format, bytes and the one domain tag, through the checks of R372 steps 3 and 4 and
R375. -/
def sendData (s : State) (t : Nat) (sl : Slot) (e : BitVec 128) (ty : Ty) (n v : Nat) :
    Except (BitVec 8) (Nat × List Byte × BitVec 3) := do
  let f := sendFmt e ty
  let len := match efmt f with | some fm => fmtBytes fm n | none => 0
  let tl := tileOf s t
  if (imageOf s t sl.firing.ctx).vregs < v + cdiv len 512 then throw cPartition
  let tags := (regSpan v len).map (fun r => aget tl.vtag r 0)
  if tags.any (· ≠ tags.headD 0) then throw cDomain
  if (efmt f).isNone || (ty = .q4 && !(8 ≤ chIfmt e && chIfmt e ≤ 11)) then throw cRouteFilter
  if n < 1 || 4096 < n || 8192 < len then throw cBurstLength
  if readsBad tl (regSpan v len) [] then throw cUncorrectable
  return (f, rdBytes tl.vreg (512 * v) len, tags.headD 0)

/-- A burst of a codelet (R374, R375): it waits for registers still to be written, passes its checks and the route
filter, its reads are tracked (R400), its sticky bits are set, and it is sent. -/
def sendBurst (s : State) (t : Nat) (k : Fin 4) (sl : Slot) (e : BitVec 128) (ty : Ty) (n v : Nat) (tok : Token)
    (pkg : BitVec 8) : WRes :=
  locked s t k { regs := sendRegs e ty n v } (fun s => failWord s t k (do
    let (f, data, dtag) ← sendData s t sl e ty n v
    let (body, fl) ← routeFilter e f n dtag sl.seed data
    match trackMany t false ((sendRegs e ty n v).map vregUnit) s sl.firing with
    | .error x => return .fault s (trackPoison s t sl.firing x)
    | .ok (s1, f1) =>
      return stickyWord s1 t { sl with firing := f1 } false fl (fun s sl =>
        .go (sendFrom s t k sl
          (flightOf s t { tok with body := body, rel := { tok.rel with clock := sl.firing.clock } } pkg)))))

/-- `sendv.T dst, n, tag, chN, vK` (R374, R375). -/
def execSendv (w : EWord) (s : State) : Host.Outcome State Fault Refusal :=
  runWordE w.g (fun _ _ sl => (sendDest (opVal sl w.a)).isNone) false [w.a, w.b, w.c] [] [] (fun t k sl _ s => failWord s t k (do
    if opMark sl w.a || opMark sl w.b || opMark sl w.c then throw cNondet
    let (ctx, dest) ← (sendDest (opVal sl w.a)).elim (throw cIllegal) pure
    let tag ← (tagOperand (opVal sl w.c)).elim (throw cTagOverflow) pure
    let e ← chanCheck (tileOf s t) w.ch
    let n := (opVal sl w.b).toNat
    return sendBurst s t k sl e w.ty n w.v.toNat { sendTok t sl (chanScope e) with dest := dest, ctx := ctx, tag := tag, chan := w.ch } 255)) s

/-- The DEST of a combine unit (R356). -/
def combDest (c : Nat) : Dest := { v := true, tile := BitVec.ofNat 11 (combId c), node := 0, port := 0 }

/-- `sendx.T key, n, chN, vK` (R374 to R376). -/
def execSendx (w : EWord) (s : State) : Host.Outcome State Fault Refusal :=
  runWordE w.g (fun _ _ sl => (opVal sl w.a).extractLsb' 52 12 ≠ 0) false [w.a, w.b] [] [] (fun t k sl _ s => failWord s t k (do
    if opMark sl w.a || opMark sl w.b then throw cNondet
    let key := opVal sl w.a
    if key.extractLsb' 52 12 ≠ 0 then throw cIllegal
    let rankw := key.extractLsb' 36 16
    let e ← chanCheck (tileOf s t) w.ch
    let n := (opVal sl w.b).toNat
    return sendBurst s t k sl e w.ty n w.v.toNat
      { sendTok t sl (chanScope e) with
        dest := combDest (rankw.extractLsb' 8 5).toNat, ctx := 0, tag := key.extractLsb' 0 20,
        seq := key.extractLsb' 20 16, rankw := rankw, chan := w.ch } (rankw.extractLsb' 0 8))) s

/-- `emit val, tag, #m` (R377). -/
def execEmit (w : EWord) (s : State) : Host.Outcome State Fault Refusal :=
  runWord w.g false [w.b, w.c] [] [] (fun t k sl _ s => failWord s t k (do
    if opMark sl w.b || opMark sl w.c then throw cNondet
    let tag ← (tagOperand (opVal sl w.c)).elim (throw cTagOverflow) pure
    let ch := if w.imm.getLsbD 2 then w.ch else leadChan (leadTok sl.firing).chan
    let e ← chanCheck (tileOf s t) ch
    let r := nodeRec s t sl.firing.ctx sl.firing.node
    let ds := (if w.imm.getLsbD 0 then [r.destA] else []) ++ (if w.imm.getLsbD 1 then [r.destB] else [])
    let tok := { sendTok t sl (chanScope e) with tag := tag, chan := ch, body := .scalar (opVal sl w.b) }
    return .go ((ds.filter (·.v)).foldl
      (fun s d => sendFrom s t k (slotOf s t k) (flightOf s t { tok with dest := d } 255)) s))) s

/-- `tagmk d, a, b, #s` (R378). -/
def execTagmk (w : RWord) (s : State) : Host.Outcome State Fault Refusal :=
  runWord w.g true [w.a, w.b] [w.d] [] (fun t k sl gm s =>
    let v := (opVal sl w.a).toNat * 2 ^ w.sh.toNat + (opVal sl w.b).toNat % 2 ^ w.sh.toNat
    if 0xFFFFF < v then wfault s t k cTagOverflow
    else .go (setSlot s t k (wrT sl w.d (BitVec.ofNat 64 v) (gm || opMark sl w.a || opMark sl w.b)))) s

/-- The accesses of a stream that are not yet performed. -/
def streamBusy (s : State) (t : Nat) (c : BitVec 3) (n : BitVec 4) : Bool :=
  s.reqs.any (fun r => r.party = .stream t c n)

/-- A timeline counter of a tile and context. -/
def timelineOf (s : State) (t : Nat) (c : BitVec 3) (n : BitVec 2) : Timeline :=
  aget (tileOf s t).timelines (c.toNat * 4 + n.toNat) {}

def setTimeline (s : State) (t : Nat) (c : BitVec 3) (n : BitVec 2) (x : Timeline) : State :=
  modTile s t (fun tl => { tl with timelines := aput tl.timelines (c.toNat * 4 + n.toNat) x })

/-- Acquire at `.sys` from the commands of a timeline (R241). -/
def acquireTimeline (s : State) (t : Nat) (sl : Slot) (tm : Timeline) : State × Slot :=
  (acquireAt s t .sys, { sl with firing := { sl.firing with clock := clkJoin sl.firing.clock tm.clock } })

/-- The lowest faulted command numbered v or less whose poison is not yet delivered (R294). -/
def dueFault (tm : Timeline) (v : Nat) : Option (Nat × Poison) := tm.faulted.find? (fun p => p.1 ≤ v)

/-- The operands of `pchk` name a stream, or a timeline and a number issued on it (R379). -/
def pchkBad (w : RWord) (s : State) (t : Nat) (sl : Slot) : Bool :=
  let a := opVal sl w.a
  let b := opVal sl w.b
  a.extractLsb' 5 59 ≠ 0 || (if a.getLsbD 4 then
      a.extractLsb' 2 2 ≠ 0 || (timelineOf s t sl.firing.ctx (a.extractLsb' 0 2)).issued < b.toNat
    else b ≠ 0)

/-- `pchk pd, d, a, b` (R379). -/
def execPchk (w : RWord) (s : State) : Host.Outcome State Fault Refusal :=
  runWordE w.g (pchkBad w) true [w.a, w.b] [w.d] [w.pd] (fun t k sl gm s =>
    let a := opVal sl w.a
    let b := opVal sl w.b
    let put (s : State) (sl : Slot) (p : Bool) (v : Word) : WRes := .go (setSlot s t k (wrP (wrT sl w.d v gm) w.pd p gm))
    if opMark sl w.a || opMark sl w.b then wfault s t k cNondet
    else if pchkBad w s t sl then wfault s t k cIllegal
    else if !a.getLsbD 4 then
      let n := a.extractLsb' 0 4
      let st := streamOf s t sl.firing.ctx n
      if !st.isOpen then put s sl false 0
      else if streamBusy s t sl.firing.ctx n then .wait s
      else match st.failed with
        | some p => put s sl true (p.code.setWidth 64)
        | none => put s sl false 0
    else
      let n := a.extractLsb' 0 2
      let tm := timelineOf s t sl.firing.ctx n
      if tm.counter < b.toNat then .wait s
      else
        let (s1, sl1) := acquireTimeline s t sl tm
        match dueFault tm b.toNat with
        | some (i, p) => put (setTimeline s1 t sl.firing.ctx n { tm with faulted := adel tm.faulted i }) sl1 true (p.code.setWidth 64)
        | none => put s1 sl1 false 0) s

/-- `poison a, #code` (R380). -/
def execPoison (w : RWord) (s : State) : Host.Outcome State Fault Refusal :=
  runWord w.g false [w.a] [] [] (fun t k sl _ s =>
    if opMark sl w.a then wfault s t k cNondet
    else .fault s { slotPoison s t k (0xC0 + w.sh.setWidth 8) with detail := opVal sl w.a }) s

/-- `done`: the codelet ends after this word (R374, R190). -/
def execDone (w : RWord) (s : State) : Host.Outcome State Fault Refusal :=
  runWord w.g false [] [] [] (fun _ _ _ _ s => .fin s) s

end Sys2Proof.Machine
end

