-- ==== Sys2Proof/Machine/Float.lean ====
section
/-! DEFINITION. Scalar float words (R367 to R370): exact results rounded once. -/

namespace Sys2Proof.Machine

open Sys2Proof

/-- The float format of an R word's type. -/
def fTy (t : Ty) : FFmt := (tyF t).getD .f32

/-- A floating operand (R362). -/
def rdF (t : Ty) (x : Word) : Val := (fTy t).decode (x.toNat % 2 ^ (fTy t).width)

/-- Round an exact result to TYPE in mode RM with the slot's SEED copy (R367, R384). -/
def roundF (t : Ty) (rm : Rm) (seed : BitVec 32) (r : Val × Fl) : Calc :=
  let (b, f) := (fTy t).round rm seed r.1
  { val := BitVec.ofNat 64 b, fl := f.or r.2 }

/-- A float word of two operands. -/
def fltR (op : Rm → Val → Val → Val × Fl) (w : RWord) (s : State) : Host.Outcome State Fault Refusal :=
  scalarWord w.g [w.a, w.b] [] (some w.d) none
    (fun sl => roundF w.ty w.rm sl.seed (op w.rm (rdF w.ty (opVal sl w.a)) (rdF w.ty (opVal sl w.b)))) s

/-- Minimum or maximum with −0 below +0; a NaN gives NaN, NV only when signalling (R367). -/
def fMinMax (lesser : Bool) (a b : Val) : Val × Fl :=
  if a.isNan || b.isNan then (.nan false, { nv := a.isSig || b.isSig })
  else (if vless a b = lesser then a else b, {})

/-- `fadd.T.rm d, a, b` (R367). -/
def execFadd (w : RWord) (s : State) : Host.Outcome State Fault Refusal := fltR Val.add w s

/-- `fsub.T.rm d, a, b` (R367). -/
def execFsub (w : RWord) (s : State) : Host.Outcome State Fault Refusal := fltR (fun rm a b => a.add rm b.neg) w s

/-- `fmul.T.rm d, a, b` (R367). -/
def execFmul (w : RWord) (s : State) : Host.Outcome State Fault Refusal := fltR (fun _ a b => a.mul b) w s

/-- `fdiv.T.rm d, a, b` (R367). -/
def execFdiv (w : RWord) (s : State) : Host.Outcome State Fault Refusal := fltR (fun _ a b => a.div b) w s

/-- `ffma.T.rm d, a, b, c`: one rounding (R367, R254). -/
def execFfma (w : RWord) (s : State) : Host.Outcome State Fault Refusal :=
  scalarWord w.g [w.a, w.b, w.c] [] (some w.d) none
    (fun sl => roundF w.ty w.rm sl.seed
      (Val.fma w.rm (rdF w.ty (opVal sl w.a)) (rdF w.ty (opVal sl w.b)) (rdF w.ty (opVal sl w.c)))) s

/-- `fsqrt.T.rm d, a` (R367). -/
def execFsqrt (w : RWord) (s : State) : Host.Outcome State Fault Refusal :=
  scalarWord w.g [w.a] [] (some w.d) none (fun sl => roundF w.ty w.rm sl.seed (rdF w.ty (opVal sl w.a)).sqrt) s

/-- `fmin.T d, a, b` (R367). -/
def execFmin (w : RWord) (s : State) : Host.Outcome State Fault Refusal := fltR (fun _ => fMinMax true) w s

/-- `fmax.T d, a, b` (R367). -/
def execFmax (w : RWord) (s : State) : Host.Outcome State Fault Refusal := fltR (fun _ => fMinMax false) w s

/-- `fabs.T d, a`: no sticky bit (R367). -/
def execFabs (w : RWord) (s : State) : Host.Outcome State Fault Refusal :=
  scalarWord w.g [w.a] [] (some w.d) none
    (fun sl => { val := (roundF w.ty .rne 0 ((rdF w.ty (opVal sl w.a)).abs, {})).val }) s

/-- `fneg.T d, a`: no sticky bit (R367). -/
def execFneg (w : RWord) (s : State) : Host.Outcome State Fault Refusal :=
  scalarWord w.g [w.a] [] (some w.d) none
    (fun sl => { val := (roundF w.ty .rne 0 ((rdF w.ty (opVal sl w.a)).neg, {})).val }) s

/-- `fcmp.T.cc pd, a, b` (R368). -/
def execFcmp (w : RWord) (s : State) : Host.Outcome State Fault Refusal :=
  scalarWord w.g [w.a, w.b] [] none (some w.pd)
    (fun sl => let (p, f) := fcond w.cc (rdF w.ty (opVal sl w.a)) (rdF w.ty (opVal sl w.b)); { pred := p, fl := f }) s

/-- The source type of `fcvt` (R369). -/
def srcTy (n : Nat) : Ty := (Ty.ofCode n).getD .f32

/-- `fcvt.T.S.rm d, a` (R369). -/
def execFcvt (w : RWord) (s : State) : Host.Outcome State Fault Refusal :=
  scalarWord w.g [w.a] [] (some w.d) none
    (fun sl =>
      let (p, f) := tyCv w.ty w.rm sl.seed (tyVal (srcTy w.sh.toNat) (opVal sl w.a).toNat)
      { val := wrTy w.ty p, fl := f }) s

/-- The class bit of a value (R370). -/
def classBit (f : FFmt) (v : Val) : Nat :=
  match v with
  | .nan sig => if sig then 8 else 9
  | .inf n => if n then 0 else 7
  | .fin n m _ =>
    if m = 0 then if n then 3 else 4
    else
      let normal := 2 ^ f.frac ≤ m
      if n then (if normal then 1 else 2) else (if normal then 6 else 5)

/-- `fclass.T d, a` (R370). -/
def execFclass (w : RWord) (s : State) : Host.Outcome State Fault Refusal :=
  scalarWord w.g [w.a] [] (some w.d) none
    (fun sl => { val := BitVec.ofNat 64 (2 ^ classBit (fTy w.ty) (rdF w.ty (opVal sl w.a))) }) s

end Sys2Proof.Machine
end

