-- ==== Sys2Proof/Machine/Func.lean ====
section
/-! DEFINITION. The function instructions of R405: the exact mathematical value to far more bits than any rounding
reads, a sticky bit standing for the rest, then the one rounding. Fixed point with `fp` fraction bits; where the
tail of a function is closer to its limit than those bits show, the limit less or more a small amount stands for it,
which rounds alike in every format and mode (log 8). -/

namespace Sys2Proof.Machine

open Sys2Proof

/-- Fraction bits of the fixed-point evaluations. -/
def fp : Nat := 700

def fone : Int := 2 ^ fp

/-- A dyadic value floored to fixed point. -/
def toFix (n : Bool) (m : Nat) (e : Int) : Int :=
  let k := e + fp
  if 0 ≤ k then sint n (m <<< k.toNat) else Int.fdiv (sint n m) (2 ^ (-k).toNat)

def fmul (a b : Int) : Int := Int.fdiv (a * b) fone

/-- Σ y^k / k! from term k. -/
def expGo (y : Int) : Nat → Nat → Int → Int
  | 0, _, _ => 0
  | fuel + 1, k, term => term + expGo y fuel (k + 1) (Int.tdiv (fmul term y) (k + 1))

/-- e^y for |y| ≤ 1. -/
def expFix (y : Int) : Int := expGo y 180 0 fone

/-- Σ z^(2k+1) / (2k+1). -/
def atanhGo (z2 : Int) : Nat → Nat → Int → Int
  | 0, _, _ => 0
  | fuel + 1, k, p => Int.tdiv p (2 * k + 1) + atanhGo z2 fuel (k + 1) (fmul p z2)

/-- 2 atanh z for |z| ≤ 1/3. -/
def atanh2 (z : Int) : Int := 2 * atanhGo (fmul z z) 240 0 z

def ln2Fix : Int := atanh2 (Int.tdiv fone 3)

/-- Σ (−1)^k / ((2k+1) n^(2k+1)), the arctangent of 1/n. -/
def atanGo (n2 : Nat) : Nat → Nat → Int → Int
  | 0, _, _ => 0
  | fuel + 1, k, p => (if k % 2 = 0 then 1 else -1) * Int.tdiv p (2 * k + 1) + atanGo n2 fuel (k + 1) (Int.tdiv p n2)

/-- π by Machin's formula. -/
def piFix : Int := 16 * atanGo 25 170 0 (Int.tdiv fone 5) - 4 * atanGo 57121 70 0 (Int.tdiv fone 239)

/-- √(2π). -/
def sqrt2pi : Int := (isqrt ((2 * piFix * fone).toNat) : Nat)

/-- A positive fixed-point value times 2^k with a sticky low bit. -/
def fixVal (neg : Bool) (x k : Int) : Val := .fin neg (2 * x.toNat + 1) (k - fp - 1)

/-- e^x for a fixed-point x of moderate size: mantissa in fixed point and a power of two. -/
def expParts (x : Int) : Int × Int :=
  let k := Int.fdiv x ln2Fix
  (expFix (x - k * ln2Fix), k)

/-- e^x as one fixed-point number. -/
def expWhole (x : Int) : Int :=
  let (m, k) := expParts x
  if 0 ≤ k then m * 2 ^ k.toNat else Int.fdiv m (2 ^ (-k).toNat)

/-- A positive value far below every format's smallest, and one just below 1. -/
def tinyVal (neg : Bool) : Val := .fin neg 1 (-600)
def belowOne (neg : Bool) : Val := .fin neg (2 ^ 600 - 1) (-600)

/-- |x| ≥ b. -/
def bigVal (m : Nat) (e : Int) (b : Nat) : Bool := (Val.fin false m e).cmp (.fin false b 0) ≥ 0

/-- 2^x. -/
def exp2Val (n : Bool) (m : Nat) (e : Int) : Val :=
  if m = 0 then .fin false 1 0
  else if bigVal m e 512 then (if n then tinyVal false else .fin false 1 600)
  else if 0 ≤ e then .fin false 1 (sint n (m <<< e.toNat))
  else
    let k := Int.fdiv (sint n m) (2 ^ (-e).toNat)
    let f := toFix n m e - k * fone
    if Int.fmod (sint n m) (2 ^ (-e).toNat) = 0 then .fin false 1 k
    else fixVal false (expFix (fmul f ln2Fix)) k

/-- log2 of a positive value. -/
def log2Val (m : Nat) (e : Int) : Val :=
  let b := blen m
  let k : Int := e + b - 1
  if m = 2 ^ (b - 1) then ofInt k 0 false
  else
    let f : Int := Int.fdiv ((m : Int) * fone) (2 ^ (b - 1))
    let l := Int.fdiv (atanh2 (Int.fdiv ((f - fone) * fone) (f + fone)) * fone) ln2Fix
    let r := k * fone + l
    .fin (r < 0) (2 * r.natAbs + 1) (-(fp : Int) - 1)

/-- 1 ÷ √x of a positive value. -/
def rsqVal (m : Nat) (e : Int) : Val :=
  let (m, e) := if e % 2 = 0 then (m, e) else (2 * m, e - 1)
  let p := 160 + blen m
  let y := 2 ^ (2 * p) / m
  let r := isqrt y
  .fin false (2 * r + (if r * r * m = 2 ^ (2 * p) then 0 else 1)) (-(e / 2) - p - 1)

/-- 1 ÷ (1 + e^−x) in fixed point, for |x| < 256. -/
def sigmFix (x : Int) : Int :=
  if 0 ≤ x then Int.fdiv (fone * fone) (fone + expWhole (-x))
  else let t := expWhole x; Int.fdiv (t * fone) (fone + t)

/-- 1 ÷ (1 + e^−x). -/
def sigmVal (n : Bool) (m : Nat) (e : Int) : Val :=
  if m = 0 then .fin false 1 (-1)
  else if bigVal m e 256 then (if n then tinyVal false else belowOne false)
  else fixVal false (sigmFix (toFix n m e)) 0

/-- tanh x. -/
def tanhVal (n : Bool) (m : Nat) (e : Int) : Val :=
  if bigVal m e 128 then belowOne n
  else
    -- (1 − t) / (1 + t) with t = e^(−2|x|)
    let t := expWhole (-2 * toFix false m e)
    fixVal n (Int.fdiv ((fone - t) * fone) (fone + t)) 0

/-- Σ (−1)^k x^(2k+1) / (2^k k! (2k+1)), the term before division held in `p`. -/
def phiGo (h : Int) : Nat → Nat → Int → Int
  | 0, _, _ => 0
  | fuel + 1, k, p => Int.tdiv p (2 * k + 1) + phiGo h fuel (k + 1) (Int.tdiv (fmul (-p) h) (k + 1))

/-- ½ (1 + erf(x ÷ √2)) in fixed point for |x| < 16. -/
def phiFix (x : Int) : Int :=
  fone / 2 + Int.fdiv (phiGo (fmul x x / 2) 1000 0 x * fone) sqrt2pi

/-- A product with a value that carries a sticky bit. -/
def mulVal (a b : Val) : Val := (a.mul b).1

/-- x × ½ × (1 + erf(x ÷ √2)). -/
def geluVal (n : Bool) (m : Nat) (e : Int) : Val :=
  if bigVal m e 16 then (if n then tinyVal true else mulVal (.fin false m e) (belowOne false))
  else mulVal (.fin n m e) (fixVal false (phiFix (toFix n m e)) 0)

/-- x ÷ (1 + e^−x). -/
def siluVal (n : Bool) (m : Nat) (e : Int) : Val :=
  if bigVal m e 256 then (if n then tinyVal true else mulVal (.fin false m e) (belowOne false))
  else mulVal (.fin n m e) (fixVal false (sigmFix (toFix n m e)) 0)

/-- The eight functions. -/
inductive FnOp where
  | exp2 | log2 | rcp | rsq | tanh | sigm | gelu | silu
  deriving DecidableEq, Repr

/-- The exact value of a function with its special inputs (R405). -/
def fnVal (o : FnOp) (v : Val) : Val × Fl :=
  match v with
  | .nan s => (.nan false, { nv := s })
  | .inf n =>
    match o with
    | .exp2 => (if n then .fin false 0 0 else .inf false, {})
    | .log2 => if n then (.nan false, { nv := true }) else (.inf false, {})
    | .rcp => (.fin n 0 0, {})
    | .rsq => if n then (.nan false, { nv := true }) else (.fin false 0 0, {})
    | .tanh => (.fin n 1 0, {})
    | .sigm => (if n then .fin false 0 0 else .fin false 1 0, {})
    | .gelu => (if n then .fin true 0 0 else .inf false, {})
    | .silu => (if n then .fin true 0 0 else .inf false, {})
  | .fin n m e =>
    match o with
    | .exp2 => (exp2Val n m e, {})
    | .log2 =>
      if m = 0 then (.inf true, { dz := true })
      else if n then (.nan false, { nv := true })
      else (log2Val m e, {})
    | .rcp => if m = 0 then (.inf n, { dz := true }) else Val.div (.fin false 1 0) (.fin n m e)
    | .rsq =>
      if m = 0 then (.inf n, { dz := true })
      else if n then (.nan false, { nv := true })
      else (rsqVal m e, {})
    | .tanh => if m = 0 then (.fin n 0 0, {}) else (tanhVal n m e, {})
    | .sigm => (sigmVal n m e, {})
    | .gelu => if m = 0 then (.fin n 0 0, {}) else (geluVal n m e, {})
    | .silu => if m = 0 then (.fin n 0 0, {}) else (siluVal n m e, {})

/-- A function of FP32 bits, RNE, as the sowers use it (R207). -/
def fn32 (o : FnOp) (x : BitVec 32) : BitVec 32 := f32 (fnVal o (v32 x)).1

end Sys2Proof.Machine
end

