-- ==== Sys2Proof/Machine/Scalar.lean ====
section
/-! DEFINITION. Scalar integer, compare and predicate words (R363 to R366). -/

namespace Sys2Proof.Machine

open Sys2Proof

/-! ## Results -/

/-- `div` of R364. -/
def divInt (t : Ty) (a b : Int) : Int × Fl :=
  if b = 0 then (0, { dz := true })
  else if tySigned t && a = -(2 ^ (tyW t - 1) : Int) && b = -1 then (a, {})
  else (a.tdiv b, {})

/-- `rem` of R364. -/
def remInt (t : Ty) (a b : Int) : Int × Fl :=
  if b = 0 then (a, { dz := true })
  else if tySigned t && a = -(2 ^ (tyW t - 1) : Int) && b = -1 then (0, {})
  else (a.tmod b, {})

/-- A shift or rotate count: the low log2 w bits of b (R363). -/
def shCount (t : Ty) (b : Nat) : Nat := b % tyW t

/-- `sar` on the w-bit pattern (R363). -/
def sarPat (w a n : Nat) : Nat := ((signed w a) / (2 ^ n : Int) % 2 ^ w).toNat

/-- `rotl` on the w-bit pattern (R363). -/
def rotlPat (w a n : Nat) : Nat := ((a <<< n) ||| (a >>> (w - n))) % 2 ^ w

/-- Leading zeros of a w-bit pattern. -/
def clzPat (w a : Nat) : Nat := w - blen (a % 2 ^ w)

/-- Trailing zeros of a w-bit pattern. -/
def ctzPat (w a : Nat) : Nat := if a % 2 ^ w = 0 then w else tzc (a % 2 ^ w) w

/-- Set bits below w. -/
def popPat (w a : Nat) : Nat := ((List.range w).filter (fun i => a.testBit i)).length

/-- `ext` of R365. -/
def extPat (t : Ty) (len : Nat) (a b : Nat) : Word :=
  let f := (a >>> (b % 64)) % 2 ^ len
  if t = .z64 then BitVec.ofNat 64 f else BitVec.ofInt 64 (signed len f)

/-- `bext` of R365, over bit positions in ascending order. -/
def bextGo (a b : Nat) : List Nat → Nat → Nat
  | [], _ => 0
  | i :: t, j => if b.testBit i then (if a.testBit i then 2 ^ j else 0) + bextGo a b t (j + 1) else bextGo a b t j

/-- `bdep` of R365. -/
def bdepGo (a b : Nat) : List Nat → Nat → Nat
  | [], _ => 0
  | i :: t, j => if b.testBit i then (if a.testBit j then 2 ^ i else 0) + bdepGo a b t (j + 1) else bdepGo a b t j

/-- Two-operand integer results by name: what `execAdd` to `execMaxI` share (R363, R364). -/
inductive IOp where
  | add | sub | mul | mulh | div | rem | and | or | xor | andn | shl | shr | sar | rotl | min | max
  deriving DecidableEq, Repr

/-- The result of a two-operand integer operation on the operand values before rd() (R363, R364). -/
def iop (o : IOp) (t : Ty) (a b : Word) : Word × Fl :=
  let x := rdInt t a
  let y := rdInt t b
  let p := rdPat t a
  let q := rdPat t b
  let w := tyW t
  match o with
  | .add => (wrInt t (x + y), {})
  | .sub => (wrInt t (x - y), {})
  | .mul => (wrInt t (x * y), {})
  | .mulh => (wrInt t ((x * y) / (2 ^ w : Int)), {})
  | .div => let (r, f) := divInt t x y; (wrInt t r, f)
  | .rem => let (r, f) := remInt t x y; (wrInt t r, f)
  | .and => (wrPat t (p &&& q), {})
  | .or => (wrPat t (p ||| q), {})
  | .xor => (wrPat t (p ^^^ q), {})
  | .andn => (wrPat t (p &&& (q ^^^ (2 ^ w - 1))), {})
  | .shl => (wrPat t (p <<< shCount t q), {})
  | .shr => (wrPat t (p >>> shCount t q), {})
  | .sar => (wrPat t (sarPat w p (shCount t q)), {})
  | .rotl => (wrPat t (rotlPat w p (shCount t q)), {})
  | .min => (wrInt t (if x ≤ y then x else y), {})
  | .max => (wrInt t (if x ≤ y then y else x), {})

/-- The register form of a two-operand integer word. -/
def intR (o : IOp) (w : RWord) (s : State) : Host.Outcome State Fault Refusal :=
  scalarWord w.g [w.a, w.b] [] (some w.d) none
    (fun sl => let (v, f) := iop o w.ty (opVal sl w.a) (opVal sl w.b); { val := v, fl := f }) s

/-- The immediate form of a two-operand integer word (R361). -/
def intI (o : IOp) (w : IWord) (s : State) : Host.Outcome State Fault Refusal :=
  scalarWord w.g [w.a] [] (some w.d) none
    (fun sl => let (v, f) := iop o w.ty (opVal sl w.a) (immVal w.ty w.imm); { val := v, fl := f }) s

/-- One-operand integer results (R363). -/
inductive UOp where
  | not | clz | ctz | popc | abs | neg | mov
  deriving DecidableEq, Repr

def uop (o : UOp) (t : Ty) (a : Word) : Word :=
  let x := rdInt t a
  let p := rdPat t a
  let w := tyW t
  match o with
  | .not => wrPat t (p ^^^ (2 ^ w - 1))
  | .clz => wrPat t (clzPat w p)
  | .ctz => wrPat t (ctzPat w p)
  | .popc => wrPat t (popPat w p)
  | .abs => wrInt t (if tySigned t then (x.natAbs : Int) else x)
  | .neg => wrInt t (0 - x)
  | .mov => wrInt t x

def intU (o : UOp) (w : RWord) (s : State) : Host.Outcome State Fault Refusal :=
  scalarWord w.g [w.a] [] (some w.d) none (fun sl => { val := uop o w.ty (opVal sl w.a) }) s

/-- `add.T d, a, b` (R363). -/
def execAdd (w : RWord) (s : State) : Host.Outcome State Fault Refusal := intR .add w s

/-- `sub.T d, a, b` (R363). -/
def execSub (w : RWord) (s : State) : Host.Outcome State Fault Refusal := intR .sub w s

/-- `mul.T d, a, b` (R363). -/
def execMul (w : RWord) (s : State) : Host.Outcome State Fault Refusal := intR .mul w s

/-- `mulh.T d, a, b` (R363). -/
def execMulh (w : RWord) (s : State) : Host.Outcome State Fault Refusal := intR .mulh w s

/-- `div.T d, a, b` (R364). -/
def execDiv (w : RWord) (s : State) : Host.Outcome State Fault Refusal := intR .div w s

/-- `rem.T d, a, b` (R364). -/
def execRem (w : RWord) (s : State) : Host.Outcome State Fault Refusal := intR .rem w s

/-- `and.T d, a, b` (R363). -/
def execAndR (w : RWord) (s : State) : Host.Outcome State Fault Refusal := intR .and w s

/-- `or.T d, a, b` (R363). -/
def execOrR (w : RWord) (s : State) : Host.Outcome State Fault Refusal := intR .or w s

/-- `xor.T d, a, b` (R363). -/
def execXor (w : RWord) (s : State) : Host.Outcome State Fault Refusal := intR .xor w s

/-- `andn.T d, a, b` (R363). -/
def execAndn (w : RWord) (s : State) : Host.Outcome State Fault Refusal := intR .andn w s

/-- `shl.T d, a, b` (R363). -/
def execShl (w : RWord) (s : State) : Host.Outcome State Fault Refusal := intR .shl w s

/-- `shr.T d, a, b` (R363). -/
def execShr (w : RWord) (s : State) : Host.Outcome State Fault Refusal := intR .shr w s

/-- `sar.T d, a, b` (R363). -/
def execSar (w : RWord) (s : State) : Host.Outcome State Fault Refusal := intR .sar w s

/-- `rotl.T d, a, b` (R363). -/
def execRotl (w : RWord) (s : State) : Host.Outcome State Fault Refusal := intR .rotl w s

/-- `min.T d, a, b` (R363). -/
def execMin (w : RWord) (s : State) : Host.Outcome State Fault Refusal := intR .min w s

/-- `max.T d, a, b` (R363). -/
def execMax (w : RWord) (s : State) : Host.Outcome State Fault Refusal := intR .max w s

/-- `not.T d, a` (R363). -/
def execNotR (w : RWord) (s : State) : Host.Outcome State Fault Refusal := intU .not w s

/-- `clz.T d, a` (R363). -/
def execClz (w : RWord) (s : State) : Host.Outcome State Fault Refusal := intU .clz w s

/-- `ctz.T d, a` (R363). -/
def execCtz (w : RWord) (s : State) : Host.Outcome State Fault Refusal := intU .ctz w s

/-- `popc.T d, a` (R363). -/
def execPopc (w : RWord) (s : State) : Host.Outcome State Fault Refusal := intU .popc w s

/-- `abs.T d, a` (R363). -/
def execAbs (w : RWord) (s : State) : Host.Outcome State Fault Refusal := intU .abs w s

/-- `neg.T d, a` (R363). -/
def execNeg (w : RWord) (s : State) : Host.Outcome State Fault Refusal := intU .neg w s

/-- `mov.T d, a` (R363). -/
def execMov (w : RWord) (s : State) : Host.Outcome State Fault Refusal := intU .mov w s

/-- `add.T d, a, #imm` (R361, R363). -/
def execAddI (w : IWord) (s : State) : Host.Outcome State Fault Refusal := intI .add w s

/-- `sub.T d, a, #imm` (R361, R363). -/
def execSubI (w : IWord) (s : State) : Host.Outcome State Fault Refusal := intI .sub w s

/-- `mul.T d, a, #imm` (R361, R363). -/
def execMulI (w : IWord) (s : State) : Host.Outcome State Fault Refusal := intI .mul w s

/-- `and.T d, a, #imm` (R361, R363). -/
def execAndI (w : IWord) (s : State) : Host.Outcome State Fault Refusal := intI .and w s

/-- `or.T d, a, #imm` (R361, R363). -/
def execOrI (w : IWord) (s : State) : Host.Outcome State Fault Refusal := intI .or w s

/-- `xor.T d, a, #imm` (R361, R363). -/
def execXorI (w : IWord) (s : State) : Host.Outcome State Fault Refusal := intI .xor w s

/-- `andn.T d, a, #imm` (R361, R363). -/
def execAndnI (w : IWord) (s : State) : Host.Outcome State Fault Refusal := intI .andn w s

/-- `shl.T d, a, #imm` (R361, R363). -/
def execShlI (w : IWord) (s : State) : Host.Outcome State Fault Refusal := intI .shl w s

/-- `shr.T d, a, #imm` (R361, R363). -/
def execShrI (w : IWord) (s : State) : Host.Outcome State Fault Refusal := intI .shr w s

/-- `sar.T d, a, #imm` (R361, R363). -/
def execSarI (w : IWord) (s : State) : Host.Outcome State Fault Refusal := intI .sar w s

/-- `rotl.T d, a, #imm` (R361, R363). -/
def execRotlI (w : IWord) (s : State) : Host.Outcome State Fault Refusal := intI .rotl w s

/-- `min.T d, a, #imm` (R361, R363). -/
def execMinI (w : IWord) (s : State) : Host.Outcome State Fault Refusal := intI .min w s

/-- `max.T d, a, #imm` (R361, R363). -/
def execMaxI (w : IWord) (s : State) : Host.Outcome State Fault Refusal := intI .max w s

/-- `ext.T d, a, b, #len` (R365). -/
def execExtR (w : RWord) (s : State) : Host.Outcome State Fault Refusal :=
  scalarWord w.g [w.a, w.b] [] (some w.d) none
    (fun sl => { val := extPat w.ty (w.sh.toNat + 1) (opVal sl w.a).toNat (opVal sl w.b).toNat }) s

/-- `bext d, a, b` (R365). -/
def execBext (w : RWord) (s : State) : Host.Outcome State Fault Refusal :=
  scalarWord w.g [w.a, w.b] [] (some w.d) none
    (fun sl => { val := BitVec.ofNat 64 (bextGo (opVal sl w.a).toNat (opVal sl w.b).toNat (List.range 64) 0) }) s

/-- `bdep d, a, b` (R365). -/
def execBdep (w : RWord) (s : State) : Host.Outcome State Fault Refusal :=
  scalarWord w.g [w.a, w.b] [] (some w.d) none
    (fun sl => { val := BitVec.ofNat 64 (bdepGo (opVal sl w.a).toNat (opVal sl w.b).toNat (List.range 64) 0) }) s

/-- `movi.T d, #imm` (R365): rd(IMM) under R361. -/
def execMovi (w : IWord) (s : State) : Host.Outcome State Fault Refusal :=
  scalarWord w.g [] [] (some w.d) none (fun _ => { val := wrInt w.ty (rdInt w.ty (immVal w.ty w.imm)) }) s

/-- `movi.hi d, #imm` (R365): the high half replaced, the low half kept. -/
def execMoviHi (w : IWord) (s : State) : Host.Outcome State Fault Refusal :=
  scalarWord w.g [w.d] [] (some w.d) none
    (fun sl => { val := (w.imm.setWidth 64 <<< 32) ||| ((opVal sl w.d).extractLsb' 0 32).setWidth 64 }) s

/-- `lea d, a, b, #sh` (R365): no address is checked. -/
def execLea (w : RWord) (s : State) : Host.Outcome State Fault Refusal :=
  scalarWord w.g [w.a, w.b] [] (some w.d) none
    (fun sl => { val := opVal sl w.a + (opVal sl w.b <<< w.sh.toNat) }) s

/-- `cmp.T.cc pd, a, b` (R366). -/
def execCmp (w : RWord) (s : State) : Host.Outcome State Fault Refusal :=
  scalarWord w.g [w.a, w.b] [] none (some w.pd)
    (fun sl => { pred := condOf w.cc (icmp (rdInt w.ty (opVal sl w.a)) (rdInt w.ty (opVal sl w.b))) }) s

/-- `cmp.T.cc pd, a, #imm` (R366, R361). -/
def execCmpI (w : IWord) (s : State) : Host.Outcome State Fault Refusal :=
  scalarWord w.g [w.a] [] none (some w.pd)
    (fun sl => { pred := condOf w.cc (icmp (rdInt w.ty (opVal sl w.a)) (rdInt w.ty (immVal w.ty w.imm))) }) s

/-- `tst.T pd, a, b` (R366). -/
def execTst (w : RWord) (s : State) : Host.Outcome State Fault Refusal :=
  scalarWord w.g [w.a, w.b] [] none (some w.pd)
    (fun sl => { pred := rdPat w.ty (opVal sl w.a) &&& rdPat w.ty (opVal sl w.b) ≠ 0 }) s

/-- `sel.T d, pa, a, b` (R366). -/
def execSel (w : RWord) (s : State) : Host.Outcome State Fault Refusal :=
  scalarWord w.g [w.a, w.b] [w.pa] (some w.d) none
    (fun sl => { val := wrInt w.ty (rdInt w.ty (opVal sl (if sl.p[pIdx w.pa] then w.a else w.b))) }) s

/-- `pand pd, pa, pb` (R366). -/
def execPand (w : RWord) (s : State) : Host.Outcome State Fault Refusal :=
  scalarWord w.g [] [w.pa, w.pb] none (some w.pd) (fun sl => { pred := sl.p[pIdx w.pa] && sl.p[pIdx w.pb] }) s

/-- `por pd, pa, pb` (R366). -/
def execPor (w : RWord) (s : State) : Host.Outcome State Fault Refusal :=
  scalarWord w.g [] [w.pa, w.pb] none (some w.pd) (fun sl => { pred := sl.p[pIdx w.pa] || sl.p[pIdx w.pb] }) s

/-- `pnot pd, pa` (R366). -/
def execPnot (w : RWord) (s : State) : Host.Outcome State Fault Refusal :=
  scalarWord w.g [] [w.pa] none (some w.pd) (fun sl => { pred := !sl.p[pIdx w.pa] }) s

end Sys2Proof.Machine
end

