-- ==== Sys2Proof/Machine/Vector.lean ====
section
/-! DEFINITION. Vector arithmetic, logic, functions, compares and rearrangement (R402 to R410). -/

namespace Sys2Proof.Machine

open Sys2Proof

/-! ## Lane operations -/

/-- A lane operation: type, rounding mode, SEED copy, the lanes. -/
abbrev LaneOp := Ty → Rm → BitVec 32 → Nat → Nat → Nat × Fl

/-- An integer read of a lane (R360, R395). -/
def laneInt (t : Ty) (x : Nat) : Int := if tySigned t then signed (tyW t) x else (x % 2 ^ tyW t : Nat)

/-- Bits of an integer lane. -/
def laneW (t : Ty) : Nat := 8 * t.bytes

/-- A wrapped integer as a lane. -/
def laneWrap (t : Ty) (r : Int) : Nat := (r % 2 ^ laneW t).toNat

/-- A lane operation that is exact on floats and wraps on integers (R402). -/
def arithOp (fop : Rm → Val → Val → Val × Fl) (iop : Int → Int → Int) : LaneOp := fun t rm seed a b =>
  match tyF t with
  | some f =>
    let (r, fl) := fop rm (f.decode a) (f.decode b)
    let (p, g) := f.round rm seed r
    (p, fl.or g)
  | none => (laneWrap t (iop a b), {})

/-- `vfma` on one lane (R402). -/
def fmaLane (t : Ty) (rm : Rm) (seed : BitVec 32) (a b c : Nat) : Nat × Fl :=
  match tyF t with
  | some f =>
    let (r, fl) := Val.fma rm (f.decode a) (f.decode b) (f.decode c)
    let (p, g) := f.round rm seed r
    (p, fl.or g)
  | none => (laneWrap t ((a : Int) * b + c), {})

/-- `vmin` and `vmax` (R403). -/
def minMaxOp (lesser : Bool) : LaneOp := fun t _ _ a b =>
  match tyF t with
  | some f =>
    let (r, fl) := fMinMax lesser (f.decode a) (f.decode b)
    (if r.isNan then (f.nanBits, fl) else ((if r = f.decode a then a else b), fl))
  | none => (if (laneInt t a < laneInt t b) = lesser then a else b, {})

/-- `vabs` (R403). -/
def absLane (t : Ty) (a : Nat) : Nat :=
  match tyF t with
  | some f => if (f.decode a).isNan then f.nanBits else a % 2 ^ (f.width - 1)
  | none => if tySigned t then laneWrap t (laneInt t a).natAbs else a

/-- `vneg` (R403). -/
def negLane (t : Ty) (a : Nat) : Nat :=
  match tyF t with
  | some f => if (f.decode a).isNan then f.nanBits else a ^^^ 2 ^ (f.width - 1)
  | none => laneWrap t (-(a : Int))

/-- A logic or shift operation on w-bit patterns (R404). -/
def bitOp (op : Nat → Nat → Nat → Nat) : LaneOp := fun t _ _ a b => (op (laneW t) a b % 2 ^ laneW t, {})

/-! ## Frames by class (R282) -/

/-- Tags of a linear word: none may be read at a type without slab groups (R282). -/
def linearOk (t : Ty) (tags : List (BitVec 3)) : Bool := haarTy t || tags.all (· = 0)

/-- What `linear2` does (checks of R399 included). -/
def linear2Out (join : BitVec 3 → BitVec 3 → Option (BitVec 3)) (op : LaneOp) (w : VWord) (e : VEnv) : Except (BitVec 8) VOut :=
  let rs := [w.va.toNat] ++ (if w.sb then [] else [w.vb.toNat])
  do
    regsBelow e (rs ++ vMask w ++ [w.vd.toNat])
    let ta := regTag e.tl w.va.toNat
    let tb := if w.sb then 0 else regTag e.tl w.vb.toNat
    if !linearOk w.ty [ta, tb] then throw cDomain
    let tag ← (join ta tb).elim (throw cDomain) pure
    keepTag e.tl w w.vd.toNat tag
    let rsl := List.zipWith (op w.ty w.rm e.sl.seed) (lanesAt e.tl w.ty w.va.toNat) (vLanesB e e.tl w)
    let (tl, fl) := putLanes e.tl w w.ty rsl tag
    return { tl := tl, reads := rs ++ vMask w, writes := [w.vd.toNat], fl := fl }

/-- A linear word of two operands: `join` gives the result tag or refuses (R282). -/
def linear2 (join : BitVec 3 → BitVec 3 → Option (BitVec 3)) (op : LaneOp) (w : VWord) (s : State) : Host.Outcome State Fault Refusal :=
  let rs := [w.va.toNat] ++ (if w.sb then [] else [w.vb.toNat])
  vecWord w.g noEnc (vSrc w) [] (fun _ => rs ++ vMask w ++ [w.vd.toNat]) (linear2Out join op w) s

/-- Addends carry equal H bits (R282). -/
def addTags (a b : BitVec 3) : Option (BitVec 3) := if a = b then some a else none

/-- At most one multiplicand is tagged (R282). -/
def mulTags (a b : BitVec 3) : Option (BitVec 3) := if a ≠ 0 && b ≠ 0 then none else some (a ||| b)

/-- A word illegal on tagged operands (R282, R404). -/
def untagged2 (op : LaneOp) (w : VWord) (s : State) : Host.Outcome State Fault Refusal :=
  linear2 (fun a b => if a = 0 && b = 0 then some 0 else none) op w s

/-- What `recon2` does (checks of R399 included). -/
def recon2Out (two : Bool) (op : VEnv → Tile → List Nat → List Nat → List (Nat × Fl)) (w : VWord) (e : VEnv) : Except (BitVec 8) VOut :=
  let rs := [w.va.toNat] ++ (if two && !w.sb then [w.vb.toNat] else [])
  let named := rs ++ vMask w ++ [w.vd.toNat]
  do
    let (tl, gr, fl) ← recon e w.ty rs named
    keepTag tl w w.vd.toNat 0
    let b := if two then vLanesB e tl w else []
    let (tl1, g) := putLanes tl w w.ty (op e tl (lanesAt tl w.ty w.va.toNat) b) 0
    return { tl := tl1, reads := rs ++ vMask w ++ gr, writes := [w.vd.toNat] ++ gr, fl := fl.or g }

/-- A reconstructing word that gives one value a lane (R282). -/
def recon2 (two : Bool) (op : VEnv → Tile → List Nat → List Nat → List (Nat × Fl)) (w : VWord) (s : State) : Host.Outcome State Fault Refusal :=
  let rs := [w.va.toNat] ++ (if two && !w.sb then [w.vb.toNat] else [])
  let named := rs ++ vMask w ++ [w.vd.toNat]
  vecWord w.g noEnc (if two then vSrc w else []) [] (fun _ => named) (recon2Out two op w) s

/-! ## Meanings -/

/-- `vadd.T.rm vd, va, vb` (R402). -/
def execVadd (w : VWord) (s : State) : Host.Outcome State Fault Refusal :=
  linear2 addTags (arithOp Val.add (· + ·)) w s

/-- `vsub.T.rm vd, va, vb` (R402). -/
def execVsub (w : VWord) (s : State) : Host.Outcome State Fault Refusal :=
  linear2 addTags (arithOp (fun rm a b => a.add rm b.neg) (· - ·)) w s

/-- `vmul.T.rm vd, va, vb` (R402). -/
def execVmul (w : VWord) (s : State) : Host.Outcome State Fault Refusal :=
  linear2 mulTags (arithOp (fun _ a b => a.mul b) (· * ·)) w s

/-- What `vfma` does (checks of R399 included). -/
def vfmaOut (w : VWord) (e : VEnv) : Except (BitVec 8) VOut :=
  let rs := [w.va.toNat] ++ (if w.sb then [] else [w.vb.toNat]) ++ [w.vc.toNat]
  do
    regsBelow e (rs ++ vMask w ++ [w.vd.toNat])
    let ta := regTag e.tl w.va.toNat
    let tb := if w.sb then 0 else regTag e.tl w.vb.toNat
    let tc := regTag e.tl w.vc.toNat
    if !linearOk w.ty [ta, tb, tc] then throw cDomain
    let tag ← (mulTags ta tb).elim (throw cDomain) pure
    if tc ≠ tag then throw cDomain
    keepTag e.tl w w.vd.toNat tag
    let ab := List.zip (lanesAt e.tl w.ty w.va.toNat) (vLanesB e e.tl w)
    let rsl := List.zipWith (fun p c => fmaLane w.ty w.rm e.sl.seed p.1 p.2 c) ab (lanesAt e.tl w.ty w.vc.toNat)
    let (tl, fl) := putLanes e.tl w w.ty rsl tag
    return { tl := tl, reads := rs ++ vMask w, writes := [w.vd.toNat], fl := fl }

/-- `vfma.T.rm vd, va, vb, vc` (R402). -/
def execVfma (w : VWord) (s : State) : Host.Outcome State Fault Refusal :=
  let rs := [w.va.toNat] ++ (if w.sb then [] else [w.vb.toNat]) ++ [w.vc.toNat]
  vecWord w.g noEnc (vSrc w) [] (fun _ => rs ++ vMask w ++ [w.vd.toNat]) (vfmaOut w) s

/-- Lanes of a reconstructing word of two operands. -/
def zipOp (op : LaneOp) (w : VWord) : VEnv → Tile → List Nat → List Nat → List (Nat × Fl) :=
  fun e _ a b => List.zipWith (op w.ty w.rm e.sl.seed) a b

/-- `vmin.T vd, va, vb` (R403). -/
def execVmin (w : VWord) (s : State) : Host.Outcome State Fault Refusal := recon2 true (zipOp (minMaxOp true) w) w s

/-- `vmax.T vd, va, vb` (R403). -/
def execVmax (w : VWord) (s : State) : Host.Outcome State Fault Refusal := recon2 true (zipOp (minMaxOp false) w) w s

/-- `vabs.T vd, va` (R403). -/
def execVabs (w : VWord) (s : State) : Host.Outcome State Fault Refusal :=
  recon2 false (fun _ _ a _ => a.map (fun x => (absLane w.ty x, {}))) w s

/-- What `vneg` does (checks of R399 included). -/
def vnegOut (w : VWord) (e : VEnv) : Except (BitVec 8) VOut :=
  let rs := [w.va.toNat] ++ vMask w
  do
    regsBelow e (rs ++ [w.vd.toNat])
    let tag := regTag e.tl w.va.toNat
    if !linearOk w.ty [tag] then throw cDomain
    keepTag e.tl w w.vd.toNat tag
    let (tl, fl) := putLanes e.tl w w.ty ((lanesAt e.tl w.ty w.va.toNat).map (fun x => (negLane w.ty x, {}))) tag
    return { tl := tl, reads := rs, writes := [w.vd.toNat], fl := fl }

/-- `vneg.T vd, va` (R403): linear. -/
def execVneg (w : VWord) (s : State) : Host.Outcome State Fault Refusal :=
  let rs := [w.va.toNat] ++ vMask w
  vecWord w.g noEnc [] [] (fun _ => rs ++ [w.vd.toNat]) (vnegOut w) s

/-- `vand.T vd, va, vb` (R404). -/
def execVand (w : VWord) (s : State) : Host.Outcome State Fault Refusal := untagged2 (bitOp (fun _ a b => a &&& b)) w s

/-- `vor.T vd, va, vb` (R404). -/
def execVor (w : VWord) (s : State) : Host.Outcome State Fault Refusal := untagged2 (bitOp (fun _ a b => a ||| b)) w s

/-- `vxor.T vd, va, vb` (R404). -/
def execVxor (w : VWord) (s : State) : Host.Outcome State Fault Refusal := untagged2 (bitOp (fun _ a b => a ^^^ b)) w s

/-- `vshl.T vd, va, vb` (R404). -/
def execVshl (w : VWord) (s : State) : Host.Outcome State Fault Refusal := untagged2 (bitOp (fun n a b => a <<< (b % n))) w s

/-- `vshr.T vd, va, vb` (R404). -/
def execVshr (w : VWord) (s : State) : Host.Outcome State Fault Refusal := untagged2 (bitOp (fun n a b => a >>> (b % n))) w s

/-- `vsar.T vd, va, vb` (R404). -/
def execVsar (w : VWord) (s : State) : Host.Outcome State Fault Refusal :=
  untagged2 (bitOp (fun n a b => sarPat n a (b % n))) w s

/-- A function word: the exact value of the function rounded once (R405). -/
def funcWord (o : FnOp) (w : VWord) (s : State) : Host.Outcome State Fault Refusal :=
  recon2 false (fun e _ a _ => a.map (fun x =>
    let f := fTy w.ty
    let (v, fl) := fnVal o (f.decode x)
    let (p, g) := f.round w.rm e.sl.seed v
    (p, fl.or g))) w s

/-- `vexp2.T.rm vd, va` (R405). -/
def execVexp2 (w : VWord) (s : State) : Host.Outcome State Fault Refusal := funcWord .exp2 w s
/-- `vlog2.T.rm vd, va` (R405). -/
def execVlog2 (w : VWord) (s : State) : Host.Outcome State Fault Refusal := funcWord .log2 w s
/-- `vrcp.T.rm vd, va` (R405). -/
def execVrcp (w : VWord) (s : State) : Host.Outcome State Fault Refusal := funcWord .rcp w s
/-- `vrsq.T.rm vd, va` (R405). -/
def execVrsq (w : VWord) (s : State) : Host.Outcome State Fault Refusal := funcWord .rsq w s
/-- `vtanh.T.rm vd, va` (R405). -/
def execVtanh (w : VWord) (s : State) : Host.Outcome State Fault Refusal := funcWord .tanh w s
/-- `vsigm.T.rm vd, va` (R405). -/
def execVsigm (w : VWord) (s : State) : Host.Outcome State Fault Refusal := funcWord .sigm w s
/-- `vgelu.T.rm vd, va` (R405). -/
def execVgelu (w : VWord) (s : State) : Host.Outcome State Fault Refusal := funcWord .gelu w s
/-- `vsilu.T.rm vd, va` (R405). -/
def execVsilu (w : VWord) (s : State) : Host.Outcome State Fault Refusal := funcWord .silu w s

/-- Which source and destination lane element e of a `vcvt` uses (R406). -/
def cvtSrc (wide : Bool) (m part e : Nat) : Nat := if wide then part * m + e else e
def cvtDst (wide : Bool) (m part e : Nat) : Nat := if wide then e else part * m + e

/-- What `vcvt` does (checks of R399 included). -/
def vcvtOut (w : VWord) (e : VEnv) : Except (BitVec 8) VOut :=
  let st := (Ty.ofCode w.vc.toNat).getD .f32
  let vd := w.vd.toNat
  let rs := [w.va.toNat] ++ vMask w
  do
    regsBelow e (rs ++ [vd])
    let ta := regTag e.tl w.va.toNat
    let floats := (tyF w.ty).isSome && (tyF st).isSome
    if ta ≠ 0 && !(floats && haarTy st) then throw cDomain
    let wide := st.bytes < w.ty.bytes
    let m := min (lanes w.ty) (lanes st)
    if (w.me || w.ty.bytes < st.bytes) && regTag e.tl vd ≠ ta then throw cDomain
    let src := lanesAt e.tl st w.va.toNat
    let old := lanesAt e.tl w.ty vd
    let part := w.vb.toNat
    let on := laneOn e.tl w
    let hit (i : Nat) : Bool := let j := if wide then i else i - part * m; on i && j < m && cvtDst wide m part j = i
    let rsl : List (Nat × Fl) := (old.zip (List.range old.length)).map (fun (o, i) =>
      let j := if wide then i else i - part * m
      if hit i then tyCv w.ty w.rm e.sl.seed (tyVal st (src.getD (cvtSrc wide m part j) 0))
      else (o, {}))
    return { tl := setRegOn hit w.ty.bytes e.tl vd (ofLanes w.ty.bytes (rsl.map (·.1))) ta, reads := rs, writes := [vd], fl := flsOf rsl }

/-- `vcvt.T.S.rm vd, va, #part` (R406). -/
def execVcvt (w : VWord) (s : State) : Host.Outcome State Fault Refusal :=
  let vd := w.vd.toNat
  let rs := [w.va.toNat] ++ vMask w
  vecWord w.g noEnc [] [] (fun _ => rs ++ [vd]) (vcvtOut w) s

/-- The bits of a compare or mask as an image (R407). -/
def bitsImg (l : List Bool) : List Byte :=
  padTo ((chunks 8 l).map (fun c => BitVec.ofNat 8 ((c.zip (List.range 8)).foldl (fun a (b, i) => a + if b then 2 ^ i else 0) 0))) 512

/-- cond(CC, a, b) on two lanes (R366, R368). -/
def condLane (t : Ty) (cc : Cc) (a b : Nat) : Bool × Fl :=
  match tyF t with
  | some f => fcond cc (f.decode a) (f.decode b)
  | none => (condOf cc (icmp (laneInt t a) (laneInt t b)), {})

/-- What `vcmp` does (checks of R399 included). -/
def vcmpOut (w : VWord) (e : VEnv) : Except (BitVec 8) VOut :=
  let rs := [w.va.toNat] ++ (if w.sb then [] else [w.vb.toNat])
  let named := rs ++ vMask w ++ [w.vd.toNat]
  do
    let (tl, gr, fl) ← recon e w.ty rs named
    let on := laneOn tl w
    let cs := List.zipWith (condLane w.ty w.cc) (lanesAt tl w.ty w.va.toNat) (vLanesB e tl w)
    let bs := (cs.zip (List.range cs.length)).map (fun (c, i) => if on i then c else (false, {}))
    return { tl := setReg tl w.vd.toNat (bitsImg (bs.map (·.1))) 0, reads := rs ++ vMask w ++ gr,
             writes := [w.vd.toNat] ++ gr, fl := bs.foldl (fun a b => a.or b.2) fl }

/-- `vcmp.T.cc vd, va, vb` (R407). -/
def execVcmp (w : VWord) (s : State) : Host.Outcome State Fault Refusal :=
  let rs := [w.va.toNat] ++ (if w.sb then [] else [w.vb.toNat])
  let named := rs ++ vMask w ++ [w.vd.toNat]
  vecWord w.g noEnc (vSrc w) [] (fun _ => named) (vcmpOut w) s

/-- What `vsel` does (checks of R399 included). -/
def vselOut (w : VWord) (e : VEnv) : Except (BitVec 8) VOut :=
  let rs := [w.va.toNat] ++ (if w.sb then [] else [w.vb.toNat])
  let named := rs ++ [w.vc.toNat] ++ vMask w ++ [w.vd.toNat]
  do
    let (tl, gr, fl) ← recon e w.ty rs named
    keepTag tl w w.vd.toNat 0
    let m := regImg tl w.vc.toNat
    let ab := List.zip (lanesAt tl w.ty w.va.toNat) (vLanesB e tl w)
    let rsl := (ab.zip (List.range ab.length)).map (fun (p, i) => ((if imgBit m i then p.1 else p.2), ({} : Fl)))
    let (tl1, g) := putLanes tl w w.ty rsl 0
    return { tl := tl1, reads := rs ++ [w.vc.toNat] ++ vMask w ++ gr, writes := [w.vd.toNat] ++ gr, fl := fl.or g }

/-- `vsel.T vd, va, vb, vc`: VC is read as a mask (R408). -/
def execVsel (w : VWord) (s : State) : Host.Outcome State Fault Refusal :=
  let rs := [w.va.toNat] ++ (if w.sb then [] else [w.vb.toNat])
  let named := rs ++ [w.vc.toNat] ++ vMask w ++ [w.vd.toNat]
  vecWord w.g noEnc (vSrc w) [] (fun _ => named) (vselOut w) s

/-- What `vbcast` does (checks of R399 included). -/
def vbcastOut (w : VWord) (e : VEnv) : Except (BitVec 8) VOut :=
  let named := vMask w ++ [w.vd.toNat]
  do
    regsBelow e named
    keepTag e.tl w w.vd.toNat 0
    let (tl, _) := putLanes e.tl w w.ty ((vLanesB e e.tl w).map (fun x => (x, {}))) 0
    return { tl := tl, reads := vMask w, writes := [w.vd.toNat] }

/-- `vbcast.T vd, b` (R409). -/
def execVbcast (w : VWord) (s : State) : Host.Outcome State Fault Refusal :=
  let named := vMask w ++ [w.vd.toNat]
  vecWord w.g noEnc (vSrc w) [] (fun _ => named) (vbcastOut w) s

/-- What `vmov` does (checks of R399 included). -/
def vmovOut (w : VWord) (e : VEnv) : Except (BitVec 8) VOut :=
  let rs := [w.va.toNat] ++ vMask w
  do
    regsBelow e (rs ++ [w.vd.toNat])
    let tag := regTag e.tl w.va.toNat
    keepTag e.tl w w.vd.toNat tag
    let (tl, _) := putLanes e.tl w w.ty ((lanesAt e.tl w.ty w.va.toNat).map (fun x => (x, {}))) tag
    return { tl := tl, reads := rs, writes := [w.vd.toNat] }

/-- `vmov.T vd, va`: lanes and tag at any type (R409, R282). -/
def execVmov (w : VWord) (s : State) : Host.Outcome State Fault Refusal :=
  let rs := [w.va.toNat] ++ vMask w
  vecWord w.g noEnc [] [] (fun _ => rs ++ [w.vd.toNat]) (vmovOut w) s

/-- `vperm.T vd, va, vb` (R410). -/
def execVperm (w : VWord) (s : State) : Host.Outcome State Fault Refusal :=
  recon2 true (fun _ _ a b => b.map (fun i => (a.getD (i % lanes w.ty) 0, {}))) w s

/-- What `vrot` does (checks of R399 included). -/
def vrotOut (w : VWord) (e : VEnv) : Except (BitVec 8) VOut :=
  let named := [w.va.toNat] ++ vMask w ++ [w.vd.toNat]
  do
    let (tl, gr, fl) ← recon e w.ty [w.va.toNat] named
    keepTag tl w w.vd.toNat 0
    let n := lanes w.ty
    let r := (if w.sb then vScal e w else w.vb.toNat) % n
    let a := lanesAt tl w.ty w.va.toNat
    let (tl1, g) := putLanes tl w w.ty ((a.drop r ++ a.take r).map (fun x => (x, {}))) 0
    return { tl := tl1, reads := [w.va.toNat] ++ vMask w ++ gr, writes := [w.vd.toNat] ++ gr, fl := fl.or g }

/-- `vrot.T vd, va, s` (R410). -/
def execVrot (w : VWord) (s : State) : Host.Outcome State Fault Refusal :=
  let named := [w.va.toNat] ++ vMask w ++ [w.vd.toNat]
  vecWord w.g noEnc (vSrc w) [] (fun _ => named) (vrotOut w) s

end Sys2Proof.Machine
end

