-- ==== Sys2Proof/Machine/VecMore.lean ====
section
/-! DEFINITION. Vector reductions, scans, top-k, quantisation, scratchpad and payload moves (R411 to R419, R268). -/

namespace Sys2Proof.Machine

open Sys2Proof

/-! ## Reductions and scans (R268, R411) -/

/-- A reduction: the operation on floats, on integers, the identity of masked lanes. -/
structure Red where
  fop : Val → Val → Val × Fl
  iop : Int → Int → Int
  fid : Val
  iid : Ty → Int

/-- A sum rounded RNE in FP32. -/
def add32Val (a b : Val) : Val × Fl :=
  let (r, f) := a.add .rne b
  let (p, g) := FFmt.f32.round .rne 0 r
  (FFmt.f32.decode p, f.or g)

def redSum : Red := { fop := add32Val, iop := (· + ·), fid := .fin true 0 0, iid := fun _ => 0 }
def redMax : Red := { fop := fMinMax false, iop := fun a b => if a < b then b else a, fid := .inf true, iid := fun t => (tyRange t).1 }
def redMin : Red := { fop := fMinMax true, iop := fun a b => if b < a then b else a, fid := .inf false, iid := fun t => (tyRange t).2 }

/-- The fixed tree over 2^k values, the lower lane the left operand. -/
def treeGo (op : α → α → α × Fl) : Nat → List α → Fl → List α × Fl
  | 0, xs, f => (xs, f)
  | k + 1, xs, f =>
    let rs := (pairsOf xs).map (fun p => op p.1 p.2)
    treeGo op k (rs.map (·.1)) (rs.foldl (fun a r => a.or r.2) f)

/-- Lanes of one segment (R411). -/
def segLen (w : VWord) : Nat := if w.vc = 0 then lanes w.ty else 2 ^ w.vc.toNat

/-- The value of one segment as a lane pattern. -/
def redSeg (r : Red) (t : Ty) (xs : List (Nat × Bool)) : Nat × Fl :=
  match tyF t with
  | some f =>
    let (v, fl) := treeGo r.fop (Nat.log2 xs.length) (xs.map (fun x => if x.2 then f.decode x.1 else r.fid)) {}
    let (p, g) := f.round .rne 0 (v.headD r.fid)
    (p, fl.or g)
  | none =>
    let v := xs.foldl (fun a x => r.iop a (if x.2 then laneInt t x.1 else r.iid t)) (r.iid t)
    (laneWrap t v, {})

/-- What `redWord` does (checks of R399 included). -/
def redOut (r : Red) (w : VWord) (e : VEnv) : Except (BitVec 8) VOut :=
  let named := [w.va.toNat] ++ vMask w ++ [w.vd.toNat]
  do
    let (tl, gr, fl) ← recon e w.ty [w.va.toNat] named
    let on := laneOn tl w
    let a := lanesAt tl w.ty w.va.toNat
    let xs := (a.zip (List.range a.length)).map (fun (x, i) => (x, on i))
    let rs := (chunks (segLen w) xs).map (redSeg r w.ty)
    return { tl := setReg tl w.vd.toNat (padTo (ofLanes w.ty.bytes (rs.map (·.1))) 512) 0,
             reads := [w.va.toNat] ++ vMask w ++ gr, writes := [w.vd.toNat] ++ gr, fl := fl.or (flsOf rs) }

/-- A reduction word (R411). -/
def redWord (r : Red) (w : VWord) (s : State) : Host.Outcome State Fault Refusal :=
  let named := [w.va.toNat] ++ vMask w ++ [w.vd.toNat]
  vecWord w.g noEnc [] [] (fun _ => named) (redOut r w) s

/-- `vredsum.T vd, va, #segl` (R411). -/
def execVredsum (w : VWord) (s : State) : Host.Outcome State Fault Refusal := redWord redSum w s
/-- `vredmax.T vd, va, #segl` (R411). -/
def execVredmax (w : VWord) (s : State) : Host.Outcome State Fault Refusal := redWord redMax w s
/-- `vredmin.T vd, va, #segl` (R411). -/
def execVredmin (w : VWord) (s : State) : Host.Outcome State Fault Refusal := redWord redMin w s

/-- A running sum; the first value stands as it is. -/
def scanGo (op : α → α → α × Fl) : Option α → List α → List (α × Fl)
  | _, [] => []
  | none, x :: t => (x, {}) :: scanGo op (some x) t
  | some a, x :: t => let r := op a x; r :: scanGo op (some r.1) t

/-- The scan of one segment as lane patterns (R268, R411). -/
def scanSeg (t : Ty) (xs : List (Nat × Bool)) : List (Nat × Fl) :=
  match tyF t with
  | some f => (scanGo add32Val none (xs.map (fun x => if x.2 then f.decode x.1 else .fin true 0 0))).map (fun (v, fl) =>
      let (p, g) := f.round .rne 0 v
      (p, fl.or g))
  | none => (scanGo (fun a b => (a + b, {})) none (xs.map (fun x => if x.2 then laneInt t x.1 else 0))).map
      (fun (v, fl) => (laneWrap t v, fl))

/-- What `vscan` does (checks of R399 included). -/
def vscanOut (w : VWord) (e : VEnv) : Except (BitVec 8) VOut :=
  let named := [w.va.toNat] ++ vMask w ++ [w.vd.toNat]
  do
    let (tl, gr, fl) ← recon e w.ty [w.va.toNat] named
    keepTag tl w w.vd.toNat 0
    let on := laneOn tl w
    let a := lanesAt tl w.ty w.va.toNat
    let xs := (a.zip (List.range a.length)).map (fun (x, i) => (x, on i))
    let (tl1, g) := putLanes tl w w.ty ((chunks (segLen w) xs).map (scanSeg w.ty)).flatten 0
    return { tl := tl1, reads := [w.va.toNat] ++ vMask w ++ gr, writes := [w.vd.toNat] ++ gr, fl := fl.or g }

/-- `vscan.T vd, va, #segl` (R411). -/
def execVscan (w : VWord) (s : State) : Host.Outcome State Fault Refusal :=
  let named := [w.va.toNat] ++ vMask w ++ [w.vd.toNat]
  vecWord w.g noEnc [] [] (fun _ => named) (vscanOut w) s

/-! ## Top-k (R412) -/

/-- The rank order of a lane: floats with −0 below +0 and NaN below −∞, integers as read. -/
def topKey (t : Ty) (x : Nat) : Int :=
  match tyF t with
  | some f => if (f.decode x).isNan then -1 else if x.testBit (f.width - 1) then (2 ^ f.width - 1 - x : Int) else (2 ^ (f.width - 1) + x : Int)
  | none => laneInt t x

/-- Insert a lane into a list ranked in descending order, behind equal ones. -/
def topInsert (x : Int × Nat × Nat) : List (Int × Nat × Nat) → List (Int × Nat × Nat)
  | [] => [x]
  | y :: t => if y.1 < x.1 then x :: y :: t else y :: topInsert x t

/-- k of `vtopk`. -/
def topkCount (sl : Slot) (w : VWord) : Nat := if w.sb then (opVal sl (vScalar w)).toNat else w.vb.toNat

/-- k lies outside 1 to min(64, n). -/
def topkBad (sl : Slot) (w : VWord) : Bool := topkCount sl w < 1 || min 64 (lanes w.ty) < topkCount sl w

/-- What `vtopk` does (checks of R399 included). -/
def vtopkOut (w : VWord) (e : VEnv) : Except (BitVec 8) VOut :=
  let named := [w.va.toNat] ++ vMask w ++ [w.vd.toNat, w.vc.toNat]
  do
    if topkBad e.sl w then throw cIllegal
    let (tl, gr, fl) ← recon e w.ty [w.va.toNat] named
    let on := laneOn tl w
    let a := lanesAt tl w.ty w.va.toNat
    let k := topkCount e.sl w
    let xs := ((a.zip (List.range a.length)).filter (fun p => on p.2)).map (fun (x, i) => (topKey w.ty x, x, i))
    let ranked := (xs.foldl (fun l x => topInsert x l) []).take k
    let canon (x : Nat) : Nat := match tyF w.ty with
      | some f => if (f.decode x).isNan then f.nanBits else x
      | none => x
    let vals := ranked.map (fun r => canon r.2.1)
    let idx := ranked.map (fun r => r.2.2) ++ List.replicate (k - ranked.length) 0xFFFFFFFF
    let tl1 := setReg tl w.vd.toNat (padTo (ofLanes w.ty.bytes vals) 512) 0
    let tl2 := setReg tl1 w.vc.toNat (padTo (ofLanes 4 idx) 512) 0
    return { tl := tl2, reads := [w.va.toNat] ++ vMask w ++ gr, writes := [w.vd.toNat, w.vc.toNat] ++ gr, fl := fl }

/-- `vtopk.T vd, va, k, vc` (R412). -/
def execVtopk (w : VWord) (s : State) : Host.Outcome State Fault Refusal :=
  let named := [w.va.toNat] ++ vMask w ++ [w.vd.toNat, w.vc.toNat]
  vecWord w.g (fun _ _ sl => topkBad sl w) (vSrc w) [] (fun _ => named) (vtopkOut w) s

/-! ## Quantisation (R413 to R415) -/

/-- M of an 8-bit block (R414). -/
def q8Max (t : Ty) : Nat := match t with | .e4m3 => 448 | .e5m2 => 57344 | _ => 127

/-- Encode an 8-bit block: scale byte, codes, conditions (R414). -/
def q8Block (t : Ty) (rm : Rm) (seed : BitVec 32) (xs : List Val) : Nat × List Nat × Fl :=
  if xs.any (fun x => x.isNan || (match x with | .inf _ => true | _ => false)) then
    (0x3F, xs.map (fun _ => 0), { nv := true })
  else
    let amax := xs.foldl (fun a x => if x.abs.cmp a > 0 then x.abs else a) (.fin false 0 0)
    let m := q8Max t
    let e : Nat := if amax.isZero then 0
      else ((List.range 63).find? (fun (e : Nat) => !absGt amax m ((e : Int) - 32))).getD 62
    let rs := xs.map (fun x =>
      let q := x.scale (32 - (e : Int))
      if absGt q m 0 then ((tyCv t .rne 0 (.fin q.isNeg m 0)).1, ({ sat := true } : Fl)) else tyCv t rm seed q)
    (e, rs.map (·.1), flsOf rs)

/-- Fields of cfg (R413). -/
def cfgBlk (w : VWord) : Nat := 16 <<< (w.vb.toNat % 4)
def cfgTypes (w : VWord) : List Nat := if w.vb.getLsbD 2 then [w.vb.toNat / 8 % 4] else [0, 1, 2, 3]

/-- What `vquant` does (checks of R399 included). -/
def vquantOut (w : VWord) (e : VEnv) : Except (BitVec 8) VOut :=
  let st := (Ty.ofCode w.vc.toNat).getD .f32
  let named := [w.va.toNat, w.vd.toNat, w.vd.toNat + 1]
  do
    let (tl, gr, fl) ← recon e st [w.va.toNat] named
    let xs := (lanesAt tl st w.va.toNat).map (tyVal st)
    let enc (b : List Val) : Nat × List Nat × Fl :=
      if w.ty = .q4 then l4Block (cfgTypes w) w.rm e.sl.seed b else q8Block w.ty w.rm e.sl.seed b
    let bs := (chunks (cfgBlk w) xs).map enc
    let codes := (bs.map (·.2.1)).flatten
    let data := if w.ty = .q4 then packNib codes else codes.map (BitVec.ofNat 8)
    let tl1 := setReg tl w.vd.toNat (padTo data 512) 0
    let tl2 := setReg tl1 (w.vd.toNat + 1) (padTo (bs.map (fun b => BitVec.ofNat 8 b.1)) 512) 0
    return { tl := tl2, reads := [w.va.toNat] ++ gr, writes := [w.vd.toNat, w.vd.toNat + 1] ++ gr,
             fl := bs.foldl (fun a b => a.or b.2.2) fl }

/-- `vquant.T.S.rm vd, va, #cfg` (R413). -/
def execVquant (w : VWord) (s : State) : Host.Outcome State Fault Refusal :=
  let named := [w.va.toNat, w.vd.toNat, w.vd.toNat + 1]
  vecWord w.g noEnc [] [] (fun _ => named) (vquantOut w) s

/-- One element of quantised data with its scale byte (R415). -/
def deqVal (st : Ty) (scale : Nat) (codes : List Byte) (i : Nat) : Val × Fl :=
  if st = .q4 then (l4Val scale (nib codes i), {})
  else if scale = 0x3F || scale / 64 ≠ 0 then (.nan false, { nv := true })
  else ((tyVal st (codes.getD i 0).toNat).scale ((scale : Int) - 32), {})

/-- What `vdequant` does (checks of R399 included). -/
def vdequantOut (w : VWord) (e : VEnv) : Except (BitVec 8) VOut :=
  let st := (Ty.ofCode w.vc.toNat).getD .q4
  let va := w.va.toNat
  do
    regsBelow e [va, va + 1, w.vd.toNat]
    if regTag e.tl va ≠ 0 || regTag e.tl (va + 1) ≠ 0 then throw cDomain
    let codes := regImg e.tl va
    let scales := regImg e.tl (va + 1)
    let rs := (List.range (lanes w.ty)).map (fun i =>
      let (v, f) := deqVal st (scales.getD (i / cfgBlk w) 0).toNat codes i
      let (p, g) := tyCv w.ty w.rm e.sl.seed v
      (p, f.or g))
    return { tl := setReg e.tl w.vd.toNat (ofLanes w.ty.bytes (rs.map (·.1))) 0, reads := [va, va + 1],
             writes := [w.vd.toNat], fl := flsOf rs }

/-- `vdequant.T.S.rm vd, va, #cfg` (R415). -/
def execVdequant (w : VWord) (s : State) : Host.Outcome State Fault Refusal :=
  let va := w.va.toNat
  vecWord w.g noEnc [] [] (fun _ => [va, va + 1, w.vd.toNat]) (vdequantOut w) s

/-! ## Scratchpad and payload moves (R416 to R418) -/

/-- L of a `vld` or `vst` (R416). -/
def moveLen (sl : Slot) (w : VWord) : Nat := if w.sb then (opVal sl (vScalar w)).toNat else 512 * (w.vb.toNat + 1)

/-- The byte count is above 131,072 (R416). -/
def moveBad (sl : Slot) (w : VWord) : Bool := w.sb && 131072 < moveLen sl w

/-- The scalar operand a of a move. -/
def vAddr (w : VWord) : SOp := opCode (w.va.toNat % 32)

/-- The registers of a run. -/
def moveRegs (w : VWord) (len : Nat) : List Nat := (List.range (cdiv len 512)).map (w.vd.toNat + ·)

/-- Put a run's bytes into registers: rest of the last register 0, disabled lanes kept (R416). `on` is the mask read before
any register is written (R396). -/
def putRun (on : Nat → Bool) (tl : Tile) (ty : Ty) (tag : BitVec 3) : List Nat → List Byte → Tile
  | [], _ => tl
  | r :: t, bs =>
    let new := toLanes ty.bytes (padTo (bs.take 512) 512)
    putRun on (setRegOn on ty.bytes tl r (ofLanes ty.bytes (mergeLanes on (lanesAt tl ty r) new)) tag) ty tag t (bs.drop 512)

/-- Write bytes into registers of a run from a source image (R416, R417). -/
def loadRun (e : VEnv) (w : VWord) (bs : List Byte) (tag : BitVec 3) (spad : List (Nat × Nat)) : Except (BitVec 8) VOut := do
  let regs := moveRegs w (moveLen e.sl w)
  regsBelow e (vMask w ++ regs)
  if spad.any (fun p => e.scratch < p.1 + p.2) then throw cPartition
  if w.me && regs.any (fun r => regTag e.tl r ≠ tag) then throw cDomain
  return { tl := putRun (laneOn e.tl w) e.tl w.ty tag regs bs, reads := if regs.isEmpty then [] else vMask w, writes := regs,
           sreads := spad.filter (·.2 ≠ 0) }

/-- What `vld` does (checks of R399 included). -/
def vldOut (w : VWord) (e : VEnv) : Except (BitVec 8) VOut :=
    if moveBad e.sl w then throw cIllegal
    else
      let len := moveLen e.sl w
      let a := (opVal e.sl (vAddr w)).toNat
      if len = 0 then return { tl := e.tl }
      else loadRun e w (rdBytes e.tl.scratch a len) 0 [(a, len)]

/-- `vld.T vd, [a], #n` and `vld.T vd, [a], b` (R416). -/
def execVld (w : VWord) (s : State) : Host.Outcome State Fault Refusal :=
  vecWord w.g (fun _ _ sl => moveBad sl w) (vAddr w :: vSrc w) [] (fun sl => vMask w ++ moveRegs w (moveLen sl w)) (vldOut w) s

/-- The packed image of a payload, coordinate-sparse data expanded (R417). -/
def payloadImage (k : Token) : Option (List Byte × BitVec 3) :=
  let img (b : Burst) (sparse : Bool) : Option (List Byte × BitVec 3) :=
    match efmt b.fmt.toNat with
    | none => none
    | some .mx => none
    | some f => some ((if sparse then expandZeros f b.nelem.toNat b.bytes else b.bytes.take (fmtBytes f b.nelem.toNat)),
        b.dtag &&& 3)
  match k.body with
  | .burst b => img b false
  | .sparse b => img b true
  | _ => none

/-- The image of the port a `vld` names. -/
def portImage (sl : Slot) (w : VWord) : Option (List Byte × BitVec 3) :=
  (afind sl.firing.ops (w.va.toNat - 8)).bind payloadImage

/-- What `vldPort` does (checks of R399 included). -/
def vldPortOut (w : VWord) (e : VEnv) : Except (BitVec 8) VOut :=
    if moveBad e.sl w then throw cIllegal
      else match portImage e.sl w with
        | none => throw cIllegal
        | some (img, tag) =>
          if moveLen e.sl w = 0 then return { tl := e.tl }
          else loadRun e w (padTo img (moveLen e.sl w)) tag []

/-- `vld.T vd, inK, …`: the port form (R417). -/
def execVldPort (w : VWord) (s : State) : Host.Outcome State Fault Refusal :=
  vecWord w.g (fun _ _ sl => moveBad sl w || (portImage sl w).isNone) (vSrc w) []
    (fun sl => vMask w ++ moveRegs w (moveLen sl w)) (vldPortOut w) s

/-- What `vst` does (checks of R399 included). -/
def vstOut (w : VWord) (e : VEnv) : Except (BitVec 8) VOut := do
    if moveBad e.sl w then throw cIllegal
    let len := moveLen e.sl w
    let a := (opVal e.sl (vAddr w)).toNat
    if len = 0 then return { tl := e.tl }
    let regs := moveRegs w len
    regsBelow e (vMask w ++ regs)
    if e.scratch < a + len then throw cPartition
    let on := laneOn e.tl w
    let img := ((regs.map (regImg e.tl)).flatten).take len
    let old := rdBytes e.tl.scratch a len
    let new := ((old.zip img).zip (List.range len)).map (fun (p, i) => if on (i % 512 / w.ty.bytes) then p.2 else p.1)
    return { tl := if w.me then { e.tl with scratch := wrBytes e.tl.scratch a new } else wrScratch e.tl a new,
             reads := vMask w ++ regs, swrites := [(a, len)] }

/-- `vst.T [a], vd, …` (R416). -/
def execVst (w : VWord) (s : State) : Host.Outcome State Fault Refusal :=
  vecWord w.g (fun _ _ sl => moveBad sl w) (vAddr w :: vSrc w) [] (fun sl => vMask w ++ moveRegs w (moveLen sl w)) (vstOut w) s

/-- Index registers of `vldx` and `vstx` (R418). -/
def idxRegs (w : VWord) : List Nat := (List.range (cdiv (lanes w.ty) 128)).map (w.vb.toNat + ·)

/-- The address of every enabled lane (R418). -/
def idxAddrs (tl : Tile) (sl : Slot) (w : VWord) : List (Nat × Nat) :=
  let ix := ((idxRegs w).map (lanesAt tl .z32)).flatten
  let a := (opVal sl (vAddr w)).toNat
  let on := laneOn tl w
  ((List.range (lanes w.ty)).filter on).map (fun i => (i, (a + ix.getD i 0) % 2 ^ 64))

/-- Some lane's address is not aligned (R418). -/
def idxBad (tl : Tile) (sl : Slot) (w : VWord) : Bool := (idxAddrs tl sl w).any (fun p => p.2 % w.ty.bytes ≠ 0)

/-- The checks both indexed forms share (R418). -/
def idxCheck (e : VEnv) (w : VWord) : Except (BitVec 8) (List (Nat × Nat)) := do
  if idxBad e.tl e.sl w then throw cIllegal
  regsBelow e (idxRegs w ++ vMask w ++ [w.vd.toNat])
  let as := idxAddrs e.tl e.sl w
  if as.any (fun p => e.scratch < p.2 + w.ty.bytes) then throw cPartition
  if (idxRegs w).any (fun r => regTag e.tl r ≠ 0) then throw cDomain
  return as

/-- What `vldx` does (checks of R399 included). -/
def vldxOut (w : VWord) (e : VEnv) : Except (BitVec 8) VOut := do
    let as ← idxCheck e w
    keepTag e.tl w w.vd.toNat 0
    let b := w.ty.bytes
    let new := as.foldl (fun l (i, a) => lmod l i (fun _ => leNat (rdBytes e.tl.scratch a b))) (lanesAt e.tl w.ty w.vd.toNat)
    return { tl := setRegOn (laneOn e.tl w) b e.tl w.vd.toNat (ofLanes b new) 0, reads := idxRegs w ++ vMask w, writes := [w.vd.toNat],
             sreads := as.map (fun p => (p.2, b)) }

/-- `vldx.T vd, [a], vb` (R418). -/
def execVldx (w : VWord) (s : State) : Host.Outcome State Fault Refusal :=
  vecWord w.g (fun s t sl => idxBad (tileOf s t) sl w) [vAddr w] [] (fun _ => idxRegs w ++ vMask w ++ [w.vd.toNat]) (vldxOut w) s

/-- What `vstx` does (checks of R399 included). -/
def vstxOut (w : VWord) (e : VEnv) : Except (BitVec 8) VOut := do
    let as ← idxCheck e w
    let b := w.ty.bytes
    let xs := lanesAt e.tl w.ty w.vd.toNat
    let m := as.foldl (fun m (i, a) => wrBytes m a (bytesLE b (xs.getD i 0))) e.tl.scratch
    return { tl := { e.tl with scratch := m }, reads := idxRegs w ++ vMask w ++ [w.vd.toNat], swrites := as.map (fun p => (p.2, b)) }

/-- `vstx.T vd, [a], vb`: ascending lanes (R418). -/
def execVstx (w : VWord) (s : State) : Host.Outcome State Fault Refusal :=
  vecWord w.g (fun s t sl => idxBad (tileOf s t) sl w) [vAddr w] [] (fun _ => idxRegs w ++ vMask w ++ [w.vd.toNat]) (vstxOut w) s

end Sys2Proof.Machine
end

