-- ==== Sys2Proof/Machine/Wavelet.lean ====
section
/-! DEFINITION. Wavelet words on slab groups and the threshold registers (R420 to R427, R273). -/

namespace Sys2Proof.Machine

open Sys2Proof

/-- The shared checks of a wavelet word on group VA (R420): registers below VREGS, then one tag in the group. -/
def groupCheck (e : VEnv) (w : VWord) (more : List Nat) : Except (BitVec 8) (BitVec 3) := do
  regsBelow e (groupRegs w.ty w.va.toNat ++ groupRegs w.ty w.vd.toNat ++ more)
  if !evenGroup e.tl w.ty w.va.toNat then throw cDomain
  return regTag e.tl w.va.toNat

/-- What a word that turns group VA into group VD does. -/
def groupOut (w : VWord) (tl : Tile) (fl : Fl) : VOut :=
  { tl := tl, reads := groupRegs w.ty w.va.toNat, writes := groupRegs w.ty w.vd.toNat, fl := fl }

/-- The registers of both groups. -/
def bothGroups (w : VWord) : List Nat := groupRegs w.ty w.va.toNat ++ groupRegs w.ty w.vd.toNat

/-- What `hfwd` does (checks of R399 included). -/
def hfwdOut (w : VWord) (e : VEnv) : Except (BitVec 8) VOut := do
    let tag ← groupCheck e w []
    let axes := w.vb.setWidth 3
    if tag &&& axes ≠ 0 || (tag.getLsbD 1 && axes.getLsbD 0) then throw cDomain
    let (x, f) := slabFwd axes (groupSlab e.tl w.ty w.va.toNat)
    let (tl, g) := putGroup e.tl w.ty w.vd.toNat x (tag ||| axes)
    return groupOut w tl (f.or g)

/-- `hfwd.T vd, va, #axes` (R421). -/
def execHfwd (w : VWord) (s : State) : Host.Outcome State Fault Refusal :=
  vecWord w.g noEnc [] [] (fun _ => bothGroups w) (hfwdOut w) s

/-- What `hinv` does (checks of R399 included). -/
def hinvOut (w : VWord) (e : VEnv) : Except (BitVec 8) VOut := do
    let tag ← groupCheck e w []
    if tag = 0 then
      let imgs := (groupRegs w.ty w.va.toNat).map (regImg e.tl)
      return groupOut w (((groupRegs w.ty w.vd.toNat).zip imgs).foldl (fun tl p => setReg tl p.1 p.2 0) e.tl) {}
    else
      let (x, f) := slabInv tag (groupSlab e.tl w.ty w.va.toNat)
      let (tl, g) := putGroup e.tl w.ty w.vd.toNat x 0
      return groupOut w tl (f.or g)

/-- `hinv.T vd, va`: a group of tag 0 is copied (R422). -/
def execHinv (w : VWord) (s : State) : Host.Outcome State Fault Refusal :=
  vecWord w.g noEnc [] [] (fun _ => bothGroups w) (hinvOut w) s

/-- What `hthr` does (checks of R399 included). -/
def hthrOut (w : VWord) (e : VEnv) : Except (BitVec 8) VOut :=
  let c := opCode (w.vc.toNat % 32)
  do
    let tag ← groupCheck e w []
    let keep := slabKeep tag e.tl.th.toList (groupSlab e.tl w.ty w.va.toNat)
    let codes := ((groupRegs w.ty w.va.toNat).map (lanesAt e.tl w.ty)).flatten
    let imgs := chunks 512 (ofLanes w.ty.bytes (applyKeep keep codes))
    let tl := ((groupRegs w.ty w.vd.toNat).zip imgs).foldl (fun tl p => setReg tl p.1 p.2 tag) e.tl
    return { groupOut w tl {} with out := some (c, BitVec.ofNat 64 ((keep.filter id).length)), treads := List.range 8 }

/-- `hthr.T vd, va, c`: survivors keep their encodings (R423, R274). -/
def execHthr (w : VWord) (s : State) : Host.Outcome State Fault Refusal :=
  let c := opCode (w.vc.toNat % 32)
  vecWord w.g noEnc [] [c] (fun _ => bothGroups w) (hthrOut w) s

/-- What `hexp` does (checks of R399 included). -/
def hexpOut (w : VWord) (e : VEnv) : Except (BitVec 8) VOut := do
    regsBelow e (w.va.toNat :: groupRegs w.ty w.vd.toNat)
    let bm := regImg e.tl w.va.toNat
    let run := (List.range (1 + cdiv (slabPop bm * w.ty.bytes) 512)).map (w.va.toNat + ·)
    regsBelow e run
    if run.any (fun r => regTag e.tl r ≠ 0) then throw cDomain
    let codes := expandSlab w.ty.bytes ((run.map (regImg e.tl)).flatten)
    let imgs := chunks 512 (ofLanes w.ty.bytes codes)
    let tl := ((groupRegs w.ty w.vd.toNat).zip imgs).foldl (fun tl p => setReg tl p.1 p.2 (w.vb.setWidth 3)) e.tl
    return { tl := tl, reads := run, writes := groupRegs w.ty w.vd.toNat }

/-- `hexp.T vd, va, #h` (R424). -/
def execHexp (w : VWord) (s : State) : Host.Outcome State Fault Refusal :=
  vecWord w.g noEnc [] [] (fun _ => w.va.toNat :: groupRegs w.ty w.vd.toNat) (hexpOut w) s

/-- What `hbias` does (checks of R399 included). -/
def hbiasOut (w : VWord) (e : VEnv) : Except (BitVec 8) VOut :=
  let vb := if w.sb then [] else [w.vb.toNat]
  do
    let tag ← groupCheck e w vb
    if vb.any (fun r => regTag e.tl r ≠ 0) then throw cDomain
    let bl := if w.sb then List.replicate 64 (vScal e w) else (lanesAt e.tl w.ty w.vb.toNat).take 64
    let (sums, f) := slabBias tag (bl.map (fun x => (f32 (tyVal w.ty x)).toNat)) (groupSlab e.tl w.ty w.va.toNat)
    let codes := ((groupRegs w.ty w.va.toNat).map (lanesAt e.tl w.ty)).flatten
    let rs := (sums.zip codes).map (fun (r, c) => match r with
      | none => (c, {})
      | some (v, g) => let (p, h) := tyCv w.ty .rne 0 v; (p, g.or h))
    let imgs := chunks 512 (ofLanes w.ty.bytes (rs.map (·.1)))
    let tl := ((groupRegs w.ty w.vd.toNat).zip imgs).foldl (fun tl p => setReg tl p.1 p.2 tag) e.tl
    return { groupOut w tl (f.or (flsOf rs)) with reads := vb ++ groupRegs w.ty w.va.toNat }

/-- `hbias.T vd, va, vb` (R425, R283). -/
def execHbias (w : VWord) (s : State) : Host.Outcome State Fault Refusal :=
  let vb := if w.sb then [] else [w.vb.toNat]
  vecWord w.g noEnc (vSrc w) [] (fun _ => vb ++ bothGroups w) (hbiasOut w) s

/-- The registers `dtag` acts on: VD alone for TYPE 0, else its group (R426). -/
def dtagRegs (w : VWord) : List Nat := if w.ty = .b64 then [w.vd.toNat] else groupRegs w.ty w.vd.toNat

/-- What `dtag` does (checks of R399 included). -/
def dtagOut (w : VWord) (e : VEnv) : Except (BitVec 8) VOut := do
    regsBelow e (dtagRegs w)
    let tl := (dtagRegs w).foldl (fun tl r => { tl with vtag := asetd tl.vtag r (w.vb.setWidth 3) 0 }) e.tl
    return { tl := tl, writes := dtagRegs w }

/-- `dtag.T vd, #h` (R426). -/
def execDtag (w : VWord) (s : State) : Host.Outcome State Fault Refusal :=
  vecWord w.g noEnc [] [] (fun _ => dtagRegs w) (dtagOut w) s

/-- What `dtget` does (checks of R399 included). -/
def dtgetOut (w : VWord) (e : VEnv) : Except (BitVec 8) VOut :=
  let d := opCode (w.vd.toNat % 32)
  do
    regsBelow e [w.va.toNat]
    return { tl := e.tl, reads := [w.va.toNat], out := some (d, (regTag e.tl w.va.toNat).setWidth 64) }

/-- `dtget d, va` (R426). -/
def execDtget (w : VWord) (s : State) : Host.Outcome State Fault Refusal :=
  let d := opCode (w.vd.toNat % 32)
  vecWordM true w.g noEnc [] [d] (fun _ => [w.va.toNat]) (dtgetOut w) s

/-- A threshold as stored: −0 becomes +0; a negative value or a NaN is refused (R273). -/
def thValue (x : BitVec 32) : Option (BitVec 32) :=
  if x = 0x80000000#32 then some 0
  else if x.getLsbD 31 || 0x7F800000 < x.toNat then none
  else some x

/-- What `thset` does (checks of R399 included). -/
def thsetOut (w : VWord) (e : VEnv) : Except (BitVec 8) VOut :=
    match thValue (f32 (tyVal w.ty (vScal e w))) with
    | none => throw cThreshold
    | some x =>
      let n : Fin 8 := (w.vd.extractLsb' 0 3).toFin
      return { tl := { e.tl with th := e.tl.th.set n x }, twrites := [n.val] }

/-- `thset.T thN, a` (R427). -/
def execThset (w : VWord) (s : State) : Host.Outcome State Fault Refusal :=
  vecWord w.g noEnc [vScalar w] [] (fun _ => []) (thsetOut w) s

end Sys2Proof.Machine
end

