-- ==== Sys2Proof/Machine/Sys.lean ====
section
/-! DEFINITION. Special registers (R381 to R385), system words (R386 to R389) and privileged words (R390 to R394). -/

namespace Sys2Proof.Machine

open Sys2Proof

/-! ## Special registers -/

/-- The package number in force; 0xFF when there is none, as FSTAT has it (R20, R382; log 30). -/
def ownPkg (s : State) : Nat := match s.boot.pkg with | some p => p.toNat | none => 0xFF

/-- A threshold register of a tile. -/
def thReg (tl : Tile) (n : Nat) : BitVec 32 := tl.th.toList.getD n 0

/-- The value of a special register in a slot (R381, R382). -/
def srValue (s : State) (t : Nat) (sl : Slot) (n : Nat) : Word :=
  let tl := tileOf s t
  let l := tileLaunch s t
  if n = 0x000 then BitVec.ofNat 64 s.time
  else if n = 0x001 then BitVec.ofNat 64 (ownPkg s * 2048 + t)
  else if n = 0x002 then BitVec.ofNat 64 ((l.images.length - 1) * 256 + tl.ctx.toNat)
  else if n = 0x003 then tl.stepid.setWidth 64
  else if n = 0x004 then tl.stat
  else if n = 0x005 then sl.seed.setWidth 64
  else if n = 0x006 then sl.winsel.setWidth 64
  else if n = 0x007 then tl.partw.setWidth 64
  else if n = 0x008 then (if l.det then 1 else 0)
  else if n = 0x009 then tl.estr.setWidth 64
  else if n = 0x00A then tl.thctl
  else if n = 0x00B then (if tl.dbgctl then 1 else 0)
  else if n = 0x010 then s.clk.clkg.getD (dieOf t) 0
  else if n = 0x011 then tl.clkq
  else if n = 0x012 then tl.clkev
  else if n < 0x020 then (thReg tl (n - 0x018)).setWidth 64
  else (tl.chan.getD ((n - 0x020) / 2) 0).extractLsb' (64 * (n % 2)) 64

/-- Registers whose reading is marked in deterministic mode: TIME, CLKG, CLKEV (R202, R56). -/
def srMarked (n : Nat) : Bool := n = 0x000 || n = 0x010 || n = 0x012

/-- The tracked unit of a special register: STAT, THCTL, TH0 to TH7 (R385). -/
def srUnit (n : Nat) : Option Nat :=
  if n = 0x004 then some (regLine * 128)
  else if n = 0x00A then some ((regLine + 2048) * 128)
  else if 0x018 ≤ n && n < 0x020 then some ((regLine + 2049 + (n - 0x018)) * 128)
  else none

/-- Track an access to a special register. -/
def trackSr (s : State) (t : Nat) (f : Firing) (write : Bool) (n : Nat) :
    Except (BitVec 8 × Option TrackBy) (State × Firing) :=
  match srUnit n with
  | none => .ok (s, f)
  | some a => trackTile s t f write a 8

/-- Registers that `wrsr` writes: STAT, SEED, WINSEL, ESTR, THCTL, CLKQ, CLKEV, TH0 to TH7 (R381). -/
def srWritable (n : Nat) : Bool :=
  n = 0x004 || n = 0x005 || n = 0x006 || n = 0x009 || n = 0x00A || n = 0x011 || n = 0x012 || (0x018 ≤ n && n < 0x020)

/-- The fields that clear in CLKEV where a write holds ones: COUNT only when all of it is ones (R54). -/
def clkevClear (a : Word) : Word := (a &&& 0xF#64) ||| (if a.extractLsb' 8 8 = 0xFF then 0xFF00 else 0)

/-- The largest EST of a launch's tiles in a plot (R147). -/
def plotEst (s : State) (h p : Nat) : BitVec 32 :=
  (((launchOf s h).tileset.filter (fun t => plotOf t = p)).map (fun t => (tileOf s t).estr)).foldl
    (fun a b => if a.toNat < b.toNat then b else a) 0

/-- Send a plot's estimate when it has changed, at most once in 10 µs (R147). -/
def sendEstimate (s : State) (h p : Nat) : State :=
  let v := plotEst s h p
  let go := match afind (launchOf s h).estSent p with
    | none => true
    | some (old, t0) => old ≠ v && t0 + 10000 ≤ s.time
  if go then sendEv (modLaunch s h (fun l => { l with estSent := aput l.estSent p (v, s.time) })) p (.estimate h v) else s

/-- Write a special register of the tile, not of the slot. -/
def srWriteTile (s : State) (t : Nat) (n : Nat) (a : Word) : State :=
  if n = 0x004 then modTile s t (fun x => { x with stat := x.stat &&& ~~~(a &&& 0x71F#64) })
  else if n = 0x009 then
    sendEstimate (modTile s t (fun x => { x with estr := a.setWidth 32 })) (tileOf s t).launch (plotOf t)
  else if n = 0x00A then modTile s t (fun x => { x with thctl := a &&& 0x8FFFFF00#64 })
  else if n = 0x012 then modTile s t (fun x => { x with clkev := x.clkev &&& ~~~(clkevClear a) })
  else s

/-- `rdsr d, NAME` (R381). -/
def execRdsr (w : IWord) (s : State) : Host.Outcome State Fault Refusal :=
  runWord w.g true [] [w.d] [] (fun t k sl gm s =>
    let n := w.imm.toNat
    match trackSr s t sl.firing false n with
    | .error e => .fault s (trackPoison s t sl.firing e)
    | .ok (s1, f1) =>
      let m := gm || (srMarked n && (tileLaunch s t).det)
      .go (setSlot s1 t k (wrT { sl with firing := f1 } w.d (srValue s t sl n) m))) s

/-- `wrsr NAME, a`: a register read-only for codelets is an illegal encoding (R381, R155). -/
def execWrsr (w : IWord) (s : State) : Host.Outcome State Fault Refusal :=
  let n := w.imm.toNat
  runWordE w.g (fun _ _ _ => !srWritable n) false [w.a] [] [] (fun t k sl _ s =>
    let a := opVal sl w.a
    if opMark sl w.a then wfault s t k cNondet
    else if !srWritable n then wfault s t k cIllegal
    else if n = 0x005 then .go (setSlot s t k { sl with seed := a.setWidth 32 })
    else if n = 0x006 then .go (setSlot s t k { sl with winsel := a.setWidth 8 })
    else if n = 0x011 then
      match clkRequest s (tileOf s t).launch a with
      | some s1 => .go s1
      | none => wfault s t k cClockRange
    else if 0x018 ≤ n && (thValue (a.setWidth 32)).isNone then wfault s t k cThreshold
    else
      match trackSr s t sl.firing true n with
      | .error e => .fault s (trackPoison s t sl.firing e)
      | .ok (s1, f1) =>
        let s2 := setSlot s1 t k { sl with firing := f1 }
        match thValue (a.setWidth 32) with
        | some x =>
          if 0x018 ≤ n then .go (modTile s2 t (fun y => { y with th := y.th.set (Fin.ofNat 8 (n - 0x018)) x }))
          else .go (srWriteTile s2 t n a)
        | none => .go (srWriteTile s2 t n a)) s

/-! ## System words -/

/-- `trap a, #code` (R387). -/
def execTrap (w : IWord) (s : State) : Host.Outcome State Fault Refusal :=
  runWord w.g false [w.a] [] [] (fun t k sl _ s =>
    if opMark sl w.a then wfault s t k cNondet
    else
      let h := (tileOf s t).launch
      let f := sl.firing
      let r := faultRecord 3 (w.imm.setWidth 8) f.node t f.ctx.toNat 0 (bytesLE 8 (opVal sl w.a).toNat) []
      .fin (askEnd (appendLog s h true r) h 6)) s

/-- Post an event record of a function; it waits until the ring has room (R23). -/
def postEvent (s : State) (f : Nat) (r : List Byte) : State := modFn s f (fun x => { x with waiting := x.waiting ++ [padTo r 64] })

/-- The BREAK record of a stopped slot (R23, R388). -/
def breakRecord (t k : Nat) (f : Firing) (imm : BitVec 32) (h : Nat) : List Byte :=
  bytesLE 8 2 ++ bytesLE 4 imm.toNat ++ bytesLE 2 t ++ bytesLE 1 f.ctx.toNat ++ bytesLE 1 k
    ++ bytesLE 4 f.tag.toNat ++ bytesLE 2 (h % 65536)

/-- `brk #n`: nothing with DBGCTL.EN = 0; otherwise the slot stops before the next word (R388). -/
def execBrk (w : IWord) (s : State) : Host.Outcome State Fault Refusal :=
  runWord w.g false [] [] [] (fun t k sl _ s =>
    if !(tileOf s t).dbgctl then .go s
    else
      let h := (tileOf s t).launch
      let s1 := setSlot s t k { sl with phase := .stopped, word := sl.word + 1 }
      .stop (postEvent s1 (launchOf s h).func (breakRecord t k sl.firing w.imm h))) s

/-- `nop` (R386). -/
def execNop (w : RWord) (s : State) : Host.Outcome State Fault Refusal :=
  runWord w.g false [] [] [] (fun _ _ _ _ s => .go s) s

/-- `clkreq a` (R386, R45, R46). -/
def execClkreq (w : RWord) (s : State) : Host.Outcome State Fault Refusal :=
  runWord w.g false [w.a] [] [] (fun t k sl _ s =>
    if opMark sl w.a then wfault s t k cNondet
    else match clkRequest s (tileOf s t).launch (opVal sl w.a) with
      | some s1 => .go s1
      | none => wfault s t k cClockRange) s

/-- `kick a, b`: the release at `.dom` is complete before the kick takes effect (R389, R104). -/
def execKick (w : RWord) (s : State) : Host.Outcome State Fault Refusal :=
  runWordE w.g (fun _ _ sl => (opVal sl w.a).extractLsb' 12 52 ≠ 0) false [w.a, w.b] [] [] (fun t k sl _ s =>
    let q := (opVal sl w.a).toNat
    let v := (opVal sl w.b).toNat
    if opMark sl w.a || opMark sl w.b then wfault s t k cNondet
    else if 4096 ≤ q then wfault s t k cIllegal
    else if relWaits s sl.reqs sl.firing.clock .dom then .wait s
    else if kickOk s q v (tileLaunch s t).asid then .go (doorbell s q v)
    else wfault (if (afind s.queues q).isSome then queueErr s q else s) t k cKickRefused) s

/-! ## Privileged words -/

/-- A window's three words (R61). -/
def winOf (b : List Byte) : Win := { base := lword b 0, limit := lword b 8, offset := lword b 16 }

/-- `winld a, b` (R391). -/
def execWinld (w : RWord) (s : State) : Host.Outcome State Fault Refusal :=
  let bad (sl : Slot) : Bool := 8 ≤ (opVal sl w.a).toNat || (opVal sl w.b).toNat % 8 ≠ 0
  runWordE w.g (fun _ _ sl => bad sl) false [w.a, w.b] [] [] (fun t k sl _ s =>
    let i := (opVal sl w.a).toNat
    let b := (opVal sl w.b).toNat
    let c := sl.firing.ctx
    if opMark sl w.a || opMark sl w.b then wfault s t k cNondet
    else if bad sl then wfault s t k cIllegal
    else if (imageOf s t c).scratch < b + 24 then wfault s t k cPartition
    else locked s t k { spad := [(b, 24)] } (fun s =>
      let tl := tileOf s t
      let d := winOf (rdBytes tl.scratch b 24)
      if readsBad tl [] [(b, 24)] then wfault s t k cUncorrectable
      else match trackTile s t sl.firing false b 24 with
        | .error e => .fault s (trackPoison s t sl.firing e)
        | .ok (s1, f1) =>
          if !d.ok (tileLaunch s t).asid then wfault (setSlot s1 t k { sl with firing := f1 }) t k cWindowDescriptor
          else
            let put (m : BitVec 8) : BitVec 8 := if d.valid then m ||| BitVec.twoPow 8 i else m &&& ~~~(BitVec.twoPow 8 i)
            let s2 := modTile s1 t (fun x => { x with
              wins := aput x.wins c.toNat (lmod (aget x.wins c.toNat []) i (fun _ => d)),
              winsel := aput x.winsel c.toNat (put (aget x.winsel c.toNat 0)) })
            .go (setSlot s2 t k { sl with firing := f1, winsel := put sl.winsel }))) s

/-- The windows in force for a slot. -/
def slotWins (s : State) (t : Nat) (sl : Slot) : List Win := aget (tileOf s t).wins sl.firing.ctx.toNat []

/-- Form an address for a slot (R449). -/
def slotAddr (s : State) (t : Nat) (sl : Slot) (k : Acc) (va : Word) (n : Nat) : Except (BitVec 8) Formed :=
  formAddr s (tileLaunch s t) (slotWins s t sl) sl.winsel k va n

/-- The poison of a fault met at an address (R288). -/
def vaPoison (s : State) (t : Nat) (f : Firing) (code : BitVec 8) (va : Word) : Poison := (mkPoison s t f code).atVA va

/-- A request of the slot stands on bytes of the extent. -/
def reqOverlaps (s : State) (sl : Slot) (f : Formed) (n : Nat) : Bool :=
  s.reqs.any (fun r => sl.reqs.contains r.id && r.addr.asid = f.asid
    && extMeet (r.addr.ia.toNat, r.op.size) (f.ia.toNat, n))

/-- What a flush waits for: the codelet's accesses to the extent, and the stores that stand in a near slice and are still on their way
to the controller, which are the write-backs of its dirty lines (R392). -/
def flushDue (s : State) (sl : Slot) (f : Formed) (n : Nat) : List Nat :=
  (s.reqs.filter (fun r => (sl.reqs.contains r.id || (r.pte.isSome && r.op.mayWrite)) && r.addr.asid = f.asid
    && extMeet (r.addr.ia.toNat, r.op.size) (f.ia.toNat, n))).map (·.id)

/-- `cflush a, b`: the flush waits for what it met at its first try and then discards the copies unless SH is 1; a near copy itself
holds nothing that is not on its way to its home (R392; log 11). -/
def execCflush (w : RWord) (s : State) : Host.Outcome State Fault Refusal :=
  runWordE w.g (fun _ _ sl => 2 ^ 32 < (opVal sl w.b).toNat) false [w.a, w.b] [] [] (fun t k sl _ s =>
    let n := (opVal sl w.b).toNat
    if opMark sl w.a || opMark sl w.b then wfault s t k cNondet
    else if 2 ^ 32 < n then wfault s t k cIllegal
    else if n = 0 then .go s
    else match slotAddr s t sl .load (opVal sl w.a) n with
      | .error c => .fault s (vaPoison s t sl.firing c (opVal sl w.a))
      | .ok f =>
        let now := flushDue s sl f n
        let due := match sl.due with | some l => l.filter now.contains | none => now
        if due.isEmpty then .go (if w.sh = 0 then dropNear s f.asid f.ia.toNat n else s)
        else .wait (setSlot s t k { sl with due := some due })) s

/-- `halt`: every access of the launch already issued is performed first (R393). -/
def execHalt (w : RWord) (s : State) : Host.Outcome State Fault Refusal :=
  runWord w.g false [] [] [] (fun t k sl _ s =>
    let h := (tileOf s t).launch
    let stand := (s.reqs.filter (fun r => (tileOf s r.tile).launch = h)).map (·.id)
    let due := match sl.due with | some l => l.filter stand.contains | none => stand
    if due.isEmpty then .fin (askEnd s h 0)
    else .wait (setSlot s t k { sl with due := some due })) s

/-- The kind word of a recode is legal (R394, R96). -/
def kindWordOk (b : Word) : Bool :=
  let v := b.toNat
  v / 2 ^ 18 = 0 && bits v 7 3 = 0 && bits v 2 0 ≤ 4
    && (bits v 2 0 = 4 || (bits v 17 16 = 0 && bits v 15 8 = 0)) && (bits v 2 0 ≠ 4 || (efmt (bits v 15 8)).isSome)

/-- `pgrecode a, b`: the recode runs as `RECODE`, which lets the word go on or fault; a page of another package is recoded there
(R394, R96). -/
def execPgrecode (w : RWord) (s : State) : Host.Outcome State Fault Refusal :=
  let bad (sl : Slot) : Bool := (opVal sl w.a).toNat % 65536 ≠ 0 || !kindWordOk (opVal sl w.b)
  runWordE w.g (fun _ _ sl => bad sl) false [w.a, w.b] [] [] (fun t k sl _ s =>
    let va := opVal sl w.a
    let b := opVal sl w.b
    if opMark sl w.a || opMark sl w.b then wfault s t k cNondet
    else if bad sl then wfault s t k cIllegal
    else if s.recodes.any (fun r => r.issuer = some (t, k.val)) then .wait s
    else match slotAddr s t sl .store va 65536 with
      | .error c => .fault s (vaPoison s t sl.firing c va)
      | .ok f =>
        if isHostIA f.ia.toNat then wfault s t k cIllegal
        else if !pkgIsLocal s (iaPkg f.ia.toNat) then
          match farAccess (asAsker s (askSlot t k.val)) f.asid f.ia.toNat (.recode b) with
          | .ok s1 _ => .go s1
          | .fault s1 c _ => .fault s1 (vaPoison s1 t sl.firing c va)
          | .held w _ _ => .wait (keepWaits s w)
          | .stall w => .wait (keepWaits s w)
        else
          let (i, s1) := newId s
          let r : Recode := { id := i, asid := f.asid, ia := f.ia, kind := b.extractLsb' 0 3, fmt := b.extractLsb' 8 8,
                              expp := b.extractLsb' 16 2, issuer := some (t, k.val) }
          .wait { s1 with recodes := s1.recodes ++ [r] }) s

end Sys2Proof.Machine
end

