-- ==== Sys2Proof/Machine/MemInstr.lean ====
section
/-! DEFINITION. Single accesses, atomics, fences and prefetch of a codelet (R449 to R457). -/

namespace Sys2Proof.Machine

open Sys2Proof

/-- A memory word waits while an acquire of its slot is still to be performed (R234, R455). -/
def fenced (sl : Slot) (f : Slot → WRes) (s : State) : WRes :=
  if sl.fence.isEmpty then f sl else .wait s

/-- The accesses that a release of a codelet has to come after: the codelet's own and those it had acquired (R234, R235). -/
def relAfter (s : State) (sl : Slot) (sc : Scope) : List Nat :=
  sl.reqs.filter (standsBefore s sc) ++ knownBefore s sc sl.firing.clock

/-- Issue a single access of a codelet (R449, R451, R452); what it loads bears the mark of the guard (R202). -/
def slotReq (s : State) (t : Nat) (k : Fin 4) (sl : Slot) (a : Formed) (op : ReqOp) (d : Option (Fin 8)) (ty : Ty) (w : MWord)
    (gm : Bool) : WRes :=
  let (i, s1) := newId s
  let f := sl.firing
  let (_, c) := bumpClock f.clock f.party
  let r : Req := { id := i, tile := t, ctx := f.ctx, party := .firing f.party, pnum := f.party, addr := a, op := op,
                   dest := match d with | some x => .reg k.val x ty | none => .none,
                   ord := w.ord, scope := w.scope, clock := c,
                   after := if ordRel w.ord then relAfter s sl w.scope else [],
                   tag := f.tag, node := BitVec.ofNat 12 f.node, slot := some k.val }
  let sl1 := { sl with firing := { f with clock := c }, reqs := sl.reqs ++ [i],
                       fence := if ordAcq w.ord then sl.fence ++ [i] else sl.fence,
                       tm := match d with | some x => sl.tm.set x gm | none => sl.tm,
                       pend := match d with | some x => sl.pend ++ [(x, i)] | none => sl.pend }
  .go (issueReq (setSlot s1 t k sl1) r)

/-- The temporary an operand names, if it names one. -/
def tempOf : SOp → Option (Fin 8)
  | .t i => some i
  | _ => none

/-- A memory extent as the interlock names it: ASID and local address (R432). -/
def memExt (a : Formed) (n : Nat) : Nat × Nat := (a.asid.toNat * 2 ^ 44 + iaLocal a.ia.toNat, n)

/-- Form the address of an M word and go on once no matrix instruction of the slot reads the bytes (R432). -/
def withAddr (s : State) (t : Nat) (k : Fin 4) (sl : Slot) (acc : Acc) (va : Word) (n : Nat) (f : Formed → WRes) : WRes :=
  match slotAddr s t sl acc va n with
  | .error c => .fault s (vaPoison s t sl.firing c va)
  | .ok a => locked s t k { mem := [memExt a n] } (fun _ => f a)

/-- `ld.T.ord.scope d, [base + off]` (R451). -/
def execLd (w : MWord) (s : State) : Host.Outcome State Fault Refusal :=
  runWord w.g true [w.base] [w.d] [] (fun t k sl gm s =>
    if opMark sl w.base then wfault s t k cNondet
    else fenced sl (fun sl =>
      withAddr s t k sl .load (effAddr sl w) w.ty.bytes (fun a =>
        slotReq s t k sl a (.load w.ty.bytes) (tempOf w.d) w.ty w gm)) s) s

/-- `st.T.ord.scope [base + off], data` (R451). -/
def execSt (w : MWord) (s : State) : Host.Outcome State Fault Refusal :=
  runWord w.g false [w.base, w.data] [] [] (fun t k sl _ s =>
    if opMark sl w.base || opMark sl w.data then wfault s t k cNondet
    else fenced sl (fun sl =>
      withAddr s t k sl .store (effAddr sl w) w.ty.bytes (fun a =>
        slotReq s t k sl a (.store (bytesLE w.ty.bytes ((opVal sl w.data).toNat % 2 ^ (8 * w.ty.bytes)))) none w.ty w false)) s) s

/-- What all atomics share (R452 to R454): a misaligned EA is an illegal encoding whatever the guard. -/
def atomWord (op : AtomOp) (w : MWord) (s : State) : Host.Outcome State Fault Refusal :=
  let bad (sl : Slot) : Bool := (effAddr sl w).toNat % w.ty.bytes ≠ 0
  let srcs := [w.base, w.data] ++ (if op = .cas then [w.data2] else [])
  runWordE w.g (fun _ _ sl => bad sl) false srcs [w.d] [] (fun t k sl _ s =>
    if srcs.any (opMark sl) then wfault s t k cNondet
    else if bad sl then wfault s t k cIllegal
    else fenced sl (fun sl =>
      withAddr s t k sl .atomic (effAddr sl w) w.ty.bytes (fun a =>
        slotReq s t k sl a (.atom op w.ty (opVal sl w.data) (opVal sl w.data2) (w.d = .zero)) (tempOf w.d) w.ty w false)) s) s

/-- `aadd` (R452). -/
def execAadd (w : MWord) (s : State) : Host.Outcome State Fault Refusal := atomWord .add w s
/-- `aaddf` (R452, R453). -/
def execAaddf (w : MWord) (s : State) : Host.Outcome State Fault Refusal := atomWord .addf w s
/-- `amin` (R452). -/
def execAmin (w : MWord) (s : State) : Host.Outcome State Fault Refusal := atomWord .min w s
/-- `amax` (R452). -/
def execAmax (w : MWord) (s : State) : Host.Outcome State Fault Refusal := atomWord .max w s
/-- `aand` (R452). -/
def execAand (w : MWord) (s : State) : Host.Outcome State Fault Refusal := atomWord .and w s
/-- `aor` (R452). -/
def execAor (w : MWord) (s : State) : Host.Outcome State Fault Refusal := atomWord .or w s
/-- `axor` (R452). -/
def execAxor (w : MWord) (s : State) : Host.Outcome State Fault Refusal := atomWord .xor w s
/-- `axch` (R452). -/
def execAxch (w : MWord) (s : State) : Host.Outcome State Fault Refusal := atomWord .xch w s
/-- `acas` (R453). -/
def execAcas (w : MWord) (s : State) : Host.Outcome State Fault Refusal := atomWord .cas w s

/-- The streams of a mask (R455, R456). -/
def maskStreams (m : BitVec 16) : List (BitVec 4) := ((List.range 16).filter (fun i => m.getLsbD i)).map (BitVec.ofNat 4)

/-- The accesses of a codelet and of the streams of a mask. -/
def fenceReqs (s : State) (t : Nat) (sl : Slot) (m : BitVec 16) : List Nat :=
  sl.reqs ++ (s.reqs.filter (fun r => match r.party with
    | .stream t' c n => t' = t && c = sl.firing.ctx && m.getLsbD n.toNat
    | _ => false)).map (·.id)

/-- Put a stream after what a clock says; a closed one keeps it for its next opening (party 0 marks that). -/
def putStreamClock (s : State) (t : Nat) (c : BitVec 3) (n : BitVec 4) (all : Clock) : State :=
  let x := streamOf s t c n
  setStream s t c n { x with clock := all, party := if x.isOpen then x.party else 0 }

/-- `fence.scope` with a stream mask: a release and then an acquire over the firing and the streams (R455, R238). -/
def execFence (w : MWord) (s : State) : Host.Outcome State Fault Refusal :=
  runWord w.g false [] [] [] (fun t k sl _ s =>
    let c := sl.firing.ctx
    let ns := maskStreams w.off
    let all := ns.foldl (fun a n => clkJoin a (streamOf s t c n).clock) sl.firing.clock
    if relWaits s (fenceReqs s t sl w.off) all w.scope then .wait s
    else
      let s1 := ns.foldl (fun s n => putStreamClock s t c n all) s
      .go (acquireAt (setSlot s1 t k { sl with firing := { sl.firing with clock := all } }) t w.scope)) s

/-- `sbar` with a stream mask: the streams' later accesses come after the earlier ones of all of them (R456). -/
def execSbar (w : MWord) (s : State) : Host.Outcome State Fault Refusal :=
  runWord w.g false [] [] [] (fun t _ sl _ s =>
    let c := sl.firing.ctx
    let ns := maskStreams w.off
    let ids := (s.reqs.filter (fun r => ns.any (fun n => r.party = .stream t c n))).map (·.id)
    let all := ns.foldl (fun a n => clkJoin a (streamOf s t c n).clock) []
    .go (ns.foldl (fun s n =>
      let s1 := putStreamClock s t c n all
      let x := streamOf s1 t c n
      if x.isOpen then setStream s1 t c n { x with after := (x.after ++ ids).eraseDups } else s1) s)) s

/-- `pref [base + off], n`: never faults; an extent that fails a check is left alone (R457). -/
def execPref (w : MWord) (s : State) : Host.Outcome State Fault Refusal :=
  runWord w.g true [w.base, w.data] [] [] (fun t _ sl _ s =>
    let n := (opVal sl w.data).toNat
    if n = 0 || 1048576 < n then .go s
    else match slotAddr s t sl .load (effAddr sl w) n with
      | .error _ => .go s
      | .ok a =>
        if isHostIA a.ia.toNat || !pkgIsLocal s (iaPkg a.ia.toNat) then .go s
        else
          let (i, s1) := newId s
          .go (issueReq s1 { id := i, tile := t, ctx := sl.firing.ctx, party := .firing sl.firing.party, pnum := sl.firing.party,
                             addr := a, op := .prefetch n, tag := sl.firing.tag })) s

end Sys2Proof.Machine
end

