-- ==== Sys2Proof/Machine/MatBase.lean ====
section
/-! DEFINITION. The matrix engine: shape records (R428), operand images (R430, R431), accumulation (R265 to R267), issue
checks (R434) and what each matrix instruction does when it is performed (R436 to R444). -/

namespace Sys2Proof.Machine

open Sys2Proof

/-! ## Shape records -/

/-- The fields of a shape record (R428). -/
structure Shape where
  m : Nat
  n : Nat
  k : Nat
  af : Nat
  bf : Nat
  aoff : Nat
  arowb : Nat
  boff : Nat
  browb : Nat
  urowb : Nat
  deriving DecidableEq, Repr

def shapeOf (b : List Byte) : Shape :=
  { m := lnat b 0 2, n := lnat b 2 2, k := lnat b 4 4, af := lnat b 8 1, bf := lnat b 9 1, aoff := lnat b 12 4,
    arowb := lnat b 16 4, boff := lnat b 20 4, browb := lnat b 24 4, urowb := lnat b 28 4 }

/-- One operand's flags and stride are well-formed (R428). -/
def opFlagsOk (fl rowb rows k : Nat) : Bool :=
  fl / 64 = 0 && rowb % 16 = 0 && (bit fl 0 || bits fl 3 1 = 0) && (!bit fl 1 || (k = 64 && rows = 64 && rowb = 0))

/-- A record is well-formed (R428). -/
def shapeOk (b : List Byte) : Bool :=
  let r := shapeOf b
  1 ≤ r.m && r.m ≤ 64 && 1 ≤ r.n && r.n ≤ 64 && 8 ≤ r.k && r.k ≤ 16384 && r.k % 8 = 0 && zeroes b 10 2 && zeroes b 32 160
    && r.urowb % 16 = 0 && opFlagsOk r.af r.arowb r.m r.k && opFlagsOk r.bf r.browb r.n r.k

/-- The record of a tile, if it is valid (R429). -/
def shapeAt (tl : Tile) (n : Nat) : Option (List Byte) := let r := aget tl.shapes n {}; if r.valid then some r.bytes else none

/-! ## Operands -/

/-- Types that `mma` accepts (R436). -/
def matTy (t : Ty) : Bool := t = .s8 || t = .f16 || t = .bf16 || t = .e4m3 || t = .e5m2 || t = .q4

/-- MACs per element and cycle: the length of a step (R265, R266). -/
def macs : Ty → Nat
  | .q4 => 8 | .f16 => 1 | .bf16 => 1 | _ => 2

/-- The format of an operand type under BLK (R436). -/
def matFmt (t : Ty) (fl : Nat) : EFmt := if t = .q4 then .l4 (16 <<< bits fl 5 4) else .ty t

/-- An operand image: where it starts (a byte of the vector register file or of the scratchpad), rows, stride, depth. -/
structure Opnd where
  spad : Bool
  cmp : Bool
  start : Nat
  rowb : Nat
  rows : Nat
  depth : Nat
  fmt : EFmt
  deriving DecidableEq, Repr

/-- The image an operand's flags name (R430). -/
def mkOpnd (t : Ty) (fl off rowb rows depth base : Nat) : Opnd :=
  { spad := bit fl 0, cmp := bit fl 1, start := if bit fl 0 then off else 512 * base + off, rowb := rowb, rows := rows,
    depth := depth, fmt := matFmt t fl }

/-- Row size of an image (R430). -/
def Opnd.rowSize (o : Opnd) : Nat := fmtBytes o.fmt o.depth

/-- Bytes of the pool an image lies in. -/
def Opnd.pool (o : Opnd) (tl : Tile) : AMap Byte := if o.spad then tl.scratch else tl.vreg

/-- Bytes from the start of an image to its end; a compacted one is as long as its survivors make it (R275). -/
def Opnd.len (o : Opnd) (tl : Tile) : Nat :=
  if o.cmp then
    let e := match o.fmt with | .ty t => t.bytes | _ => 0
    cdiv (512 + slabPop (rdBytes tl.scratch o.start 512) * e) 16 * 16
  else (o.rows - 1) * o.rowb + o.rowSize

/-- The registers of an extent of the register file. -/
def regsOf (start len : Nat) : List Nat := (List.range ((start + len - 1) / 512 - start / 512 + 1)).map (start / 512 + ·)

/-- The footprint of an image: a register operand takes the run from its base register (R430). -/
def Opnd.foot (o : Opnd) (tl : Tile) (base : Nat) : Foot :=
  if o.spad then { spad := [(o.start, o.len tl)] } else { regs := regsOf (512 * base) (o.start - 512 * base + o.len tl) }

/-- The image lies within VREGS or SCRATCH (R434). -/
def Opnd.inRange (o : Opnd) (tl : Tile) (vregs scratch : Nat) : Bool :=
  if o.spad then (!o.cmp || o.start + 512 ≤ scratch) && o.start + o.len tl ≤ scratch else o.start + o.len tl ≤ 512 * vregs

/-- The tag of an operand: of its registers, which must agree, or its H bits (R431). -/
def opTag (o : Opnd) (tl : Tile) (fl : Nat) (fo : Foot) : Except (BitVec 8) (BitVec 3) :=
  if o.spad then
    (match o.cmp, o.fmt with
      | true, .ty t => if t = .s8 then .error cDomain else .ok (BitVec.ofNat 3 (bits fl 3 2))
      | true, _ => .error cDomain
      | false, _ => .ok (BitVec.ofNat 3 (bits fl 3 2)))
  else
    let g := regTag tl (fo.regs.headD 0)
    if fo.regs.all (fun r => regTag tl r = g) then .ok g else .error cDomain

/-- The result tag of an A tag and a B image tag (R284, R431). -/
def resultTag (a bImg : BitVec 3) (m n : Nat) : Except (BitVec 8) (BitVec 3) :=
  let b := swapH bImg
  if a.getLsbD 1 || b.getLsbD 0 || (a.getLsbD 0 && m ≠ 64) || (b.getLsbD 1 && n ≠ 64) then .error cDomain
  else .ok ((a &&& 1#3) ||| (b &&& 2#3))

/-- The tag a slab will carry once the work accepted before has been performed (R433, R434). -/
def slabTagDue (tl : Tile) (ad : Nat) : BitVec 3 :=
  match (tl.mat.filter (fun m => m.dst = some ad)).getLast? with
  | some m => m.rtag
  | none => aget tl.stag ad 0

/-- Row r of an image, decoded exactly. -/
def Opnd.row (o : Opnd) (tl : Tile) (r : Nat) : List Val :=
  if o.cmp then
    match o.fmt with
    | .ty t => (((expandSlab t.bytes (rdBytes tl.scratch o.start (o.len tl))).drop (64 * r)).take 64).map (tyVal t)
    | _ => []
  else decodeAll o.fmt o.depth (rdBytes (o.pool tl) (o.start + r * o.rowb) o.rowSize)

/-- The bytes that K step j of row r reads (R437). -/
def Opnd.stepBytes (o : Opnd) (j r : Nat) : List (Nat × Nat) :=
  let a := o.start + r * o.rowb
  match o.fmt with
  | .ty t => [(a + 64 * j * t.bytes, 64 * t.bytes)]
  | .l4 b => [(a + 32 * j, 32), (a + o.depth / 2 + 64 * j / b, cdiv 64 b)]
  | .mx => []

/-- Bad words of the pool of an image as byte addresses (R10). -/
def badBytes (tl : Tile) (spad : Bool) : List Nat :=
  if spad then (tl.badWords.filter (· < 2 ^ 32)).map (· * 16)
  else (tl.badWords.filter (fun k => 2 ^ 32 ≤ k && k < 2 ^ 33)).map (fun k => (k - 2 ^ 32) * 16)

/-- K step j of an image reads an uncorrectable word. -/
def Opnd.badStep (o : Opnd) (tl : Tile) (j : Nat) : Bool :=
  let bad := badBytes tl o.spad
  if bad.isEmpty then false
  else if o.cmp then bad.any (fun b => extMeet (b, 16) (o.start, o.len tl))
  else (List.range o.rows).any (fun r => (o.stepBytes j r).any (fun e => bad.any (fun b => extMeet (b, 16) e)))

/-! ## Slabs -/

/-- The 4,096 elements of a slab, row-major. -/
def slabAt (tl : Tile) (n : Nat) : List (BitVec 32) := (List.range 4096).map (fun i => aget tl.slab (n * 4096 + i) 0)

/-- Write a slab and its tag (R433). -/
def setSlab (tl : Tile) (n : Nat) (xs : List (BitVec 32)) (tag : BitVec 3) : Tile :=
  { tl with slab := (xs.zip (List.range 4096)).foldl (fun m p => asetd m (n * 4096 + p.2) p.1 0) tl.slab,
            stag := asetd tl.stag n tag 0,
            badWords := tl.badWords.filter (fun k => k / 1024 ≠ 2 ^ 26 + n) }

/-- Keys of uncorrectable slab words and of array errors that outlast three tries at a K step (R10, R300). -/
def badSlab (n : Nat) (k : Nat) : Bool := 2 ^ 36 ≤ k && (k - 2 ^ 36) / 1024 = n
def badArray (j : Nat) : Nat := 2 ^ 40 + j

/-! ## Accumulation (R265 to R267) -/

/-- One step: the exact sum of the accumulator and the products, rounded once. -/
def accStep (acc : Nat × Fl) (ps : List (Val × Val)) : Nat × Fl :=
  let sum := ps.foldl (fun (a : Val × Fl) p =>
    let x := p.1.mul p.2
    let y := a.1.add .rne x.1
    (y.1, (a.2.or x.2).or y.2)) (FFmt.f32.decode acc.1, acc.2)
  let r := FFmt.f32.round .rne 0 sum.1
  (r.1, sum.2.or r.2)

/-- All steps of one element in ascending k. -/
def accSteps (g : Nat) (acc : Nat) (a b : List Val) : Nat × Fl := (chunks g (a.zip b)).foldl accStep (acc, ({} : Fl))

/-- The decay of one element (R436). -/
def decay (d : Option (BitVec 32)) (x : BitVec 32) : Nat × Fl :=
  match d with
  | none => (x.toNat, {})
  | some d => let p := (v32 x).mul (v32 d); let r := FFmt.f32.round .rne 0 p.1; (r.1, p.2.or r.2)

/-- Accumulate one element under decay. -/
def accElem (g : Nat) (d : Option (BitVec 32)) (x : BitVec 32) (a b : List Val) : BitVec 32 × Fl :=
  let y := decay d x
  let z := accSteps g y.1 a b
  (BitVec.ofNat 32 z.1, y.2.or z.2)

/-- Accumulate rows of A against rows of the B image into a slab, over at most `lim` K steps; `rowOf` gives the operands
of element (i, j), or none where the element keeps its value. -/
def accSlab (g : Nat) (d : Option (BitVec 32)) (depth : Nat) (rowOf : Nat → Nat → Option (List Val × List Val))
    (slab : List (BitVec 32)) : List (BitVec 32) × Fl :=
  let rs := (slab.zip (List.range 4096)).map (fun (x, i) =>
    match rowOf (i / 64) (i % 64) with
    | none => (x, ({} : Fl))
    | some (a, b) => accElem g d x (a.take depth) (b.take depth))
  (rs.map (·.1), rs.foldl (fun f r => f.or r.2) {})

/-! ## Issue checks (R434) -/

/-- Join footprints. -/
def Foot.join (a b : Foot) : Foot :=
  { regs := a.regs ++ b.regs, slabs := a.slabs ++ b.slabs, spad := a.spad ++ b.spad, recs := a.recs ++ b.recs,
    mem := a.mem ++ b.mem }

/-- What an accepted instruction touches, reads and writes, and what its result will carry. -/
structure MatPlan where
  foot : Foot
  reads : Foot := foot
  writes : Foot
  rtag : BitVec 3 := 0
  dst : Option Nat := none
  shape : List Byte := []
  blocks : List (Range × Nat) := []

/-- What the checks see. -/
structure MatEnv where
  tl : Tile
  vregs : Nat
  scratch : Nat

/-- The second type of a word (R436). -/
def tbTy (w : SWord) : Ty := (Ty.ofCode w.tb.toNat).getD .b64

/-- The two images of `mma` under its record. -/
def mmaOpnds (w : SWord) (r : Shape) : Opnd × Opnd :=
  (mkOpnd w.ty r.af r.aoff r.arowb r.m r.k w.oa.toNat, mkOpnd (tbTy w) r.bf r.boff r.browb r.n r.k w.ob.toNat)

/-- A stride holds a row (R434). -/
def Opnd.strideOk (o : Opnd) : Bool := o.cmp || o.rowSize ≤ o.rowb

/-- The slab must carry the result tag unless it is zeroed first (R284, R436). -/
def slabTagOk (tl : Tile) (w : SWord) (tag : BitVec 3) : Except (BitVec 8) Unit :=
  if !w.z && slabTagDue tl w.ad.toNat ≠ tag then .error cDomain else .ok ()

/-- The checks of `mma` (R434, R436). -/
def mmaPlan (e : MatEnv) (w : SWord) (x : Word) : Except (BitVec 8) MatPlan := do
  let b ← (shapeAt e.tl w.shr.toNat).elim (throw cIllegal) pure
  let r := shapeOf b
  let (oa, ob) := mmaOpnds w r
  if w.dec && x.extractLsb' 32 32 ≠ 0 then throw cIllegal
  if !(oa.strideOk && ob.strideOk) then throw cIllegal
  if !(oa.inRange e.tl e.vregs e.scratch && ob.inRange e.tl e.vregs e.scratch) then throw cPartition
  let fa := oa.foot e.tl w.oa.toNat
  let fb := ob.foot e.tl w.ob.toNat
  let tag ← resultTag (← opTag oa e.tl r.af fa) (← opTag ob e.tl r.bf fb) r.m r.n
  slabTagOk e.tl w tag
  let own : Foot := { slabs := [w.ad.toNat], recs := [w.shr.toNat] }
  return { foot := (fa.join fb).join own, writes := { slabs := [w.ad.toNat] }, rtag := tag, dst := some w.ad.toNat, shape := b }

/-- Bytes of a K-bit bitmap padded to 16 (R440). -/
def mapBytes (k : Nat) : Nat := cdiv (k / 8) 16 * 16

/-- The set positions of an operand's bitmap, ascending (R440). -/
def mapOf (o : Opnd) (tl : Tile) (k : Nat) : List Nat :=
  let bm := rdBytes (o.pool tl) o.start (k / 8)
  (List.range k).filter (fun i => (bm.getD (i / 8) 0).getLsbD (i % 8))

/-- The rows of an operand of `mmas`, which follow its bitmap and hold its survivors. -/
def mapRows (o : Opnd) (tl : Tile) (k : Nat) : Opnd :=
  { o with start := o.start + mapBytes k, depth := (mapOf o tl k).length }

/-- An operand of `mmas` with its bitmap lies within its space. -/
def mapInRange (o : Opnd) (e : MatEnv) (k : Nat) : Bool :=
  o.start + mapBytes k ≤ (if o.spad then e.scratch else 512 * e.vregs)
    && (mapRows o e.tl k).inRange e.tl e.vregs e.scratch

/-- The footprint of an operand of `mmas`. -/
def mapFoot (o : Opnd) (tl : Tile) (k base : Nat) : Foot :=
  let n := mapBytes k + (mapRows o tl k).len tl
  if o.spad then { spad := [(o.start, n)] } else { regs := regsOf (512 * base) (o.start - 512 * base + n) }

/-- The checks of `mmas` (R434, R440). -/
def mmasPlan (e : MatEnv) (w : SWord) (x : Word) : Except (BitVec 8) MatPlan := do
  let b ← (shapeAt e.tl w.shr.toNat).elim (throw cIllegal) pure
  let r := shapeOf b
  let (oa, ob) := mmaOpnds w r
  if w.dec && x.extractLsb' 32 32 ≠ 0 then throw cIllegal
  if oa.cmp || ob.cmp then throw cIllegal
  if !(mapInRange oa e r.k && mapInRange ob e r.k) then
    if !((mapRows oa e.tl r.k).strideOk && (mapRows ob e.tl r.k).strideOk) then throw cIllegal
    throw cPartition
  if !((mapRows oa e.tl r.k).strideOk && (mapRows ob e.tl r.k).strideOk) then throw cIllegal
  let fa := mapFoot oa e.tl r.k w.oa.toNat
  let fb := mapFoot ob e.tl r.k w.ob.toNat
  let tag ← resultTag (← opTag oa e.tl r.af fa) (← opTag ob e.tl r.bf fb) r.m r.n
  slabTagOk e.tl w tag
  let own : Foot := { slabs := [w.ad.toNat], recs := [w.shr.toNat] }
  return { foot := (fa.join fb).join own, writes := { slabs := [w.ad.toNat] }, rtag := tag, dst := some w.ad.toNat, shape := b }

/-- Types of the slab moves (R442 to R444). -/
def moveBytes (t : Ty) : Nat := 4096 * t.bytes

/-- The registers of a 64 × 64 image. -/
def imageRegs (t : Ty) (base : Nat) : List Nat := (List.range (8 * t.bytes)).map (base + ·)

/-- The common tag of registers. -/
def commonTag (tl : Tile) (rs : List Nat) : Except (BitVec 8) (BitVec 3) :=
  let g := regTag tl (rs.headD 0)
  if rs.all (fun r => regTag tl r = g) then .ok g else .error cDomain

/-! ## `mmag` (R439) -/

/-- Fields of the value of X (R439). -/
def magTab (x : Word) : Nat := (x.extractLsb' 8 24).toNat * 16
def magBlocks (x : Word) : Nat := (x.extractLsb' 1 3).toNat + 1
def magUp (x : Word) : Bool := x.getLsbD 0

/-- Entry j of a row-block table: weight address, rank (R351, R439). -/
def magEntry (tl : Tile) (x : Word) (j : Nat) : Word × Nat × Bool :=
  let b := rdBytes tl.scratch (magTab x + 16 * j) 16
  (lword b 0, 8 * (lnat b 8 1 + 1), lnat b 8 1 ≤ 7 && lnat b 9 1 = 0)

/-- Start and length of the matrix a block reads, from its weight address and rank. -/
def magExtent (t : Ty) (r : Shape) (up : Bool) (wa : Word) (rank : Nat) : Word × Nat :=
  let f := matFmt t r.bf
  if up then (wa + BitVec.ofNat 64 (rank * r.browb), (r.n - 1) * r.urowb + fmtBytes f rank)
  else (wa, (rank - 1) * r.browb + fmtBytes f r.k)

/-- The rank of the last block, whose rows reach furthest in A (R439). -/
def magLast (tl : Tile) (x : Word) : Nat := (magEntry tl x (magBlocks x - 1)).2.1

/-- The A image of one block of `mmag` in its direction. -/
def magA (w : SWord) (r : Shape) (up : Bool) (rank : Nat) : Opnd :=
  let o := mkOpnd w.ty r.af r.aoff r.arowb r.m r.k w.oa.toNat
  if up && !o.cmp then { o with depth := rank } else o

end Sys2Proof.Machine
end

