-- ==== Sys2Proof/Machine/Matrix.lean ====
section
/-! DEFINITION. The words of the matrix engine (R432, R436 to R445) and the completion of the head of its queue. -/

namespace Sys2Proof.Machine

open Sys2Proof

/-! ## Acceptance (R432, R448) -/

/-- Where slabs and shape records are tracked (R448). -/
def slabUnit (n : Nat) : Nat × Nat := ((regLine + 513 + n) * 128, 8)
def recUnit (n : Nat) : Nat × Nat := ((regLine + 1025 + n) * 128, 8)

/-- The tracked units of a footprint beside memory. -/
def footUnits (f : Foot) : List (Nat × Nat) :=
  f.regs.map vregUnit ++ f.slabs.map slabUnit ++ f.recs.map recUnit ++ f.spad

/-- Track reads of weights in memory at their home slices (R448). -/
def trackWeights (s : State) (t : Nat) (f : Firing) : List (Range × Nat × Nat) → Except (BitVec 8 × Option TrackBy) (State × Firing)
  | [] => .ok (s, f)
  | (.spad _, _) :: r => trackWeights s t f r
  | (.mem a, n, _) :: r =>
    match trackMem s t f a n false with
    | .error e => .error e
    | .ok (s1, f1) => trackWeights s1 t f1 r

/-- Put an instruction that passed its checks into the queue. -/
def queueMat (s : State) (t : Nat) (f : Firing) (slot : Option Nat) (seed : BitVec 32) (i : Instr) (x : Word) (p : MatPlan)
    (exts : List (Range × Nat × Nat)) : Except (BitVec 8 × Option TrackBy) (State × Firing × Nat) :=
  match trackMany t false (footUnits p.reads) s f with
  | .error e => .error e
  | .ok (s1, f1) =>
    match trackMany t true (footUnits p.writes) s1 f1 with
    | .error e => .error e
    | .ok (s2, f2) =>
      match trackWeights s2 t f2 exts with
      | .error e => .error e
      | .ok (s3, f3) =>
        let (n, s4) := newId s3
        let op : MatOp := { id := n, instr := i, xval := x, seed := seed, slot := slot, firing := f3, shape := p.shape,
                            foot := p.foot, rtag := p.rtag, dst := p.dst, blocks := p.blocks }
        .ok (modTile (wakeUnit s4 t .matrixEngine) t (fun y => { y with mat := y.mat ++ [op], burst := (y.burst.1, cycNow s (dieOf t) 0) }), f3, n)

/-- The engine's view for a context. -/
def matEnv (s : State) (t : Nat) (c : BitVec 3) : MatEnv :=
  { tl := tileOf s t, vregs := (imageOf s t c).vregs, scratch := (imageOf s t c).scratch }

/-- A plan, its memory extents, or the poison of the check that failed. -/
abbrev PlanRes := Except Poison (MatPlan × List (Range × Nat × Nat))

/-- A word that the matrix engine takes (R432): it waits while a word it must follow is unfinished (`named` is what its
checks read, its plan what it touches) or the queue is full; its checks may fault; then it is accepted and the codelet
goes on. -/
def matWord (g : Guard) (i : Instr) (enc : State → Nat → Slot → Bool) (srcs : List SOp) (x : Slot → Word)
    (named : MatEnv → Slot → Foot) (plan : State → Nat → Slot → PlanRes) (s : State) : Host.Outcome State Fault Refusal :=
  runWordE g enc false srcs [] [] (fun t k sl _ s =>
    if srcs.any (opMark sl) then wfault s t k cNondet
    else locked s t k (named (matEnv s t sl.firing.ctx) sl) (fun s =>
      match plan s t sl with
      | .error p => .fault s p
      | .ok (p, exts) =>
        locked s t k p.foot (fun s =>
          if 8 ≤ (tileOf s t).mat.length then .wait s
          else match queueMat s t sl.firing (some k.val) sl.seed i (x sl) p exts with
            | .error e => .fault s (trackPoison s t sl.firing e)
            | .ok (s1, f, n) => .go (modSlot s1 t k (fun y => { y with firing := f, mats := y.mats ++ [n] })))))
    s

/-- A plan made in the engine alone. -/
def planOf (s : State) (t : Nat) (sl : Slot) (r : Except (BitVec 8) MatPlan) : PlanRes :=
  match r with
  | .ok p => .ok (p, [])
  | .error c => .error (mkPoison s t sl.firing c)

/-- The X operand of `mma` and `mmas`, read only with DEC. -/
def decX (w : SWord) (sl : Slot) : Word := if w.dec then opVal sl w.x else 0
def decBad (w : SWord) (sl : Slot) : Bool := w.dec && (opVal sl w.x).extractLsb' 32 32 ≠ 0

/-- The slab and the record that a word names. -/
def ownFoot (w : SWord) : Foot := { slabs := [w.ad.toNat], recs := [w.shr.toNat] }

/-- What the checks of `mma` read: operands in range, the slab, the record. -/
def mmaNamed (w : SWord) (e : MatEnv) (_ : Slot) : Foot :=
  match shapeAt e.tl w.shr.toNat with
  | none => ownFoot w
  | some b =>
    let (oa, ob) := mmaOpnds w (shapeOf b)
    if oa.inRange e.tl e.vregs e.scratch && ob.inRange e.tl e.vregs e.scratch then
      ((oa.foot e.tl w.oa.toNat).join (ob.foot e.tl w.ob.toNat)).join (ownFoot w)
    else ownFoot w

/-- `mma.TA.TB ad, va, vb, srN` with `.z`, `.dec`, `.hold` (R436). -/
def execMma (w : SWord) (s : State) : Host.Outcome State Fault Refusal :=
  matWord w.g (.mma w) (fun _ _ sl => decBad w sl) (if w.dec then [w.x] else []) (decX w) (mmaNamed w)
    (fun s t sl => planOf s t sl (mmaPlan (matEnv s t sl.firing.ctx) w (decX w sl))) s

/-- What the checks of `mmas` read. -/
def mmasNamed (w : SWord) (e : MatEnv) (_ : Slot) : Foot :=
  match shapeAt e.tl w.shr.toNat with
  | none => ownFoot w
  | some b =>
    let r := shapeOf b
    let (oa, ob) := mmaOpnds w r
    let bm (o : Opnd) (base : Nat) : Foot :=
      if o.start + mapBytes r.k ≤ (if o.spad then e.scratch else 512 * e.vregs) then
        (if mapInRange o e r.k then mapFoot o e.tl r.k base
         else if o.spad then { spad := [(o.start, mapBytes r.k)] } else { regs := regsOf o.start (mapBytes r.k) })
      else {}
    ((bm oa w.oa.toNat).join (bm ob w.ob.toNat)).join (ownFoot w)

/-- `mmas.TA.TB ad, va, vb, srN` (R440). -/
def execMmas (w : SWord) (s : State) : Host.Outcome State Fault Refusal :=
  matWord w.g (.mmas w) (fun _ _ sl => decBad w sl) (if w.dec then [w.x] else []) (decX w) (mmasNamed w)
    (fun s t sl => planOf s t sl (mmasPlan (matEnv s t sl.firing.ctx) w (decX w sl))) s

/-- The weights of every block: where they lie, their extent, the rank (R439). -/
def magWeights (s : State) (t : Nat) (sl : Slot) (w : SWord) (r : Shape) (x : Word) :
    List Nat → Except Poison (List (Range × Nat × Nat))
  | [] => .ok []
  | j :: rest =>
    let (wa, rank, _) := magEntry (tileOf s t) x j
    let (a, n) := magExtent (tbTy w) r (magUp x) wa rank
    let here : Except Poison Range :=
      if wa.toNat < 2 ^ 22 then
        if (imageOf s t sl.firing.ctx).scratch < a.toNat + n then .error (mkPoison s t sl.firing cPartition)
        else .ok (.spad a.toNat)
      else match slotAddr s t sl .load a n with
        | .error c => .error (vaPoison s t sl.firing c a)
        | .ok f => .ok (.mem f)
    match here with
    | .error p => .error p
    | .ok rg => match magWeights s t sl w r x rest with
      | .error p => .error p
      | .ok l => .ok ((rg, n, rank) :: l)

/-- The checks of `mmag` (R434, R439). -/
def magPlan (w : SWord) (s : State) (t : Nat) (sl : Slot) : PlanRes :=
  let e := matEnv s t sl.firing.ctx
  let x := opVal sl w.x
  let err (c : BitVec 8) : PlanRes := .error (mkPoison s t sl.firing c)
  match shapeAt e.tl w.shr.toNat with
  | none => err cIllegal
  | some b =>
    let r := shapeOf b
    let nb := magBlocks x
    let up := magUp x
    let js := List.range nb
    let ents := js.map (magEntry e.tl x)
    let o := magA w r up (magLast e.tl x)
    let strides := ents.all (fun en =>
      (magA w r up en.2.1).strideOk && fmtBytes (matFmt (tbTy w) r.bf) (if up then en.2.1 else r.k) ≤ (if up then r.urowb else r.browb))
    if x.extractLsb' 32 32 ≠ 0 || x.extractLsb' 4 4 ≠ 0 || r.m ≠ 8 * nb then err cIllegal
    else if e.scratch < magTab x + 16 * nb then err cPartition
    else if !strides || ents.any (fun en => !en.2.2) then err cIllegal
    else if !o.inRange e.tl e.vregs e.scratch then err cPartition
    else match magWeights s t sl w r x js with
      | .error p => .error p
      | .ok ws =>
        let fo := o.foot e.tl w.oa.toNat
        match (do
          let tag ← resultTag (← opTag o e.tl r.af fo) 0 r.m r.n
          slabTagOk e.tl w tag
          return tag : Except (BitVec 8) (BitVec 3)) with
        | .error c => err c
        | .ok tag =>
          let spads := ws.filterMap (fun q => match q.1 with | .spad a => some (a, q.2.1) | .mem _ => none)
          let mems := ws.filterMap (fun q => match q.1 with | .mem a => some (memExt a q.2.1) | .spad _ => none)
          let own : Foot := { slabs := [w.ad.toNat], recs := [w.shr.toNat], spad := (magTab x, 16 * nb) :: spads, mem := mems }
          .ok ({ foot := fo.join own, writes := { slabs := [w.ad.toNat] }, rtag := tag, dst := some w.ad.toNat, shape := b,
                 blocks := ws.map (fun q => (q.1, q.2.2)) }, ws)

/-- What the checks of `mmag` read: A in range, the table, the slab, the record. -/
def magNamed (w : SWord) (e : MatEnv) (sl : Slot) : Foot :=
  let x := opVal sl w.x
  let own := { ownFoot w with spad := [(magTab x, 16 * magBlocks x)] }
  match shapeAt e.tl w.shr.toNat with
  | none => own
  | some b =>
    let o := magA w (shapeOf b) (magUp x) (magLast e.tl x)
    if o.inRange e.tl e.vregs e.scratch then (o.foot e.tl w.oa.toNat).join own else own

/-- `mmag.TA.TB ad, va, srN, x` (R439). -/
def execMmag (w : SWord) (s : State) : Host.Outcome State Fault Refusal :=
  matWord w.g (.mmag w) (fun _ _ sl => (opVal sl w.x).extractLsb' 32 32 ≠ 0 || (opVal sl w.x).extractLsb' 4 4 ≠ 0) [w.x]
    (fun sl => opVal sl w.x) (magNamed w) (magPlan w) s

/-- `macz ad` (R441). -/
def execMacz (w : SWord) (s : State) : Host.Outcome State Fault Refusal :=
  matWord w.g (.macz w) noEnc [] (fun _ => 0) (fun _ _ => { slabs := [w.ad.toNat] })
    (fun _ _ _ => .ok ({ foot := { slabs := [w.ad.toNat] }, writes := { slabs := [w.ad.toNat] }, dst := some w.ad.toNat }, [])) s

/-- `macld.T ad, va` (R442). -/
def execMacld (w : SWord) (s : State) : Host.Outcome State Fault Refusal :=
  let regs := imageRegs w.ty w.oa.toNat
  matWord w.g (.macld w) noEnc [] (fun _ => 0) (fun _ _ => { regs := regs, slabs := [w.ad.toNat] }) (fun s t sl => planOf s t sl (do
    let e := matEnv s t sl.firing.ctx
    if !regs.all (· < e.vregs) then throw cPartition
    let tag ← commonTag e.tl regs
    return { foot := { regs := regs, slabs := [w.ad.toNat] }, writes := { slabs := [w.ad.toNat] }, rtag := tag,
             dst := some w.ad.toNat })) s

/-- `macld.T ad, [a], #h` (R442). -/
def execMacldSpad (w : SWord) (s : State) : Host.Outcome State Fault Refusal :=
  matWord w.g (.macldSpad w) noEnc [w.x] (fun sl => opVal sl w.x) (fun _ _ => {}) (fun s t sl => planOf s t sl (do
    let e := matEnv s t sl.firing.ctx
    let a := (opVal sl w.x).toNat
    if e.scratch < a + moveBytes w.ty then throw cPartition
    return { foot := { spad := [(a, moveBytes w.ty)], slabs := [w.ad.toNat] }, writes := { slabs := [w.ad.toNat] },
             rtag := (w.tb.extractLsb' 0 2).setWidth 3, dst := some w.ad.toNat })) s

/-- `macst.T.rm va, ad` (R443). -/
def execMacst (w : SWord) (s : State) : Host.Outcome State Fault Refusal :=
  let regs := imageRegs w.ty w.oa.toNat
  matWord w.g (.macst w) noEnc [] (fun _ => 0) (fun _ _ => {}) (fun s t sl => planOf s t sl (do
    let e := matEnv s t sl.firing.ctx
    if !regs.all (· < e.vregs) then throw cPartition
    return { foot := { regs := regs, slabs := [w.ad.toNat] }, reads := { slabs := [w.ad.toNat] }, writes := { regs := regs } })) s

/-- `macst.T.rm [a], ad` (R443). -/
def execMacstSpad (w : SWord) (s : State) : Host.Outcome State Fault Refusal :=
  matWord w.g (.macstSpad w) noEnc [w.x] (fun sl => opVal sl w.x) (fun _ _ => {}) (fun s t sl => planOf s t sl (do
    let e := matEnv s t sl.firing.ctx
    let a := (opVal sl w.x).toNat
    if e.scratch < a + moveBytes w.ty then throw cPartition
    let ext : List (Nat × Nat) := [(a, moveBytes w.ty)]
    return { foot := { spad := ext, slabs := [w.ad.toNat] }, reads := { slabs := [w.ad.toNat] }, writes := { spad := ext } })) s

/-- `mtr.T vd, vs` (R444). -/
def execMtr (w : SWord) (s : State) : Host.Outcome State Fault Refusal :=
  let src := imageRegs w.ty w.ob.toNat
  let dst := imageRegs w.ty w.oa.toNat
  matWord w.g (.mtr w) noEnc [] (fun _ => 0) (fun _ _ => { regs := src ++ dst }) (fun s t sl => planOf s t sl (do
    let e := matEnv s t sl.firing.ctx
    if !(src ++ dst).all (· < e.vregs) then throw cPartition
    let tag ← commonTag e.tl src
    return { foot := { regs := src ++ dst }, reads := { regs := src }, writes := { regs := dst }, rtag := swapH tag })) s

/-! ## Control words (R445) -/

/-- `mburst x` (R445, R446). -/
def execMburst (w : SWord) (s : State) : Host.Outcome State Fault Refusal :=
  runWordE w.g (fun _ _ sl => 65535 < (opVal sl w.x).toNat) false [w.x] [] [] (fun t k sl _ s =>
    let n := (opVal sl w.x).toNat
    if opMark sl w.x then wfault s t k cNondet
    else if 65535 < n then wfault s t k cIllegal
    else .go (modTile (if n = 0 then s else wakeUnit s t .matrixEngine) t (fun y => { y with burst := (n, cycNow s (dieOf t) 0) })))
    s

/-- `srld srN, [a]` (R445): a record that is not well-formed is written as invalid. -/
def execSrld (w : SWord) (s : State) : Host.Outcome State Fault Refusal :=
  runWordE w.g (fun _ _ sl => (opVal sl w.x).toNat % 16 ≠ 0) false [w.x] [] [] (fun t k sl _ s =>
    let a := (opVal sl w.x).toNat
    let n := w.shr.toNat
    if opMark sl w.x then wfault s t k cNondet
    else if a % 16 ≠ 0 then wfault s t k cIllegal
    else if (imageOf s t sl.firing.ctx).scratch < a + 192 then wfault s t k cPartition
    else locked s t k { spad := [(a, 192)], recs := [n] } (fun s =>
      if readsBad (tileOf s t) [] [(a, 192)] then wfault s t k cUncorrectable
      else match trackMany t false [(a, 192)] s sl.firing with
        | .error e => .fault s (trackPoison s t sl.firing e)
        | .ok (s1, f1) => match trackMany t true [recUnit n] s1 f1 with
          | .error e => .fault s (trackPoison s t sl.firing e)
          | .ok (s2, f2) =>
            let b := rdBytes (tileOf s2 t).scratch a 192
            let s3 := modTile (setSlot s2 t k { sl with firing := f2 }) t
              (fun y => { y with shapes := aput y.shapes n { valid := shapeOk b, bytes := b } })
            if shapeOk b then .go s3 else wfault s3 t k cIllegal)) s

/-- `srfence #mask`: every `srld` writes its record as it is performed, so none is pending (R445; log 12). -/
def execSrfence (w : SWord) (s : State) : Host.Outcome State Fault Refusal :=
  runWord w.g false [] [] [] (fun _ _ _ _ s => .go s) s

/-- The instruction is one that `mwait` waits for: all, or those that write aN (R445). -/
def mwaitFor (w : SWord) (m : MatOp) : Bool := w.oa = 0 || m.dst = some w.ad.toNat

/-- `mwait` or `mwait aN` (R445, R435, R438). -/
def execMwait (w : SWord) (s : State) : Host.Outcome State Fault Refusal :=
  runWord w.g false [] [] [] (fun t k sl _ s =>
    let tl := tileOf s t
    if tl.mat.any (fun m => sl.mats.contains m.id && mwaitFor w m) then .wait s
    else
      let s1 := modTile s t (fun y => { y with
        heldSlab := if w.oa = 0 || y.heldSlab = some w.ad.toNat then none else y.heldSlab })
      match sl.mfault.find? (fun p => w.oa = 0 || p.1.slabs.contains w.ad.toNat) with
      | some p => .fault (setSlot s1 t k { sl with mfault := sl.mfault.filter (· ≠ p) }) p.2
      | none => .go s1) s

/-! ## Performing (R433, R435 to R444) -/

/-- What performing gives: the tile, the conditions met, the fault if any; `wait` while memory does not answer. -/
inductive MatRes where
  | done (s : State) (tl : Tile) (fl : Fl) (fault : Option (BitVec 8)) (ia : Option (BitVec 52) := none)
  | wait (w : State)

/-- The fault of the first K step that fails, with the number of steps completed before it (R300, R435). -/
def stepFault (tl : Tile) (steps : Nat) (bad : Nat → Bool) : Option (Nat × BitVec 8) :=
  ((List.range steps).filterMap (fun j =>
    if tl.badWords.contains (badArray j) then some (j, cMatrixError)
    else if bad j then some (j, cUncorrectable) else none)).head?

/-- Accumulate into the destination of an operation, stopping at the K boundary before a fault. -/
def accInto (s : State) (tl : Tile) (m : MatOp) (w : SWord) (g : Nat) (steps : Nat) (bad : Nat → Bool)
    (rowOf : Nat → Nat → Option (List Val × List Val)) : MatRes :=
  let ad := w.ad.toNat
  let start := if w.z then List.replicate 4096 0#32 else slabAt tl ad
  let d := if w.dec then some (m.xval.setWidth 32) else none
  let loadBad := !w.z && tl.badWords.any (badSlab ad)
  let flt := if loadBad then some (0, cUncorrectable) else stepFault tl steps bad
  let tl0 := { tl with badWords := tl.badWords.filter (fun k => k < 2 ^ 40 || 2 ^ 41 ≤ k) }
  match flt with
  | some (0, c) => .done s tl0 {} (some c)
  | some (j, c) =>
    let (xs, fl) := accSlab g d (64 * j) rowOf start
    .done s (setSlab tl0 ad xs m.rtag) fl (some c)
  | none =>
    let (xs, fl) := accSlab g d 16384 rowOf start
    .done s { setSlab tl0 ad xs m.rtag with heldSlab := if w.hold then some ad else none, heldBy := m.slot } fl none

/-- `mma` (R436). -/
def doMma (s : State) (tl : Tile) (m : MatOp) (w : SWord) : MatRes :=
  let r := shapeOf m.shape
  let (oa, ob) := mmaOpnds w r
  let ra := (List.range r.m).map (oa.row tl)
  let rb := (List.range r.n).map (ob.row tl)
  accInto s tl m w (min (macs w.ty) (macs (tbTy w))) (cdiv r.k 64) (fun j => oa.badStep tl j || ob.badStep tl j)
    (fun i j => if i < r.m && j < r.n then some (ra.getD i [], rb.getD j []) else none)

/-- An operand of `mmas` is read in error at these depth positions, or in its bitmap, which the first step reads (R10, R440). -/
def mapBad (o : Opnd) (tl : Tile) (k : Nat) (first : Bool) (pos : List Nat) : Bool :=
  let bad := badBytes tl o.spad
  if bad.isEmpty then false
  else
    let e := match o.fmt with | .ty t => t.bytes | _ => 1
    let at_ := ((mapOf o tl k).zip (List.range k)).filterMap (fun p => if pos.contains p.1 then some p.2 else none)
    (first && bad.any (fun b => extMeet (b, 16) (o.start, mapBytes k)))
      || (List.range o.rows).any (fun r => at_.any (fun i =>
        bad.any (fun b => extMeet (b, 16) ((mapRows o tl k).start + r * o.rowb + i * e, e))))

/-- `mmas`: the depth positions present in both (R440). -/
def doMmas (s : State) (tl : Tile) (m : MatOp) (w : SWord) : MatRes :=
  let r := shapeOf m.shape
  let (oa, ob) := mmaOpnds w r
  let ma := mapOf oa tl r.k
  let mb := mapOf ob tl r.k
  let both := ma.filter mb.contains
  let pick (mm : List Nat) (row : List Val) : List Val := ((mm.zip row).filter (fun p => both.contains p.1)).map (·.2)
  let ra := (List.range r.m).map (fun i => pick ma ((mapRows oa tl r.k).row tl i))
  let rb := (List.range r.n).map (fun i => pick mb ((mapRows ob tl r.k).row tl i))
  let part (j : Nat) : List Nat := (both.drop (64 * j)).take 64
  accInto s tl m w (min (macs w.ty) (macs (tbTy w))) (max 1 (cdiv both.length 64))
    (fun j => mapBad oa tl r.k (j = 0) (part j) || mapBad ob tl r.k (j = 0) (part j))
    (fun i j => if i < r.m && j < r.n then some (ra.getD i [], rb.getD j []) else none)

/-- What reading the weights of every block comes to: the bytes, a fault at an address, or a wait. -/
inductive MagRes where
  | ok (s : State) (bs : List (List Byte))
  | fault (s : State) (code : BitVec 8) (ia : BitVec 52)
  | wait (w : State)

/-- Read the weights of every block. -/
def magRead (s : State) (tl : Tile) (z : Bool) (t : Ty) (r : Shape) (up : Bool) : List (Range × Nat) → MagRes
  | [] => .ok s []
  | (rg, rank) :: rest =>
    let n := (magExtent t r up 0 rank).2
    let next (s : State) (b : List Byte) : MagRes := match magRead s tl z t r up rest with
      | .ok s bs => .ok s (b :: bs)
      | e => e
    match rg with
    | .spad a => next s (rdBytes tl.scratch a n)
    | .mem f => match memRead s f.asid z f.func f.ia.toNat n with
      | .ok s1 b => next s1 b
      | .fault s1 c _ => .fault s1 c f.ia
      | .held w _ _ => .wait w
      | .stall w => .wait w

/-- `mmag`: one adapter for each block of 8 rows (R439). -/
def doMmag (s : State) (tl : Tile) (m : MatOp) (w : SWord) (asid0 : Bool) : MatRes :=
  let r := shapeOf m.shape
  let up := magUp m.xval
  let tb := tbTy w
  match magRead (asAsker s m.id) tl asid0 tb r up m.blocks with
  | .wait w => .wait w
  | .fault s1 c ia => .done s1 tl {} (some c) (some ia)
  | .ok s1 bs =>
    let fm := matFmt tb r.bf
    let stride := if up then r.urowb else r.browb
    let ranks := m.blocks.map (·.2)
    let depth (j : Nat) : Nat := if up then ranks.getD j 8 else r.k
    let ra := (List.range r.m).map (fun i => ((magA w r up (ranks.getD (i / 8) 8)).row tl i).take (depth (i / 8)))
    let rb := (List.range bs.length).map (fun j =>
      (List.range (if up then r.n else ranks.getD j 8)).map (fun i =>
        decodeAll fm (depth j) (((bs.getD j []).drop (i * stride)).take (fmtBytes fm (depth j)))))
    let bad := readsBad tl [] (m.foot.spad) || readsBad tl m.foot.regs []
    accInto s1 tl m w (min (macs w.ty) (macs tb)) (if up then 1 else cdiv r.k 64) (fun j => j = 0 && bad)
      (fun i j => if i < r.m then ((rb.getD (i / 8) [])[j]?).map (fun b => (ra.getD i [], b)) else none)

/-- The 64 × 64 image of a move (R442). -/
def moveImage (tl : Tile) (t : Ty) (spad : Bool) (a : Nat) : List Byte :=
  rdBytes (if spad then tl.scratch else tl.vreg) (if spad then a else 512 * a) (moveBytes t)

/-- `macld` (R442). -/
def doMacld (s : State) (tl : Tile) (m : MatOp) (w : SWord) (spad : Bool) : MatRes :=
  if readsBad tl m.foot.regs m.foot.spad then .done s tl {} (some cUncorrectable)
  else
    let b := moveImage tl w.ty spad (if spad then m.xval.toNat else w.oa.toNat)
    .done s (setSlab tl w.ad.toNat ((toLanes w.ty.bytes b).map (fun x => f32 (tyVal w.ty x))) m.rtag) {} none

/-- Put an image into registers with a tag. -/
def putImage (tl : Tile) (base : Nat) (b : List Byte) (tag : BitVec 3) : Tile :=
  ((chunks 512 b).zip (List.range 32)).foldl (fun tl p => setReg tl (base + p.2) p.1 tag) tl

/-- `macst` (R443). -/
def doMacst (s : State) (tl : Tile) (m : MatOp) (w : SWord) (spad : Bool) : MatRes :=
  let rm := (Rm.ofCode (w.tb.extractLsb' 0 3).toNat).getD .rne
  if tl.badWords.any (badSlab w.ad.toNat) then .done s tl {} (some cUncorrectable)
  else
    let rs := (slabAt tl w.ad.toNat).map (fun x => tyCv w.ty rm m.seed (v32 x))
    let b := ofLanes w.ty.bytes (rs.map (·.1))
    if spad then .done s (wrScratch tl m.xval.toNat b) (flsOf rs) none
    else .done s (putImage tl w.oa.toNat b (aget tl.stag w.ad.toNat 0)) (flsOf rs) none

/-- `mtr` (R444). -/
def doMtr (s : State) (tl : Tile) (m : MatOp) (w : SWord) : MatRes :=
  if readsBad tl (imageRegs w.ty w.ob.toNat) [] then .done s tl {} (some cUncorrectable)
  else
    let b := slabTr (toLanes w.ty.bytes (moveImage tl w.ty false w.ob.toNat))
    .done s (putImage tl w.oa.toNat (ofLanes w.ty.bytes b) m.rtag) {} none

/-- Perform a queued instruction. -/
def doMat (s : State) (t : Nat) (m : MatOp) : MatRes :=
  let tl := tileOf s t
  match m.instr with
  | .mma w => doMma s tl m w
  | .mmas w => doMmas s tl m w
  | .mmag w => doMmag s tl m w ((tileLaunch s t).asid = 0)
  | .macz w => .done s (setSlab tl w.ad.toNat (List.replicate 4096 0#32) 0) {} none
  | .macld w => doMacld s tl m w false
  | .macldSpad w => doMacld s tl m w true
  | .macst w => doMacst s tl m w false
  | .macstSpad w => doMacst s tl m w true
  | .mtr w => doMtr s tl m w
  | _ => .done s tl {} none

/-- The held values are in their slab before the engine starts another instruction; one that accumulates into them with HOLD holds
them again (R438). -/
def drainHeld (s : State) (t : Nat) : State := modTile s t (fun x => { x with heldSlab := none })

/-- Count an instruction against the declaration of `mburst` (R446). -/
def burstDone (b : Nat × Nat) : Nat × Nat := (b.1 - 1, b.2)

/-- An instruction has completed: its fault waits for its slot, or becomes the poison of its `mctl` firing; an `mctl` sends
SLAB (R435, R354). -/
def matDone (s : State) (t : Nat) (m : MatOp) (flt : Option Poison) : State :=
  match m.slot.bind slotFin with
  | some k =>
    settle (modSlot s t k (fun x => { x with
      mats := x.mats.filter (· ≠ m.id), mfault := x.mfault ++ (flt.map (fun p => (m.foot, p))).toList })) t k
  | none =>
    match flt with
    | some p => doneFiring (takeFault s t m.firing p) t m.firing.party
    | none =>
      let r := nodeRec s t m.firing.ctx m.firing.node
      let e := emission m.firing (leadTok m.firing) (.scalar ((r.literal.extractLsb' 4 6).setWidth 64))
      doneFiring (emitTo s t m.firing e (bothDests r)) t m.firing.party

/-- `MATRIX_COMPLETE`: the instruction at the head of a tile's queue is performed and completes: destination, tag and sticky
bits at once (R432, R433). -/
def execMatrixComplete (s : State) : Host.Outcome State Fault Refusal :=
  onEvent argN (fun t s =>
    match (tileOf s t).mat with
    | [] => s
    | m :: rest =>
      match doMat (drainHeld s t) t m with
      | .wait w => keepWaits s w
      | .done s1 tl fl flt ia =>
        let s2 := setTile s1 t { tl with mat := rest, burst := burstDone tl.burst }
        let f := match m.slot.bind slotFin with | some k => (slotOf s2 t k).firing | none => m.firing
        match setSticky s2 t f fl.stat with
        | .error e => matDone s2 t m (some (trackPoison s2 t f e))
        | .ok (s3, f1) =>
          let s4 := match m.slot.bind slotFin with
            | some k => modSlot s3 t k (fun x => { x with firing := f1 })
            | none => s3
          matDone s4 t { m with firing := if m.slot.isNone then f1 else m.firing } (flt.map (fun c =>
            let p := mkPoison s4 t f1 c
            match ia with
            | some a => { p with addr := a.setWidth 64, addrKind := 2 }
            | none => p))) s

end Sys2Proof.Machine
end

