-- ==== Sys2Proof/Machine/Nodes.lean ====
section
/-! DEFINITION. Node kinds (R338 to R359) but `bin`: what a firing does in the match unit, and what it hands to the codelet
core, the matrix sequencer, the memory port or the network interface. -/

namespace Sys2Proof.Machine

open Sys2Proof

/-! ## The frame of a firing (R292, R341) -/

/-- The poison on the lowest-numbered poisoned port. -/
def poisonOp (f : Firing) : Option Poison := (f.ops.filterMap (fun p => p.2.poison?)).head?

/-- The poison that a firing's operands or its own matching bring: an operand's goes first, one hop on (R292). -/
def firingPoison (f : Firing) : Option Poison :=
  match poisonOp f with
  | some p => some (hop p)
  | none => f.err

/-- Perform the firing in focus. A poison operand or a fault of matching is sent on in place of the work, unless the kind
handles poison operands itself (`own`; R292). The firing is done unless `work` leaves it in progress (`stays`). -/
def runNode (own stays : Bool) (work : State → Nat → Firing → State) (s : State) : Host.Outcome State Fault Refusal :=
  match s.focus with
  | .firing t f =>
    let s0 := { s with focus := .idle }
    let fin (s : State) : State := doneFiring s t f.party
    match poisonOp f, f.err with
    | some p, some _ => .next (fin (raiseFiring s0 t f (hop p)))
    | none, some p => .next (fin (takeFault s0 t f p))
    | some p, none =>
      if own then .next (if stays then work s0 t f else fin (work s0 t f)) else .next (fin (raiseFiring s0 t f (hop p)))
    | none, none => .next (if stays then work s0 t f else fin (work s0 t f))
  | _ => .next s

/-- The firing faults (R292). -/
def nodeFault (s : State) (t : Nat) (f : Firing) (code : BitVec 8) : State := takeFault s t f (mkPoison s t f code)

/-- The token on a port; an empty scalar where none was matched. -/
def opTok (f : Firing) (p : Nat) : Token := aget f.ops p {}

/-- LITERAL, sign-extended (R180). -/
def litVal (r : NodeRec) : Word := r.literal.signExtend 64

/-- The value of a value port; the port-1 operand may be the literal (R339, R342). -/
def portVal (r : NodeRec) (f : Firing) (p : Nat) : Option Word := if p = 1 && r.lit then some (litVal r) else tokVal (opTok f p)

/-- Send a computed result to destination fields. -/
def sendResult (s : State) (t : Nat) (f : Firing) (v : Word) (ds : List Dest) : State :=
  emitTo s t f (emission f (leadTok f) (.scalar v)) ds

/-- Forward a token's kind and payload under the leading token's header (R340). -/
def forward (s : State) (t : Nat) (f : Firing) (k : Token) (ds : List Dest) : State :=
  emitTo s t f (emission f (leadTok f) k.body) ds

/-- A kind that reads value ports, or faults on a data token there (R339). -/
def onVals (r : NodeRec) (s : State) (t : Nat) (f : Firing) (ps : List Nat) (go : List Word → State) : State :=
  let vs := ps.map (portVal r f)
  if vs.any (·.isNone) then nodeFault s t f cIllegal else go (vs.filterMap id)

/-! ## Arithmetic (R342) -/

/-- A binary arithmetic kind. -/
def arithNode (op : Word → Word → Word) (r : NodeRec) (s : State) : Host.Outcome State Fault Refusal :=
  runNode false false (fun s t f => onVals r s t f [0, 1] (fun vs => sendResult s t f (op (vs.getD 0 0) (vs.getD 1 0)) (bothDests r))) s

/-- The low 6 bits of a shift count. -/
def nodeSh (b : Word) : Nat := (b.extractLsb' 0 6).toNat

/-- `add` (R342). -/
def execNodeAdd (r : NodeRec) (s : State) : Host.Outcome State Fault Refusal := arithNode (· + ·) r s
/-- `sub` (R342). -/
def execNodeSub (r : NodeRec) (s : State) : Host.Outcome State Fault Refusal := arithNode (· - ·) r s
/-- `mul` (R342). -/
def execNodeMul (r : NodeRec) (s : State) : Host.Outcome State Fault Refusal := arithNode (· * ·) r s
/-- `and` (R342). -/
def execNodeAnd (r : NodeRec) (s : State) : Host.Outcome State Fault Refusal := arithNode (· &&& ·) r s
/-- `or` (R342). -/
def execNodeOr (r : NodeRec) (s : State) : Host.Outcome State Fault Refusal := arithNode (· ||| ·) r s
/-- `xor` (R342). -/
def execNodeXor (r : NodeRec) (s : State) : Host.Outcome State Fault Refusal := arithNode (· ^^^ ·) r s
/-- `shl` (R342). -/
def execNodeShl (r : NodeRec) (s : State) : Host.Outcome State Fault Refusal := arithNode (fun a b => a <<< nodeSh b) r s
/-- `shr` (R342). -/
def execNodeShr (r : NodeRec) (s : State) : Host.Outcome State Fault Refusal := arithNode (fun a b => a >>> nodeSh b) r s
/-- `sar` (R342). -/
def execNodeSar (r : NodeRec) (s : State) : Host.Outcome State Fault Refusal := arithNode (fun a b => a.sshiftRight (nodeSh b)) r s
/-- `min` (R342). -/
def execNodeMin (r : NodeRec) (s : State) : Host.Outcome State Fault Refusal :=
  arithNode (fun a b => if a.toInt ≤ b.toInt then a else b) r s
/-- `max` (R342). -/
def execNodeMax (r : NodeRec) (s : State) : Host.Outcome State Fault Refusal :=
  arithNode (fun a b => if a.toInt ≤ b.toInt then b else a) r s

/-- COND of `cmp` (R342). -/
def nodeCond (c : Nat) (a b : Word) : Bool :=
  match c with
  | 0 => a = b
  | 1 => a ≠ b
  | 2 => a.toInt < b.toInt
  | 3 => a.toInt ≤ b.toInt
  | 4 => b.toInt < a.toInt
  | 5 => b.toInt ≤ a.toInt
  | 6 => a.toNat < b.toNat
  | 7 => a.toNat ≤ b.toNat
  | 8 => b.toNat < a.toNat
  | _ => b.toNat ≤ a.toNat

/-- `cmp` (R342). -/
def execNodeCmp (r : NodeRec) (s : State) : Host.Outcome State Fault Refusal :=
  arithNode (fun a b => if nodeCond (r.literal.extractLsb' 0 4).toNat a b then 1 else 0) r s

/-! ## Selection and routing (R343 to R345) -/

/-- `sel` (R343). -/
def execNodeSel (r : NodeRec) (s : State) : Host.Outcome State Fault Refusal :=
  runNode false false (fun s t f => onVals r s t f [0] (fun vs =>
    if vs.getD 0 0 = 0 then forward s t f (opTok f 2) (bothDests r)
    else if r.lit then sendResult s t f (litVal r) (bothDests r)
    else forward s t f (opTok f 1) (bothDests r))) s

/-- `dup` (R344). -/
def execNodeDup (r : NodeRec) (s : State) : Host.Outcome State Fault Refusal :=
  runNode false false (fun s t f => forward s t f (opTok f 0) (bothDests r)) s

/-- `steer` (R344). -/
def execNodeSteer (r : NodeRec) (s : State) : Host.Outcome State Fault Refusal :=
  runNode false false (fun s t f => onVals r s t f [1] (fun vs =>
    forward s t f (opTok f 0) [if vs.getD 0 0 ≠ 0 then r.destA else r.destB])) s

/-- `merge` (R344). -/
def execNodeMerge (r : NodeRec) (s : State) : Host.Outcome State Fault Refusal :=
  runNode false false (fun s t f => forward s t f (leadTok f) (bothDests r)) s

/-- `switch` (R344). -/
def execNodeSwitch (r : NodeRec) (s : State) : Host.Outcome State Fault Refusal :=
  runNode false false (fun s t f => onVals r s t f [1] (fun vs =>
    let i := (vs.getD 0 0).toNat
    forward s t f (opTok f 0) [if i < (r.literal.extractLsb' 0 12).toNat
      then { r.destA with node := r.destA.node + BitVec.ofNat 12 i } else r.destB])) s

/-- `gate` (R344). -/
def execNodeGate (r : NodeRec) (s : State) : Host.Outcome State Fault Refusal :=
  runNode false false (fun s t f =>
    if r.nops = 3 then onVals r s t f [2] (fun vs =>
      forward s t f (opTok f 0) [if vs.getD 0 0 ≠ 0 then r.destA else r.destB])
    else forward s t f (opTok f 0) (bothDests r)) s

/-- `sink` (R345, R293, R198). -/
def execNodeSink (r : NodeRec) (s : State) : Host.Outcome State Fault Refusal :=
  runNode true false (fun s t f =>
    let s1 := (f.ops.filterMap (fun p => p.2.poison?)).foldl (fun s p => logPoison s (tileOf s t).launch 1 p f.node t f.ctx []) s
    if r.literal.getLsbD 0 then modTile s1 t (fun x => { x with sunk := x.sunk + f.ops.length }) else s1) s

/-- `const` (R345). -/
def execNodeConst (r : NodeRec) (s : State) : Host.Outcome State Fault Refusal :=
  runNode false false (fun s t f => sendResult s t f (litVal r) (bothDests r)) s

/-! ## Tag nodes (R346) -/

/-- Forward the port-0 token under a new tag, or fault (R178). -/
def retag (r : NodeRec) (s : State) (t : Nat) (f : Firing) (g : Nat) : State :=
  if 0xFFFFF < g then nodeFault s t f cTagOverflow
  else emitTo s t f { emission f (leadTok f) (opTok f 0).body with tag := BitVec.ofNat 20 g } (bothDests r)

/-- S of a tag node. -/
def tagS (r : NodeRec) : Nat := (r.literal.extractLsb' 0 5).toNat

/-- `tagin` (R346). -/
def execNodeTagin (r : NodeRec) (s : State) : Host.Outcome State Fault Refusal :=
  runNode false false (fun s t f => retag r s t f (f.tag.toNat * 2 ^ tagS r)) s

/-- `tagnext` (R346). -/
def execNodeTagnext (r : NodeRec) (s : State) : Host.Outcome State Fault Refusal :=
  runNode false false (fun s t f =>
    if f.tag.toNat % 2 ^ tagS r = 2 ^ tagS r - 1 then nodeFault s t f cTagOverflow else retag r s t f (f.tag.toNat + 1)) s

/-- `tagout` (R346). -/
def execNodeTagout (r : NodeRec) (s : State) : Host.Outcome State Fault Refusal :=
  runNode false false (fun s t f => retag r s t f (f.tag.toNat / 2 ^ tagS r)) s

/-- `tagset` (R346). -/
def execNodeTagset (r : NodeRec) (s : State) : Host.Outcome State Fault Refusal :=
  runNode false false (fun s t f =>
    if r.lit then retag r s t f r.literal.toNat
    else onVals r s t f [1] (fun vs => retag r s t f (vs.getD 0 0).toNat)) s

/-! ## Generators and collectors (R347 to R349) -/

/-- `count`: the run starts; its tokens leave one at a time (R347). -/
def execNodeCount (r : NodeRec) (s : State) : Host.Outcome State Fault Refusal :=
  runNode false false (fun s t f =>
    let go (n : Nat) : State :=
      if 0x100000 < n || (0 < n && 0xFFFFF < f.tag.toNat + n - 1) then nodeFault s t f cTagOverflow
      else if (bothDests r).any (·.v) && (match chanCheck (tileOf s t) (leadChan (leadTok f).chan) with | .error _ => true | .ok _ => false)
      then nodeFault s t f cChanInvalid
      else modTile s t (fun x => { x with runs := x.runs ++ [{ next := 0, stop := n, firing := f }] })
    if r.nops = 1 then go r.literal.toNat else onVals r s t f [1] (fun vs => go (vs.getD 0 0).toNat)) s

/-- The next token of a tile's k-th run; a run waits for earlier runs of its node (R347). -/
def stepRun (s : State) (t k : Nat) : State :=
  let tl := tileOf s t
  match tl.runs[k]? with
  | none => s
  | some x =>
    let f := x.firing
    if !tileRuns s t || (tl.runs.take k).any (fun y => y.firing.ctx = f.ctx && y.firing.node = f.node) then s
    else
      let r := nodeRec s t f.ctx f.node
      let e := emission f (leadTok f) (.scalar (BitVec.ofNat 64 x.next))
      if x.next < x.stop then
        emitTo (setTile s t { tl with runs := lmod tl.runs k (fun y => { y with next := y.next + 1 }) }) t f
          { e with tag := f.tag + BitVec.ofNat 20 x.next, seq := BitVec.ofNat 16 x.next } [r.destA]
      else emitTo (setTile s t { tl with runs := ldrop tl.runs k }) t f e [r.destB]

/-- `join`: the sum, SEQ 0 and RANKW 0 (R348). -/
def execNodeJoin (r : NodeRec) (s : State) : Host.Outcome State Fault Refusal :=
  runNode false false (fun s t f =>
    emitTo s t f { emission f (leadTok f) (opTok f 0).body with seq := 0, rankw := 0 } (bothDests r)) s

/-- `cwait`: the count, SEQ 0 (R349). -/
def execNodeCwait (r : NodeRec) (s : State) : Host.Outcome State Fault Refusal :=
  runNode false false (fun s t f => emitTo s t f { emission f (leadTok f) (opTok f 3).body with seq := 0 } (bothDests r)) s

/-! ## Execution kinds (R353 to R356) -/

/-- A payload descriptor (R189); FLIT is a place in the token store that the manual does not fix. -/
def descriptor (k : Token) (b : Burst) (flit : Word) : Word :=
  BitVec.ofNat 64 (k.body.beats <<< 58 ||| (flit.extractLsb' 0 10).toNat <<< 48 ||| k.seq.toNat <<< 32 ||| b.dtag.toNat <<< 24
    ||| b.fmt.toNat <<< 16 ||| b.nelem.toNat)

/-- What inN reads at entry (R189, R353). -/
def inVal (r : NodeRec) (f : Firing) (p : Nat) (free : Word) : Word :=
  if p = 1 && r.lit then litVal r
  else match afind f.ops p with
    | none => free
    | some k => match k.body with
      | .burst b => descriptor k b free
      | .sparse b => descriptor k b free
      | _ => (tokVal k).getD 0

/-- Draw n free values. -/
def drawMany : Nat → State → List Word × State
  | 0, s => ([], s)
  | n + 1, s => let (w, s1) := drawFree s; let (l, s2) := drawMany n s1; (w :: l, s2)

/-- The lowest free codelet slot (R191). -/
def freeSlot (s : State) (t : Nat) : Option (Fin 4) :=
  ((List.finRange 4).filter (fun k => (slotOf s t k).phase = .free)).head?

/-- `fire`: the codelet starts in the lowest free slot (R189 to R191, R353, R384). -/
def execNodeFire (r : NodeRec) (s : State) : Host.Outcome State Fault Refusal :=
  runNode false true (fun s t f =>
    match freeSlot s t with
    | none => modTile (doneFiring s t f.party) t (fun x => { x with ready := f :: x.ready })
    | some k =>
      let (fr, s1) := drawMany 11 s
      let ts : Vector Word 8 :=
        if (tileLaunch s t).det then Vector.replicate 8 0 else Vector.ofFn (fun i => fr.getD i.val 0)
      let tl := tileOf s1 t
      let sl : Slot := { phase := .running, firing := f, code := (r.literal.extractLsb' 0 10).toNat, t := ts,
                         inp := Vector.ofFn (fun i => inVal r f i.val (fr.getD (8 + i.val) 0)),
                         seed := aget tl.seed f.ctx.toNat 0, winsel := aget tl.winsel f.ctx.toNat 0 }
      let s2 := mendTile (setSlot s1 t k sl) t ((List.range 16).map (badTemp k))
      if (codeOf s2 t k).isEmpty then endCodelet s2 t k else s2) s

/-- The `mma` word that an `mctl` firing performs (R354). -/
def mctlWord (r : NodeRec) (v : Word) : Option SWord :=
  (Ty.ofCode (v.extractLsb' 16 4).toNat).map (fun ta =>
    { g := ⟨0, false, false⟩, ty := ta, ad := r.literal.extractLsb' 4 6, oa := v.extractLsb' 0 8, ob := v.extractLsb' 8 8,
      shr := r.literal.extractLsb' 0 4, z := r.literal.getLsbD 10, dec := r.literal.getLsbD 11, hold := r.literal.getLsbD 12,
      x := .t 0, tb := v.extractLsb' 20 4 })

/-- `mctl` (R354). -/
def execNodeMctl (r : NodeRec) (s : State) : Host.Outcome State Fault Refusal :=
  runNode false true (fun s t f =>
    let fail (c : BitVec 8) : State := doneFiring (nodeFault s t f c) t f.party
    match portVal r f 0 with
    | none => fail cIllegal
    | some v => match mctlWord r v with
      | none => fail cIllegal
      | some w =>
        let e := matEnv s t f.ctx
        if (Instr.mma w).check.isSome then fail cIllegal
        else if e.vregs ≤ w.oa.toNat || e.vregs ≤ w.ob.toNat then fail cPartition
        else match mmaPlan e w (v >>> 24) with
          | .error c => fail c
          | .ok p => match queueMat s t f none (aget (tileOf s t).seed f.ctx.toNat 0) (.mma w) (v >>> 24) p [] with
            | .error e => doneFiring (takeFault s t f (trackPoison s t f e)) t f.party
            | .ok (s1, _, _) => s1) s

/-- A token of `isect`: NELEM, format and survivors by element, with its block scales (R355). -/
structure SparseView where
  b : Burst
  keep : List Bool
  vals : List (List Byte)
  scales : List Byte

/-- Nibbles as one-byte values, so that survivors of every format are lists of bytes. -/
def sparseView (k : Token) : Option SparseView :=
  let view (b : Burst) (keep : List Bool) (body : List Byte) : Option SparseView :=
    let n := (keep.filter id).length
    match efmt b.fmt.toNat with
    | some (.ty t) => some ⟨b, keep, (chunks t.bytes (body.take (n * t.bytes))), []⟩
    | some (.l4 q) => some ⟨b, keep, (List.range n).map (fun i => [BitVec.ofNat 8 (nib body i)]),
        (body.drop (cdiv n 2)).take (cdiv b.nelem.toNat q)⟩
    | _ => none
  match k.body with
  | .burst b => view b (List.replicate b.nelem.toNat true) b.bytes
  | .sparse b =>
    let n := b.nelem.toNat
    view b ((List.range n).map (fun i => (b.bytes.getD (i / 8) 0).getLsbD (i % 8))) (b.bytes.drop (cdiv n 8))
  | _ => none

/-- The survivors of a view at the set bits of a mask, encoded as a coordinate-sparse body (R355). -/
def sparseBody (v : SparseView) (m : List Bool) : List Byte :=
  let at_ := ((List.range v.keep.length).filter (fun i => v.keep.getD i false))
  let vs := ((at_.zip v.vals).filter (fun p => m.getD p.1 false)).map (·.2)
  let data := match efmt v.b.fmt.toNat with
    | some (.l4 _) => packNib (vs.map (fun x => (x.headD 0).toNat))
    | _ => vs.flatten
  bitmapOf m ++ data ++ v.scales

/-- `isect` (R355, R169). -/
def execNodeIsect (r : NodeRec) (s : State) : Host.Outcome State Fault Refusal :=
  runNode false false (fun s t f =>
    match sparseView (opTok f 0), sparseView (opTok f 1) with
    | some a, some b =>
      if a.b.nelem ≠ b.b.nelem || a.b.fmt ≠ b.b.fmt then nodeFault s t f cRouteFilter
      else
        let m := List.zipWith (· && ·) a.keep b.keep
        let da := sparseBody a m
        let db := sparseBody b m
        if 2048 < da.length || 2048 < db.length then nodeFault s t f cBurstLength
        else
          let out (v : SparseView) (d : List Byte) : Body := .sparse { v.b with bytes := toFlits d, zx := false }
          let s1 := emitTo s t f (emission f (leadTok f) (out a da)) [r.destA]
          emitTo s1 t f (emission f (leadTok f) (out b db)) [r.destB]
    | _, _ => nodeFault s t f cRouteFilter) s

/-- The package of a flight: 255 for this one (R25). -/
def flightPkg (s : State) (p : Nat) : BitVec 8 := if pkgIsLocal s p then 255 else BitVec.ofNat 8 p

/-- A token to the combine unit that a RANKW names (R356). -/
def toCombine (s : State) (t : Nat) (f : Firing) (k : Token) (ch : BitVec 5) (body : Body) (rel : Release) : State :=
  inject s { tok := { dest := combDest (k.rankw.extractLsb' 8 5).toNat, ctx := 0, tag := f.tag, chan := ch, seq := k.seq,
                      rankw := k.rankw, origin := BitVec.ofNat 11 t, body := body, rel := rel, batch := f.batch },
             launch := (tileOf s t).launch, pkg := flightPkg s (k.rankw.extractLsb' 0 8).toNat }

/-- `sendx`: poison goes to the combine unit as well (R356, R295). -/
def execNodeSendx (r : NodeRec) (s : State) : Host.Outcome State Fault Refusal :=
  match s.focus with
  | .firing t f =>
    let s0 := { s with focus := .idle }
    let k := leadTok f
    let ch := r.literal.extractLsb' 0 5
    let bad (p : Poison) : State := toCombine s0 t f k 2 (.poison p) (mkRelease (sysScope s 2) (BitVec.ofNat 11 t) f.clock)
    let out := match firingPoison f with
      | some p => bad p
      | none => match chanCheck (tileOf s0 t) ch, k.body with
        | .error c, _ => bad (mkPoison s0 t f c)
        | .ok e, .burst b => toCombine s0 t f k ch (.burst b) (mkRelease (chanScope e) (BitVec.ofNat 11 t) f.clock)
        | .ok _, _ => bad (mkPoison s0 t f cIllegal)
    .next (doneFiring out t f.party)
  | _ => .next s

/-! ## Memory nodes (R357) -/

/-- Perform or issue the access of `lds` or `sts`; the firing stays in progress until it is performed (R237). -/
def accNode (store : Bool) (r : NodeRec) (s : State) : Host.Outcome State Fault Refusal :=
  runNode false true (fun s t f =>
    let n := accBytes r
    let fail (p : Poison) : State := doneFiring (takeFault s t f p) t f.party
    match portVal r f 0, (if store then portVal r f 1 else some 0) with
    | some a, some d =>
      let bs := bytesLE n (d.toNat % 2 ^ (8 * n))
      if accSpad r then
        if (imageOf s t f.ctx).scratch < a.toNat + n then fail (mkPoison s t f cPartition)
        else if !store && readsBad (tileOf s t) [] [(a.toNat, n)] then fail (mkPoison s t f cUncorrectable)
        else match trackTile s t f store a.toNat n with
          | .error e => fail (trackPoison s t f e)
          | .ok (s1, f1) =>
            if store then accDone (modTile s1 t (fun x => wrScratch x a.toNat bs)) t f1 a
            else accDone s1 t f1 (ldsValue r (rdBytes (tileOf s t).scratch a.toNat n))
      else
        let tl := tileOf s t
        match formAddr s (tileLaunch s t) (aget tl.wins f.ctx.toNat []) (aget tl.winsel f.ctx.toNat 0)
            (if store then .store else .load) a n with
        | .error c => fail (vaPoison s t f c a)
        | .ok ad =>
          let (i, s1) := newId s
          let (_, c) := bumpClock f.clock f.party
          let s2 := modTile s1 t (fun x => { x with busy := x.busy.map (fun g => if g.party = f.party then { g with clock := c } else g) })
          issueReq s2 { id := i, tile := t, ctx := f.ctx, party := .firing f.party, pnum := f.party, addr := ad,
                        op := if store then .store bs else .load n, dest := .node, clock := c, tag := f.tag,
                        node := BitVec.ofNat 12 f.node }
    | _, _ => fail (mkPoison s t f cIllegal)) s

/-- `lds` (R357). -/
def execNodeLds (r : NodeRec) (s : State) : Host.Outcome State Fault Refusal := accNode false r s
/-- `sts` (R357). -/
def execNodeSts (r : NodeRec) (s : State) : Host.Outcome State Fault Refusal := accNode true r s

/-- `pchk` (R358). -/
def execNodePchk (r : NodeRec) (s : State) : Host.Outcome State Fault Refusal :=
  runNode true false (fun s t f =>
    match (opTok f 0).poison? with
    | none => forward s t f (opTok f 0) [r.destA]
    | some p =>
      let s1 := if r.literal.getLsbD 0 then logPoison s (tileOf s t).launch 1 p f.node t f.ctx [] else s
      sendResult s1 t f p.aux [r.destB]) s

end Sys2Proof.Machine
end

