-- ==== Sys2Proof/Machine/Net.lean ====
section
/-! DEFINITION. Arrival of tokens: where a token is delivered, the token stores, diversion and spilling, the overflow queues,
destinations that cannot take delivery, acknowledgements (R161, R170 to R174, R184, R203, R206, R215, R220). -/

namespace Sys2Proof.Machine

open Sys2Proof

/-! ## Room in a token store (R170, R206) -/

/-- Header entries and payload flits of a token. -/
def tokSize (k : Token) : Nat × Nat := (1, k.body.beats)

/-- Sizes added up. -/
def sumSizes (l : List (Nat × Nat)) : Nat × Nat := ((l.map (·.1)).sum, (l.map (·.2)).sum)

/-- Operands that a firing holds in the store; a sticky operand is counted as held. -/
def heldOps (s : State) (t : Nat) (f : Firing) : List Token :=
  (f.ops.filter (fun p => !(p.1 = 2 && (nodeRec s t f.ctx f.node).sticky))).map (·.2)

/-- What a store holds: unmatched tokens, sticky values, operands of ready firings and payloads of those in progress. -/
def storeUse (s : State) (id : Nat) : Nat × Nat :=
  match asSower id with
  | some u => sumSizes ((sowerOf s u).store.map (fun f => tokSize f.tok))
  | none =>
    let tl := tileOf s id
    let busy := (tl.busy.map (fun f => (heldOps s id f).filter (fun k => k.body.beats ≠ 0))).flatten
    sumSizes ((tl.store.map (fun f => tokSize f.tok)) ++ (tl.sticky.map (fun p => tokSize p.2))
      ++ ((tl.ready.map (heldOps s id)).flatten.map tokSize) ++ busy.map tokSize)

/-- Header entries and payload flits of a unit's store. -/
def storeCap (id : Nat) : Nat × Nat := if (asSower id).isSome then (64, 512) else (256, 1024)

/-- A token finds room. -/
def fits (s : State) (id : Nat) (k : Token) : Bool :=
  let u := storeUse s id
  let c := storeCap id
  u.1 + 1 ≤ c.1 && u.2 + k.body.beats ≤ c.2

/-! ## Overflow queues (R171, R172) -/

/-- A channel of a unit is diverted. -/
def isDiverted (s : State) (id : Nat) (c : BitVec 5) : Bool :=
  match asSower id with
  | some u => (sowerOf s u).diverted.contains c
  | none => (tileOf s id).diverted.contains c

/-- Turn diversion of a channel on or off. -/
def setDivert (s : State) (id : Nat) (c : BitVec 5) (on : Bool) : State :=
  let f (l : List (BitVec 5)) : List (BitVec 5) := if on then (if l.contains c then l else l ++ [c]) else l.filter (· ≠ c)
  match asSower id with
  | some u => modSower s u (fun x => { x with diverted := f x.diverted })
  | none => modTile s id (fun x => { x with diverted := f x.diverted })

/-- Flits of a die's overflow region (R171). -/
def ovfSize : Nat := 2 ^ 24

/-- A token finds room in a die's overflow region. -/
def ovfRoom (s : State) (die : Nat) (k : Token) : Bool := aget s.ovfUsed die 0 + flitsOf k ≤ ovfSize

/-- Take or give back room. -/
def ovfTake (s : State) (die : Nat) (k : Token) : State := { s with ovfUsed := aput s.ovfUsed die (aget s.ovfUsed die 0 + flitsOf k) }
def ovfGive (s : State) (die : Nat) (k : Token) : State := { s with ovfUsed := aput s.ovfUsed die (aget s.ovfUsed die 0 - flitsOf k) }

/-- The queue of a unit and channel. -/
def isOvf (id : Nat) (c : BitVec 5) (q : Ovf) : Bool := q.tile = id && q.chan = c

/-- Append a token to the queue of its destination and channel; diversion is in force. -/
def ovfAppend (s : State) (f : Flight) : State :=
  let id := f.tok.dest.tile.toNat
  let c := f.tok.chan
  let qs := if s.ovf.any (isOvf id c) then s.ovf.map (fun q => if isOvf id c q then { q with toks := q.toks ++ [f] } else q)
    else s.ovf ++ [{ tile := id, chan := c, toks := [f] }]
  setDivert (ovfTake { s with ovf := qs } (dieOf id) f.tok) id c true

/-- The queues of a unit, dropped; their tokens come back. -/
def ovfDrain (s : State) (id : Nat) : State × List Flight :=
  let fs := (s.ovf.filter (fun q => q.tile = id)).flatMap (·.toks)
  (fs.foldl (fun s f => ovfGive s (dieOf id) f.tok) { s with ovf := s.ovf.filter (fun q => q.tile ≠ id) }, fs)

/-! ## Spilling (R184) -/

/-- The tile may be spilled further: it has not 16 header entries and 32 payload flits free. -/
def tight (s : State) (t : Nat) : Bool :=
  let u := storeUse s t
  256 < u.1 + 16 || 1024 < u.2 + 32

/-- The next token to spill: of the highest other context, then of the current context's highest tag. -/
def spillNext (tl : Tile) : Option Flight :=
  let other := tl.store.filter (fun f => f.tok.ctx ≠ tl.ctx)
  let top := (other.map (fun f => f.tok.ctx.toNat)).foldl max 0
  match other.find? (fun f => f.tok.ctx.toNat = top) with
  | some f => some f
  | none =>
    let tag := (tl.store.map (fun f => f.tok.tag.toNat)).foldl max 0
    tl.store.find? (fun f => f.tok.tag.toNat = tag)

/-- A token finds no room in an overflow region: it is dropped and the launch that owns it ended; no poison is formed, so the record's
AUX and BODY are 0 (R173, R289). -/
def ovfFull (s : State) (f : Flight) (h : Nat) : State :=
  let t := f.tok.dest.tile.toNat
  askEnd (appendLog s h true (faultRecord 3 cOverflowExhausted 0xFFFF t f.tok.ctx.toNat 0 [] [])) h 6

/-- Spill until there is room. -/
def spillGo (t : Nat) : Nat → State → State
  | 0, s => s
  | fuel + 1, s =>
    if !tight s t then s
    else match spillNext (tileOf s t) with
      | none => s
      | some f =>
        let s1 := modTile s t (fun x => { x with store := dropFirst (· = f) x.store })
        if ovfRoom s (dieOf t) f.tok then spillGo t fuel (ovfAppend s1 f) else ovfFull s1 f (tileOf s t).launch

/-- Spill a tile that holds no ready firing. -/
def spill (s : State) (t : Nat) : State :=
  if isTile t && (tileOf s t).ready.isEmpty then spillGo t 257 s else s

/-! ## The destination launch (R174) -/

/-- A launch by this number has its tiles saved away from a tile, or not yet running there again. -/
def savedOff (s : State) (t h : Nat) : Bool :=
  let l := launchOf s h
  l.tileset.contains t && (match l.phase with
    | .saved => true | .restoring => true | .saving => (tileOf s t).launch ≠ h | _ => false)

/-- The launch checkpointed off a tile first. -/
def ckptOf (s : State) (t : Nat) : Option Nat :=
  (s.launches.filter (fun p => savedOff s t p.1)).foldl (fun a p => match a with
    | some h => if p.2.savedOrder < (launchOf s h).savedOrder then some p.1 else some h
    | none => some p.1) none

/-- What becomes of a token at a tile's interface (R174). -/
inductive Target where
  | store (h : Nat)
  | queue (h : Nat)
  | inbound (h : Nat)
  | waits
  | dead
  deriving DecidableEq, Repr

/-- What the launch that holds a tile does with a token. -/
def holderTarget (s : State) (t h : Nat) : Target :=
  let l := launchOf s h
  if l.closing then .dead
  else match l.phase with
  | .running => if !goPending s t h then .store h else if l.save.isSome then .inbound h else .queue h
  | .draining => .store h
  | .saving => .store h
  | .killing => .store h
  | .placing => .queue h
  | .restoring => .inbound h
  | _ => .dead

/-- A launch that is yet to be placed names the tile. -/
def waitsFor (s : State) (t : Nat) : Bool :=
  s.launches.any (fun p => p.2.tileset.contains t && (match p.2.phase with | .leasing => true | .waiting => true | _ => false))

/-- The destination of a token (R174, R211). -/
def tokTarget (s : State) (f : Flight) : Target :=
  let t := f.tok.dest.tile.toNat
  let h := (tileOf s t).launch
  let own := h ≠ 0 && (f.launch = h || f.formedFor = some h || f.sower.isSome)
  if own then holderTarget s t h
  else match ckptOf s t with
    | some c => .inbound c
    | none => if h ≠ 0 then holderTarget s t h else if waitsFor s t then .waits else .dead

/-- CTX lies at or above NCTX of the launch. -/
def ctxBad (s : State) (h : Nat) (k : Token) : Bool := (launchOf s h).images.length ≤ k.ctx.toNat

/-! ## Delivery -/

/-- Restore the zeros that a channel without KEEP left out (R168). -/
def restoreZeros (k : Token) : Token :=
  match k.body with
  | .sparse b =>
    if !b.zx then k
    else match efmt b.fmt.toNat with
      | some f => { k with body := .burst { b with bytes := toFlits (expandZeros f b.nelem.toNat b.bytes), zx := false } }
      | none => k
  | _ => k

/-- An acknowledgement (R215). -/
def isAck (k : Token) : Bool := k.chan = 1 && !k.dest.v && (match k.body with | .control _ => true | _ => false)

/-- An acknowledgement answers this token of a batch: its TAG, SEQ and rank, from the combine unit that its RANKW names (R215,
R226). -/
def ackOf (s : State) (f : Flight) (w : Word) (x : BitVec 20 × BitVec 16 × BitVec 16) : Bool :=
  x.1 = w.extractLsb' 0 20 && x.2.1 = w.extractLsb' 20 16 && x.2.2.extractLsb' 13 3 = w.extractLsb' 36 3
    && combId (x.2.2.extractLsb' 8 5).toNat = f.tok.origin.toNat
    && (match f.src with
        | none => pkgIsLocal s (x.2.2.extractLsb' 0 8).toNat
        | some p => x.2.2.extractLsb' 0 8 = p)

/-- A tile's interface consumes an acknowledgement: the batch's half is freed once every token of it is acknowledged
(R215). -/
def ackBin (q : BitVec 20 × BitVec 16 × BitVec 16 → Bool) (b : Bin) : Bin :=
  match b.retained.find? (fun h => h.waits.any q) with
  | none => b
  | some h =>
    let ws := dropFirst q h.waits
    if ws.isEmpty then { b with retained := b.retained.filter (fun y => y.half ≠ h.half),
                                replayDue := b.replayDue.filter (fun d => d.1 ≠ h.batch) }
    else { b with retained := b.retained.map (fun y => if y.half = h.half then { y with waits := ws } else y) }

/-- The acknowledgement reaches the first bin that waits for it. -/
def ackGo (q : BitVec 20 × BitVec 16 × BitVec 16 → Bool) : AMap Bin → AMap Bin
  | [] => []
  | (k, b) :: m =>
    let b1 := ackBin q b
    if b1 = b then (k, b) :: ackGo q m else (k, b1) :: m

def takeAck (s : State) (t : Nat) (f : Flight) : State :=
  match f.tok.body with
  | .control w => modTile s t (fun x => { x with bins := ackGo (ackOf s f w) x.bins })
  | _ => s

/-- Accept a token at its unit: a sower keeps it, a tile consumes an acknowledgement and matches any other (R215). -/
def takeIn (s : State) (f : Flight) : State :=
  let id := f.tok.dest.tile.toNat
  match asSower id with
  | some u => modSower s u (fun x => { x with store := x.store ++ [f] })
  | none => if isAck f.tok then takeAck s id f else acceptTok s id { f with tok := restoreZeros f.tok }

/-- Deliver a token to a unit that takes tokens: it is accepted, or diverted (R14, R170, R171); `none` when the overflow region
is full. -/
def deliver (s : State) (f : Flight) : Option State :=
  let id := f.tok.dest.tile.toNat
  if !isDiverted s id f.tok.chan && fits s id f.tok && !(tileOf s id).parked then some (takeIn s f)
  else if !ovfRoom s (dieOf id) f.tok then none
  else some (spill (ovfAppend s f) id)

/-- Append a token to a save image's inbound queue (R174, R309, R311). -/
def toInbound (s : State) (h : Nat) (f : Flight) : State :=
  let l := launchOf s h
  let x := l.save.getD {}
  if 2 ^ 20 < inboundUse x + flitsOf f.tok then deadLetter s f
  else setLaunch s h { l with save := some (appendInbound l x f) }

/-- PTIMEOUT of the sending launch, in ns (R66). -/
def ptimeoutNs (s : State) (h : Nat) : Nat :=
  match afind s.launches h with
  | some l => l.ptimeout * 1000
  | none => 10000000

/-- A token reaches the interface of a tile; `none` when it must be diverted and the region is full. -/
def arriveTile (s : State) (f : Flight) : Option State :=
  let t := f.tok.dest.tile.toNat
  let ok (h : Nat) (go : Option State) : Option State := if ctxBad s h f.tok then some (deadLetter s f) else go
  match tokTarget s f with
  | .dead => some (deadLetter s f)
  | .waits =>
    let d := dieOf f.tok.origin.toNat
    if !ovfRoom s d f.tok then none
    else some { ovfTake s d f.tok with limbo := s.limbo ++ [{ flight := f, since := s.time, limit := ptimeoutNs s f.launch }] }
  | .inbound h => ok h (some (toInbound s h f))
  | .queue h => ok h (if !ovfRoom s (dieOf t) f.tok then none else some (ovfAppend s f))
  | .store h => ok h (if isAck f.tok then some (takeAck s t f) else deliver s f)

/-- A token reaches a sower (R203, R206, R220). -/
def arriveSower (s : State) (u : Nat) (f : Flight) : Option State :=
  let x := sowerOf s u
  if 2 ≤ f.tok.dest.port.toNat then some (deadLetter s f)
  else if x.holder = 0 || x.holder ≠ f.launch then some (refuse s f (sowerId u) cSowerNotHeld)
  else match f.tok.poison? with
    | some p => some (logPoison s x.holder 4 p 0xFFFF (sowerId u) f.tok.ctx [])
    | none => if x.closed then some (refuse s f (sowerId u) cSowerClosed) else deliver s f

/-- Tokens of one sender to one tile on one channel arrive in the order sent (R161), and those of one initial token list at one
tile in the order of the list (R128). -/
def firstOf (s : State) (n : Nat) (f : Flight) : Bool :=
  !(s.net.take n).any (fun g => g.tok.dest.tile = f.tok.dest.tile && g.pkg = f.pkg
    && ((g.tok.origin = f.tok.origin && g.tok.chan = f.tok.chan && g.src = f.src && g.sower = f.sower)
        || (g.first && f.first && g.launch = f.launch && g.tok.ctx = f.tok.ctx)))

/-- A token may leave the network: it is the next in order, and what its release covers is where it has to be (R161, R165). -/
def mayArrive (s : State) (n : Nat) (f : Flight) : Bool := firstOf s n f && !f.after.any (standsBefore s f.tok.rel.scope)

/-- The token that may arrive next under a number of the network: for this package, of the kind looked for. -/
def nextFlight (q : Flight → Bool) (s : State) (n : Nat) : Option (Flight × State) :=
  match s.net[n]? with
  | none => none
  | some f => if pkgIsLocal s f.pkg.toNat && mayArrive s n f && q f then some (f, { s with net := ldrop s.net n }) else none

/-! ## Tokens between packages (R226) -/

/-- A token reaches another package, in the order of R161. -/
def tokenOut (s : State) (n : Nat) : State :=
  match s.net[n]? with
  | none => s
  | some f =>
    if pkgIsLocal s f.pkg.toNat || !joined s || !mayArrive s n f then s
    else gotOut { s with net := ldrop s.net n, outClock := clkJoin s.outClock f.tok.rel.clock } (.token f.tok f.pkg)

/-- A token comes from another package: its release covers accesses of this package's parties at most as far as tokens that have
left have made them known (R234). -/
def tokenIn (s : State) (f : Flight) (src : BitVec 8) : State :=
  if !joined s || pkgIsLocal s src.toNat then s
  else
    let k := f.tok
    let c := k.rel.clock.map (fun p => (p.1, min p.2 (aget s.outClock p.1 0)))
    inject s { tok := { k with rel := mkRelease k.rel.scope peerPlace c, more := [] }, src := some src
               formedFor := if k.chan.toNat < 4 then f.formedFor else none
               sower := if k.chan.toNat < 4 then none else f.sower }

/-- The token is for a combine unit. -/
def forComb (f : Flight) : Bool := (asComb f.tok.dest.tile.toNat).isSome && f.tok.dest.node = 0 && f.tok.dest.port = 0 && f.tok.dest.v

/-- A token reaches its destination, or the fabric edge in front of it. -/
def arrive (s : State) (f : Flight) : Option State :=
  let id := f.tok.dest.tile.toNat
  match asSower id with
  | some u => arriveSower s u f
  | none => if isTile id then arriveTile s f else some (deadLetter s f)

/-- `TOKEN_ARRIVE` (R161, R170, R171, R174, R203, R206). -/
def execTokenArrive (s : State) : Host.Outcome State Fault Refusal :=
  onEvent argN (fun n s =>
    match nextFlight (fun f => !isAck f.tok && !forComb f) s n with
    | none => s
    | some (f, s1) => (arrive s1 f).getD s) s

/-- `ACKNOWLEDGEMENT` (R215). -/
def execAcknowledgement (s : State) : Host.Outcome State Fault Refusal :=
  onEvent argN (fun n s =>
    match nextFlight (fun f => isAck f.tok) s n with
    | none => s
    | some (f, s1) => (arrive s1 f).getD s) s

/-- The launch that owns a token about to be appended: that of its destination; for a destination that waits, the sender
(R173; log 20). -/
def ovfOwner (s : State) (f : Flight) : Nat :=
  let id := f.tok.dest.tile.toNat
  match asSower id with
  | some u => (sowerOf s u).holder
  | none => match tokTarget s f with
    | .store h => h
    | .queue h => h
    | .inbound h => h
    | .waits => f.launch
    | .dead => f.launch

/-- `OVERFLOW_EXHAUSTED`: the token that finds no room is dropped and its launch ended (R173). -/
def execOverflowExhausted (s : State) : Host.Outcome State Fault Refusal :=
  onEvent argN (fun n s =>
    match nextFlight (fun f => !isAck f.tok && !forComb f) s n with
    | none => s
    | some (f, s1) =>
      if (arrive s1 f).isSome then s
      else ovfFull s1 f (ovfOwner s1 f)) s

/-! ## Reinjection (R172) -/

/-- A destination reports room: 16 header entries free, or its store empty. -/
def reportsRoom (s : State) (id : Nat) : Bool :=
  let u := storeUse s id
  u.1 + 16 ≤ (storeCap id).1 || u.1 = 0

/-- The channel whose turn it is among a unit's queues. -/
def ovfChan (s : State) (id : Nat) : Option Nat :=
  let cs := (s.ovf.filter (fun q => q.tile = id && !q.toks.isEmpty)).map (fun q => q.chan.toNat)
  let last := aget s.ovfTurn id 32
  let after := cs.filter (fun c => last < c)
  (if after.isEmpty then cs else after).min?

/-- The token of lowest tag that has waited longest. -/
def ovfHead (fs : List Flight) : Option Flight :=
  match (fs.map (fun f => f.tok.tag.toNat)).min? with
  | none => none
  | some g => fs.find? (fun f => f.tok.tag.toNat = g)

/-- The unit takes tokens from its overflow queues now. -/
def takesQueued (s : State) (id : Nat) : Bool :=
  match asSower id with
  | some u => (sowerOf s u).holder ≠ 0
  | none =>
    let h := (tileOf s id).launch
    h ≠ 0 && !goPending s id h && !(tileOf s id).parked && (match (launchOf s h).phase with
      | .running => true | .draining => true | .saving => true | .killing => true | _ => false)

/-- Reinjection to a unit goes on, or it stops until the next report. -/
def ovfRun (s : State) (id : Nat) (on : Bool) : State :=
  { s with ovfOn := if on then (if s.ovfOn.contains id then s.ovfOn else s.ovfOn ++ [id]) else s.ovfOn.filter (· ≠ id) }

/-- `OVERFLOW_REINJECT` (R172): one token, once the destination has reported room; without room it stays at the head of its queue
and the store is spilled if need be (R184). -/
def execOverflowReinject (s : State) : Host.Outcome State Fault Refusal :=
  onEvent argNN (fun (id, c) s =>
    if ovfChan s id ≠ some c || !takesQueued s id || !(s.ovfOn.contains id || reportsRoom s id) then s
    else
      let chan := BitVec.ofNat 5 c
      match (s.ovf.find? (isOvf id chan)).bind (fun q => ovfHead q.toks) with
      | none => s
      | some f =>
        if !fits s id f.tok then spill (ovfRun s id false) id
        else
          let qs := (s.ovf.map (fun q => if isOvf id chan q then { q with toks := dropFirst (· = f) q.toks } else q)).filter
            (fun q => !q.toks.isEmpty)
          let s1 := ovfGive { s with ovf := qs, ovfTurn := aput s.ovfTurn id c } (dieOf id) f.tok
          let s2 := if qs.any (isOvf id chan) then s1 else setDivert s1 id chan false
          takeIn (ovfRun s2 id (qs.any (fun q => q.tile = id))) f) s

/-- Tokens that waited for a tile's launch go to the tile's queues when the launch is placed (R174). -/
def claimLimbo (s : State) (t : Nat) : State :=
  let mine (x : Limbo) : Bool := x.flight.tok.dest.tile.toNat = t
  let go := s.limbo.filter mine
  go.foldl (fun s x =>
    let s1 := ovfGive s (dieOf x.flight.tok.origin.toNat) x.flight.tok
    let h := (tileOf s1 t).launch
    if ctxBad s1 h x.flight.tok then deadLetter s1 x.flight
    else if ovfRoom s1 (dieOf t) x.flight.tok then ovfAppend s1 x.flight else ovfFull s1 x.flight h)
    { s with limbo := s.limbo.filter (fun x => !mine x) }

/-- `PTIMEOUT_EXPIRE` (R174). -/
def execPtimeoutExpire (s : State) : Host.Outcome State Fault Refusal :=
  onEvent argN (fun n s =>
    match s.limbo[n]? with
    | none => s
    | some x =>
      if !due s x.since x.limit then s
      else deadLetter (ovfGive { s with limbo := ldrop s.limbo n } (dieOf x.flight.tok.origin.toNat) x.flight.tok) x.flight) s

end Sys2Proof.Machine
end

