-- ==== Sys2Proof/Machine/Bins.lean ====
section
/-! DEFINITION. Bins (R213 to R216, R221, R230, R295, R351, R352) and the replay of batches (R301, R302). -/

namespace Sys2Proof.Machine

open Sys2Proof

/-! ## A bin and its area (R213, R351) -/

/-- AREA × 16 and NOTE of a bin's literal. -/
def binBase (r : NodeRec) : Nat := (r.literal.extractLsb' 8 24).toNat * 16
def binNote (r : NodeRec) : Nat := (r.literal.extractLsb' 0 8).toNat

/-- A bin of a tile by its key. -/
def binOf (s : State) (t key : Nat) : Bin := aget (tileOf s t).bins key {}
def modBin (s : State) (t key : Nat) (f : Bin → Bin) : State :=
  modTile s t (fun x => { x with bins := aput x.bins key (f (aget x.bins key {})) })

/-- Positions of payload slots, entry tables and row-block tables. -/
def slotPos (base cap h i : Nat) : Nat := base + (h * cap + i) * 2048
def entryPos (base cap h i : Nat) : Nat := base + 4096 * cap + (h * cap + i) * 32
def blockPos (base cap h : Nat) : Nat := base + 4160 * cap + h * 512

/-- The directory entry of an expert (R210). -/
def dirOf (l : Launch) (e : Nat) : DirEntry := l.dir.getD e {}

/-- Expert ids whose entries of the tile's own directory name a bin (R211, R213). -/
def ownEntries (s : State) (t : Nat) (c : BitVec 3) (n : Nat) : List Nat :=
  let l := tileLaunch s t
  (List.range l.dir.length).filter (fun e =>
    let d := dirOf l e
    d.state ≠ 0 && d.bin.v && d.bin.tile.toNat = t && d.bin.node.toNat = n && d.ctx = c && pkgIsLocal s d.pkg.toNat)

/-! ## The order of presentation (R214, R230) -/

/-- Order by expert (adapter bins), TAG, SEQ, ORIGIN, RANKW. -/
def binKeyOf (adapter : Bool) (k : Token) : List Nat :=
  [if adapter then k.expert else 0, k.tag.toNat, k.seq.toNat, k.origin.toNat, k.rankw.toNat]

/-- Lexicographic order. -/
def lexLt : List Nat → List Nat → Bool
  | a :: x, b :: y => a < b || (a = b && lexLt x y)
  | _, _ => false

/-- Insert an entry after those that are not greater. -/
def binInsert (adapter : Bool) (x : Nat × Token) : List (Nat × Token) → List (Nat × Token)
  | [] => [x]
  | y :: l => if lexLt (binKeyOf adapter x.2) (binKeyOf adapter y.2) then x :: y :: l else y :: binInsert adapter x l

/-- The tokens of a half in order of presentation, each with its slot. -/
def binSort (adapter : Bool) (ks : List Token) : List (Nat × Token) :=
  ((List.range ks.length).zip ks).foldl (fun l x => binInsert adapter x l) []

/-- Experts of a batch in ascending order. -/
def expertsOf (ks : List Token) : List Nat := (ks.map (fun k => k.expert)).foldl (fun l e =>
  if l.contains e then l else l.filter (· < e) ++ e :: l.filter (e < ·)) []

/-- Rows of a half, padding of adapter bins included (R230). -/
def binRows (adapter : Bool) (ks : List Token) : Nat :=
  if adapter then ((expertsOf ks).map (fun e => cdiv (ks.filter (fun k => k.expert = e)).length 8 * 8)).sum else ks.length

/-- The entries presented (R230). -/
def binEntries (b : Bin) : List (Option (Nat × Token)) :=
  let xs := binSort b.adapter b.filling
  if !b.adapter then xs.map some
  else
    let runs := (expertsOf b.filling).map (fun e => (xs.filter (fun x => x.2.expert = e)).map some)
    (runs.map (fun r => r ++ List.replicate (cdiv r.length 8 * 8 - r.length) none)).flatten

/-! ## Firing (R214, R215) -/

/-- Rank of a RANKW (R209). -/
def rankIdx (w : BitVec 16) : BitVec 3 := w.extractLsb' 13 3

/-- A bin's firing. -/
def binFiring (key : Nat) (c : BitVec 3) (n : Nat) (tag : Nat) (attempt : Nat) (x : BinFire) (rels : List Release) : Firing :=
  { node := n, ctx := c, tag := BitVec.ofNat 20 tag, rels := rels, bin := some x,
    batch := if x.entries.isEmpty then none else some { key := key, batch := tag, attempt := attempt } }

/-- Tokens of a firing. -/
def fireToks (x : BinFire) : List Token := x.entries.filterMap (fun e => e.map (·.2))

/-- Fire what a bin holds: the half is retained, the other one fills. An empty half makes a zero-count completion. -/
def fireBin (s : State) (t : Nat) (c : BitVec 3) (n : Nat) (full stepEnd : Bool) : State :=
  let key := nodeKey c n
  let b := binOf s t key
  let x : BinFire := { half := b.half, entries := binEntries b, full := full, stepEnd := stepEnd }
  let rels := b.filling.map (·.rel) ++ b.rels
  let s1 := readyFiring s t (binFiring key c n b.batches 1 x rels)
  if b.filling.isEmpty then modBin s1 t key (fun b => { b with batches := b.batches + 1, rels := [] })
  else
    let h : BinHalf := { half := b.half, batch := b.batches, fire := x,
                         waits := b.filling.map (fun k => (k.tag, k.seq, k.rankw)) }
    modBin s1 t key (fun b => { b with batches := b.batches + 1, rels := [], filling := [], half := 1 - b.half,
                                       retained := b.retained ++ [h] })

/-- The half that takes the next token. -/
def freeHalf (b : Bin) : Option Nat :=
  if !b.retained.any (fun h => h.half = b.half) then some b.half
  else if !b.retained.any (fun h => h.half = 1 - b.half) then some (1 - b.half)
  else none

/-- The payload of a data token. -/
def dataOf (k : Token) : Burst :=
  match k.body with
  | .burst b => b
  | .sparse b => b
  | _ => {}

/-- Copy a sown token into the next slot of half `h`. -/
def binPut (s : State) (t : Nat) (r : NodeRec) (c : BitVec 3) (n h : Nat) (k : Token) : State :=
  let key := nodeKey c n
  let b := binOf s t key
  let s1 := modTile s t (fun x => wrScratch x (slotPos (binBase r) b.cap h b.filling.length) ((dataOf k).bytes.take 2048))
  modBin s1 t key (fun b => { b with half := h, filling := b.filling ++ [k], received := b.received + 1,
                                     fillSince := if b.filling.isEmpty then s.time else b.fillSince })

/-- A poison at a bin counts, takes no slot and goes on to its combine unit (R295). -/
def binPoison (s : State) (t : Nat) (k : Token) (p : Poison) : State :=
  toCombine s t { ctx := k.ctx, tag := k.tag, node := k.dest.node.toNat } k 2 (.poison (hop p))
    (mkRelease (sysScope s 2) (BitVec.ofNat 11 t) k.rel.clock)

/-- Remove a token from a tile's store. -/
def unstore (s : State) (t : Nat) (f : Flight) : State := modTile s t (fun x => { x with store := dropFirst (· = f) x.store })

/-- A sown token enters a bin; a half that is full fires, an adapter bin's also when the next token's rows do not fit
(R214, R230; log 21). -/
def binToken (s : State) (t : Nat) (r : NodeRec) (c : BitVec 3) (n : Nat) (f : Flight) : State :=
  let key := nodeKey c n
  let b := binOf s t key
  if !b.filling.isEmpty && b.cap < binRows b.adapter (b.filling ++ [f.tok]) then fireBin s t c n false false
  else match freeHalf b with
    | none => s
    | some h =>
      let s1 := binPut (unstore s t f) t r c n h f.tok
      let b1 := binOf s1 t key
      if b1.cap ≤ binRows b1.adapter b1.filling then fireBin s1 t c n true false else s1

/-- The tokens of the store that a bin may take, in order of arrival. -/
def binWaiting (s : State) (t : Nat) (c : BitVec 3) (n : Nat) (q : Body → Bool) : List Flight :=
  (tileOf s t).store.filter (fun f => f.tok.ctx = c && f.tok.dest.node.toNat = n && q f.tok.body)

/-- An event at a bin of a tile's current context. -/
def binEvent (f : State → Nat → BitVec 3 → Nat → NodeRec → State) (s : State) : Host.Outcome State Fault Refusal :=
  onEvent argNN (fun (t, n) s =>
    let c := (tileOf s t).ctx
    match tileRuns s t, nodeInstr s t c n with
    | true, some (.nodeBin r) => f s t c n r
    | _, _ => s) s

/-- `BIN_TOKEN_ARRIVE` (R214, R295, R351). -/
def execBinTokenArrive (s : State) : Host.Outcome State Fault Refusal :=
  binEvent (fun s t c n r =>
    match binWaiting s t c n (fun b => match b with | .poison _ => true | _ => false) with
    | f :: _ =>
      match f.tok.poison? with
      | some p =>
        let s1 := binPoison (unstore s t f) t f.tok p
        let key := nodeKey c n
        if (afind (tileOf s t).bins key).isNone then s1 else modBin s1 t key (fun b => { b with received := b.received + 1 })
      | none => s
    | [] =>
      match binWaiting s t c n (fun b => match b with | .burst _ => true | .sparse _ => true | _ => false) with
      | f :: _ => binToken s t r c n f
      | [] => s) s

/-- `BIN_TIMER_EXPIRE` (R214, R200). -/
def execBinTimerExpire (s : State) : Host.Outcome State Fault Refusal :=
  binEvent (fun s t c n _ =>
    let b := binOf s t (nodeKey c n)
    if (tileLaunch s t).det || b.timer = 0 || b.filling.isEmpty || !due s b.fillSince b.timer then s
    else fireBin s t c n false false) s

/-- `BIN_NOTICE`: a notice is counted and consumed (R219, R221). -/
def execBinNotice (s : State) : Host.Outcome State Fault Refusal :=
  binEvent (fun s t c n _ =>
    match binWaiting s t c n (fun b => match b with | .notice _ => true | _ => false) with
    | [] => s
    | f :: _ =>
      match f.tok.body with
      | .notice w =>
        modBin (unstore s t f) t (nodeKey c n) (fun b =>
          { b with notices := amod b.notices (w.extractLsb' 0 16).toNat 0 (· + 1),
                   noticed := b.noticed + (w.extractLsb' 16 24).toNat, rels := b.rels ++ [f.tok.rel] })
      | _ => s) s

/-- `BIN_STEP_END_FIRING`: once the notices and the tokens they count are all there (R214, R221). -/
def execBinStepEndFiring (s : State) : Host.Outcome State Fault Refusal :=
  binEvent (fun s t c n r =>
    let key := nodeKey c n
    match afind (tileOf s t).bins key with
    | none => s
    | some b =>
      let es := ownEntries s t c n
      if b.stepFired || es.any (fun e => aget b.notices e 0 < binNote r) || b.received < b.noticed then s
      else
        let s1 := if !b.filling.isEmpty || b.received = 0 then fireBin s t c n false true else s
        modBin s1 t key (fun b => { b with stepFired := true })) s

/-! ## The node (R351, R352) -/

/-- Entry i of a table: header, AUX, slot; 32 bytes. -/
def entryBytes (e : Option (Nat × Token)) : List Byte :=
  match e with
  | none => List.replicate 24 0 ++ bytesLE 2 0xFFFF ++ List.replicate 6 0
  | some (i, k) => padTo k.header 16 ++ bytesLE 8 (burstAux (dataOf k)) ++ bytesLE 2 i ++ List.replicate 6 0

/-- Entry j of a row-block table. -/
def blockBytes (l : Launch) (es : List (Option (Nat × Token))) (j : Nat) : List Byte :=
  let e := (((es.drop (8 * j)).head?).join.map (fun x => x.2.expert)).getD 0
  let d := dirOf l e
  bytesLE 8 d.waddr.toNat ++ bytesLE 1 d.arank.toNat ++ [0] ++ bytesLE 2 e ++ bytesLE 4 (8 * j)

/-- The batch descriptor (R352). -/
def binDesc (r : NodeRec) (b : Bin) (x : BinFire) : Word :=
  BitVec.ofNat 64 ((r.literal.extractLsb' 8 24).toNat <<< 32 ||| (b.cap - 1) <<< 13 ||| (if b.adapter then 1 else 0) <<< 12
    ||| (if x.stepEnd then 1 else 0) <<< 11 ||| (if x.full then 1 else 0) <<< 10 ||| x.half <<< 9 ||| x.entries.length)

/-- Write the tables of a fired half; an entry table has CAP entries, and padding rows past them have none (log 21). -/
def binTables (s : State) (t : Nat) (r : NodeRec) (b : Bin) (x : BinFire) : State :=
  let base := binBase r
  let es := x.entries
  modTile s t (fun tl =>
    let t1 := wrScratch tl (entryPos base b.cap x.half 0) ((es.take b.cap).flatMap entryBytes)
    if b.adapter then
      wrScratch t1 (blockPos base b.cap x.half) ((List.range (cdiv es.length 8)).flatMap (blockBytes (tileLaunch s t) es))
    else t1)

/-- `bin`: a fired half is described and its descriptor sent (R351, R352). -/
def execNodeBin (r : NodeRec) (s : State) : Host.Outcome State Fault Refusal :=
  runNode false false (fun s t f =>
    match f.bin with
    | none => nodeFault s t f cIllegal
    | some x =>
      let b := binOf s t (nodeKey f.ctx f.node)
      let s1 := if x.entries.isEmpty then s else binTables s t r b x
      let ch := (((fireToks x).head?).map (·.chan)).getD 4
      emitTo s1 t f { chan := ch, tag := f.tag, seq := 0, rankw := 0, body := .scalar (binDesc r b x) } (bothDests r)) s

/-! ## Replay (R301, R302) -/

/-- The firing descends from this batch. -/
def ofBatch (key batch : Nat) (x : Option BatchRef) : Bool := x.any (fun r => r.key = key && r.batch = batch)

/-- Stop everything that descends from a batch: codelets and other firings, their requests, matrix work and unsent sends,
descending tokens of the tile's own store, and those still on their way to it. -/
def dropBatch (s : State) (t key batch : Nat) : State :=
  let q := ofBatch key batch
  let tl := tileOf s t
  let ps := (tl.busy.filter (fun f => q f.batch)).map (·.party)
  let ks := (List.range 4).filter (fun k => match slotFin k with
    | some k => (tl.slots[k]).phase ≠ .free && q (tl.slots[k]).firing.batch
    | none => false)
  let own (f : Flight) : Bool := q (batchOf t f.tok) && f.tok.dest.tile.toNat = t
  let s1 := { s with reqs := s.reqs.filter (fun x => !(x.tile = t && (x.slot.any ks.contains || (x.dest = .node && ps.contains x.pnum)))),
                     net := s.net.filter (fun f => !own f) }
  modTile (pruneHeld s1) t (fun x =>
    { x with ready := x.ready.filter (fun f => !q f.batch), busy := x.busy.filter (fun f => !q f.batch),
             store := x.store.filter (fun f => !own f), counts := x.counts.filter (fun p => !q p.2.batch),
             sticky := x.sticky.filter (fun p => !q (batchOf t p.2)), runs := x.runs.filter (fun y => !q y.firing.batch),
             mat := x.mat.filter (fun m => !q m.firing.batch),
             slots := x.slots.mapFinIdx (fun i y _ => if ks.contains i then {} else y) })

/-- Each token of a batch goes to its combine unit as poison; its half is free again. -/
def giveUpBatch (s : State) (t : Nat) (c : BitVec 3) (n : Nat) (h : BinHalf) (code : BitVec 8) : State :=
  let s1 := (fireToks h.fire).foldl (fun s k =>
    let f : Firing := { ctx := c, tag := k.tag, node := n }
    toCombine s t f k 2 (.poison (mkPoison s t f code)) (mkRelease (sysScope s 2) (BitVec.ofNat 11 t) [])) s
  modBin s1 t (nodeKey c n) (fun b => { b with retained := b.retained.filter (fun y => y.half ≠ h.half) })

/-- An uncorrectable word lies in these scratchpad bytes. -/
def badIn (tl : Tile) (a n : Nat) : Bool := tl.badWords.any (fun k => k < 2 ^ 32 && a < k * 16 + 16 && k * 16 < a + n)

/-- An uncorrectable word lies in the half itself or in the weights of a STATE 1 entry of the batch (R302). -/
def batchBad (s : State) (t : Nat) (r : NodeRec) (b : Bin) (h : BinHalf) : Bool :=
  let tl := tileOf s t
  let base := binBase r
  let ks := fireToks h.fire
  badIn tl (slotPos base b.cap h.half 0) (ks.length * 2048)
    || badIn tl (entryPos base b.cap h.half 0) (min b.cap h.fire.entries.length * 32)
    || (b.adapter && badIn tl (blockPos base b.cap h.half) (cdiv h.fire.entries.length 8 * 16))
    || (expertsOf ks).any (fun e => let d := dirOf (tileLaunch s t) e; d.state = 1 && badIn tl d.waddr.toNat d.wbytes)

/-- Fire a retained batch again with the same tag (R301, R352). -/
def refire (s : State) (t : Nat) (c : BitVec 3) (n : Nat) (h : BinHalf) : State :=
  let key := nodeKey c n
  let hdr := bytesLE 4 (n ||| (h.fired + 1) <<< 12 ||| (fireToks h.fire).length <<< 16)
  let p : Poison := mkPoison s t { ctx := c, node := n, tag := BitVec.ofNat 20 h.batch } 0
  let s1 := appendLog s (tileOf s t).launch true (faultRecord 5 p.code n t c.toNat 0 [] hdr)
  let s2 := modBin s1 t key (fun b => { b with retained := b.retained.map (fun y =>
    if y.half = h.half then { y with fired := y.fired + 1 } else y) })
  readyFiring s2 t (binFiring key c n h.batch (h.fired + 1) h.fire ((fireToks h.fire).map (·.rel)))

/-- `BATCH_REPLAY` (R301, R302). -/
def execBatchReplay (s : State) : Host.Outcome State Fault Refusal :=
  binEvent (fun s t c n r =>
    let key := nodeKey c n
    let b := binOf s t key
    match b.replayDue with
    | [] => s
    | (batch, p) :: due =>
      let s1 := modBin s t key (fun b => { b with replayDue := due })
      match b.retained.find? (fun h => h.batch = batch) with
      | none => s1
      | some h =>
        let s2 := dropBatch s1 t key batch
        if p.code = cUncorrectable && batchBad s t r b h then giveUpBatch s2 t c n h cUncorrectable
        else if 4 ≤ h.fired then giveUpBatch s2 t c n h cReplayExhausted
        else refire s2 t c n h) s

end Sys2Proof.Machine
end

