-- ==== Sys2Proof/Machine/Packets.lean ====
section
/-! DEFINITION. Host access to kick pages (R101, R102, R112) and the packets of a queue (R106 to R120) but LAUNCH. -/

namespace Sys2Proof.Machine

open Sys2Proof

/-! ## Validation (R107, R108) -/

/-- An address field: an IA below 2^52, aligned. -/
def addrOk (a align : Nat) : Bool := a < 2 ^ 52 && a % align = 0

/-- The header and CSIG of a packet. -/
def pktHeadOk (b : List Byte) : Bool :=
  let h := lnat b 0 4
  h / 2 ^ 13 = 0 && bits h 10 9 ≠ 3 && bits h 12 11 ≠ 3 && addrOk (lnat b 56 8) 8

/-- The OP and VALUE of a signal operation. -/
def sigOpOk (op : Nat) (val : Nat) : Bool := op ≤ 2 && (op = 0 || val < 2 ^ 63)

/-- The body of a packet by its type. -/
def pktBodyOk (s : State) (b : List Byte) (ty : Nat) : Bool :=
  let q (o : Nat) : Nat := lnat b o 8
  match ty with
  | 1 => zeroes b 8 48
  | 2 => addrOk (q 8) 256 && zeroes b 16 40
  | 3 =>
    let n := q 24
    addrOk (q 8) 1 && addrOk (q 16) 1 && 1 ≤ n && n ≤ 0x10000000000 && zeroes b 32 24
      && !extMeet (iaNorm s (q 8), n) (iaNorm s (q 16), n)
  | 4 => addrOk (q 8) 8 && sigOpOk (lnat b 24 1) (q 16) && zeroes b 25 31
  | 5 =>
    let sg := [q 8, q 16, q 24, q 32]
    sg.all (addrOk · 8) && sg.any (· ≠ 0) && q 40 < 2 ^ 63 && lnat b 52 1 ≤ 2 && zeroes b 53 3
  | 6 => addrOk (q 8) 8 && 1 ≤ lnat b 48 1 && lnat b 48 1 ≤ 4 && zeroes b 49 7
  | 7 => addrOk (q 8) 8 && addrOk (q 24) 8 && sigOpOk (lnat b 40 1) (q 32) && zeroes b 41 15
  | 8 => addrOk (q 8) 8 && lnat b 24 1 ≤ 5 && 1 ≤ lnat b 25 1 && zeroes b 26 30
  | 9 => 1 ≤ lnat b 8 2 && 1 ≤ lnat b 10 1 && lnat b 10 1 ≤ 64 && zeroes b 11 45
  | 10 => addrOk (q 8) 8 && lnat b 53 1 ≤ 4 && zeroes b 54 2
  | 11 => addrOk (q 8) 8 && zeroes b 16 40
  | _ => false

/-- A packet dispatched inside a LOOP body may be no LOOP or SWITCH (R108). -/
def inBody (q : Queue) : Bool :=
  match q.loopIdx with
  | some i => i < q.dptr && q.dptr ≤ i + q.loopBody
  | none => false

/-- R108 as a whole. -/
def pktOk (s : State) (q : Queue) (b : List Byte) : Bool :=
  let ty := lnat b 0 1
  pktHeadOk b && pktBodyOk s b ty && !((ty = 9 || ty = 10) && inBody q)

/-! ## Dispatch (R109) -/

/-- The queue may dispatch its next packet (R109, R141). -/
def mayDispatch (q : Queue) : Bool :=
  q.slot.isSome && q.state = .active && q.draining.isNone && q.dptr < q.wptr && q.pkts.all (·.async)

/-- A packet leaves the ring: DPTR advances, the packet is in flight. -/
def startPkt (s : State) (qid : Nat) (b : List Byte) (async : Bool) : State × Pkt :=
  let (u, s1) := newId s
  let q := queueOf s1 qid
  let p : Pkt := { idx := q.dptr, uid := u, bytes := b, start := s.time, async := async }
  (setQueue s1 qid { q with dptr := q.dptr + 1, pkts := q.pkts ++ [p], step := if async then q.step else 0,
                            pktsave := if async then q.pktsave else b }, p)

/-- Change a packet in flight. -/
def modPkt (s : State) (qid : Nat) (p : Pkt) (f : Pkt → Pkt) : State :=
  modQueue s qid (fun q => { q with pkts := q.pkts.map (fun x => if x.uid = p.uid then f x else x) })

/-- A packet ends with a status; where its signal operations have to wait, it keeps the status until they are performed. -/
def finishPkt (s : State) (qid : Nat) (p : Pkt) (status : Nat) : State :=
  match endPkt s qid p status with
  | .done s1 => s1
  | .wait w => keepWaits (modPkt s qid p (fun p => { p with status := some status })) w

/-- Carry out an operation of a packet that completes with it; until it can be performed the packet is tried again. -/
def completeBy (s : State) (qid : Nat) (p : Pkt) (r : SRes) : State :=
  match r with
  | .ok s1 => finishPkt s1 qid p 0
  | .fail s1 e => finishPkt s1 qid p e
  | .wait w => keepWaits s w

/-- The packet of a queue that has begun and does not run on its own. -/
def syncPkt (q : Queue) : Option Pkt := q.pkts.find? (fun p => !p.async && p.launch = 0)

/-- Dispatch the packet at DPTR when it is of this type: an unreadable slot ends with ACCESS_FAULT, an invalid packet with
PACKET_INVALID, and a reserved type is found invalid by whichever packet event meets it (R108, R111). -/
def dispatchNew (ty : Nat) (async : Bool) (run : State → Nat → Queue → Pkt → State) (qid : Nat) (s0 : State) : State :=
  let s := updRptr (modQueue s0 qid settleQueue) qid
  let q := queueOf s qid
  if !mayDispatch q then s
  else
    match memRead (asAsker s (askQueue qid q.dptr)) q.asid (q.asid = 0) q.func (q.base.toNat + q.dptr % 2 ^ q.logsz * 64) 64 with
    | .fault s1 _ _ => let (s2, p) := startPkt s1 qid [] false; finishPkt s2 qid p 9
    | .ok s1 b =>
      if (b.getD 1 0).getLsbD 0 && !q.pkts.isEmpty then s
      else
        let t := lnat b 0 1
        if t ≠ ty && 1 ≤ t && t ≤ 11 then s
        else if !pktOk s1 q b then let (s2, p) := startPkt s1 qid b false; finishPkt s2 qid p 7
        else let (s2, p) := startPkt s1 qid b async; run (asAsker s2 (askQueue qid p.idx)) qid (queueOf s2 qid) p
    | .held w _ _ => keepWaits s w
    | .stall w => keepWaits s w

/-- Go on with the packet that has begun: a status it has, the end that a RESET gives it (R112), or what is left of it. -/
def resumePkt (ty : Nat) (run : State → Nat → Queue → Pkt → State) (qid : Nat) (p : Pkt) (s : State) : State :=
  let q := queueOf s qid
  if q.draining.isSome then finishPkt s qid p 6
  else match p.status with
    | some e => finishPkt s qid p e
    | none => if lnat p.bytes 0 1 = ty && q.slot.isSome then run (asAsker s (askQueue qid p.idx)) qid q p else s

/-- One event of a packet type at a queue. -/
def dispatch (ty : Nat) (async : Bool) (run : State → Nat → Queue → Pkt → State) (qid : Nat) (s : State) : State :=
  if (afind s.queues qid).isNone then s
  else match syncPkt (queueOf s qid) with
    | some p => resumePkt ty run qid p s
    | none => dispatchNew ty async run qid s

/-- A field of a packet. -/
def pq (p : Pkt) (o : Nat) : Nat := lnat p.bytes o 8

/-- `NOP` packet. -/
def execPacketNop (s : State) : Host.Outcome State Fault Refusal :=
  onEvent argN (dispatch 1 false (fun s qid _ p => finishPkt s qid p 0)) s

/-- `SIGNAL` packet (R113, R117). -/
def execSignal (s : State) : Host.Outcome State Fault Refusal :=
  onEvent argN (dispatch 4 false (fun s qid q p =>
    completeBy s qid p (sigOp s q (pq p 8) (lnat p.bytes 24 1) (pq p 16)))) s

/-- `WRITE` packet: one step (R117). -/
def execWrite (s : State) : Host.Outcome State Fault Refusal :=
  onEvent argN (dispatch 6 false (fun s qid q p =>
    completeBy s qid p (pktStore s q (pq p 8) ((p.bytes.drop 16).take (8 * lnat p.bytes 48 1))))) s

/-- `TIMESTAMP` packet: the time base when the packet starts (R117). -/
def execTimestamp (s : State) : Host.Outcome State Fault Refusal :=
  onEvent argN (dispatch 11 false (fun s qid q p => completeBy s qid p (pktStore s q (pq p 8) (bytesLE 8 p.start)))) s

/-- `WRITE_SIGNAL` packet: step 0 stores, step 1 signals; between them the queue may be unbound (R117, R120). -/
def execWriteSignal (s : State) : Host.Outcome State Fault Refusal :=
  onEvent argN (dispatch 7 false (fun s qid q p =>
    if p.step = 1 then completeBy s qid p (sigOp s q (pq p 24) (lnat p.bytes 40 1) (pq p 32))
    else match pktStore s q (pq p 8) (bytesLE 8 (pq p 16)) with
      | .ok s1 => modQueue (modPkt s1 qid p (fun p => { p with step := 1 })) qid (fun q => { q with step := 1 })
      | r => completeBy s qid p r)) s

/-! ## WAIT (R117, R120, R143) -/

/-- What an evaluation of a WAIT finds: its outcome if it has one, and none while a signal cannot be read yet. -/
def waitEval (s : State) (q : Queue) (p : Pkt) : State × Option Nat :=
  let sg := [pq p 8, pq p 16, pq p 24, pq p 32].filter (· ≠ 0)
  let go := sg.foldl (fun (acc : State × Except Nat (List Int)) a =>
    match acc with
    | (s, .error e) => (s, .error e)
    | (s, .ok vs) =>
      match memRead s q.asid (q.asid = 0) q.func a 8 with
      | .ok s1 b => (s1, .ok (vs ++ [sigInt (leNat b)]))
      | .fault s1 c _ => (s1, .error (accStatus c))
      | .held w _ _ => (keepWaits s w, .error 0)
      | .stall w => (keepWaits s w, .error 0)) (s, .ok [])
  match go with
  | (s1, .error e) => (s1, if e = 0 then none else some e)
  | (s1, .ok vs) =>
    let v := sigInt (pq p 40)
    let met := match lnat p.bytes 52 1 with
      | 0 => vs.all (· = v)
      | 1 => vs.all (· ≤ v)
      | _ => vs.any (· = v)
    (s1, if vs.any (· < 0) then some 5 else if met then some 0 else none)

/-- TIMEOUT has passed since the start of a WAIT. -/
def waitOver (s : State) (p : Pkt) : Bool :=
  let t := lnat p.bytes 48 4
  t ≠ 0 && due s p.start (t * 1000)

/-- An outcome of a WAIT ends it, or is kept while the queue is unbound (R120, R143). -/
def waitOutcome (s : State) (qid : Nat) (p : Pkt) (e : Nat) : State :=
  let q := queueOf s qid
  if q.slot.isSome then finishPkt s qid p e
  else
    match p.outcome with
    | some _ => s
    | none =>
      let s1 := modPkt s qid p (fun p => { p with outcome := some e })
      if q.state = .active then setPendBit s1 qid true else s1

/-- One evaluation of a WAIT in flight. -/
def evalWait (s : State) (qid : Nat) (p : Pkt) : State :=
  let (s1, r) := waitEval (asAsker s (askQueue qid p.idx)) (queueOf s qid) p
  match r with
  | some e => waitOutcome s1 qid p e
  | none => if waitOver s1 p then waitOutcome s1 qid p 8 else s1

/-- `WAIT` packet (R117). -/
def execWait (s : State) : Host.Outcome State Fault Refusal :=
  onEvent argN (dispatch 5 false (fun s qid _ p => evalWait s qid p)) s

/-- A WAIT that has begun and has no status yet goes on (R117, R120). -/
def waitOn (go : State → Nat → Pkt → State) (qid : Nat) (s : State) : State :=
  match syncPkt (queueOf s qid) with
  | none => s
  | some p =>
    if lnat p.bytes 0 1 ≠ 5 then s
    else if (queueOf s qid).draining.isSome then finishPkt s qid p 6
    else match p.status, p.outcome with
      | some e, _ => finishPkt s qid p e
      | none, some e => if (queueOf s qid).slot.isSome then finishPkt s qid p e else s
      | none, none => go s qid p

/-- `WAIT_EVALUATE` (R117, R143). -/
def execWaitEvaluate (s : State) : Host.Outcome State Fault Refusal := onEvent argN (waitOn evalWait) s

/-- `WAIT_TIMEOUT_EXPIRE` (R117). -/
def execWaitTimeoutExpire (s : State) : Host.Outcome State Fault Refusal :=
  onEvent argN (waitOn (fun s qid p => if waitOver s p then waitOutcome s qid p 8 else s)) s

/-! ## COND, SWITCH, LOOP (R118, R119) -/

/-- Read the word of a COND or SWITCH and owe a skip. -/
def skipBy (n : Int → Nat) (s : State) (qid : Nat) (q : Queue) (p : Pkt) : State :=
  match memRead s q.asid (q.asid = 0) q.func (pq p 8) 8 with
  | .ok s1 b => completeBy s qid p (.ok (modQueue s1 qid (fun q => { q with skip := n (sigInt (leNat b)) })))
  | .fault s1 c _ => completeBy s qid p (.fail s1 (accStatus c))
  | .held w _ _ => keepWaits s w
  | .stall w => keepWaits s w

/-- A signed comparison by CC (R107). -/
def pktCc (cc : Nat) (a b : Int) : Bool :=
  match cc with
  | 0 => a = b | 1 => a ≠ b | 2 => a < b | 3 => a ≤ b | 4 => b < a | _ => b ≤ a

/-- `COND` packet (R118). -/
def execCond (s : State) : Host.Outcome State Fault Refusal :=
  onEvent argN (dispatch 8 false (fun s qid q p =>
    skipBy (fun w => if pktCc (lnat p.bytes 24 1) w (sigInt (pq p 16)) then 0 else lnat p.bytes 25 1) s qid q p)) s

/-- The skip count a SWITCH selects. -/
def switchSkip (p : Pkt) (w : Int) : Nat :=
  match (List.range (lnat p.bytes 53 1)).find? (fun i => sigInt (pq p (16 + 8 * i)) = w) with
  | some i => lnat p.bytes (48 + i) 1
  | none => lnat p.bytes 52 1

/-- `SWITCH` packet (R118). -/
def execSwitchPacket (s : State) : Host.Outcome State Fault Refusal :=
  onEvent argN (dispatch 10 false (fun s qid q p => skipBy (switchSkip p) s qid q p)) s

/-- `LOOP` packet: its body runs COUNT times (R119). -/
def execLoopPacket (s : State) : Host.Outcome State Fault Refusal :=
  onEvent argN (dispatch 9 false (fun s qid _ p =>
    finishPkt (modQueue s qid (fun q =>
      { q with loopIdx := some p.idx, loopRem := lnat p.bytes 8 2, loopBody := lnat p.bytes 10 1 })) qid p 0)) s

/-! ## COPY (R116) -/

/-- `COPY` packet: the copy starts. -/
def execCopy (s : State) : Host.Outcome State Fault Refusal :=
  onEvent argN (dispatch 3 true (fun s _ _ _ => s)) s

/-- How a copy stands after a turn. -/
inductive CopyRes where
  | done (s : State)
  | fault (s : State)
  | part (s : State) (copied : Nat)

/-- Copy ascending lines up to byte `stop`; a page that faults stops the copy with nothing written at or above it (R116). -/
def copyLines (q : Queue) (src dst len stop : Nat) : Nat → State → Nat → CopyRes
  | 0, s, n => .part s n
  | fuel + 1, s, n =>
    if len ≤ n then .done s
    else if stop ≤ n then .part s n
    else
      let m := min (len - n) (min (128 - (dst + n) % 128) (65536 - (src + n) % 65536))
      match memRead s q.asid (q.asid = 0) q.func (src + n) m with
      | .fault s1 _ _ => .fault s1
      | .held w _ _ => .part (keepWaits s w) n
      | .stall w => .part (keepWaits s w) n
      | .ok s1 b =>
        match memWrite s1 q.asid (q.asid = 0) q.func (dst + n) b with
        | .fault s2 _ _ => .fault s2
        | .ok s2 _ => copyLines q src dst len stop fuel s2 (n + m)
        | .held w _ _ => .part (keepWaits s w) n
        | .stall w => .part (keepWaits s w) n

/-- The COPY packets of a queue in flight. -/
def copiesOf (q : Queue) : List Pkt := q.pkts.filter (fun p => p.async && lnat p.bytes 0 1 = 3)

/-- The copy engine's next turn is this queue's: it is the next after the last that has a copy which runs (R116, log 65). -/
def copyTurn (s : State) (qid : Nat) : Bool :=
  let from_ (q : Nat) : Nat := (q + 4096 - (s.copyLast + 1)) % 4096
  s.queues.all (fun x => x.2.draining.isSome || (copiesOf x.2).all (fun p => p.status.isSome) || from_ qid ≤ from_ x.1)

/-- `COPY_COMPLETE`: a turn of the copy engine, 64 KiB of a COPY, which ends with the turn that finishes it (R116). -/
def execCopyComplete (s : State) : Host.Outcome State Fault Refusal :=
  onEvent argNN (fun (qid, idx) s =>
    let q := queueOf s qid
    match (copiesOf q).find? (fun p => p.idx = idx) with
    | none => s
    | some p =>
      if q.draining.isSome then finishPkt s qid p 6
      else match p.status with
        | some e => finishPkt s qid p e
        | none =>
          if !copyTurn s qid then s
          else
            let s1 := { asAsker s (askQueue qid idx) with copyLast := qid }
            match copyLines q (pq p 8) (pq p 16) (pq p 24) (p.copied + 65536) 2050 s1 p.copied with
            | .done s2 => finishPkt (modPkt s2 qid p (fun p => { p with copied := pq p 24 })) qid p 0
            | .fault s2 => finishPkt s2 qid p 9
            | .part s2 n => modPkt s2 qid p (fun p => { p with copied := n })) s

/-! ## Kick pages and control words (R101, R102, R112) -/

/-- Count a dropped write in a function's control page (R16, R20, R101). -/
def fnErr (s : State) (f : Nat) : State := modFn s f (fun x => { x with errcnt := satInc x.errcnt })

/-- The kick page of a queue id lies in this function's BAR0 (R16): a virtual function has those assigned to it, a physical one
also those assigned to none (log 58). -/
def ownsQid (s : State) (f q : Nat) : Bool :=
  match afind s.qidOwner q with
  | some o => o = f
  | none => f < 2

/-- A host write to a kick page register, with the checks every one of them makes; no host traffic passes a link that is down
(R15). -/
def kickPage (s : State) (f q size : Nat) (go : State → State) : State :=
  if !s.boot.puverUp then s
  else if !ownsQid s f q || size ≠ 8 then fnErr s f
  else if (afind s.queues q).isNone then fnErr s f
  else go s

/-- What a register of a kick page reads (R101). -/
def kickReg (s : State) (q off : Nat) : Word :=
  match afind s.queues q with
  | none => 0
  | some x =>
    match off with
    | 0x10 => BitVec.ofNat 64 (x.state.code + x.status * 256)
    | 0x18 => BitVec.ofNat 64 x.rptr
    | 0x20 => BitVec.ofNat 64 x.dptr
    | 0x28 => BitVec.ofNat 64 x.wptr
    | _ => 0

/-- A host read at a kick page; the spec gives no value before READY, at another size, or at a page that is not the function's: a
free value (log 66). -/
def kickRead (s : State) (f q off size : Nat) : State :=
  if !s.boot.puverUp then s
  else if s.boot.stage = .ready && size = 8 && ownsQid s f q then gotOut s (.kick f q off (kickReg s q off))
  else let (w, s1) := drawFree s; gotOut s1 (.kick f q off w)

/-- A host write at an offset of a kick page that holds no register to write (R101). -/
def kickIgnored (s : State) (f q size : Nat) : State := if s.boot.stage ≠ .ready then s else kickPage s f q size id

def argHost : EvArgs → Option (Nat × Nat × Nat × Word)
  | .host f q n v => some (f, q, n, v)
  | _ => none

/-- `DOORBELL`; before READY it is held (R35, R102). -/
def execDoorbell (s : State) : Host.Outcome State Fault Refusal :=
  onEvent argHost (fun (f, q, n, v) s =>
    if !s.boot.puverUp then s
    else if s.boot.stage ≠ .ready then { s with boot := { s.boot with heldKicks := s.boot.heldKicks ++ [(f, q, n, v)] } }
    else kickPage s f q n (fun s => doorbell s q v.toNat)) s

end Sys2Proof.Machine
end

