-- ==== Sys2Proof/Machine/Stream.lean ====
section
/-! DEFINITION. Streams (R458 to R462): opening, element accesses, slab accesses, closing with dirty-range records
(R75, R76), and the windows of the adaptive thresholds (R286). -/

namespace Sys2Proof.Machine

open Sys2Proof

/-- DIR, SPAD, SLAB and RM of a control word (R459). -/
def strWrite (x : Stream) : Bool := x.ctl.getLsbD 0
def strSpad (x : Stream) : Bool := x.ctl.getLsbD 1
def strRm (x : Stream) : Rm := (Rm.ofCode (x.ctl.extractLsb' 3 3).toNat).getD .rne

/-- A control word is legal (R459). -/
def ctlOk (c : Word) : Bool :=
  c.extractLsb' 6 58 = 0 && (c.extractLsb' 3 3).toNat ≤ 4 && !(c.getLsbD 1 && c.getLsbD 2)
    && (c.extractLsb' 3 3 = 0 || (c.getLsbD 0 && c.getLsbD 2))

/-- Formats that allow compaction (R275). -/
def compactable (fmt : Nat) : Bool := 1 ≤ fmt && fmt ≤ 5

/-- Slot size Z of a buffer (R93, R276). -/
def slotSize (fmt : Nat) (cmp : Bool) : Nat :=
  match efmt fmt with
  | some f => if cmp then 512 + fmtBytes f 4096 else fmtBytes f 4096
  | none => 0

/-- A buffer header from its 64 bytes (R92). -/
def bufHdr (b : List Byte) : BufHdr :=
  { fmt := b.getD 0 0, tags := b.getD 1 0, rows := lnat b 4 4, cols := lnat b 8 4, slabs := lnat b 12 4,
    snap := (List.range 8).map (fun i => BitVec.ofNat 32 (lnat b (24 + 4 * i) 4)) }

/-- A header is well-formed (R92, R93). -/
def hdrOk (b : List Byte) : Bool :=
  let h := bufHdr b
  h.tags.extractLsb' 5 3 = 0 && zeroes b 2 2 && zeroes b 16 8 && zeroes b 56 8 && 1 ≤ h.rows && 1 ≤ h.cols
    && h.slabs = cdiv h.rows 64 * cdiv h.cols 64

/-- What a stream open finds in the header: the header, or the fault (R461). -/
def openHdr (b : List Byte) (len : Nat) : Except (BitVec 8) BufHdr :=
  let h := bufHdr b
  let f := h.fmt.toNat
  if !hdrOk b || (efmt f).isNone || f = 0x0C then .error cIllegal
  else if h.tags.getLsbD 2 && !compactable f then .error cDomain
  else if len < 64 + h.slabs * slotSize f (h.tags.getLsbD 2) then .error cWindowRange
  else .ok h

/-- The clock of a stream with its next access: a stream acquires nothing but at a fence or stream barrier (R234, R238, log 6). -/
def strClock (x : Stream) : Clock := (bumpClock x.clock x.party).2

/-- An issue-stage fault of a stream's access names the stream (R74, R288). -/
def sfault (s : State) (t : Nat) (k : Fin 4) (n : BitVec 4) (code : BitVec 8) : WRes :=
  .fault s { slotPoison s t k code with strm := some n }

/-- A fault of a word names a stream. -/
def WRes.onStream (n : BitVec 4) : WRes → WRes
  | .fault s p => .fault s { p with strm := some n }
  | r => r

/-- Issue an access of a memory stream; POS moves on (R238, R460). -/
def streamReq (s : State) (t : Nat) (k : Fin 4) (sl : Slot) (n : BitVec 4) (a : Formed) (op : ReqOp) (dest : ReqDest)
    (step : Nat) : State :=
  let (i, s1) := newId s
  let x := streamOf s t sl.firing.ctx n
  let c := strClock x
  let s2 := setStream s1 t sl.firing.ctx n { x with clock := c, pos := x.pos + step,
                                                    after := x.after.filter (fun j => s.reqs.any (fun r => r.id = j)) }
  issueReq s2 { id := i, tile := t, ctx := sl.firing.ctx, party := .stream t sl.firing.ctx n, pnum := x.party, addr := a,
                op := op, dest := dest, clock := c, after := x.after, tag := sl.firing.tag,
                node := BitVec.ofNat 12 sl.firing.node, slot := if dest = .none then none else some k.val }

/-- The address at an offset of a memory stream. -/
def streamAt (x : Stream) (off : Nat) : Formed :=
  match x.start with
  | .mem f => f.plus off
  | .spad _ => {}

/-- The clock a stream opens with: a fence or stream barrier since the last close of its number has put it after something (R234). -/
def openClock (x : Stream) : Clock := if x.party = 0 then x.clock else []

/-- Put an opened stream in place; a slab write stream takes its snapshot and writes THSNAP first (R278, R461). -/
def openStream (s : State) (t : Nat) (k : Fin 4) (sl : Slot) (n : BitVec 4) (x : Stream) : WRes :=
  let s2 := setStream s t sl.firing.ctx n x
  if !(slabMode x && strWrite x) then .go s2
  else
    match trackMany t false ((List.range 8).map thUnit) s2 sl.firing with
    | .error e => .fault s (trackPoison s t sl.firing e)
    | .ok (s3, f) =>
      let th := (tileOf s t).th.toList
      let s4 := setStream s3 t f.ctx n { streamOf s3 t f.ctx n with hdr := { x.hdr with snap := th } }
      let sl1 := { sl with firing := f }
      .go (streamReq (setSlot s4 t k sl1) t k sl1 n (streamAt x 24) (.store (th.flatMap (fun v => bytesLE 4 v.toNat))) .none 0)

/-- Read and track the header of a slab stream: bytes 0 to 15 are its fields that `sopen` uses (R248, R461). -/
def openSlab (s : State) (t : Nat) (k : Fin 4) (sl : Slot) (n : BitVec 4) (x : Stream) (a : Formed) : WRes :=
  match memRead (asAsker s sl.firing.party) a.asid ((tileLaunch s t).asid = 0) a.func a.ia.toNat 64 with
  | .fault s1 e _ => .fault s1 { slotPoison s t k e with addr := a.ia.setWidth 64, addrKind := 2, strm := some n }
  | .held w _ _ => .wait (keepWaits s w)
  | .stall w => .wait (keepWaits s w)
  | .ok s1 b =>
    let c := strClock x
    let acc : TrackAcc := { by_ := ⟨x.party, aget c x.party 0, BitVec.ofNat 11 t, sl.firing.tag, some n⟩, clock := c, write := false,
                            atom := none }
    match trackHome s1 (tileOf s t).launch a 16 acc with
    | .error e => .fault s1 { trackPoison s t sl.firing e with strm := some n }
    | .ok s2 => match openHdr b x.len with
      | .error e => sfault s2 t k n e
      | .ok h => openStream s2 t k sl n { x with hdr := h, clock := c }

/-- `sopen sN, [base + off], len, ctl` (R458). -/
def execSopen (w : MWord) (s : State) : Host.Outcome State Fault Refusal :=
  let bad (sl : Slot) : Bool :=
    opVal sl w.data = 0 || 2 ^ 40 < (opVal sl w.data).toNat || !ctlOk (opVal sl w.data2)
  let srcs := [w.base, w.data, w.data2]
  runWordE w.g (fun _ _ sl => bad sl) false srcs [] [] (fun t k sl _ s =>
    let c := sl.firing.ctx
    let ctl := opVal sl w.data2
    let len := (opVal sl w.data).toNat
    let va := effAddr sl w
    if srcs.any (opMark sl) then wfault s t k cNondet
    else if bad sl || (streamOf s t c w.strm).isOpen then wfault s t k cIllegal
    else
      let (p, s1) := newId s
      let x : Stream := { isOpen := true, ctl := ctl, len := len, openTag := sl.firing.tag, party := p,
                          clock := openClock (streamOf s t c w.strm) }
      if ctl.getLsbD 1 then
        if (imageOf s t c).scratch < va.toNat + len then wfault s t k cPartition
        else openStream s1 t k sl w.strm { x with start := .spad va.toNat }
      else fenced sl (fun sl => (withAddr s t k sl (if ctl.getLsbD 0 then .store else .load) va len (fun a =>
        let x := { x with start := .mem a }
        if !ctl.getLsbD 2 then openStream s1 t k sl w.strm x
        else if len < 64 then sfault s t k w.strm cWindowRange
        else if reqOverlaps s sl a 64 then .wait s
        else openSlab s1 t k sl w.strm x a)).onStream w.strm) s) s

/-- The poison a failed stream gives the instruction that issues an access (R294). -/
def failedPoison (x : Stream) : Option Poison := x.failed

/-- The checks every stream access makes, then `go` (R460). -/
def strAccess (s : State) (t : Nat) (k : Fin 4) (sl : Slot) (n : BitVec 4) (write : Bool) (go : Stream → WRes) : WRes :=
  let x := streamOf s t sl.firing.ctx n
  if !x.isOpen || strWrite x ≠ write then wfault s t k cIllegal
  else match failedPoison x with
    | some p => .fault s p
    | none => go x

/-- Track an access of a stream to the scratchpad (R248). -/
def trackStream (s : State) (t : Nat) (x : Stream) (f : Firing) (n : BitVec 4) (write : Bool) (a len : Nat) :
    Except (BitVec 8 × Option TrackBy) State :=
  if !(tileLaunch s t).det then .ok s
  else
    let c := strClock x
    let acc : TrackAcc := { by_ := ⟨x.party, aget c x.party 0, BitVec.ofNat 11 t, f.tag, some n⟩, clock := c, write := write,
                            atom := none }
    match trackBytes tileFull (tileOf s t).track acc a (unitsOf a len) with
    | .error e => .error e
    | .ok m => .ok (modTile s t (fun y => { y with track := m }))

/-- An access of a scratchpad stream; it is performed at once, in its turn (R238). -/
def spadAccess (s : State) (t : Nat) (k : Fin 4) (sl : Slot) (n : BitVec 4) (x : Stream) (base len : Nat) (write : Bool)
    (act : State → State) : WRes :=
  let a := base + x.pos
  if x.after.any (fun j => s.reqs.any (fun r => r.id = j)) then .wait s
  else locked s t k { spad := [(a, len)] } (fun s =>
    let bad (c : BitVec 8) (d : Word) : WRes :=
      let p := { slotPoison s t k c with detail := d, strm := some n }
      let s1 := setStream s t sl.firing.ctx n { x with failed := some p }
      if write then .go s1 else .fault s1 p
    if !write && readsBad (tileOf s t) [] [(a, len)] then bad cUncorrectable 0
    else match trackStream s t x sl.firing n write a len with
      | .error e => bad e.1 (conflictDetail e.2)
      | .ok s1 => .go (act (setStream s1 t sl.firing.ctx n { x with clock := strClock x, pos := x.pos + len })))

/-- `sld.T d, sN` in element mode (R460). -/
def execSld (w : MWord) (s : State) : Host.Outcome State Fault Refusal :=
  let n := w.ty.bytes
  runWord w.g false [] [w.d] [] (fun t k sl _ s =>
    fenced sl (fun sl => strAccess s t k sl w.strm false (fun x =>
      if x.len < x.pos + n then sfault s t k w.strm cWindowRange
      else match x.start with
        | .spad b => spadAccess s t k sl w.strm x b n false (fun s =>
            setSlot s t k (wrT sl w.d (wrTy w.ty (leNat (rdBytes (tileOf s t).scratch (b + x.pos) n))) false))
        | .mem _ =>
          let s1 := streamReq s t k sl w.strm (streamAt x x.pos) (.load n)
            (match tempOf w.d with | some d => .reg k.val d w.ty | none => .none) n
          .go (match tempOf w.d with
            | some d => modSlot s1 t k (fun y => { y with pend := y.pend ++ [(d, s.nextId)] })
            | none => s1))) s) s

/-- `sst.T sN, data` in element mode (R460). -/
def execSst (w : MWord) (s : State) : Host.Outcome State Fault Refusal :=
  let n := w.ty.bytes
  runWord w.g false [w.data] [] [] (fun t k sl _ s =>
    if opMark sl w.data then wfault s t k cNondet
    else fenced sl (fun sl => strAccess s t k sl w.strm true (fun x =>
      let bs := bytesLE n ((opVal sl w.data).toNat % 2 ^ (8 * n))
      if x.len < x.pos + n then sfault s t k w.strm cWindowRange
      else match x.start with
        | .spad b => spadAccess s t k sl w.strm x b n true (fun s =>
            modTile s t (fun tl => wrScratch tl (b + x.pos) bs))
        | .mem _ => .go (streamReq s t k sl w.strm (streamAt x x.pos) (.store bs) .none n))) s) s

/-! ## Slab mode (R461) -/

/-- The checks of a slab access, then `go` with the group base. -/
def slabAccess (s : State) (t : Nat) (k : Fin 4) (sl : Slot) (w : MWord) (write : Bool) (go : Stream → Nat → WRes) : WRes :=
  fenced sl (fun sl => strAccess s t k sl w.strm write (fun x =>
    let g := (opVal sl w.data).toNat
    if g % groupLen w.ty ≠ 0 then wfault s t k cIllegal
    else if (imageOf s t sl.firing.ctx).vregs < g + groupLen w.ty then wfault s t k cPartition
    else if x.hdr.slabs ≤ x.pos then sfault s t k w.strm cWindowRange
    else locked s t k { regs := groupRegs w.ty g } (fun _ => go x g))) s

/-- Where slot POS of a slab stream begins (R93). -/
def slabOff (x : Stream) : Nat := 64 + x.pos * slotSize x.hdr.fmt.toNat (x.hdr.tags.getLsbD 2)

/-- Element i of a slab lies within ROWS and COLS (R93); past them a writer stores +0. -/
def inBuffer (h : BufHdr) (slab i : Nat) : Bool :=
  let sc := cdiv h.cols 64
  slab / sc * 64 + i / 64 < h.rows && slab % sc * 64 + i % 64 < h.cols

/-- A slab with +0 in its padding (R93). -/
def padded (h : BufHdr) (n : Nat) (slab : List Nat) : List Nat :=
  (slab.zip (List.range 4096)).map (fun (v, i) => if inBuffer h n i then v else 0)

/-- The bytes of a slab as a write stream writes it, its survivors and the conditions met (R93, R278). -/
def slabImage (x : Stream) (seed : BitVec 32) (group : List Nat) : List Byte × Option Nat × Fl :=
  let slab := padded x.hdr x.pos group
  let h : BitVec 3 := x.hdr.tags.setWidth 3 &&& 3#3
  let cmp := x.hdr.tags.getLsbD 2
  let (c, f0) := if h = 0 then (slab, {}) else slabFwd h slab
  let keep := if h = 0 && !cmp then List.replicate 4096 true else slabKeep h x.hdr.snap c
  let vs := (applyKeep keep c).map FFmt.f32.decode
  let z := slotSize x.hdr.fmt.toNat cmp
  let surv := if h = 0 then none else some (keep.filter id).length
  match efmt x.hdr.fmt.toNat with
  | none => ([], surv, f0)
  | some fm =>
    match cmp, fm with
    | true, .ty e =>
      let rs := vs.map (fun v => tyCv e (strRm x) seed v)
      (padTo (compactSlab e.bytes keep (rs.map (·.1))) z, surv, f0.or (flsOf rs))
    | _, _ => let (b, f1) := encodeAll fm (strRm x) seed vs; (padTo b z, surv, f0.or f1)

/-- WINDOW of THCTL (R286). -/
def thWindow (c : Word) : Nat := if c.extractLsb' 8 8 = 0 then 16 else (c.extractLsb' 8 8).toNat

/-- Count a transformed slab's survivors in the window of the adaptive loop (R286, R287). -/
def countSlab (s : State) (t : Nat) (surv : Option Nat) : State :=
  match surv with
  | none => s
  | some k =>
    let tl := tileOf s t
    if !tl.thctl.getLsbD 31 || (tileLaunch s t).det then s
    else
      let n := tl.adapt.1 + 1
      let sum := tl.adapt.2 + k
      if n < thWindow tl.thctl then setTile s t { tl with adapt := (n, sum) }
      else setTile s t { tl with adapt := (0, 0), adaptDue := tl.adaptDue ++ [sum / n] }

/-- `sst.T sN, g` in slab mode (R461, R278). -/
def execSstSlab (w : MWord) (s : State) : Host.Outcome State Fault Refusal :=
  runWord w.g false [w.data] [] [] (fun t k sl _ s =>
    if opMark sl w.data then wfault s t k cNondet
    else slabAccess s t k sl w true (fun x g =>
      let tl := tileOf s t
      let regs := groupRegs w.ty g
      if regs.any (fun r => regTag tl r ≠ 0) then wfault s t k cDomain
      else if readsBad tl regs [] then wfault s t k cUncorrectable
      else match trackMany t false (regs.map vregUnit) s sl.firing with
        | .error e => .fault s (trackPoison s t sl.firing e)
        | .ok (s1, f) =>
          let (bs, surv, fl) := slabImage x sl.seed (groupSlab tl w.ty g)
          stickyWord s1 t { sl with firing := f } false fl (fun s sl =>
            .go (countSlab (streamReq (setSlot s t k sl) t k sl w.strm (streamAt x (slabOff x)) (.store bs) .none 1) t surv)))) s

/-- `sld.T sN, g` in slab mode (R461, R277). -/
def execSldSlab (w : MWord) (s : State) : Host.Outcome State Fault Refusal :=
  runWord w.g false [w.data] [] [] (fun t k sl _ s =>
    if opMark sl w.data then wfault s t k cNondet
    else slabAccess s t k sl w false (fun x g =>
      match trackMany t true ((groupRegs w.ty g).map vregUnit) s sl.firing with
      | .error e => .fault s (trackPoison s t sl.firing e)
      | .ok (s1, f) =>
        let sl1 := { sl with firing := f }
        .go (streamReq (setSlot s1 t k sl1) t k sl1 w.strm (streamAt x (slabOff x))
          (.load (slotSize x.hdr.fmt.toNat (x.hdr.tags.getLsbD 2)))
          (.group k.val g w.ty x.hdr.fmt x.hdr.tags) 1))) s

/-! ## Closing (R462, R75, R76) -/

/-- The records of one range of lines, each at most 0xFFFF_FF80 bytes. -/
def rangePieces : Nat → Nat → Nat → List (Nat × Nat)
  | 0, _, _ => []
  | fuel + 1, va, n => if n = 0 then [] else let m := min n 0xFFFFFF80; (va, m) :: rangePieces fuel (va + m) (n - m)

/-- One dirty-range record (R76). -/
def dirtyRecord (va len : Nat) (c : BitVec 3) (n : BitVec 4) (time : Nat) (tag : BitVec 20) (step : BitVec 32) : List Byte :=
  bytesLE 8 (va % 2 ^ 64) ++ bytesLE 4 len ++ bytesLE 1 (n.toNat + 16 * c.toNat) ++ bytesLE 3 0 ++ bytesLE 8 time
    ++ bytesLE 4 tag.toNat ++ bytesLE 4 step.toNat

/-- Deposit a stream's dirty-range records and close it (R462); what its accesses are ordered by stays for the next fence that names
its number. -/
def closeStream (s : State) (t : Nat) (c : BitVec 3) (n : BitVec 4) (tag : BitVec 20) : State :=
  let x := streamOf s t c n
  let tl := tileOf s t
  let recs := x.log.flatMap (fun p =>
    let len := (p.2 - p.1 + 1) * 128
    rangePieces (len / 0xFFFFFF80 + 1) (p.1 * 128) len)
  let s1 := recs.foldl (fun u r => appendLog u tl.launch false (dirtyRecord r.1 r.2 c n s.time tag tl.stepid)) s
  setStream s1 t c n { clock := x.clock, party := x.party }

/-- `sclose d, sN` (R462). -/
def execSclose (w : MWord) (s : State) : Host.Outcome State Fault Refusal :=
  runWord w.g false [] [w.d] [] (fun t k sl _ s =>
    let c := sl.firing.ctx
    let x := streamOf s t c w.strm
    if !x.isOpen then wfault s t k cIllegal
    else if streamBusy s t c w.strm then .wait s
    else
      let s1 := closeStream s t c w.strm sl.firing.tag
      let s2 := setSlot s1 t k (wrT sl w.d (BitVec.ofNat 64 x.pos) false)
      match failedPoison x with
      | some p => .fault s2 p
      | none => .go s2) s

end Sys2Proof.Machine
end

