-- ==== Sys2Proof/Machine/Combine.lean ====
section
/-! DEFINITION. Accesses of sowers and combine units (R206, R218, R224, R231, R294), gate descriptors (R204) and the combine
unit (R222 to R225). -/

namespace Sys2Proof.Machine

open Sys2Proof

/-! ## Accesses of edge units -/

/-- The party number of a sower or combine unit by its id (R231). -/
def edgeParty (unit : Nat) : Nat := 2 ^ 40 + unit

/-- A unit's clock as its next release publishes it: what it has done so far (R234). -/
def edgeClock (clk : Clock) (unit : Nat) : Clock := (bumpClock clk (edgeParty unit)).2

/-- How an access of an edge unit ends: done, a fault with its address, or not possible yet and this is what waits. -/
inductive ERes (α : Type) where
  | ok (s : State) (v : α)
  | fault (s : State) (p : Poison)
  | wait (w : State)

/-- The poison of an edge unit's access. -/
def edgePoison (s : State) (unit : Nat) (h : Nat) (tag : BitVec 20) (code : BitVec 8) (detail : Word) (va : Word) : Poison :=
  { unitPoison s unit code with tag := tag, detail := detail, addr := va, addrKind := 1, step := (launchOf s h).stepid }

/-- Form and track an edge unit's access through its launch's windows and lease filter (R64, R68, R248). -/
def edgeForm (s : State) (h unit : Nat) (clk : Clock) (tag : BitVec 20) (write : Bool) (va : Word) (n : Nat) :
    Except Poison (State × Formed) :=
  let l := launchOf s h
  match formAddr s l l.wins 0xFF (if write then .store else .load) va n with
  | .error c => .error (edgePoison s unit h tag c 0 va)
  | .ok f =>
    let acc : TrackAcc := { by_ := ⟨edgeParty unit, aget clk (edgeParty unit) 0 + 1, BitVec.ofNat 11 unit, tag, none⟩, clock := clk,
                            write := write, atom := none }
    match trackHome s h f n acc with
    | .error e => .error (edgePoison s unit h tag e.1 (conflictDetail e.2) va)
    | .ok s1 => .ok (s1, f)

/-- Read bytes as an edge unit. -/
def edgeRead (s : State) (h unit : Nat) (clk : Clock) (tag : BitVec 20) (va : Word) (n : Nat) : ERes (List Byte) :=
  match edgeForm s h unit clk tag false va n with
  | .error p => .fault s p
  | .ok (s1, f) =>
    match memRead (asAsker s1 (askEdge unit)) f.asid ((launchOf s h).asid = 0) f.func f.ia.toNat n with
    | .ok s2 bs => .ok s2 bs
    | .fault s2 c d => .fault s2 { edgePoison s2 unit h tag c (BitVec.ofNat 64 d) (f.ia.setWidth 64) with addrKind := 2 }
    | .held w _ _ => .wait w
    | .stall w => .wait w

/-- Write bytes as an edge unit. -/
def edgeWrite (s : State) (h unit : Nat) (clk : Clock) (tag : BitVec 20) (va : Word) (bs : List Byte) : ERes Unit :=
  match edgeForm s h unit clk tag true va bs.length with
  | .error p => .fault s p
  | .ok (s1, f) =>
    match memWrite (asAsker s1 (askEdge unit)) f.asid ((launchOf s h).asid = 0) f.func f.ia.toNat bs with
    | .ok s2 _ => .ok s2 ()
    | .fault s2 c d => .fault s2 { edgePoison s2 unit h tag c (BitVec.ofNat 64 d) (f.ia.setWidth 64) with addrKind := 2 }
    | .held w _ _ => .wait w
    | .stall w => .wait w

/-- A lease violation of an edge unit: its launch stops and is ended (R68). -/
def edgeLease (s : State) (h unit : Nat) (p : Poison) : State :=
  if p.code = cLeaseViolation then
    askEnd (modLaunch (logPoison s h 3 p 0xFFFF unit (launchOf s h).ctx []) h (fun l => { l with violated := true })) h 3
  else s

/-- Record a fault of an edge unit's access (R68, R294). -/
def edgeFault (s : State) (h unit : Nat) (p : Poison) : State :=
  edgeLease (logPoison s h 4 p 0xFFFF unit (launchOf s h).ctx []) h unit p

/-! ## Gate descriptors (R204) -/

/-- A gate descriptor. -/
structure Gate where
  d : Nat
  nexp : Nat
  base : Nat
  k : Nat
  adapter : Bool
  sigm : Bool
  norm : Bool
  wfmt : Nat
  cu : Nat
  ctxmask : BitVec 8
  odtag : Nat
  woff : Nat
  outva : Word
  outdest : Word
  outn : Nat
  ofmt : Nat
  rowb : Nat
  tstride : Nat
  affva : Word
  histva : Word

/-- NGATE of an image. -/
def gateCount (img : List Byte) : Nat := lnat img 4 1

/-- Gate g of an image. -/
def gateOf (img : List Byte) (g : Nat) : Gate :=
  let o := 64 + 64 * g
  let m := img.getD (o + 7) 0
  { d := lnat img o 2, nexp := lnat img (o + 2) 2, base := lnat img (o + 4) 2, k := lnat img (o + 6) 1,
    adapter := m.getLsbD 0, sigm := m.getLsbD 1, norm := m.getLsbD 2, wfmt := lnat img (o + 8) 1, cu := lnat img (o + 9) 1,
    ctxmask := img.getD (o + 10) 0, odtag := lnat img (o + 11) 1, woff := lnat img (o + 12) 4, outva := lword img (o + 16),
    outdest := BitVec.ofNat 64 (lnat img (o + 24) 4), outn := lnat img (o + 28) 2, ofmt := lnat img (o + 30) 1,
    rowb := lnat img (o + 32) 4, tstride := lnat img (o + 36) 4, affva := lword img (o + 40), histva := lword img (o + 48) }

/-- The gate of a group. -/
def groupGate (s : State) (g : Group) : Gate := gateOf (sowerOf s g.sower).image g.gate

/-- Key of a gate of the package. -/
def gateKey (sower gate : Nat) : Nat := sower * 64 + gate

/-! ## The weighted sum (R224) -/

/-- Ranks not dropped. -/
def liveRanks (g : Group) : List GroupRank := g.ranks.filter (fun r => r.dropped.isNone)

/-- The weights used: rescaled under RENORM of a dropped rank. -/
def groupWeights (g : Group) : List (BitVec 32) :=
  let ws := (liveRanks g).map (·.weight)
  let q := ws.foldl add32 0
  if g.ranks.any (fun r => r.dropped = some true) && 0 < (v32 q).cmp (.fin false 0 0) then ws.map (fun w => div32 w q) else ws

/-- Element j of the row. -/
def groupElem (g : Group) (j : Nat) : BitVec 32 :=
  ((groupWeights g).zip (liveRanks g)).foldl (fun acc p => fma32 p.1 ((p.2.result.getD []).getD j 0) acc) 0

/-- A group has ended: poison, or every rank that was not dropped accepted. -/
def groupEnded (g : Group) : Bool := g.poison.isSome || g.ranks.all (fun r => r.dropped.isSome || r.result.isSome)

/-! ## Haar slabs (R224, ODTAG 1) -/

/-- Rows of one slab band. -/
def bandRows (c : Combine) (gate : Nat) (tag : BitVec 20) (band : Nat) : List SlabRow :=
  c.slabRows.filter (fun r => r.gate = gate && r.tag = tag && r.seq / 64 = band)

/-- One 64 × 64 slab of a band; rows that are missing or ended in poison are +0. -/
def bandSlab (rs : List SlabRow) (j : Nat) : List Nat :=
  (List.range 64).flatMap (fun i =>
    match (rs.find? (fun r => r.seq % 64 = i)).bind (·.vals) with
    | some v => (List.range 64).map (fun x => (v.getD (64 * j + x) 0).toNat)
    | none => List.replicate 64 0)

/-- Write the slabs of a band, in order. -/
def bandWrite (h unit : Nat) (clk : Clock) (tag : BitVec 20) (outva : Word) (hd : BufHdr) (rs : List SlabRow) (first : Nat) :
    List Nat → State → ERes Unit
  | [], s => .ok s ()
  | j :: t, s =>
    let x : Stream := { hdr := { hd with tags := (hd.tags &&& 0xFC#8) ||| 1#8 }, pos := first + j }
    let (bs, _, _) := slabImage x 0 (bandSlab rs j)
    match edgeWrite s h unit clk tag (outva + BitVec.ofNat 64 (slabOff x)) bs with
    | .ok s1 _ => bandWrite h unit clk tag outva hd rs first t s1
    | .fault s1 p => .fault s1 p
    | .wait w => .wait w

/-- Transform and write one band. -/
def endBand (s : State) (u h : Nat) (g : Gate) (gate : Nat) (tag : BitVec 20) (band : Nat) : Tried :=
  let c := combOf s u
  let unit := combId u
  let rs := bandRows c gate tag band
  let drop (s : State) : State := modComb s u (fun c => { c with
    slabRows := c.slabRows.filter (fun r => !(r.gate = gate && r.tag = tag && r.seq / 64 = band)) })
  match edgeRead s h unit c.clock tag g.outva 64 with
  | .wait w => .wait w
  | .fault s1 p => .done (edgeFault (drop s1) h unit p)
  | .ok s1 b =>
    let hd := bufHdr b
    let cols := cdiv hd.cols 64
    if !hdrOk b || (efmt hd.fmt.toNat).isNone || hd.fmt = 0x0C || (hd.tags.getLsbD 2 && !compactable hd.fmt.toNat) then
      .done (edgeFault (drop s1) h unit (edgePoison s1 unit h tag cIllegal 0 g.outva))
    else if hd.slabs ≤ band * cols then .done (edgeFault (drop s1) h unit (edgePoison s1 unit h tag cWindowRange 0 g.outva))
    else match bandWrite h unit c.clock tag g.outva hd rs (band * cols) (List.range cols) s1 with
      | .ok s2 _ => .done (drop s2)
      | .fault s2 p => .done (edgeFault (drop s2) h unit p)
      | .wait w => .wait w

/-! ## The end of a group -/

/-- Remove a group. -/
def dropGroup (s : State) (u : Nat) (g : Group) : State :=
  modComb s u (fun c => { c with groups := c.groups.filter (fun x => !(x.tag = g.tag && x.seq = g.seq)) })

/-- Count a row written in the step. -/
def countRow (s : State) (u : Nat) (g : Group) : State :=
  modComb s u (fun c => { c with rows := amod c.rows (gateKey g.sower g.gate) 0 (· + 1) })

/-- A row of a Haar slab has ended; with the last of its 64 the band is written, now or when it can be. -/
def putSlabRow (s : State) (u : Nat) (gt : Gate) (g : Group) (vals : Option (List (BitVec 32))) : State :=
  let key := gateKey g.sower g.gate
  let s1 := modComb s u (fun c => { c with slabRows := c.slabRows ++ [⟨key, g.tag, g.seq.toNat, vals⟩] })
  if (bandRows (combOf s1 u) key g.tag (g.seq.toNat / 64)).length < 64 then s1
  else (endBand s1 u g.launch gt key g.tag (g.seq.toNat / 64)).orWait s1

/-- End a group: its row is written, or its poison recorded (R224). -/
def endGroup (s : State) (u : Nat) (g : Group) : Tried :=
  let gt := groupGate s g
  let unit := combId u
  match g.poison with
  | some p =>
    let s1 := dropGroup (logPoison s g.launch 4 p 0xFFFF unit (launchOf s g.launch).ctx []) u g
    .done (if gt.odtag = 0 then s1 else putSlabRow s1 u gt g none)
  | none =>
    let row := (List.range gt.outn).map (groupElem g)
    if gt.odtag = 0 then
      let va := gt.outva + BitVec.ofNat 64 (g.tag.toNat * gt.tstride + g.seq.toNat * gt.rowb)
      let bs := match efmt gt.ofmt with
        | some f => (encodeAll f .rne 0 (row.map v32)).1
        | none => []
      match edgeWrite s g.launch unit (combOf s u).clock g.tag va bs with
      | .ok s1 _ => .done (countRow (dropGroup s1 u g) u g)
      | .fault s1 p => .done (edgeFault (dropGroup s1 u g) g.launch unit p)
      | .wait w => .wait w
    else .done (putSlabRow (countRow (dropGroup s u g) u g) u gt g (some row))

/-- End a group if it has ended; otherwise it stands. -/
def tryGroup (s : State) (u : Nat) (g : Group) : State := if groupEnded g then (endGroup s u g).orWait s else s

/-! ## Results (R223) -/

/-- The open group of a token. -/
def groupFor (s : State) (u : Nat) (k : Token) : Option Group := (combOf s u).groups.find? (fun g => g.tag = k.tag && g.seq = k.seq)

/-- Replace a group. -/
def setGroup (s : State) (u : Nat) (g : Group) : State :=
  modComb s u (fun c => { c with groups := c.groups.map (fun x => if x.tag = g.tag && x.seq = g.seq then g else x) })

/-- The acknowledgement of a result, to the package it came from (R215, R226). -/
def ackTok (s : State) (u : Nat) (f : Flight) : Flight :=
  let k := f.tok
  let unit := BitVec.ofNat 11 (combId u)
  let w := BitVec.ofNat 64 (k.tag.toNat ||| k.seq.toNat <<< 20 ||| (rankIdx k.rankw).toNat <<< 36)
  { tok := { dest := ⟨false, k.origin, 0, 0⟩, chan := 1, origin := unit, body := .control w, rel := mkRelease (sysScope s 1) unit [] },
    pkg := f.src.getD 255, formedFor := if f.src.isSome then none else some f.launch }

/-- A result's elements in FP32. -/
def resultVals (b : Burst) : List (BitVec 32) :=
  match efmt b.fmt.toNat with
  | none => []
  | some f => (decodeAll f b.nelem.toNat b.bytes).map f32

/-- A data result for rank r of a group. -/
def takeResult (s : State) (u : Nat) (f : Flight) (g : Group) (b : Burst) : State :=
  let r := (rankIdx f.tok.rankw).toNat
  let x := g.ranks[r]?
  let again := f.tok.batch.any (fun y => 1 < y.attempt)
  match x with
  | none => refuse s f (combId u) cCombOrphan
  | some x =>
    if x.dropped.isSome || (x.result.isSome && !again) then refuse s f (combId u) cCombDuplicate
    else if b.nelem.toNat ≠ (groupGate s g).outn then refuse s f (combId u) cCombShape
    else if b.dtag ≠ 0 then refuse s f (combId u) cDomain
    else
      let g1 := { g with ranks := lmod g.ranks r (fun x => { x with result := some (resultVals b) }) }
      tryGroup (inject (setGroup s u g1) (ackTok s u f)) u g1

/-- Receipt of a token by an edge unit acquires at the release's scope (R165, R206). -/
def combAcquire (s : State) (u : Nat) (k : Token) : State :=
  if syncs k.rel k.rel.scope (BitVec.ofNat 11 (combId u)) then modComb s u (fun c => { c with clock := clkJoin c.clock k.rel.clock })
  else s

/-- A token reaches a combine unit (R223, R295). -/
def combTake (s : State) (u : Nat) (f : Flight) : State :=
  let s1 := combAcquire s u f.tok
  let k := restoreZeros f.tok
  match groupFor s1 u k with
  | none => refuse s1 f (combId u) cCombOrphan
  | some g =>
    match k.body with
    | .poison p => let g1 := { g with poison := g.poison.or (some p) }
                   tryGroup (setGroup s1 u g1) u g1
    | .burst b => takeResult s1 u f g b
    | .sparse b => takeResult s1 u f g (match efmt b.fmt.toNat with
        | some m => { b with bytes := expandZeros m b.nelem.toNat b.bytes }
        | none => b)
    | _ => refuse s1 f (combId u) cCombShape

/-- A group of a unit that has ended and could not be written before. -/
def stuckGroup (s : State) (u : Nat) : Option Group := (combOf s u).groups.find? groupEnded

/-- `COMBINE_RESULT`: the first result on its way to the unit; a row that had to wait is written first. -/
def execCombineResult (s : State) : Host.Outcome State Fault Refusal :=
  onEvent argN (fun u s =>
    match stuckGroup s u with
    | some g => tryGroup s u g
    | none =>
      let mine (n : Nat) : Bool := (nextFlight (fun f => forComb f && f.tok.dest.tile.toNat = combId u) s n).isSome
      match (List.range s.net.length).find? mine with
      | none => s
      | some n => match nextFlight (fun _ => true) s n with
        | some (f, s1) => combTake s1 u f
        | none => s) s

/-- Put poison on an open group of a unit (R226). -/
def poisonGroup (s : State) (u : Nat) (tag : BitVec 20) (seq : BitVec 16) (p : Poison) : State :=
  match (combOf s u).groups.find? (fun g => g.tag = tag && g.seq = seq) with
  | none => s
  | some g => let g1 := { g with poison := g.poison.or (some p) }
              tryGroup (setGroup s u g1) u g1

/-! ## Another package that does not answer (R29, R226, R244) -/

/-- 2 ms in ns. -/
def unreachNs : Nat := 2000000

/-- The token in the network that waited for another package: a notice is recorded, a sown token poisons its group, any other
is refused (R29, R220, R226). -/
def tokUnreach (s : State) (n : Nat) (f : Flight) : State :=
  let s1 := { s with net := ldrop s.net n }
  let unit := f.tok.origin.toNat
  let w := f.tok.rankw
  match f.tok.body, f.sower.isSome with
  | .notice _, _ => logPoison s1 f.launch 4 (tokPoison s unit f cPkgUnreachable) 0xFFFF unit f.tok.ctx f.tok.header
  | _, true => poisonGroup s1 (w.extractLsb' 8 5).toNat f.tok.tag f.tok.seq (tokPoison s unit f cPkgUnreachable)
  | _, false => if isAck f.tok then s1 else refuse s1 f unit cPkgUnreachable

/-- `PACKAGE_UNREACHABLE_TIMEOUT` (R29). -/
def execPackageUnreachableTimeout (s : State) : Host.Outcome State Fault Refusal :=
  onEvent (fun a => match a with | .unreach u => some u | _ => none) (fun u s =>
    match u with
    | .request n =>
      match s.reqs.find? (fun r => r.id = n) with
      | none =>
        match s.far.find? (fun x => x.id = n) with
        | none => s
        | some x =>
          if x.answer.isSome || x.fault.isSome || !due s x.since unreachNs then s
          else setFar s n (fun x => { x with fault := some cPkgUnreachable })
      | some r =>
        if isHostIA r.addr.ia.toNat || pkgIsLocal s (iaPkg r.addr.ia.toNat) || !due s r.since unreachNs then s
        else lateFault s r cPkgUnreachable 0
    | .token n =>
      match s.net[n]? with
      | none => s
      | some f => if pkgIsLocal s f.pkg.toNat || !due s f.since unreachNs then s else tokUnreach s n f) s

end Sys2Proof.Machine
end

