-- ==== Sys2Proof/Machine/Sower.lean ====
section
/-! DEFINITION. The sower: rows and buffers, scoring, affinity records, quotas, group records and sown copies (R206 to R212,
R217, R222, R228, R229). -/

namespace Sys2Proof.Machine

open Sys2Proof

/-! ## Scoring (R207) -/

/-- Elements of a row in FP32. -/
def f32Of (vs : List Val) : List (BitVec 32) := vs.map f32

/-- Row e of a gate's weights in FP32 (R204). -/
def gateRow (img : List Byte) (g : Gate) (e : Nat) : List (BitVec 32) :=
  match efmt g.wfmt with
  | none => []
  | some f => let n := fmtBytes f g.d; f32Of (decodeAll f g.d ((img.drop (g.woff + e * n)).take n))

/-- The score of expert e: ascending i, one rounding each. -/
def scoreOf (x w : List (BitVec 32)) : BitVec 32 := (x.zip w).foldl (fun acc p => fma32 p.1 p.2 acc) 0

/-- exp as R207 defines it. -/
def expOf (y : BitVec 32) : BitVec 32 := fn32 .exp2 (mul32 y 0x3FB8AA3B)

/-- The column of the largest score not yet chosen; ties to the lower. -/
def bestOf (ss : List (BitVec 32)) (chosen : List Nat) : Option Nat :=
  ((List.range ss.length).filter (fun e => !chosen.contains e)).foldl (fun a e => match a with
    | some b => if (v32 (ss.getD b 0)).cmp (v32 (ss.getD e 0)) < 0 then some e else some b
    | none => some e) none

/-- The top K columns, rank 0 first. -/
def topK (ss : List (BitVec 32)) : Nat → List Nat → List Nat
  | 0, chosen => chosen
  | n + 1, chosen => match bestOf ss chosen with
    | some e => topK ss n (chosen ++ [e])
    | none => chosen

/-- The weight of each chosen column (R207). -/
def rankWeights (g : Gate) (ss : List (BitVec 32)) (es : List Nat) : List (BitVec 32) :=
  let m := ss.getD (((bestOf ss []).getD 0)) 0
  let z := ss.foldl (fun z x => add32 z (expOf (add32 x (m ^^^ 0x80000000#32)))) 0
  let p (e : Nat) : BitVec 32 :=
    let x := ss.getD e 0
    if g.sigm then fn32 .sigm x else div32 (expOf (add32 x (m ^^^ 0x80000000#32))) z
  let ws := es.map p
  if !g.norm then ws
  else
    let q := ws.foldl add32 0
    if 0 < (v32 q).cmp (.fin false 0 0) then ws.map (fun w => div32 w q) else ws

/-- Experts and weights of a row in score mode, or the poison of its scores. -/
def scoreRow (img : List Byte) (g : Gate) (x : List (BitVec 32)) : Except (BitVec 8) (List Nat × List (BitVec 32)) :=
  let ss := (List.range g.nexp).map (fun e => scoreOf x (gateRow img g e))
  if ss.any (fun v => !finite32 v) then .error cGateScore
  else
    let es := topK ss g.k []
    .ok (es.map (· + g.base), rankWeights g ss es)

/-- Experts and weights in adapter mode: the ADAPTER field of the affinity record (R208). -/
def adaptRow (g : Gate) (aff : Option (List Byte)) : Except (BitVec 8) (List Nat × List (BitVec 32)) :=
  match aff with
  | none => .error cExpertInvalid
  | some b =>
    let i := lnat b 48 2
    if g.nexp ≤ i then .error cExpertInvalid else .ok ([g.base + i], [0x3F800000])

/-! ## Prefetches (R228, R229) -/

/-- Prefetch weights into the near slice of an entry's bin; a prefetch that faults is dropped (R229). -/
def edgePref (s : State) (h : Nat) (d : DirEntry) (n : Nat) : State :=
  let l := launchOf s h
  match formAddr s l l.wins 0xFF .load d.waddr n with
  | .error _ => s
  | .ok f =>
    if n = 0 || !d.bin.v || !pkgIsLocal s d.pkg.toNat || isHostIA f.ia.toNat || !pkgIsLocal s (iaPkg f.ia.toNat) then s
    else
      match transAll s f.asid (l.asid = 0) .load (pagesOf f.ia.toNat n) with
      | (s1, .error _) => s1
      | (s1, .ok ws) =>
        if (checkAll s1 ws).toOption.isNone || (badLineAt s1 f.asid f.ia.toNat n).isSome || memBad s1 ((pagesOf f.ia.toNat n).zip ws) then s1
        else fillNear s1 (plotOf d.bin.tile.toNat) f n ws

/-! ## Quotas (R217) -/

/-- B: MAXTOK of the context that sows. -/
def stepBound (l : Launch) : Nat :=
  let m := (l.images.getD l.ctx.toNat {}).maxtok
  if m = 0 then 0xFFFFFF else m

/-- The limit of an expert. -/
def limitOf (l : Launch) (e : Nat) : Nat :=
  let q := (dirOf l e).quota
  min (if q = 0 then 0xFFFFFF else q) (stepBound l)

/-- POL of an entry (R210). -/
def polOf (d : DirEntry) : Nat := (d.pol.extractLsb' 0 2).toNat
def polRenorm (d : DirEntry) : Bool := d.pol.getLsbD 2
def polPref (d : DirEntry) : Bool := d.pol.getLsbD 3
def polRot (d : DirEntry) : Bool := d.pol.getLsbD 4
def polAdapter (d : DirEntry) : Bool := d.pol.getLsbD 5

/-- What the quota rules have found for a row's ranks so far. -/
structure Sowing where
  ranks : List GroupRank := []
  sends : List (Nat × Nat) := []
  defers : List (Nat × Nat × Bool) := []
  counters : AMap Nat := []
  hit : List Nat := []
  sat : Bool := false
  invalid : List Nat := []

/-- One rank: sent, deferred, rerouted or dropped (R211, R217). -/
def sowRank (l : Launch) (es : List Nat) (a : Sowing) (r e : Nat) (w : BitVec 32) : Sowing :=
  let d := dirOf l e
  let rank (e : Nat) (drop : Option Bool) : Sowing := { a with ranks := a.ranks ++ [{ expert := e, weight := w, dropped := drop }] }
  let send (a : Sowing) (e : Nat) : Sowing := { a with sends := a.sends ++ [(r, e)], counters := amod a.counters e 0 (· + 1) }
  let n := aget a.counters e 0
  if d.state = 0 then { rank e (some true) with invalid := a.invalid ++ [e] }
  else if n < limitOf l e then send (rank e none) e
  else
    let a1 (x : Sowing) : Sowing := { x with hit := if x.hit.contains e then x.hit else x.hit ++ [e], sat := x.sat || n = stepBound l }
    let drop := a1 (rank e (some (polRenorm d)))
    match polOf d with
    | 1 =>
      let alt := d.alt
      let m := aget a.counters alt 0
      let full := limitOf l alt ≤ m
      if full || (dirOf l alt).state = 0 || (es ++ a.ranks.map (·.expert)).contains alt then
        { drop with sat := drop.sat || (full && m = stepBound l) }
      else send (a1 (rank alt none)) alt
    | 2 => let x := a1 (rank e none); { x with defers := x.defers ++ [(r, e, polRenorm d)] }
    | _ => drop

/-- All ranks of a row. -/
def sowRanks (l : Launch) (es : List Nat) (ws : List (BitVec 32)) (counters : AMap Nat) : Sowing :=
  ((List.range es.length).zip (es.zip ws)).foldl (fun a x => sowRank l es a x.1 x.2.1 x.2.2) { counters := counters }

/-! ## A row (R209) -/

/-- A row as the sower takes it: its port token with the row's SEQ, its elements, its data in the format presented. -/
structure RowIn where
  port : Flight
  fmt : Nat
  bytes : List Byte
  elems : List (BitVec 32)

/-- The RANKW of a copy. -/
def sownRankw (s : State) (r u cu : Nat) : BitVec 16 :=
  BitVec.ofNat 16 (r <<< 13 ||| (u / 8 * 8 + cu) <<< 8 ||| (s.boot.pkg.getD 255).toNat)

/-- The release that the sending of a copy makes: its sower's, at its channel's scope (R165, R231; log 57). -/
def sownRel (u : Nat) (e : BitVec 128) (clk : Clock) : Release := mkRelease (chanScope e) (BitVec.ofNat 11 (sowerId u)) clk

/-- A copy of a row for rank r and expert e. -/
def sownTok (s : State) (u : Nat) (l : Launch) (g : Gate) (k : Token) (body : Body) (e : BitVec 128) (clk : Clock) (r ex : Nat) : Token :=
  let d := dirOf l ex
  { dest := d.bin, ctx := d.ctx, tag := k.tag, chan := k.chan, seq := k.seq, rankw := sownRankw s r u g.cu, origin := k.origin,
    body := body, rel := sownRel u e clk, expert := ex }

/-- The group of a row. -/
def rowGroup (u h : Nat) (gate : Nat) (k : Token) (ranks : List GroupRank) (p : Option Poison) : Group :=
  { tag := k.tag, seq := k.seq, gate := gate, sower := u, launch := h, ranks := ranks, poison := p }

/-- The unit that a gate of a sower sends to. -/
def gateUnit (u : Nat) (g : Gate) : Nat := u / 8 * 8 + g.cu

/-- The checks of the port token's channel and its filter (R209, R372). -/
def rowFilter (l : Launch) (x : RowIn) : Except (BitVec 8) (BitVec 128 × Body) :=
  let c := x.port.tok.chan
  let e := l.chan.getD c.toNat 0
  if c.toNat < 4 then .error cChanReserved
  else if !chValid e then .error cChanInvalid
  else
    let ifmt := if chIfmt e = 0 then x.fmt else chIfmt e
    match efmt ifmt with
    | none => .error cIllegal
    | some f =>
      if x.bytes.length < fmtBytes f x.elems.length then .error cIllegal
      else match routeFilter e ifmt x.elems.length 0 l.seed x.bytes with
        | .error c => .error c
        | .ok (b, _) => .ok (e, b)

/-- The row's affinity record; a fault of its read is recorded (R228, R294; log 22). -/
def affinity (s : State) (u h : Nat) (g : Gate) (k : Token) : ERes (Option (List Byte)) :=
  if g.affva = 0 then .ok s none
  else match edgeRead s h (sowerId u) (sowerOf s u).clock k.tag (g.affva + BitVec.ofNat 64 (k.seq.toNat * 64)) 64 with
    | .ok s1 b => .ok s1 (some b)
    | .fault s1 p => .ok (edgeFault s1 h (sowerId u) p) none
    | .wait w => .wait w

/-- Prefetch the predicted experts' weights, then record the experts chosen (R228). -/
def affineOut (s : State) (u h : Nat) (g : Gate) (k : Token) (aff : Option (List Byte)) (es : List Nat) : Tried :=
  match aff with
  | none => .done s
  | some b =>
    let l := launchOf s h
    let n := min (lnat b 16 1) 8
    let s1 := (List.range n).foldl (fun s i =>
      let d := dirOf l (lnat b (2 * i) 2)
      if d.state = 2 then edgePref s h d d.wbytes else s) s
    let last := (List.range 8).flatMap (fun i => bytesLE 2 (es.getD i 0xFFFF))
    match edgeWrite s1 h (sowerId u) (sowerOf s u).clock k.tag (g.affva + BitVec.ofNat 64 (k.seq.toNat * 64 + 32)) last with
    | .ok s2 _ => .done s2
    | .fault s2 p => .done (edgeFault s2 h (sowerId u) p)
    | .wait w => .wait w

/-- A row waits for its group record to be taken. -/
def setPend (s : State) (u : Nat) (x : SownRow) : State := modSower s u (fun y => { y with pend := some x })

/-- What a row whose experts are chosen is to sow. -/
def sowPicked (s : State) (u gate : Nat) (x : RowIn) (e : BitVec 128) (body : Body) (es : List Nat) (ws : List (BitVec 32)) : State :=
  let so := sowerOf s u
  let h := so.holder
  let l := launchOf s h
  let g := gateOf so.image gate
  let k := x.port.tok
  let a := sowRanks l es ws so.counters
  let tok := sownTok s u l g k body e (edgeClock so.clock (sowerId u))
  let s1 := a.invalid.foldl (fun s _ => logPoison s h 4 { tokPoison s (sowerId u) x.port cExpertInvalid with step := l.stepid } 0xFFFF (sowerId u) l.ctx []) s
  setPend s1 u
    { port := x.port, group := rowGroup u h gate k a.ranks none, unit := gateUnit u g,
      sends := a.sends.map (fun y => { gate := gate, expert := y.2, rank := y.1, renorm := false, tok := tok y.1 y.2 }),
      defers := a.defers.map (fun y => { gate := gate, expert := y.2.1, rank := y.1, renorm := y.2.2, tok := tok y.1 y.2.1 }),
      counters := a.counters, policyHit := a.hit, sat := a.sat }

/-- Filter and score a row and make ready what it sows; a row that its channel does not take is not sown (R207 to R209). -/
def sowRow (s : State) (u gate : Nat) (x : RowIn) : Tried :=
  let so := sowerOf s u
  let h := so.holder
  let l := launchOf s h
  let g := gateOf so.image gate
  let k := x.port.tok
  match rowFilter l x with
  | .error c => .done (refuse s x.port (sowerId u) c)
  | .ok (e, body) =>
    match affinity s u h g k with
    | .wait w => .wait w
    | .fault s1 _ => .done s1
    | .ok s1 aff =>
      match if g.adapter then adaptRow g aff else scoreRow so.image g x.elems with
      | .error c =>
        let p := { tokPoison s1 (sowerId u) x.port c with step := l.stepid }
        .done (setPend s1 u { port := x.port, group := rowGroup u h gate k [] (some p), unit := gateUnit u g, counters := so.counters })
      | .ok (es, ws) =>
        match affineOut s1 u h g k aff es with
        | .wait w => .wait w
        | .done s2 => .done (sowPicked s2 u gate x e body es ws)

/-! ## Ports (R206) -/

/-- Receipt of a port token acquires at its release's scope. -/
def sowAcquire (s : State) (u : Nat) (k : Token) : State :=
  if syncs k.rel k.rel.scope (BitVec.ofNat 11 (sowerId u)) then modSower s u (fun x => { x with clock := clkJoin x.clock k.rel.clock })
  else s

/-- Take the head of a sower's store. -/
def sowTake (s : State) (u : Nat) (f : Flight) : State := sowAcquire (modSower s u (fun x => { x with store := x.store.drop 1 })) u f.tok

/-- The sower works for its launch. -/
def sowRuns (s : State) (u : Nat) : Bool :=
  let l := launchOf s (sowerOf s u).holder
  (sowerOf s u).holder ≠ 0 && !l.violated && (match l.phase with | .running => true | .draining => true | .saving => true | _ => false)

/-- `SOWER_ROW_TOKEN`: the row at port 0 at the head of the store (R206, R207). -/
def execSowerRowToken (s : State) : Host.Outcome State Fault Refusal :=
  onEvent argN (fun u s =>
    let so := sowerOf s u
    match sowRuns s u && so.pend.isNone && so.buffer.isNone, so.store with
    | true, f :: _ =>
      if f.tok.dest.port ≠ 0 then s
      else
        let s1 := sowTake s u f
        let gate := f.tok.dest.node.toNat
        let k := restoreZeros f.tok
        if f.tok.bad then refuse s1 f (sowerId u) cUncorrectable
        else if gateCount so.image ≤ gate then refuse s1 f (sowerId u) cGateShape
        else match k.body with
          | .burst b =>
            match efmt b.fmt.toNat with
            | none => refuse s1 f (sowerId u) cGateShape
            | some m =>
              if b.nelem.toNat ≠ (gateOf so.image gate).d || b.dtag ≠ 0 then refuse s1 f (sowerId u) cGateShape
              else
                let x : RowIn := { port := f, fmt := b.fmt.toNat, bytes := b.bytes, elems := f32Of (decodeAll m b.nelem.toNat b.bytes) }
                (sowRow s1 u gate x).orWait s
          | _ => refuse s1 f (sowerId u) cGateShape
    | _, _ => s) s

/-- A header that a sower accepts (R206). -/
def sowHdrOk (b : List Byte) (g : Gate) : Bool :=
  let h := bufHdr b
  hdrOk b && (efmt h.fmt.toNat).isSome && h.cols = g.d && h.rows ≤ 65536 && (!h.tags.getLsbD 2 || compactable h.fmt.toNat)

/-- The VA of a port-1 token's buffer. -/
def bufVa (f : Flight) : Option Word := match f.tok.body with | .scalar w => some w | _ => none

/-- Take a slab request (R206). -/
def sowBuffer (s : State) (u : Nat) (f : Flight) : State :=
  let so := sowerOf s u
  let s1 := sowTake s u f
  let gate := f.tok.dest.node.toNat
  let unit := sowerId u
  if f.tok.bad then refuse s1 f unit cUncorrectable
  else if gateCount so.image ≤ gate then refuse s1 f unit cGateShape
  else match bufVa f with
    | none => refuse s1 f unit cGateShape
    | some va =>
      match edgeRead s1 so.holder unit (sowerOf s1 u).clock f.tok.tag va 64 with
      | .wait w => keepWaits s w
      | .fault s2 p => edgeLease (refuseWith s2 f unit p) so.holder unit p
      | .ok s2 b =>
        if !sowHdrOk b (gateOf so.image gate) then refuse s2 f unit cGateShape
        else modSower s2 u (fun x => { x with buffer := some { port := f, hdr := bufHdr b } })

/-- Rows i of the slabs of a band, read in order: their elements in FP32 and their bytes in FMT. -/
def bandRow (h unit : Nat) (clk : Clock) (f : Flight) (va : Word) (hd : BufHdr) (band i : Nat) :
    List Nat → State → List (BitVec 32) × List Byte → ERes (List (BitVec 32) × List Byte)
  | [], s, acc => .ok s acc
  | j :: t, s, acc =>
    let cmp := hd.tags.getLsbD 2
    let z := slotSize hd.fmt.toNat cmp
    let slab := band * cdiv hd.cols 64 + j
    match edgeRead s h unit clk f.tok.tag (va + BitVec.ofNat 64 (64 + slab * z)) z with
    | .wait w => .wait w
    | .fault s1 p => .fault s1 p
    | .ok s1 b =>
      let ht : BitVec 3 := hd.tags.setWidth 3 &&& 3#3
      let ls := (slabLanes .f32 hd.fmt.toNat cmp b).1
      let rec32 := if ht = 0 then ls else (slabInv ht ls).1
      let n := min 64 (hd.cols - 64 * j)
      let raw : List Byte := match efmt hd.fmt.toNat with
        | some (.ty e) =>
          let codes := if cmp then expandSlab e.bytes b else (chunks e.bytes (b.take (4096 * e.bytes))).map leNat
          (((codes.drop (64 * i)).take n).map (bytesLE e.bytes)).flatten
        | _ => []
      bandRow h unit clk f va hd band i t s1
        (acc.1 ++ ((rec32.drop (64 * i)).take n).map (BitVec.ofNat 32), acc.2 ++ raw)

/-- The next row of the buffer being read (R206). -/
def sowNext (s : State) (u : Nat) (b : SowBuf) : State :=
  let so := sowerOf s u
  let unit := sowerId u
  let f : Flight := { b.port with tok := { b.port.tok with seq := BitVec.ofNat 16 b.next } }
  let done (s : State) : State := modSower s u (fun x => { x with buffer := none })
  match bufVa b.port with
  | none => done s
  | some va =>
    match bandRow so.holder unit so.clock f va b.hdr (b.next / 64) (b.next % 64) (List.range (cdiv b.hdr.cols 64)) s ([], []) with
    | .wait w => keepWaits s w
    | .fault s1 p => edgeLease (refuseWith (done s1) f unit p) so.holder unit p
    | .ok s1 (xs, raw) =>
      let plain := (b.hdr.tags &&& 3#8) = 0 && (match efmt b.hdr.fmt.toNat with | some (.ty _) => true | _ => false)
      let x : RowIn := if plain then { port := f, fmt := b.hdr.fmt.toNat, bytes := raw, elems := xs }
        else { port := f, fmt := 1, bytes := xs.flatMap (fun v => bytesLE 4 v.toNat), elems := xs }
      let s2 := if b.next + 1 < b.hdr.rows then modSower s1 u (fun y => { y with buffer := some { b with next := b.next + 1 } })
        else done s1
      (sowRow s2 u b.port.tok.dest.node.toNat x).orWait s

/-- `SOWER_BUFFER_TOKEN`: the slab request at the head of the store, then its rows one by one (R206). -/
def execSowerBufferToken (s : State) : Host.Outcome State Fault Refusal :=
  onEvent argN (fun u s =>
    let so := sowerOf s u
    if !sowRuns s u || so.pend.isSome then s
    else match so.buffer, so.store with
      | some b, _ => sowNext s u b
      | none, f :: _ => if f.tok.dest.port = 1 then sowBuffer s u f else s
      | none, [] => s) s

/-! ## The group record and the copies (R209, R217, R222, R229) -/

/-- Set COUNTSAT in every tile of a launch. -/
def countSat (s : State) (l : Launch) : State := l.tileset.foldl (fun s t => modTile s t (fun x => { x with stat := x.stat ||| statCOUNTSAT })) s

/-- Change a directory entry. -/
def modDir (s : State) (h e : Nat) (f : DirEntry → DirEntry) : State := modLaunch s h (fun l => { l with dir := lmod l.dir e f })

/-- Send one copy: the first of a step to an entry with PREF and STATE 2 prefetches its weights. -/
def sendCopy (s : State) (u : Nat) (c : SownCopy) : State :=
  let h := (sowerOf s u).holder
  let d := dirOf (launchOf s h) c.expert
  let first := polPref d && d.state = 2 && !(sowerOf s u).prefetched.contains c.expert
  let s1 := if first then
      edgePref (modSower s u (fun x => { x with prefetched := x.prefetched ++ [c.expert] })) h d d.wbytes
    else s
  let s2 := modDir s1 h c.expert (fun d => { d with sown := d.sown + 1 })
  inject s2 { tok := c.tok, launch := h, sower := some u, pkg := if pkgIsLocal s d.pkg.toNat then 255 else d.pkg }

/-- Send a row whose group record has been taken. -/
def sendRow (s : State) (u : Nat) (x : SownRow) : State :=
  let l := launchOf s (sowerOf s u).holder
  let s1 := modSower s u (fun y => { y with
    pend := none, counters := x.counters, deferred := y.deferred ++ x.defers,
    policyHit := y.policyHit ++ x.policyHit.filter (fun e => !y.policyHit.contains e),
    clock := if x.sends.isEmpty then y.clock else edgeClock y.clock (sowerId u) })
  let s2 := if x.sat then countSat s1 l else s1
  x.sends.foldl (fun s c => sendCopy s u c) s2

/-- `GROUP_RECORD`: a combine unit takes the group record of a row; the row's copies leave (R209, R222). -/
def execGroupRecord (s : State) : Host.Outcome State Fault Refusal :=
  onEvent argN (fun unit s =>
    let us := ((List.range 8).map (fun i => unit / 8 * 8 + i)).filter (fun u => (sowerOf s u).pend.any (fun x => x.unit = unit))
    match us with
    | [] => s
    | u :: _ =>
      match (sowerOf s u).pend with
      | none => s
      | some x =>
        if (combOf s unit).groups.any (fun g => g.tag = x.group.tag && g.seq = x.group.seq) then
          refuse (modSower s u (fun y => { y with pend := none })) x.port (sowerId u) cCombDuplicate
        else if 1024 ≤ (combOf s unit).groups.length then s
        else tryGroup (sendRow (modComb s unit (fun c => { c with groups := c.groups ++ [x.group] })) u x) unit x.group) s

end Sys2Proof.Machine
end

