-- ==== Sys2Proof/Machine/Steps.lean ====
section
/-! DEFINITION. Barriers, the close of sowers, the step barrier, and the two tile timers (R187, R191, R194 to R198, R217 to
R221, R225, R227, R243, R305). -/

namespace Sys2Proof.Machine

open Sys2Proof

/-! ## Barriers (R194, R195, R242) -/

/-- AUX of a barrier token (R195). -/
def barAux (gen : BitVec 24) (bar : Nat) : Word := BitVec.ofNat 64 (gen.toNat <<< 8 ||| bar)

/-- The barrier token of one join; its receipt acquires from every join of the generation. -/
def barTok (scope : Scope) (h : Nat) (ctx : BitVec 3) (b : Barrier) (n : Nat) (j : BarJoin) : Flight :=
  { tok := { dest := j.dest, ctx := ctx, tag := j.tag, chan := 3, origin := BitVec.ofNat 11 j.tile, body := .barrier (barAux b.gen n),
             rel := mkRelease scope (BitVec.ofNat 11 j.tile) [], more := b.joins.map (·.rel) },
    launch := h, formedFor := some h }

/-- `BARRIER_COMPLETE`: every tile of the launch has joined the generation. -/
def execBarrierComplete (s : State) : Host.Outcome State Fault Refusal :=
  onEvent argNN (fun (h, n) s =>
    let l := launchOf s h
    let b := aget l.bars n {}
    if l.tileset.isEmpty || !l.tileset.all (fun t => b.joins.any (fun j => j.tile = t)) then s
    else
      let s1 := b.joins.foldl (fun s j => inject s (barTok (sysScope s 3) h (tileOf s j.tile).ctx b n j)) s
      modLaunch s1 h (fun l => { l with bars := aput l.bars n { b with gen := b.gen + 1, joins := b.next, next := [] } })) s

/-! ## Local done (R196) -/

/-- A tile is locally done. -/
def locallyDone (s : State) (h t : Nat) : Bool :=
  let tl := tileOf s t
  tl.launch = h && tl.stepended && tl.ready.isEmpty && tl.busy.isEmpty && tl.runs.isEmpty
    && tl.slots.toList.all (fun x => x.phase = .free) && tl.mat.isEmpty
    && !s.reqs.any (fun r => r.tile = t) && !s.cmds.any (fun c => c.tile = t)
    && !s.net.any (fun f => f.launch = h && f.tok.origin.toNat = t && f.formedFor.isNone && f.sower.isNone)

/-- Ids of a launch's tiles and sowers. -/
def unitsOfLaunch (l : Launch) : List Nat := l.tileset ++ l.sowers.map (fun x => sowerId x.1)

/-- Every tile of the launch is locally done and no overflow queue holds a token of its step (R196; phase 1 of R221). -/
def phase1 (s : State) (h : Nat) : Bool :=
  let l := launchOf s h
  l.tileset.all (locallyDone s h)
    && !s.ovf.any (fun q => (unitsOfLaunch l).contains q.tile && q.toks.any (fun f => f.tok.ctx = l.ctx || (asSower q.tile).isSome))

/-! ## The close of a sower (R217 to R221) -/

/-- A rank that a sower deferred is dropped after all. -/
def dropRank (s : State) (u : Nat) (c : SownCopy) : State :=
  let so := sowerOf s u
  let unit := gateUnit u (gateOf so.image c.gate)
  match (combOf s unit).groups.find? (fun g => g.tag = c.tok.tag && g.seq = c.tok.seq) with
  | none => s
  | some g =>
    let g1 := { g with ranks := lmod g.ranks c.rank (fun r => { r with dropped := some c.renorm }) }
    tryGroup (setGroup s unit g1) unit g1

/-- Send the deferred copies, counting them against B alone; the rest are dropped and COUNTSAT is set. -/
def sendDeferred (s : State) (u : Nat) (l : Launch) : List SownCopy → State
  | [] => modSower s u (fun x => { x with deferred := [] })
  | c :: t =>
    let n := aget (sowerOf s u).counters c.expert 0
    if n < stepBound l then
      let s1 := modSower s u (fun x => { x with counters := aput x.counters c.expert (n + 1), clock := edgeClock x.clock (sowerId u) })
      sendDeferred (sendCopy s1 u c) u l t
    else sendDeferred (countSat (dropRank s u c) l) u l t

/-- The gates of a sower that are active in a context, by number. -/
def activeGates (so : Sower) (c : BitVec 3) : List (Nat × Gate) :=
  ((List.range (gateCount so.image)).map (fun g => (g, gateOf so.image g))).filter (fun g => g.2.ctxmask.getLsbD c.toNat)

/-- Expert ids a gate scores, ascending. -/
def gateExperts (g : Gate) : List Nat := (List.range g.nexp).map (· + g.base)

/-- Words of a gate's histogram: SUM, 0, then one for each expert (R218). -/
def histWords (so : Sower) (g : Gate) : List (BitVec 32) :=
  let cs := (gateExperts g).map (fun e => aget so.counters e 0)
  BitVec.ofNat 32 (min cs.sum 0xFFFFFFFF) :: 0
    :: (gateExperts g).map (fun e => BitVec.ofNat 32 (aget so.counters e 0 + if so.policyHit.contains e then 2 ^ 24 else 0))

/-- Write words one by one; one that faults is recorded and left out. -/
def histWrite (h unit : Nat) (clk : Clock) (va : Word) : Nat → List (BitVec 32) → State → Tried
  | _, [], s => .done s
  | i, w :: t, s =>
    match edgeWrite s h unit clk 0 (va + BitVec.ofNat 64 (4 * i)) (bytesLE 4 w.toNat) with
    | .ok s1 _ => histWrite h unit clk va (i + 1) t s1
    | .fault s1 p => histWrite h unit clk va (i + 1) t (edgeFault s1 h unit p)
    | .wait w => .wait w

/-- Write the histograms of the active gates. -/
def histAll (h u : Nat) (l : Launch) : List (Nat × Gate) → State → Tried
  | [], s => .done s
  | (_, g) :: t, s =>
    if g.histva = 0 then histAll h u l t s
    else
      let so := sowerOf s u
      let sat := 0xFFFFFFFF < ((gateExperts g).map (fun e => aget so.counters e 0)).sum
      match histWrite h (sowerId u) so.clock g.histva 0 (histWords so g) s with
      | .done s1 => histAll h u l t (if sat then countSat s1 l else s1)
      | .wait w => .wait w

/-- AUX of a notice (R219). -/
def noticeAux (s : State) (u count e : Nat) : Word :=
  BitVec.ofNat 64 ((s.boot.pkg.getD 255).toNat <<< 45 ||| u <<< 40 ||| count <<< 16 ||| e)

/-- The notice to one expert's bin; an entry of STATE 0 names none. -/
def sendNotice (s : State) (u h : Nat) (clk : Clock) (e : Nat) : State :=
  let d := dirOf (launchOf s h) e
  if d.state = 0 then s
  else inject s
    { tok := { dest := d.bin, ctx := d.ctx, chan := 3, origin := BitVec.ofNat 11 (sowerId u),
               body := .notice (noticeAux s u (aget (sowerOf s u).counters e 0) e), rel := mkRelease (wider .pkg (sysScope s 3)) (BitVec.ofNat 11 (sowerId u)) clk },
      launch := h, formedFor := some h, sower := some u, pkg := if pkgIsLocal s d.pkg.toNat then 255 else d.pkg }

/-- Close a sower whose pipeline is empty (R220). -/
def closeSower (s : State) (u : Nat) : Tried :=
  let so := sowerOf s u
  let h := so.holder
  let l := launchOf s h
  let s1 := sendDeferred s u l so.deferred
  let gs := activeGates so l.ctx
  match histAll h u l gs s1 with
  | .wait w => .wait w
  | .done s2 =>
    let clk := edgeClock (sowerOf s2 u).clock (sowerId u)
    let s3 := (gs.flatMap (fun g => gateExperts g.2)).foldl (fun s e => sendNotice s u h clk e) s2
    .done (modSower s3 u (fun x => { x with closed := true, clock := clk }))

/-- `SOWER_CLOSE`: phase 1 of the step holds and the sower has finished its rows (R220, R221). -/
def execSowerClose (s : State) : Host.Outcome State Fault Refusal :=
  onEvent argN (fun u s =>
    let so := sowerOf s u
    if !sowRuns s u || so.closed || !so.store.isEmpty || so.pend.isSome || so.buffer.isSome || !phase1 s so.holder then s
    else (closeSower s u).orWait s) s

/-! ## Phase 2 (R221) -/

/-- Every bin of a tile's context has made its step-end firing. -/
def binsDone (tl : Tile) (c : BitVec 3) : Bool := tl.bins.all (fun p => p.1 / 4096 ≠ c.toNat || p.2.stepFired)

/-- What the step barrier waits for. -/
def phase2 (s : State) (h : Nat) : Bool :=
  let l := launchOf s h
  phase1 s h && l.sowers.all (fun x => (sowerOf s x.1).closed) && l.tileset.all (fun t => binsDone (tileOf s t) l.ctx)
    && (List.range 32).all (fun u => !(combOf s u).groups.any (fun g => g.launch = h))

/-- Write what is left of a gate's Haar slabs. -/
def endBands (h : Nat) (g : Gate) (unit key : Nat) : List SlabRow → State → Tried
  | [], s => .done s
  | r :: t, s =>
    if (bandRows (combOf s unit) key r.tag (r.seq / 64)).isEmpty then endBands h g unit key t s
    else match endBand s unit h g key r.tag (r.seq / 64) with
      | .done s1 => endBands h g unit key t s1
      | .wait w => .wait w

/-- The completion token of a gate (R225). -/
def gateToken (s : State) (h u unit : Nat) (i : Nat) (g : Gate) : State :=
  let d := decDest (g.outdest.extractLsb' 0 26)
  let clk := edgeClock (combOf s unit).clock (combId unit)
  let n := aget (combOf s unit).rows (gateKey u i) 0
  let s1 := modComb s unit (fun c => { c with rows := adel c.rows (gateKey u i), clock := clk })
  if !d.v then s1
  else inject s1
    { tok := { dest := d, ctx := g.outdest.extractLsb' 26 3, tag := BitVec.ofNat 20 (launchOf s h).stepid.toNat, chan := 1,
               origin := BitVec.ofNat 11 (combId unit), body := .control (BitVec.ofNat 64 n),
               rel := mkRelease (wider .pkg (sysScope s 1)) (BitVec.ofNat 11 (combId unit)) clk },
      launch := h, formedFor := some h }

/-- The launch's combine units finish the step gate by gate. -/
def endGates (h : Nat) : List (Nat × Nat × Gate) → State → Tried
  | [], s => .done s
  | (u, i, g) :: t, s =>
    let unit := gateUnit u g
    match endBands h g unit (gateKey u i) ((combOf s unit).slabRows.filter (fun r => r.gate = gateKey u i)) s with
    | .wait w => .wait w
    | .done s1 => endGates h t (gateToken s1 h u unit i g)

/-- The active gates of a launch's sowers. -/
def launchGates (s : State) (l : Launch) : List (Nat × Nat × Gate) :=
  l.sowers.flatMap (fun x => (activeGates (sowerOf s x.1) l.ctx).map (fun g => (x.1, g.1, g.2)))

/-- Combine units of a launch's active gates. -/
def launchUnits (s : State) (l : Launch) : List Nat := ((launchGates s l).map (fun x => gateUnit x.1 x.2.2)).eraseDups

/-- The combine units have sent their completion tokens of the step. -/
def allTold (s : State) (h : Nat) : Bool := (launchUnits s (launchOf s h)).all (fun u => (combOf s u).told.contains h)

/-- Release the units' writes and send the completion tokens (R225). -/
def tellUnits (s : State) (h : Nat) : Tried :=
  let l := launchOf s h
  match endGates h (launchGates s l) s with
  | .wait w => .wait w
  | .done s1 => .done ((launchUnits s l).foldl (fun s u => modComb s u (fun c => { c with told := c.told ++ [h] })) s1)

/-! ## Swaps of the rotation engine (R227) -/

/-- Bins of a tile as the launch's directory configures them; what a bin holds is kept (R213). -/
def binConfig (s : State) (t : Nat) : State :=
  let l := tileLaunch s t
  let named := (List.range l.dir.length).filter (fun e =>
    let d := dirOf l e
    d.state ≠ 0 && d.bin.v && d.bin.tile.toNat = t && pkgIsLocal s d.pkg.toNat)
  modTile s t (fun x =>
    let bins := named.foldl (fun m e =>
      let d := dirOf l e
      let key := nodeKey d.ctx d.bin.node.toNat
      aput m key { aget x.bins key {} with cap := d.capm1.toNat + 1, timer := d.timer, adapter := polAdapter d }) []
    { x with bins := bins })

/-- Carry out one staged swap of a paged entry `p` and a resident entry `q`; a fault of its accesses leaves it undone. -/
def swapOne (s : State) (h p q : Nat) : Tried :=
  let l := launchOf s h
  let dp := dirOf l p
  let dq := dirOf l q
  let t := dq.bin.tile.toNat
  let unit := basePlace.toNat
  if dp.state ≠ 2 || dq.state ≠ 1 || dp.wbytes ≠ dq.wbytes || (tileOf s t).launch ≠ h then .done s
  else
    match edgeRead s h unit [] 0 dp.waddr dp.wbytes with
    | .wait w => .wait w
    | .fault s1 _ => .done s1
    | .ok s1 wp =>
      match edgeWrite s1 h unit [] 0 dp.waddr (rdBytes (tileOf s1 t).scratch dq.waddr.toNat dq.wbytes) with
      | .wait w => .wait w
      | .fault s2 _ => .done s2
      | .ok s2 _ =>
        let s3 := modTile s2 t (fun x => wrScratch x dq.waddr.toNat wp)
        let s4 := modDir s3 h p (fun d => { d with bin := dq.bin, ctx := dq.ctx, pkg := dq.pkg, state := 1, waddr := dq.waddr, gen := d.gen + 1 })
        .done (modDir s4 h q (fun d => { d with state := 2, waddr := dp.waddr, gen := d.gen + 1 }))

/-- Carry out the staged swaps; bins are then as the directory names them. -/
def swapAll (h : Nat) : List (Nat × Nat) → State → Tried
  | [], s => .done ((launchOf s h).tileset.foldl binConfig (modLaunch s h (fun l => { l with swap := [] })))
  | (p, q) :: t, s => match swapOne s h p q with
    | .done s1 => swapAll h t s1
    | .wait w => .wait w

/-! ## The step barrier (R197, R198, R243, R296, R462) -/

/-- Poison of discarded tokens goes to the fault log, naming the node that held it (R296). -/
def logDropped (s : State) (h t : Nat) (k : Token) : State :=
  match k.poison? with
  | some p => logPoison s h 1 p k.dest.node.toNat t k.ctx []
  | none => s

/-- Close a stream still open, as `sclose` does (R462). -/
def dropStream (s : State) (t : Nat) (key : Nat) (x : Stream) : State :=
  let c := BitVec.ofNat 3 (key / 16)
  let s1 := match x.failed with
    | some p => logPoison s (tileOf s t).launch 1 p 0xFFFF t c []
    | none => s
  closeStream s1 t c (BitVec.ofNat 4 key) x.openTag

/-- A bin at the start of a step. -/
def binReset (b : Bin) : Bin :=
  { b with batches := 0, notices := [], noticed := 0, received := 0, stepFired := false, replayDue := [],
           retained := b.retained.map (fun h => { h with batch := h.batch + 2 ^ 20 }) }

/-- Steps 1 and 2 of R197 on one tile. -/
def leaveTile (s : State) (h : Nat) (c : BitVec 3) (stepid : BitVec 32) (t : Nat) : State :=
  let tl := tileOf s t
  let gone := (tl.store.filter (fun f => f.tok.ctx = c)).map (·.tok) ++ tl.sticky.map (·.2)
  let opened := tl.streams.filter (fun p => p.2.isOpen)
  let left := !gone.isEmpty || !tl.counts.isEmpty || !opened.isEmpty
  let s1 := opened.foldl (fun s p => dropStream s t p.1 p.2) (gone.foldl (fun s k => logDropped s h t k) s)
  modTile s1 t (fun x => { x with
    store := x.store.filter (fun f => f.tok.ctx ≠ c), sticky := [], counts := [], track := [], stepended := false, sunk := 0,
    stepid := stepid, stat := if left then x.stat ||| statLEFTOVER else x.stat, bins := x.bins.map (fun p => (p.1, binReset p.2)) })

/-- Inject a context's initial tokens for these tiles (R128). -/
def initTokens (s : State) (h : Nat) (c : Nat) (ts : List Nat) : State :=
  let im := (launchOf s h).images.getD c {}
  (im.init.filter (fun x => ts.contains x.1.tile.toNat)).foldl (fun s x =>
    inject s { tok := { dest := x.1, ctx := BitVec.ofNat 3 c, tag := x.2.1, chan := x.2.2.1, origin := x.1.tile, body := .scalar x.2.2.2,
                        rel := mkRelease (chanScope ((launchOf s h).chan.getD x.2.2.1.toNat 0)) x.1.tile [] },
               launch := h, formedFor := some h, first := true }) s

/-- Match the stored tokens of a tile's current context, in order of arrival. -/
def matchStored (s : State) (t : Nat) : State :=
  let tl := tileOf s t
  (tl.store.filter (fun f => f.tok.ctx = tl.ctx)).foldl (fun s f => matchTok s t f)
    (setTile s t { tl with store := tl.store.filter (fun f => f.tok.ctx ≠ tl.ctx) })

/-- A context becomes current on tiles of a launch; the initial tokens for them, if it is the first time (R128, R197). -/
def enterTiles (s : State) (h c : Nat) (ts : List Nat) (fresh : Bool) : State :=
  let s1 := ts.foldl (fun s t => matchStored (modTile s t (fun x => { x with ctx := BitVec.ofNat 3 c })) t) s
  if fresh then initTokens s1 h c ts else s1

/-- A launch's context, as the one that is current. -/
def noteCtx (s : State) (h c : Nat) : State :=
  modLaunch s h (fun l => { l with ctx := BitVec.ofNat 3 c, images := lmod l.images c (fun i => { i with entered := true }) })

/-- Steps 3 and 4 of R197: a context becomes current on the launch's tiles. -/
def enterCtx (s : State) (h c : Nat) : State :=
  let l := launchOf s h
  enterTiles (noteCtx s h c) h c l.tileset (!(l.images.getD c {}).entered)

/-- Sowers and combine units at the start of a step. -/
def edgesReset (s : State) (h : Nat) (l : Launch) : State :=
  let s1 := l.sowers.foldl (fun s x => modSower s x.1 (fun y => { y with
    closed := false, counters := [], policyHit := [], prefetched := [], deferred := [] })) s
  (List.range 32).foldl (fun s u => if (combOf s u).told.contains h then modComb s u (fun c => { c with told := c.told.filter (· ≠ h) }) else s) s1

/-- The SINKS reports of a step (R135, R198). -/
def sinksAll (s : State) (h : Nat) (l : Launch) : State :=
  (plotsOf l).foldl (fun s p =>
    let n := ((l.tileset.filter (fun t => plotOf t = p)).map (fun t => (tileOf s t).sunk)).sum
    sendEv s p (.sinks h [(l.ctx.toNat, n)])) s

/-- Complete the step: R197, the reports of R198, the order of R243. The launch's last step is over once every context is
complete; a save that waits is taken between steps 2 and 3 (R305). -/
def stepLaunch (s : State) (h : Nat) : State :=
  let l := launchOf s h
  let c := l.ctx
  let sunk := (l.tileset.map (fun t => (tileOf s t).sunk)).sum
  let s1 := grantBoundary (sinksAll s h l) l
  let s2 := modLaunch s1 h (fun l => { l with stepid := l.stepid + 1, images := lmod l.images c.toNat (fun i => { i with sunk := i.sunk + sunk }) })
  let s3 := l.tileset.foldl (fun s t => leaveTile s h c (l.stepid + 1) t) s2
  let s4 := edgesReset { s3 with track := s3.track.filter (fun p => p.1 / 2 ^ 49 ≠ h) } h l
  let s5 := (plotsOf l).foldl discardNear s4
  let ims := (launchOf s5 h).images
  if ims.all (fun i => i.sinks ≤ i.sunk) then modLaunch s5 h (fun l => { l with closing := true })
  else if l.phase = .saving && !l.sowers.isEmpty then
    modLaunch s5 h (fun l => { l with save := some { (l.save.getD {}) with stepPending := true } })
  else enterCtx s5 h ((c.toNat + 1) % ims.length)

/-- `STEP_BARRIER`: the two phases of R221; the combine units' completion tokens leave before the barrier completes. -/
def execStepBarrier (s : State) : Host.Outcome State Fault Refusal :=
  onEvent argN (fun h s =>
    let l := launchOf s h
    let live := match l.phase with | .running => true | .draining => true | .saving => true | _ => false
    if !live || l.closing || l.violated || l.tileset.isEmpty || l.save.any (·.stepPending) || !phase2 s h then s
    else if !allTold s h then (tellUnits s h).orWait s
    else if l.swap.isEmpty then stepLaunch s h
    else match swapAll h l.swap s with
      | .done s1 => stepLaunch s1 h
      | .wait w => keepWaits s w) s

/-! ## Tile timers -/

/-- A word that R191 bounds: `tlwait`, `mwait`, and `pchk` of a timeline, which waits as `tlwait` does. -/
def timedWord (sl : Slot) (i : Instr) : Bool :=
  match i with
  | .tlwait _ => true
  | .mwait _ => true
  | .pchk w => (opVal sl w.a).getLsbD 4
  | _ => false

/-- `CODELET_WAIT_TIMEOUT` (R191). -/
def execCodeletWaitTimeout (s : State) : Host.Outcome State Fault Refusal :=
  onEvent argNN (fun (t, k) s =>
    match slotFin k with
    | none => s
    | some k =>
      match (slotOf s t k).phase, nextWord s t k with
      | .waiting n, some (.ok i) =>
        if timedWord (slotOf s t k) i && due s n 250000000 then faultCodelet s t k (slotPoison s t k cWaitTimeout) else s
      | _, _ => s) s

/-- A unit has no ready firing and no work in progress (R187). -/
def unitIdle (s : State) (t : Nat) (u : TileUnit) : Bool :=
  let tl := tileOf s t
  let none_ (x : IssueClass) : Bool := !tl.ready.any (fun f => classOf (nodeInstr s t f.ctx f.node) = x)
  let noSlots := tl.slots.toList.all (fun x => x.phase = .free)
  match u with
  | .matchUnit => none_ .a && tl.runs.isEmpty
  | .codeletCore => none_ .b && noSlots
  | .vectorEngine => noSlots
  | .matrixEngine => none_ .c && tl.mat.isEmpty && (tl.burst.1 = 0 || cycDue s t 0 4096 tl.burst.2)
  | .memoryPort => none_ .d && !s.reqs.any (fun r => r.tile = t)
  | .networkInterface => none_ .e && !s.net.any (fun f => f.tok.origin.toNat = t)

/-- All units of a tile. -/
def allUnits : List TileUnit := [.matchUnit, .codeletCore, .vectorEngine, .matrixEngine, .memoryPort, .networkInterface]

/-- As time begins to pass, note which units are idle and since when (R187). -/
def noteIdle (s : State) (t : Nat) (x : Tile) : Tile :=
  { x with idle := allUnits.foldl (fun m u =>
      if !unitIdle s t u then adel m (unitCode u)
      else if (afind m (unitCode u)).isSome then m else aput m (unitCode u) (cycNow s (dieOf t) (unitDom u))) x.idle }

/-- `n` ns pass: the time base and the domains' cycles go on (R6, R41). -/
def passTime (s : State) (n : Nat) : State :=
  { s with time := (s.time + n) % 2 ^ 64, cyc := cycPass s n, tiles := s.tiles.map (fun p => (p.1, noteIdle s p.1 p.2)) }

/-- `UNIT_CLOCK_GATE`: after 64 idle cycles of its domain (R187, R446). -/
def execUnitClockGate (s : State) : Host.Outcome State Fault Refusal :=
  onEvent (fun a => match a with | .unit t u => some (t, u) | _ => none) (fun (t, u) s =>
    let idle := (afind (tileOf s t).idle (unitCode u)).any (cycDue s t (unitDom u) 64)
    if !unitIdle s t u || !idle || (tileOf s t).gated.contains u then s
    else modTile s t (fun x => { x with gated := x.gated ++ [u] })) s

end Sys2Proof.Machine
end

