-- ==== Sys2Proof/Machine/Validate.lean ====
section
/-! DEFINITION. Validation of a launch (R121 to R131, R205, R210, R213, R323, R327, R329): what is read of a record and its
tables, the checks 1 to 19 in their order, and the launch that follows from them. -/

namespace Sys2Proof.Machine

open Sys2Proof

/-! ## What is read -/

/-- Reading for a validation: the state, and whether a read has to wait. -/
abbrev Reading := State × Bool

/-- Read `n` bytes under a queue; `none` on a translation fault. -/
def ldBytes (x : Reading) (q : Queue) (ia n : Nat) : Reading × Option (List Byte) :=
  match memRead x.1 q.asid (q.asid = 0) q.func ia n with
  | .ok s b => ((s, x.2), some b)
  | .fault s _ _ => ((s, x.2), none)
  | .held w _ _ => ((w, true), none)
  | .stall w => ((w, true), none)

/-- The bytes a launch record names: the record, its tables, gate images, the header, tile directory and whole of every
graph image; `none` where the read faults or where nothing tells how long the part is. -/
structure Loaded where
  lrec : List Byte
  tset : Option (List Byte)
  wins : Option (List Byte)
  lhdr : Option (List Byte)
  leases : Option (List Byte)
  chan : Option (List Byte)
  dir : Option (List Byte)
  shdr : Option (List Byte)
  sows : Option (List Byte)
  gates : List (Option (List Byte))
  hdrs : List (Option (List Byte))
  tdirs : List (Option (List Byte))
  imgs : List (Option (List Byte))
  deriving DecidableEq, Repr

/-- Fields of the record (R121). -/
def lrNctx (r : List Byte) : Nat := lnat r 2 1
def lrAsid (r : List Byte) : Nat := lnat r 4 2
def lrPtr (r : List Byte) (o : Nat) : Nat := lnat r o 8
def lrExpcnt (r : List Byte) : Nat := lnat r 72 4
def lrPartw (r : List Byte) : Nat := lnat r 28 4
def lrImg (r : List Byte) (c : Nat) : Nat := lnat r (128 + 8 * c) 8

/-- Read a list of parts in order. -/
def ldList (q : Queue) : List (Nat × Nat) → Reading → Reading × List (Option (List Byte))
  | [], x => (x, [])
  | (a, n) :: t, x =>
    let (x1, b) := ldBytes x q a n
    let (x2, bs) := ldList q t x1
    (x2, b :: bs)

/-- Descriptors of a sower table: sower, LEN, IMAGE (R123). -/
def sowDescs (b : List Byte) : List (Nat × Nat × Nat) :=
  (chunks 16 b).map (fun d => (lnat d 0 1, lnat d 4 4, lnat d 8 8))

/-- LENGTH, NTILES, TDIR of a graph image header (R126). -/
def ihLen (h : List Byte) : Nat := lnat h 4 4
def ihNtiles (h : List Byte) : Nat := lnat h 8 2
def ihTdir (h : List Byte) : Nat := lnat h 32 4

/-- Read everything a record names. Nothing longer than its rule allows is read. -/
def loadAll (x0 : Reading) (q : Queue) (r : List Byte) : Reading × Loaded :=
  let (x1, tset) := ldBytes x0 q (lrPtr r 32) 160
  let (x2, wins) := ldBytes x1 q (lrPtr r 40) 192
  let lt := lrPtr r 48
  let (x3, lhdr) := ldBytes x2 q lt (if lt = 0 then 0 else 16)
  let (x4, leases) := ldBytes x3 q (lt + 16) (32 * min 16 (lnat (lhdr.getD []) 0 1))
  let (x5, chan) := ldBytes x4 q (lrPtr r 56) 512
  let ed := lrPtr r 64
  let (x6, dir) := ldBytes x5 q ed (if ed = 0 || 65536 < lrExpcnt r then 0 else 32 * lrExpcnt r)
  let st := lrPtr r 80
  let (x7, shdr) := ldBytes x6 q st (if st = 0 then 0 else 8)
  let (x8, sows) := ldBytes x7 q (st + 8) (16 * min 32 (lnat (shdr.getD []) 0 1))
  let (x9, gates) := ldList q ((sowDescs (sows.getD [])).map (fun d => (d.2.2, if d.2.1 ≤ 4 * 2 ^ 20 then d.2.1 else 0))) x8
  let cs := (List.range (min 8 (lrNctx r))).map (lrImg r)
  let (x10, hdrs) := ldList q (cs.map (fun a => (a, 64))) x9
  let (x11, tdirs) := ldList q ((cs.zip hdrs).map (fun (a, h) => (a + ihTdir (h.getD []), 16 * min 1280 (ihNtiles (h.getD []))))) x10
  let (x12, imgs) := ldList q ((cs.zip hdrs).map (fun (a, h) => (a, if ihLen (h.getD []) ≤ 64 * 2 ^ 20 then ihLen (h.getD []) else 0))) x11
  (x12, { lrec := r, tset := tset, wins := wins, lhdr := lhdr, leases := leases, chan := chan, dir := dir, shdr := shdr,
          sows := sows, gates := gates, hdrs := hdrs, tdirs := tdirs, imgs := imgs })

/-! ## Outcome of a check -/

/-- A check passes, fails naming context, tile and node (R131), or needs bytes whose read faulted. -/
inductive Chk where
  | pass
  | fail (ctx tile node : Nat)
  | access
  deriving DecidableEq, Repr

/-- Fail without naming anything. -/
def failIf (b : Bool) : Chk := if b then .fail 0 0 0 else .pass

/-- The lowest context, then tile, then node among what fails. -/
def lowest (l : List (Nat × Nat × Nat)) : Chk :=
  match l with
  | [] => .pass
  | x :: t =>
    let m := t.foldl (fun (a b : Nat × Nat × Nat) =>
      if b.1 < a.1 || (b.1 = a.1 && (b.2.1 < a.2.1 || (b.2.1 = a.2.1 && b.2.2 < a.2.2))) then b else a) x
    .fail m.1 m.2.1 m.2.2

/-- The first check of a list that does not pass, with its number. -/
def firstChk : Nat → List Chk → Nat × Chk
  | n, [] => (n, .pass)
  | n, .pass :: t => firstChk (n + 1) t
  | n, c :: _ => (n, c)

/-! ## Checks 1 to 9: the record and its tables -/

/-- Check 1: the record's format. -/
def chkFormat (r : List Byte) : Chk :=
  let n := lrNctx r
  let ptrs := [32, 40, 48, 56, 64, 80, 88, 120].map (lrPtr r)
  let imgs := (List.range 8).map (fun c => (c, lrImg r c))
  failIf (lnat r 0 2 ≠ 1 || n < 1 || 8 < n || 4 ≤ lnat r 3 1 || 2 ^ 12 ≤ lrAsid r || 4 ≤ lnat r 6 1 || !zeroes r 7 1 || !zeroes r 76 4
    || !zeroes r 192 48 || ptrs.any (2 ^ 52 ≤ ·) || lrPtr r 32 % 32 ≠ 0
    || imgs.any (fun x => 2 ^ 52 ≤ x.2 || x.2 % 64 ≠ 0 || (if x.1 < n then x.2 = 0 else x.2 ≠ 0)))

/-- Check 3 (R125). -/
def chkPeriodic (r : List Byte) (cls : Nat) : Chk :=
  let period := lnat r 96 8
  let dl := lnat r 112 8
  if bit (lnat r 3 1) 1 then failIf (cls ≠ 7 || period < 1000 || period < dl)
  else failIf (cls = 7 || period ≠ 0 || lnat r 104 8 ≠ 0 || dl ≠ 0)

/-- Tiles of a tile-set bitmap in ascending order (R122). -/
def setTiles (b : List Byte) : List Nat := ((List.range 1280).filter (fun n => (b.getD (n / 8) 0).getLsbD (n % 8))).map tileOfBit

/-- Check 4. -/
def chkTiles (l : Loaded) : Chk :=
  match l.tset with
  | none => .access
  | some b => failIf (setTiles b).isEmpty

/-- Check 5 (R130). -/
def chkPartw (w : Nat) : Chk :=
  failIf (2 ^ 18 ≤ w || pwGB w < 1 || 8 < pwGB w || 64 < pwVB w || 64 < pwAB w || 64 < pwGB w + pwVB w + pwAB w)

/-- Windows of a table (R121). -/
def winsOf (b : List Byte) : List Win := (chunks 24 b).map (fun w => { base := lword w 0, limit := lword w 8, offset := lword w 16 })

/-- Check 6 (R62). -/
def chkWins (l : Loaded) : Chk :=
  match l.wins with
  | none => .access
  | some b => failIf ((winsOf b).any (fun w => !w.ok (BitVec.ofNat 12 (lrAsid l.lrec))))

/-- A lease descriptor (R66). -/
def leaseOk (d : List Byte) : Bool :=
  let st := lnat d 0 8
  let pg := lnat d 8 4
  st % 65536 = 0 && st < 2 ^ 52 && 1 ≤ pg && pg ≤ 0x10000000 && lnat d 12 1 < 8 && zeroes d 13 19
    && iaLocal st + pg * 65536 ≤ 2 ^ 44 && !(192 ≤ iaPkg st && iaPkg st ≤ 254)

/-- Check 7 (R66). -/
def chkLeases (l : Loaded) : Chk :=
  if lrPtr l.lrec 48 = 0 then .pass
  else match l.lhdr with
    | none => .access
    | some h =>
      if 16 < lnat h 0 1 || !zeroes h 1 3 || 1000000 < lnat h 4 4 || 60000 < lnat h 8 4 || !zeroes h 12 4 then .fail 0 0 0
      else match l.leases with
        | none => .access
        | some b => failIf ((chunks 32 b).any (fun d => !leaseOk d))

/-- NODES of a tile by a tile directory (R127). -/
def dirNodes (b : List Byte) (t : Nat) : Option Nat :=
  ((chunks 16 b).find? (fun e => lnat e 0 2 = t)).map (fun e => lnat e 2 2)

/-- Check 8: the clock request and CLKDST. A tile of the tile set that the context's directory does not list is left to check 13
(DESIGN CHOICE, log 64). -/
def chkClock (l : Loaded) : Chk :=
  let req := lword l.lrec 16
  let d := lnat l.lrec 24 4
  let c := bits d 28 26
  let bad := !clkReqOk req || req.toNat / 2 ^ 40 ≠ 0 || d / 2 ^ 29 ≠ 0
  if !bit d 25 then failIf (bad || d ≠ 0)
  else if !((l.tset.map setTiles).getD []).contains (bits d 24 14) || lrNctx l.lrec ≤ c then .fail 0 0 0
  else match l.hdrs.getD c none, l.tdirs.getD c none with
    | some _, some b => match dirNodes b (bits d 24 14) with
      | some n => failIf (bad || n ≤ bits d 13 2)
      | none => failIf bad
    | _, _ => .access

/-- Entries of a channel table (R163). -/
def chansOf (b : List Byte) : List (BitVec 128) := (chunks 16 b).map (fun e => BitVec.ofNat 128 (leNat e))

/-- Check 9 (R122, R164). -/
def chkChans (l : Loaded) : Chk :=
  match l.chan with
  | none => .access
  | some b => failIf (((chansOf b).take 4).any (· ≠ 0) || ((chansOf b).drop 4).any (fun e => !chanOk e))

/-! ## Check 10: the expert directory (R210, R213) -/

/-- A directory entry as read; GEN starts at 0. -/
def imgDirEntry (e : List Byte) : DirEntry :=
  let b := lnat e 0 4
  { bin := decDest (BitVec.ofNat 26 b), ctx := BitVec.ofNat 3 (bits b 28 26), state := BitVec.ofNat 2 (lnat e 4 1),
    pkg := e.getD 5 0, capm1 := e.getD 6 0, pol := e.getD 7 0, timer := lnat e 8 4, quota := lnat e 12 3,
    arank := BitVec.ofNat 3 (lnat e 15 1), alt := lnat e 16 2, gen := 0, wbytes := lnat e 20 4, waddr := lword e 24 }

/-- An entry is well-formed; one of STATE 0 is accepted. -/
def dirEntryOk (cnt : Nat) (e : List Byte) : Bool :=
  let b := lnat e 0 4
  let st := lnat e 4 1
  let pkg := lnat e 5 1
  let pol := lnat e 7 1
  let ar := lnat e 15 1
  st % 4 = 0 ||
    (b / 2 ^ 29 = 0 && (decDest (BitVec.ofNat 26 b)).ok && st < 3 && (pkg ≤ 191 || pkg = 255) && 3 ≤ lnat e 6 1 && pol % 4 ≠ 3 && pol < 64
      && ar < 8 && (ar = 0 || bit pol 5) && lnat e 16 2 < cnt && lnat e 20 4 % 128 = 0)

/-- Two entries name one bin. -/
def sameBin (s : State) (a b : DirEntry) : Bool :=
  a.state ≠ 0 && b.state ≠ 0 && a.bin.v && b.bin.v && a.bin.tile = b.bin.tile && a.bin.node = b.bin.node && a.ctx = b.ctx
    && (a.pkg = b.pkg || (pkgIsLocal s a.pkg.toNat && pkgIsLocal s b.pkg.toNat))

/-- Entries that name one bin agree in CAPM1, TIMER and ADAPTER. -/
def binsAgree (s : State) : List DirEntry → Bool
  | [] => true
  | d :: t => t.all (fun e => !sameBin s d e || (d.capm1 = e.capm1 && d.timer = e.timer && polAdapter d = polAdapter e)) && binsAgree s t

/-- The entries of a directory image. -/
def dirsOf (b : List Byte) : List DirEntry := (chunks 32 b).map imgDirEntry

/-- Check 10. -/
def chkDir (s : State) (l : Loaded) : Chk :=
  let cnt := lrExpcnt l.lrec
  if lrPtr l.lrec 64 = 0 then failIf (cnt ≠ 0)
  else if cnt < 1 || 65536 < cnt then .fail 0 0 0
  else match l.dir with
    | none => .access
    | some b => failIf ((chunks 32 b).any (fun e => !dirEntryOk cnt e) || !binsAgree s (dirsOf b))

/-! ## Check 11: the sower table and gate images (R123, R205) -/

/-- Bytes of a gate's weights. -/
def gateWeights (g : Gate) : Nat := if g.adapter then 0 else g.d * g.nexp * (if g.wfmt = 3 then 2 else 1)

/-- A gate descriptor is well-formed. -/
def gateOk (cnt len ngate : Nat) (img : List Byte) (i : Nat) : Bool :=
  let g := gateOf img i
  let o := 64 + 64 * i
  let mode := lnat img (o + 7) 1
  16 ≤ g.d && g.d ≤ 8192 && g.d % 16 = 0 && 1 ≤ g.nexp && g.nexp ≤ 4096 && g.base + g.nexp ≤ cnt && 1 ≤ g.k && g.k ≤ 8
    && mode < 8 && (!g.adapter || (g.k = 1 && mode = 1 && g.wfmt = 0 && g.woff = 0)) && g.cu ≤ 7 && g.odtag ≤ 1
    && g.outdest.toNat / 2 ^ 29 = 0 && 16 ≤ g.outn && g.outn ≤ 8192 && g.outn % 16 = 0
    && (efmt g.ofmt).isSome && g.ofmt ≠ 0x0C && zeroes img (o + 31) 1 && zeroes img (o + 56) 8
    && (g.adapter || ((g.wfmt = 3 || g.wfmt = 4) && g.woff % 64 = 0 && 64 + 64 * ngate ≤ g.woff && g.woff + gateWeights g ≤ len))

/-- No two extents of a list overlap. -/
def apart : List (Nat × Nat) → Bool
  | [] => true
  | x :: t => t.all (fun y => x.2 = 0 || y.2 = 0 || !extMeet x y) && apart t

/-- A gate image of `len` bytes is accepted with a directory of `cnt` entries. -/
def gateImgOk (cnt len : Nat) (img : List Byte) : Bool :=
  let n := gateCount img
  let gs := (List.range n).map (gateOf img)
  lnat img 0 4 = 0x53470001 && 1 ≤ n && n ≤ 64 && zeroes img 5 59 && 64 + 64 * n ≤ len
    && (List.range n).all (gateOk cnt len n img)
    && apart ((gs.filter (fun g => !g.adapter)).map (fun g => (g.woff, gateWeights g)))
    && 64 + 64 * n + (gs.map gateWeights).sum ≤ len

/-- A descriptor of the sower table (R123). -/
def sowDescOk (d : List Byte) : Bool :=
  let len := lnat d 4 4
  let ia := lnat d 8 8
  lnat d 0 1 ≤ 31 && zeroes d 1 3 && 1 ≤ len && len ≤ 4 * 2 ^ 20 && len % 64 = 0 && ia % 64 = 0 && ia < 2 ^ 52

/-- Check 11. -/
def chkSowers (l : Loaded) : Chk :=
  if lrPtr l.lrec 80 = 0 then .pass
  else match l.shdr with
    | none => .access
    | some h =>
      if lnat h 0 1 < 1 || 32 < lnat h 0 1 || !zeroes h 1 7 then .fail 0 0 0
      else match l.sows with
        | none => .access
        | some b =>
          let ds := sowDescs b
          let bad := (chunks 16 b).any (fun d => !sowDescOk d) || (ds.map (·.1)).eraseDups.length ≠ ds.length
          if ((chunks 16 b).zip l.gates).any (fun p => sowDescOk p.1 && p.2.isNone) then .access
          else failIf (bad || (ds.zip l.gates).any (fun p => p.2.any (fun img => !gateImgOk (lrExpcnt l.lrec) p.1.2.1 img)))

/-! ## Checks 12 and 13: graph images (R126, R127) -/

/-- Fields of a graph image header. -/
def ihNcode (h : List Byte) : Nat := lnat h 10 2
def ihNinit (h : List Byte) : Nat := lnat h 12 2
def ihCodedir (h : List Byte) : Nat := lnat h 36 4
def ihInit (h : List Byte) : Nat := lnat h 40 4

/-- The header's own fields are right. -/
def imgHdrOk (h : List Byte) : Bool :=
  let len := ihLen h
  let parts := [(ihTdir h, 16 * ihNtiles h), (ihCodedir h, 8 * ihNcode h), (ihInit h, 16 * ihNinit h)]
  lnat h 0 4 = 0x47490001 && 64 ≤ len && len ≤ 64 * 2 ^ 20 && ihNcode h ≤ 1024 && zeroes h 18 2 && zeroes h 48 16
    && lnat h 28 4 ≠ 0 && parts.all (fun p => p.1 % 16 = 0 && p.1 + p.2 ≤ len) && apart parts

/-- Check 12 for one context. -/
def chkHdr1 (c : Nat) (h img : Option (List Byte)) : Chk :=
  match h with
  | none => .access
  | some h =>
    if !imgHdrOk h then .fail c 0 0
    else match img with
      | none => .access
      | some b => if lnat h 44 4 ≠ (crc32 (b.drop 64)).toNat then .fail c 0 0 else .pass

/-- The first that does not pass. -/
def firstOfChk : List Chk → Chk
  | [] => .pass
  | .pass :: t => firstOfChk t
  | c :: _ => c

/-- Check 12: one that cannot be read comes before any that is wrong (R131). -/
def chkHeaders (l : Loaded) : Chk :=
  let cs := ((l.hdrs.zip l.imgs).zip (List.range 8)).map (fun x => chkHdr1 x.2 x.1.1 x.1.2)
  if cs.contains .access then .access else firstOfChk cs

/-- Tile directory entries: tile, NODES, NODEOFF (R127). -/
def tileDir (b : List Byte) : List (List Byte) := chunks 16 ((b.drop (ihTdir b)).take (16 * ihNtiles b))

/-- Codelet directory entries (R127). -/
def codeDir (b : List Byte) : List (List Byte) := chunks 8 ((b.drop (ihCodedir b)).take (8 * ihNcode b))

def tileEntOk (len : Nat) (e : List Byte) : Bool :=
  let n := lnat e 2 2
  let o := lnat e 4 4
  1 ≤ n && n ≤ 4096 && o % 16 = 0 && o + 16 * n ≤ len && zeroes e 8 8

def codeEntOk (len : Nat) (e : List Byte) : Bool :=
  let n := lnat e 4 2
  let o := lnat e 0 4
  o % 8 = 0 && 1 ≤ n && n ≤ 256 && zeroes e 6 2 && o + 8 * n ≤ len

/-- Check 13 for one context. -/
def chkDirs1 (tiles : List Nat) (c : Nat) (b : List Byte) : Chk :=
  let es := tileDir b
  if ihNtiles b ≠ tiles.length then .fail c 0 0
  else match (es.zip tiles).find? (fun x => lnat x.1 0 2 ≠ x.2 || !tileEntOk (ihLen b) x.1) with
    | some x => .fail c (lnat x.1 0 2 % 2048) 0
    | none => if (codeDir b).all (codeEntOk (ihLen b)) then .pass else .fail c 0 0

/-- The graph image of a context as read (R126 to R128). -/
def imageIn (ia : Nat) (b : List Byte) : Image :=
  { ia := BitVec.ofNat 52 ia, check := BitVec.ofNat 32 (lnat b 44 4), vregs := lnat b 14 2, aslabs := lnat b 16 1, bars := lnat b 17 1,
    scratch := lnat b 20 4, maxtok := lnat b 24 4, sinks := lnat b 28 4,
    codes := (codeDir b).map (fun e => (chunks 8 ((b.drop (lnat e 0 4)).take (8 * lnat e 4 2))).map (fun w => lword w 0)),
    nodes := (tileDir b).foldl (fun m e => aput m (lnat e 0 2)
      ((chunks 16 ((b.drop (lnat e 4 4)).take (16 * lnat e 2 2))).map (fun x => BitVec.ofNat 128 (leNat x)))) [],
    init := (chunks 16 ((b.drop (ihInit b)).take (16 * ihNinit b))).map (fun e =>
      (decDest (BitVec.ofNat 26 (lnat e 0 4)), BitVec.ofNat 20 (lnat e 4 4), BitVec.ofNat 5 (lnat e 4 4 / 2 ^ 24), lword e 8)) }

/-! ## Checks 15 and 17: words and records -/

/-- Scalar operands a form reads (R322, R323). -/
def formSrcs : Form → List SOp
  | .r _ w => [w.a, w.b, w.c]
  | .i _ _ w => [w.a]
  | .v m w => (if w.sb then [vScalar w] else []) ++ (if 0x84 ≤ m && m ≤ 0x87 then [opCode (w.va.toNat % 32)] else [])
  | .m _ w => [w.base, w.data, w.data2]
  | .s _ w => [w.x]
  | .e _ w => [w.a, w.b, w.c]
  | _ => []

/-- The major opcode of a form. -/
def formMajor : Form → Nat
  | .r m _ => m | .i m _ _ => m | .v m _ => m | .m m _ => m | .s m _ => m | .e m _ => m | .node m _ => m | .event => 0

/-- A word reads a port that a `fire` node of these NOPS and LIT does not have (R323). -/
def beyondPorts (nops : Nat) (lit : Bool) (f : Form) : Bool :=
  (formSrcs f).any (fun o => match o with
    | .inp i => (i.val = 1 && nops < 2 && !lit) || (i.val = 2 && nops < 3)
    | _ => false)

/-- Vector registers that the constant fields of a vector or wavelet word name (R397 to R427). -/
def vecConst (m : Nat) (w : VWord) : List Nat :=
  let va := w.va.toNat
  let vd := w.vd.toNat
  let b := if w.sb then [] else [w.vb.toNat]
  let two : List Nat := [0x60, 0x61, 0x62, 0x64, 0x65, 0x68, 0x69, 0x6A, 0x6B, 0x6C, 0x6D, 0x77, 0x7B]
  if two.contains m then va :: vd :: b ++ vMask w
  else if m = 0x63 || m = 0x78 then va :: vd :: w.vc.toNat :: b ++ vMask w
  else if m = 0x79 then vd :: vMask w
  else if m = 0x81 then va :: vd :: w.vc.toNat :: vMask w
  else if m = 0x82 then [va, vd, vd + 1]
  else if m = 0x83 then [va, va + 1, vd]
  else if m = 0x84 || m = 0x85 then vd :: (if w.sb then [] else moveRegs w (512 * (w.vb.toNat + 1))) ++ vMask w
  else if m = 0x86 || m = 0x87 then idxRegs w ++ vMask w ++ [vd]
  else if m = 0x88 || m = 0x89 || m = 0x8A then bothGroups w
  else if m = 0x8B then va :: groupRegs w.ty vd
  else if m = 0x8C then b ++ bothGroups w
  else if m = 0x8D then dtagRegs w
  else if m = 0x8E then [va]
  else if m = 0x8F then []
  else va :: vd :: vMask w

/-- Vector registers named by the constant fields of a word; OA and OB of `mma`, `mmag` and `mmas` are excepted (R329). -/
def constRegs (i : Instr) : List Nat :=
  match i with
  | .macld w => imageRegs w.ty w.oa.toNat
  | .macst w => imageRegs w.ty w.oa.toNat
  | .mtr w => imageRegs w.ty w.oa.toNat ++ imageRegs w.ty w.ob.toNat
  | .sendv w => [w.v.toNat]
  | .sendx w => [w.v.toNat]
  | i => match i.form with
    | .v m w => vecConst m w
    | _ => []

/-- Accumulator slabs named by the constant fields of a word. -/
def constSlabs (i : Instr) : List Nat :=
  match i.form with
  | .s m w => if m ≤ 0x95 then [w.ad.toNat] else []
  | _ => []

/-- The barrier a `bar` names (R473). -/
def constBar (i : Instr) : Option Nat :=
  match i with
  | .bar w => some (w.imm.toNat % 16)
  | _ => none

/-- A word names something beyond the declarations (reason 15). -/
def wordBeyond (im : Image) (w : Word) : Bool :=
  match decodeWord w with
  | .error _ => false
  | .ok i => (constRegs i).any (im.vregs ≤ ·) || (constSlabs i).any (im.aslabs ≤ ·) || (constBar i).any (im.bars ≤ ·)

/-- A word is an illegal encoding in a launch of this ASID (reason 17). -/
def wordIllegal (asid : Nat) (w : Word) : Bool :=
  match decodeWord w with
  | .error _ => true
  | .ok i => asid ≠ 0 && 0x58 ≤ formMajor i.form && formMajor i.form ≤ 0x5B

/-- A node record with its place. -/
def imageNodes (im : Image) : List (Nat × Nat × BitVec 128) :=
  im.nodes.flatMap (fun p => (p.2.zip (List.range p.2.length)).map (fun x => (p.1, x.2, x.1)))

/-- A record is illegal by itself or, for `fire`, with the codelet it names (R319, R323). -/
def nodeIllegal (im : Image) (x : BitVec 128) : Bool :=
  match decodeNode x with
  | .error _ => true
  | .ok (.nodeFire r) =>
    match im.codes[r.literal.toNat % 1024]? with
    | none => true
    | some ws => ws.any (fun w => match decodeWord w with
        | .ok i => beyondPorts r.nops.toNat r.lit i.form
        | .error _ => false)
  | .ok _ => false

/-- CAP and ADAPTER of a bin by the directory, `none` when it is inert (R213). -/
def dirBin (s : State) (dir : List DirEntry) (c t n : Nat) : Option (Nat × Bool) :=
  (dir.find? (fun d => d.state ≠ 0 && d.bin.v && d.bin.tile.toNat = t && d.bin.node.toNat = n && d.ctx.toNat = c
    && pkgIsLocal s d.pkg.toNat)).map (fun d => (d.capm1.toNat + 1, polAdapter d))

/-- A record names a slab or a bin area beyond the declarations (reason 15). -/
def nodeBeyond (s : State) (dir : List DirEntry) (im : Image) (c t n : Nat) (x : BitVec 128) : Bool :=
  match decodeNode x with
  | .ok (.nodeMctl r) => im.aslabs ≤ (r.literal.extractLsb' 4 6).toNat
  | .ok (.nodeBin r) => match dirBin s dir c t n with
    | some (cap, ad) => im.scratch < binBase r + 4160 * cap + (if ad then 1024 else 0)
    | none => false
  | _ => false

/-- A node index of a tile of the image. -/
def hasNode (im : Image) (t n : Nat) : Bool := n < (aget im.nodes t []).length

/-- A record's destinations lie in the launch (reason 18). -/
def nodeDestOk (im : Image) (x : BitVec 128) : Bool :=
  let r := decNodeRec x
  [r.destA, r.destB].all (fun d => !d.v || hasNode im d.tile.toNat d.node.toNat)
    && (match decodeNode x with
        | .ok (.nodeSwitch r) => hasNode im r.destA.tile.toNat (r.destA.node.toNat + r.literal.toNat - 1)
        | _ => true)

/-- A declaration lies beyond R130. -/
def declBeyond (pw : Nat) (im : Image) : Bool :=
  min 256 (96 * pwVB pw) < im.vregs || min 64 (3 * pwAB pw) < im.aslabs || 16 < im.bars || im.scratch % 16 ≠ 0
    || (64 - pwGB pw - pwVB pw - pwAB pw) * 49152 < im.scratch

/-- Codelets by number. -/
def imageCodes (im : Image) : List (Nat × List Word) := (List.range im.codes.length).zip im.codes

/-- Check 15. -/
def chkRange (s : State) (pw : Nat) (dir : List DirEntry) (ims : List Image) : Chk :=
  lowest ((ims.zip (List.range 8)).flatMap (fun (im, c) =>
    (if declBeyond pw im then [(c, 0, 0)] else [])
      ++ ((imageCodes im).filter (fun k => k.2.any (wordBeyond im))).map (fun k => (c, 0, k.1))
      ++ ((imageNodes im).filter (fun x => nodeBeyond s dir im c x.1 x.2.1 x.2.2)).map (fun x => (c, x.1, x.2.1))))

/-- The context whose term first makes a tile's graph partition sum too large (R130, R131). -/
def overCtx (gb t : Nat) : List (Image × Nat) → Nat → Option Nat
  | [], _ => none
  | (im, c) :: r, n =>
    let m := n + 16 * (aget im.nodes t []).length + 8 * (im.codes.map List.length).sum
    if gb * 49152 < m then some c else overCtx gb t r m

/-- Check 16. -/
def chkGraph (gb : Nat) (tiles : List Nat) (ims : List Image) : Chk :=
  match tiles.findSome? (fun t => (overCtx gb t (ims.zip (List.range 8)) 0).map (fun c => (c, t))) with
  | some (c, t) => .fail c t 0
  | none => .pass

/-- Check 17. -/
def chkWords (asid : Nat) (ims : List Image) : Chk :=
  lowest ((ims.zip (List.range 8)).flatMap (fun (im, c) =>
    ((imageCodes im).filter (fun k => k.2.any (wordIllegal asid))).map (fun k => (c, 0, k.1))
      ++ ((imageNodes im).filter (fun x => nodeIllegal im x.2.2)).map (fun x => (c, x.1, x.2.1))))

/-- Check 18. An initial token whose destination is not valid names none in the launch (DESIGN CHOICE, log 64). -/
def chkDests (ims : List Image) : Chk :=
  lowest ((ims.zip (List.range 8)).flatMap (fun (im, c) =>
    ((imageNodes im).filter (fun x => !nodeDestOk im x.2.2)).map (fun x => (c, x.1, x.2.1))
      ++ (im.init.filter (fun x => !(x.1.v && hasNode im x.1.tile.toNat x.1.node.toNat))).map
        (fun x => (c, x.1.tile.toNat, x.1.node.toNat))))

/-- An initial token's reserved bits and channel (R128). -/
def initOk (e : List Byte) : Bool :=
  let d := lnat e 0 4
  let tc := lnat e 4 4
  d / 2 ^ 26 = 0 && bits tc 23 20 = 0 && tc / 2 ^ 29 = 0 && 4 ≤ bits tc 28 24

/-- Check 19. -/
def chkInit (bs : List (List Byte)) : Chk :=
  lowest ((bs.zip (List.range 8)).flatMap (fun (b, c) =>
    ((chunks 16 ((b.drop (ihInit b)).take (16 * ihNinit b))).filter (fun e => !initOk e)).map (fun e =>
      let d := decDest (BitVec.ofNat 26 (lnat e 0 4))
      (c, d.tile.toNat, d.node.toNat))))

/-! ## All checks -/

/-- The outcome of validation: the number of the first check that does not pass, and how. -/
def validate (s : State) (q : Queue) (l : Loaded) : Nat × Chk :=
  let tiles := (l.tset.map setTiles).getD []
  let head := firstChk 1 [chkFormat l.lrec, failIf (lrAsid l.lrec ≠ q.asid.toNat), chkPeriodic l.lrec q.cls, chkTiles l, chkPartw (lrPartw l.lrec),
    chkWins l, chkLeases l, chkClock l, chkChans l, chkDir s l, chkSowers l, chkHeaders l]
  match head.2 with
  | .pass =>
    let bs := l.imgs.map (·.getD [])
    let ims := (bs.zip (List.range 8)).map (fun x => imageIn (lrImg l.lrec x.2) x.1)
    match firstOfChk ((bs.zip (List.range 8)).map (fun x => chkDirs1 tiles x.2 x.1)) with
    | .pass => firstChk 14 [lowest ((ims.zip (List.range 8)).filterMap (fun x => if 0xFFFFFF < x.1.maxtok then some (x.2, 0, 0) else none)),
        chkRange s (lrPartw l.lrec) (dirsOf (l.dir.getD [])) ims, chkGraph (pwGB (lrPartw l.lrec)) tiles ims,
        chkWords q.asid.toNat ims, chkDests ims, chkInit bs]
    | c => (13, c)
  | _ => head

/-- Leases of a table. -/
def leasesOf (b : List Byte) : List Lease :=
  (chunks 32 b).map (fun d => { start := BitVec.ofNat 52 (lnat d 0 8), pages := lnat d 8 4, access := BitVec.ofNat 3 (lnat d 12 1) })

/-- PTIMEOUT and RTIMEOUT with their defaults (R66). -/
def leaseTimes (h : List Byte) : Nat × Nat :=
  (if lnat h 4 4 = 0 then 10000 else lnat h 4 4, if lnat h 8 4 = 0 then 1000 else lnat h 8 4)

/-- The fields of a launch as its record and tables give them (R121 to R128). -/
def fillLaunch (l0 : Launch) (l : Loaded) : Launch :=
  let r := l.lrec
  let fl := lnat r 3 1
  let tm := leaseTimes (l.lhdr.getD [])
  let est := lnat r 12 4
  { l0 with
    det := bit fl 0
    periodic := bit fl 1
    asid := BitVec.ofNat 12 (lrAsid r)
    pclass := lnat r 6 1
    seed := BitVec.ofNat 32 (lnat r 8 4)
    estime := if est = 0 then 0xFFFFFFFF else BitVec.ofNat 32 est
    clkreq := lword r 16
    clkdst := BitVec.ofNat 32 (lnat r 24 4)
    partw := BitVec.ofNat 32 (lrPartw r)
    tileset := (l.tset.map setTiles).getD []
    wins := winsOf (l.wins.getD [])
    leases := leasesOf (l.leases.getD [])
    ptimeout := tm.1
    rtimeout := tm.2
    chan := chansOf (l.chan.getD [])
    dir := dirsOf (l.dir.getD [])
    gates := l.gates.map (·.getD [])
    sowers := (sowDescs (l.sows.getD [])).map (fun d => (d.1, d.2.1, BitVec.ofNat 52 d.2.2))
    dlog := BitVec.ofNat 52 (lrPtr r 88)
    flog := BitVec.ofNat 52 (lrPtr r 120)
    period := lnat r 96 8
    start := lnat r 104 8
    deadline := lnat r 112 8
    images := ((l.imgs.map (·.getD [])).zip (List.range 8)).map (fun x => imageIn (lrImg r x.2) x.1) }

end Sys2Proof.Machine
end

