-- ==== Sys2Proof/Machine/Launch.lean ====
section
/-! DEFINITION. The life of a launch at the headland but for its placing: dispatch and validation (R115, R131, R133), leases
(R67 to R69), periodic releases and deadlines (R146), and its completion (R132, R149). -/

namespace Sys2Proof.Machine

open Sys2Proof

/-! ## LEASE counts (R67, R69) -/

/-- What raising the LEASE count of a page comes to. -/
inductive LeaseRes where
  | raised (s : State)
  | notValid
  | full

/-- Raise the LEASE count of a page by 1. -/
def raiseLease (s : State) (asid : BitVec 12) (ia : Nat) : LeaseRes :=
  match pteLoc s asid ia with
  | none => .notValid
  | some (_, _, p) =>
    let w := rdLE s.mem p 8
    if !pteValid w then .notValid
    else if pteLease w = 255 then .full
    else .raised { s with mem := wrLE s.mem p 8 (w + 2 ^ 56) }

/-- Lower the LEASE count of a page by 1. -/
def lowerLease (s : State) (asid : BitVec 12) (ia : Nat) : State :=
  match pteLoc s asid ia with
  | none => s
  | some (_, _, p) =>
    let w := rdLE s.mem p 8
    if pteLease w = 0 then s else { s with mem := wrLE s.mem p 8 (w - 2 ^ 56) }

/-- Restore every LEASE count a launch raised; those on another package are that headland's to lower. -/
def dropLeases (s : State) (h : Nat) : State :=
  let l := launchOf s h
  modLaunch ((l.raised.filter (fun ia => pkgIsLocal s (iaPkg ia.toNat))).foldl (fun s ia => lowerLease s l.asid ia.toNat) s) h (fun l => { l with raised := [], toRaise := [] })

/-- Pages that a launch's descriptors cover, one for each descriptor; pages of the host aperture need no step (R67). -/
def leasePages (ds : List Lease) : List (BitVec 52) :=
  ds.flatMap (fun d => ((List.range d.pages).map (fun i => d.start + BitVec.ofNat 52 (i * 65536))).filter (fun a => !isHostIA a.toNat))

/-! ## Completion (R132, R149) -/

/-- The bytes of RESULT. -/
def resultBytes (l : Launch) : List Byte :=
  bytesLE 2 l.reason ++ bytesLE 1 l.failCtx ++ [0] ++ bytesLE 2 l.failTile ++ bytesLE 2 l.failNode ++ bytesLE 8 l.endTime

/-- Write RESULT; a fault leaves it unwritten (R132). -/
def writeResult (s0 : State) (h : Nat) : Tried :=
  let s := asAsker s0 (askLaunch h)
  let l := launchOf s h
  (memWrite s l.asid (l.asid = 0) l.func (l.lrec.toNat + 240) (resultBytes l)).thenTry (fun s1 _ => .done s1)

/-- The launch is no more: tokens of its inbound queue are handled as for an exited destination (R312), its directory store is free
(R210). -/
def retire (s : State) (h : Nat) : State :=
  let l := launchOf s h
  let s1 := forgetFar (setLaunch (giveChunks s 0 l.dstore) h
    { l with phase := .done, save := none, dstore := [], gates := [], clkWindow := none, clkHeld := none }) (askLaunch h)
  ((l.save.map (·.inbound)).getD []).foldl (fun s f => deadLetter s f) s1

/-- Complete a launch that holds neither tiles nor leases: RESULT, then the packet's end (R132). -/
def finishLaunch (s : State) (h : Nat) : Tried :=
  match writeResult s h with
  | .wait w => .wait w
  | .done s1 =>
    let s2 := retire s1 h
    let l := launchOf s2 h
    match (queueOf s2 l.qid).pkts.find? (fun p => p.launch = h) with
    | none => .done s2
    | some p => endPkt s2 l.qid p (l.status.getD 0)

/-- A launch that is ending lowers its leases and completes; while it cannot, it stays and is tried again (R149). -/
def tryFinish (s : State) (h : Nat) : State :=
  let s1 := dropLeases s h
  (finishLaunch s1 h).orWait s1

/-- A launch that holds no tiles ends with a status. -/
def endNow (s : State) (h status : Nat) : State :=
  tryFinish (modLaunch s h (fun l => { l with status := some status, phase := .ending, endTime := s.time })) h

/-- End a launch that holds no tiles at once; any other is killed on its tiles (R149). -/
def endLaunch (s : State) (h status : Nat) : State :=
  match (launchOf s h).phase with
  | .leasing => endNow s h status
  | .waiting => endNow s h status
  | .saved => endNow (loseMembers s h) h status
  | _ => askEnd s h status

/-! ## LAUNCH (R115, R131) -/

/-- A launch touches a plot whose controller is lost (R137). -/
def touchesFailed (s : State) (l : Launch) : Bool := (plotsOf l).any s.boot.plotFail.contains

/-- The release time of a periodic launch and what its queue then holds (R146). -/
def releaseTime (s : State) (q : Queue) (l : Launch) : Nat :=
  let r := max q.nextrel l.start
  if r < s.time then r + cdiv (s.time - r) l.period * l.period else r

/-- A launch that passed validation: its leases are next; a periodic one waits for its release (R67, R146). -/
def admitLaunch (s : State) (h qid : Nat) (l : Launch) : State :=
  let r := if l.periodic then releaseTime s (queueOf s qid) l else 0
  let s1 := setLaunch s h { l with phase := .leasing, leaseSince := s.time, toRaise := leasePages l.leases, release := r }
  if !l.periodic then s1
  else modQueue s1 qid (fun q => { q with
    nextrel := r + l.period, period := l.period, pkts := q.pkts.map (fun p => if p.launch = h then { p with async := r ≤ s.time } else p) })

/-- The packet has become a launch: it runs on its own (R115). -/
def runsAlone (s : State) (qid : Nat) (p : Pkt) (h : Nat) : State :=
  modQueue (modPkt s qid p (fun p => { p with launch := h, async := true })) qid (fun q => { q with step := 0, pktsave := [] })

/-- Carry out a LAUNCH packet: everything its record names is read (log 69); until it has been, the packet is tried again. A launch
of ASID 0 uses the host base of physical function 0 (R17). -/
def launchPkt (s0 : State) (qid : Nat) (q : Queue) (p : Pkt) : State :=
  let (h, s) := newId s0
  let l0 : Launch := { handle := h, lrec := BitVec.ofNat 52 (pq p 8), qid := qid, func := if q.asid = 0 then 0 else q.func, cls := q.cls,
                       asid := q.asid, dispatched := s.time }
  let stop (s : State) (l : Launch) (status : Nat) : State := endNow (setLaunch (runsAlone s qid p h) h l) h status
  match memRead s q.asid (q.asid = 0) q.func l0.lrec.toNat 256 with
  | .fault s2 _ _ => stop s2 l0 9
  | .ok s2 r =>
    let ((s3, wait), ld) := loadAll (s2, false) q r
    if wait then keepWaits s0 s3
    else
      let v := validate s3 q ld
      let l1 := fillLaunch l0 ld
      if 4 < v.1 && touchesFailed s3 l1 then stop s3 { l0 with tileset := l1.tileset } 6
      else match v.2 with
        | .pass => admitLaunch (runsAlone s3 qid p h) h qid l1
        | .access => stop s3 l0 9
        | .fail c t n => stop s3 { l0 with reason := v.1, failCtx := c, failTile := t, failNode := n } 1
  | .held w _ _ => keepWaits s0 w
  | .stall w => keepWaits s0 w

/-- `LAUNCH` packet (R115); no launch is accepted while device memory is locked (R98). -/
def execLaunch (s : State) : Host.Outcome State Fault Refusal :=
  onEvent argN (fun qid s => if s.boot.memLocked then s else dispatch 2 false launchPkt qid s) s

/-! ## Leases (R67) -/

/-- The body of a PAGE_REQUEST event (R23). -/
def pageRequest (l : Launch) (ia : BitVec 52) : List Byte :=
  bytesLE 8 1 ++ bytesLE 8 l.asid.toNat ++ bytesLE 8 ia.toNat ++ bytesLE 8 (l.handle % 65536) ++ bytesLE 8 l.lrec.toNat

/-- One page of a launch: raised, asked for, waiting, or a failure of the leases. -/
def leasePage (s : State) (h : Nat) (ia : BitVec 52) : State × Bool :=
  let l := launchOf s h
  if !pkgIsLocal s (iaPkg ia.toNat) then (modLaunch s h (fun l => { l with toRaise := l.toRaise ++ [ia] }), true)
  else match raiseLease s l.asid ia.toNat with
    | .raised s1 => (modLaunch s1 h (fun l => { l with raised := l.raised ++ [ia] }), true)
    | .full => (s, false)
    | .notValid =>
      let s1 := if l.requested.contains ia then s
        else modLaunch (postEvent s l.func (pageRequest l ia)) h (fun l => { l with requested := l.requested ++ [ia] })
      (modLaunch s1 h (fun l => { l with toRaise := l.toRaise ++ [ia] }), true)

/-- Try every page still to be raised. -/
def leaseAll (h : Nat) : List (BitVec 52) → State → State × Bool
  | [], s => (s, true)
  | ia :: t, s => match leasePage s h ia with
    | (s1, false) => (s1, false)
    | (s1, true) => leaseAll h t s1

/-- Raise what can be raised; with nothing left the launch waits for placement (R67, R138). -/
def leaseGo (s : State) (h : Nat) : State :=
  match leaseAll h (launchOf s h).toRaise (modLaunch s h (fun l => { l with toRaise := [] })) with
  | (s1, false) => endLaunch s1 h 2
  | (s1, true) => if (launchOf s1 h).toRaise.isEmpty then modLaunch s1 h (fun l => { l with phase := .waiting }) else s1

/-- The headland of another package has raised the LEASE count of a page there (R67). -/
def leaseFar (s : State) (h page : Nat) : State :=
  let l := launchOf s h
  match l.toRaise.find? (fun ia => ia.toNat / 65536 = page) with
  | none => s
  | some ia =>
    if pkgIsLocal s (iaPkg ia.toNat) || !joined s then s
    else leaseGo (setLaunch s h { l with toRaise := l.toRaise.erase ia, raised := l.raised ++ [ia] }) h

/-- What `LEASE_RESIDENCY` brings: nothing, a page that another package's headland has raised, or that such a headland cannot. -/
def argLease : EvArgs → Option (Nat × Option (Option Nat))
  | .n h => some (h, none)
  | .nn h page => some (h, some (some page))
  | .answerBad h _ => some (h, some none)
  | _ => none

/-- `LEASE_RESIDENCY` (R67). -/
def execLeaseResidency (s : State) : Host.Outcome State Fault Refusal :=
  onEvent argLease (fun (h, x) s =>
    let l := launchOf s h
    if l.phase ≠ .leasing then s
    else match x with
      | none => leaseGo s h
      | some (some page) => leaseFar s h page
      | some none =>
        if joined s && l.toRaise.any (fun ia => !pkgIsLocal s (iaPkg ia.toNat)) then endLaunch s h 2 else s) s

/-- Another package's headland asks for a page of this one (R67, R69): the answer is given once its PTE is valid. -/
def peerLease (s : State) (asid : BitVec 12) (ia : Nat) (up : Bool) : State :=
  if !joined s || isHostIA ia || !pkgIsLocal s (iaPkg ia) then s
  else if !up then lowerLease s asid ia
  else match raiseLease s asid ia with
    | .raised s1 => gotOut s1 (.lease asid ia true)
    | .full => gotOut s (.lease asid ia false)
    | .notValid => s

/-- `LEASE_TIMEOUT` (R67). -/
def execLeaseTimeout (s : State) : Host.Outcome State Fault Refusal :=
  onEvent argN (fun h s =>
    let l := launchOf s h
    if l.phase = .leasing && due s l.leaseSince (l.rtimeout * 1000000) then endLaunch s h 2 else s) s

/-! ## Periodic launches (R143, R146) -/

/-- `PERIODIC_PENDING`: an unbound periodic queue within 100 µs of its next release is marked (R143). -/
def execPeriodicPending (s : State) : Host.Outcome State Fault Refusal :=
  onEvent argN (fun qid s =>
    let q := queueOf s qid
    if q.period ≠ 0 && q.dptr < q.wptr && q.nextrel ≤ s.time + 100000 then wakeQueue s qid else s) s

/-- `PERIODIC_RELEASE`: from its release on the launch may be placed and its queue dispatches again (R146). -/
def execPeriodicRelease (s : State) : Host.Outcome State Fault Refusal :=
  onEvent argN (fun h s =>
    let l := launchOf s h
    if !l.periodic || s.time < l.release then s
    else modQueue s l.qid (fun q => { q with pkts := q.pkts.map (fun p => if p.launch = h then { p with async := true } else p) })) s

/-- `DEADLINE_EXPIRE` (R146). -/
def execDeadlineExpire (s : State) : Host.Outcome State Fault Refusal :=
  onEvent argN (fun h s =>
    let l := launchOf s h
    if l.periodic && l.deadline ≠ 0 && l.release + l.deadline ≤ s.time && l.phase ≠ .done && l.status.isNone && !l.closing then
      endLaunch s h 6
    else s) s

end Sys2Proof.Machine
end

