-- ==== Sys2Proof/Machine/Control.lean ====
section
/-! DEFINITION. CONTROL words of a queue (R101, R112, R142). -/

namespace Sys2Proof.Machine

open Sys2Proof

/-- End a packet by its queue's RESET or DISABLE, a launch whatever its PCLASS (R112). -/
def killPkt (s : State) (qid : Nat) (p : Pkt) : State :=
  if p.launch ≠ 0 then endLaunch s p.launch 6
  else finishPkt (forgetFar (forgetHeld s (queueOf s qid).asid) (askQueue qid p.idx)) qid p 6

/-- Begin a RESET (2) or DISABLE (3) (R112). -/
def drainQueue (s : State) (qid word : Nat) : State :=
  let s1 := modQueue s qid (fun q => { q with draining := some word, state := .halting })
  let s2 := setPendBit s1 qid false
  let ps := (queueOf s2 qid).pkts
  let s3 := ps.foldl (fun s p => killPkt s qid p) s2
  mirror (modQueue s3 qid drained) qid

/-- A CONTROL word in the states that accept it. -/
def control (word : Nat) (s : State) (qid : Nat) : State :=
  let q := queueOf s qid
  if q.draining.isSome then s
  else match word, q.state with
    | 1, .halted =>
      let s1 := setQueue s qid { q with status := 0, state := .active }
      if q.dptr < q.wptr then wakeQueue s1 qid else s1
    | 2, .active => drainQueue s qid 2
    | 2, .halting => drainQueue s qid 2
    | 2, .halted => drainQueue s qid 2
    | 3, .active => drainQueue s qid 3
    | 3, .halted => drainQueue s qid 3
    | 4, .idle => let s1 := setQueue s qid { q with en := true, state := .active }
                  if q.dptr < q.wptr then wakeQueue s1 qid else s1
    | _, _ => s

/-- A CONTROL event. -/
def controlEvent (word : Nat) (s : State) : Host.Outcome State Fault Refusal :=
  onEvent argHost (fun (f, q, n, _) s =>
    if s.boot.stage ≠ .ready then s else kickPage s f q n (fun s => control word s q)) s

/-- `RESUME` (R112). -/
def execResume (s : State) : Host.Outcome State Fault Refusal := controlEvent 1 s
/-- `RESET` (R112). -/
def execResetQueue (s : State) : Host.Outcome State Fault Refusal := controlEvent 2 s
/-- `DISABLE` (R112). -/
def execDisable (s : State) : Host.Outcome State Fault Refusal := controlEvent 3 s
/-- `ENABLE` (R112). -/
def execEnable (s : State) : Host.Outcome State Fault Refusal := controlEvent 4 s

end Sys2Proof.Machine
end

