-- ==== Sys2Proof/Machine/Sched.lean ====
section
/-! DEFINITION. The scheduler of the headland: slots, ageing and selection (R141 to R145), placement and pre-emption
decisions (R138, R139, R148, R307). -/

namespace Sys2Proof.Machine

open Sys2Proof

/-! ## Priorities (R144) -/

/-- Effective priority of a queue. -/
def effPrio (s : State) (q : Queue) : Nat := if q.cls = 7 then 7 else min 6 (q.cls + q.age.toNat / s.params.agediv)

/-- `AGE_STEP`: every millisecond the queues that are pending and unbound grow older (R144). -/
def execAgeStep (s : State) : Host.Outcome State Fault Refusal :=
  onEvent argNone (fun _ s =>
    if !timerDue s tmAge 1000000 then s
    else timerSet { s with queues := s.queues.map (fun p =>
        if pendBit s p.1 && p.2.slot.isNone then (p.1, { p.2 with age := satInc p.2.age }) else p) } tmAge) s

/-! ## Selection (R145) -/

/-- A bound queue is idle (R145). -/
def queueIdle (s : State) (q : Queue) : Bool :=
  q.wptr ≤ q.dptr || waitsBarrier s q
    || (syncPkt q).any (fun p => lnat p.bytes 0 1 = 5 && p.outcome.isNone && p.status.isNone)
    || q.state ≠ .active || (q.period ≠ 0 && s.time + 1000000 < q.nextrel)

/-- The queue that holds or will hold a slot. -/
def slotUser (s : State) (k : Nat) : Option Nat :=
  match afind s.claims k with
  | some q => some q
  | none => (afind s.slotQ k).map (·.1)

/-- Slots that the queues of a function hold or have claimed. -/
def slotsOf (s : State) (f : Nat) : Nat :=
  ((List.range 64).filter (fun k => (slotUser s k).any (fun q => (queueOf s q).func = f))).length

/-- A function may hold one more slot. -/
def belowQuota (s : State) (f : Nat) : Bool := slotsOf s f < s.params.quota.getD f 64

/-- Slots whose bound queue a candidate of function `f` may displace: bound, not claimed, in reach (R145, step 2). -/
def inReach (s : State) (f : Nat) : List (Nat × Nat × Nat) :=
  s.slotQ.filter (fun x => (afind s.claims x.1).isNone && ((queueOf s x.2.1).func = f || belowQuota s f))

/-- The victim among slots: lowest priority, then bound earliest. -/
def slotVictim (s : State) (l : List (Nat × Nat × Nat)) : Option Nat :=
  (l.foldl (fun (a : Option (Nat × Nat × Nat)) x => match a with
    | none => some x
    | some y =>
      let ex := effPrio s (queueOf s x.2.1)
      let ey := effPrio s (queueOf s y.2.1)
      if ex < ey || (ex = ey && x.2.2 < y.2.2) then some x else some y) none).map (·.1)

/-- The slot a candidate takes: free within quota, then that of an idle queue, then that of a busy one (R145). -/
def slotFor (s : State) (c : Nat) : Option Nat :=
  let q := queueOf s c
  let free := (List.range 64).find? (fun k => (slotUser s k).isNone)
  if free.isSome && belowQuota s q.func then free
  else
    let reach := inReach s q.func
    match slotVictim s (reach.filter (fun x => queueIdle s (queueOf s x.2.1))) with
    | some k => some k
    | none => slotVictim s (reach.filter (fun x =>
        let v := queueOf s x.2.1
        let old := due s x.2.2 s.params.quantum
        !queueIdle s v && (effPrio s v < effPrio s q || (effPrio s v = effPrio s q && old)) && (old || q.cls = 7)))

/-- Candidate a goes before candidate b (R145). -/
def candBefore (s : State) (a b : Nat) : Bool :=
  let x := queueOf s a
  let y := queueOf s b
  let ex := effPrio s x
  let ey := effPrio s y
  ey < ex || (ex = ey && (x.lastrun < y.lastrun || (x.lastrun = y.lastrun && a < b)))

def candInsert (s : State) (a : Nat) : List Nat → List Nat
  | [] => [a]
  | b :: t => if candBefore s a b then a :: b :: t else b :: candInsert s a t

/-- The pending unbound queues in order, those with a claim left out. -/
def candidates (s : State) : List Nat :=
  let qs := (s.queues.filter (fun p => pendBit s p.1 && p.2.slot.isNone && !s.claims.any (fun c => c.2 = p.1))).map (·.1)
  qs.foldl (fun l a => candInsert s a l) []

/-- Claims whose queue is still pending. -/
def liveClaims (s : State) : State := { s with claims := s.claims.filter (fun c => pendBit s c.2 && (queueOf s c.2).slot.isNone) }

/-- A pass is due at once: a slot is free within the quota of a pending queue (R145). -/
def passNow (s : State) : Bool :=
  (candidates s).any (fun c => belowQuota s (queueOf s c).func) && (List.range 64).any (fun k => (slotUser s k).isNone)

/-- One selection pass (R145). -/
def selectPass (s : State) : State :=
  (candidates s).foldl (fun s c => match slotFor s c with
    | some k => { s with claims := aput s.claims k c }
    | none => s) s

/-- `SCHEDULER_TICK`: a selection pass every 100 µs, or at once (R144, R145). -/
def execSchedulerTick (s : State) : Host.Outcome State Fault Refusal :=
  onEvent argNone (fun _ s0 =>
    let s := liveClaims s0
    if timerDue s tmTick 100000 then timerSet (selectPass s) tmTick
    else if passNow s then selectPass s else s0) s

/-- The queue stands at a boundary (R120). -/
def atBoundary (q : Queue) : Bool :=
  match syncPkt q with
  | none => true
  | some p => lnat p.bytes 0 1 = 5 || (lnat p.bytes 0 1 = 7 && p.step = 1)

/-- An unbound queue has something left to do at once: a packet to dispatch, an outcome of its WAIT, or the signal of a WRITE_SIGNAL
(R120, R143; log 70). -/
def leftOver (s : State) (q : Queue) : Bool :=
  couldDispatch s q || (q.state = .active && (syncPkt q).any (fun p => lnat p.bytes 0 1 = 7 || p.outcome.isSome))

/-- `QUEUE_UNBIND`: a queue whose slot is claimed leaves it at a boundary (R120, R141). -/
def execQueueUnbind (s : State) : Host.Outcome State Fault Refusal :=
  onEvent argN (fun qid s =>
    let q := queueOf s qid
    match q.slot with
    | none => s
    | some k =>
      if (afind s.claims k).isNone || !atBoundary q then s
      else
        let s1 := { setQueue s qid { q with slot := none, lastrun := s.time } with slotQ := adel s.slotQ k }
        if leftOver s q then wakeQueue s1 qid else s1) s

/-- `QUEUE_BIND`: a queue takes the free slot it has claimed (R141, R143); a WAIT that has its outcome ends (R120). -/
def execQueueBind (s : State) : Host.Outcome State Fault Refusal :=
  onEvent argN (fun qid s0 =>
    let s := liveClaims s0
    match s.claims.find? (fun c => c.2 = qid) with
    | none => s
    | some (k, _) =>
      if (afind s.slotQ k).isSome then s
      else
        let s1 := { setPendBit (modQueue s qid (fun q => { q with slot := some k, age := 0 })) qid false with
                    slotQ := aput s.slotQ k (qid, s.time), claims := adel s.claims k }
        waitOn (fun s _ _ => s) qid s1) s

/-! ## Placement (R138, R139, R203) -/

/-- Launches that hold a tile or sower of a launch. -/
def blockers (s : State) (l : Launch) : List Nat :=
  (s.launches.filter (fun p => holdsTiles p.2 &&
    (p.2.tileset.any l.tileset.contains || p.2.sowers.any (fun x => l.sowers.any (fun y => y.1 = x.1))))).map (·.1)

/-- A launch waits for placement: never placed, or checkpointed; a periodic one after its release (R138, R146, R148). -/
def isWaiting (s : State) (l : Launch) : Bool := (l.phase = .waiting || l.phase = .saved) && l.status.isNone && l.release ≤ s.time

/-- Launch a is ordered before launch b (R138). -/
def waitBefore (s : State) (a b : Nat) : Bool :=
  let x := launchOf s a
  let y := launchOf s b
  y.cls < x.cls || (x.cls = y.cls && (x.dispatched < y.dispatched || (x.dispatched = y.dispatched && a < b)))

def waitInsert (s : State) (a : Nat) : List Nat → List Nat
  | [] => [a]
  | b :: t => if waitBefore s a b then a :: b :: t else b :: waitInsert s a t

/-- The waiting launches in order. -/
def waitingOrder (s : State) : List Nat :=
  ((s.launches.filter (fun p => isWaiting s p.2)).map (·.1)).foldl (fun l a => waitInsert s a l) []

/-- HBM4E has room for the directory store of a launch that is to be placed (R210; log 70). -/
def storeRoom (s : State) (l : Launch) : Bool := l.dir.isEmpty || !l.dstore.isEmpty || 512 ≤ (tierOf s 0).free.length

/-- Take the 2 MiB of a launch's directory store: the lowest free chunks of HBM4E (R210). -/
def takeStore (s : State) (h : Nat) : State :=
  let l := launchOf s h
  if l.dir.isEmpty || !l.dstore.isEmpty then s
  else
    let cs := (tierOf s 0).free.take 512
    modTier (setLaunch s h { l with dstore := cs }) 0 (fun t => { t with free := t.free.drop 512 })

/-- The launch placed next: its tiles and sowers are free, and no launch ordered before it shares a tile. -/
def placeable (s : State) : List Nat → List Nat → Option Nat
  | _, [] => none
  | before, h :: t =>
    let l := launchOf s h
    if (blockers s l).isEmpty && storeRoom s l && !before.any (fun b => (launchOf s b).tileset.any l.tileset.contains) then some h
    else placeable s (before ++ [h]) t

/-- Begin the placement of a launch: its directory store and sowers are held, PLACE or RESTORE goes to its plots. -/
def beginPlace (s0 : State) (h : Nat) : State :=
  let s := takeStore s0 h
  let l := launchOf s h
  let again := l.phase = .saved
  let s1 := l.sowers.foldl (fun s x => { s with sowers := aput s.sowers x.1 { holder := h } }) s
  let s2 := setLaunch s1 h { l with phase := if again then .restoring else .placing, answers := [], drainAsk := false }
  cmdAll s2 l (if again then .restore h else .place h)

/-! ## Pre-emption (R147, R148, R307) -/

/-- The remaining time of a launch in µs. -/
def remaining (l : Launch) : Nat :=
  ((plotsOf l).map (fun p => (aget l.est p l.estime).toNat)).foldl max 0

/-- Units that the save image of a launch will take in the save region (R307 to R309), its inbound queue left out. -/
def imageUnits (s : State) (l : Launch) : Nat :=
  let gb := pwGB l.partw.toNat
  let flits (t : Nat) : Nat := ((s.net.filter (fun f => f.launch = l.handle && f.tok.origin.toNat = t)).map (fun f => flitsOf f.tok)).sum
  let n := 1 + cdiv (16 * l.tileset.length) 4096 + (l.tileset.map (fun t => cdiv (4096 + 16 * statefulNodes (tileOf s t)) 4096 + 6 + 17 + cdiv (flits t * 64) 4096 + (64 - gb) * 12)).sum
  n + cdiv (8 * n) 4096

/-- Units of the save region in use. -/
def unitsUsed (s : State) : Nat :=
  (s.launches.map (fun p => (p.2.save.map (fun x => x.units + cdiv (64 * inboundUse x) 4096)).getD 0)).sum

/-- How a victim is pre-empted (R148): `none` when it is not. -/
inductive Method where
  | none_ | drain | kill | save
  deriving DecidableEq, Repr

/-- The decision table of R148 with the size of the save region (R307). -/
def methodFor (s : State) (n v : Launch) : Method :=
  if v.pclass = 3 || n.cls ≤ v.cls then .none_
  else if remaining v ≤ s.params.drainmax then .drain
  else if n.cls = 7 && v.pclass = 0 then .kill
  else if v.pclass ≤ 1 then
    if s.boot.saveUnits < unitsUsed s + imageUnits s v then .drain else .save
  else .drain

/-- Ask for a save of a launch. -/
def beginSave (s : State) (v : Nat) : State :=
  let l := launchOf s v
  let x : SaveImage := { units := imageUnits s l }
  cmdAll (setLaunch s v { l with phase := .saving, saveSince := s.time, answers := [], save := some x }) l (.save v)

/-- Apply a method to a running victim. -/
def preempt (s : State) (v : Nat) (m : Method) : State :=
  match m with
  | .none_ => s
  | .drain => modLaunch s v (fun l => { l with phase := .draining, drainAsk := remaining l ≤ s.params.drainmax })
  | .kill => cmdAll (modLaunch s v (fun l => { l with killAsk := true })) (launchOf s v) (.kill v)
  | .save => beginSave s v

/-- Victims already yield, or run and may be pre-empted. -/
def mayYield (s : State) (n : Launch) (v : Nat) : Bool :=
  let l := launchOf s v
  match l.phase with
  | .running => methodFor s n l ≠ .none_
  | .draining => true | .saving => true | .killing => true | .freeing => true
  | _ => false

/-- A running launch that has not retired and has not been asked to leave its tiles. -/
def mayAsk (l : Launch) : Bool := l.phase = .running && !l.closing && !l.killAsk

/-- Pre-emption for the first waiting launch. -/
def preemptFor (s : State) (h : Nat) : State :=
  let n := launchOf s h
  let vs := blockers s n
  if !vs.all (mayYield s n) then s
  else (vs.filter (fun v => mayAsk (launchOf s v))).foldl
    (fun s v => preempt s v (methodFor s n (launchOf s v))) s

/-- Launches that have ended and wait only to complete. -/
def unfinished (s : State) : List Nat := (s.launches.filter (fun p => p.2.phase = .ending)).map (·.1)

/-- While a checkpoint of device memory is asked for, running launches are pre-empted by their PCLASS and none is placed; the
copy begins when none holds tiles (R97). -/
def ckptPreempt (s : State) : State :=
  (s.launches.filter (fun p => mayAsk p.2)).foldl (fun s p =>
    if p.2.pclass ≤ 1 then beginSave s p.1
    else modLaunch s p.1 (fun l => { l with phase := .draining })) s

/-- What the headland does in place of placing while a checkpoint stands. -/
def ckptPass (s : State) (c : Ckpt) : State :=
  if c.copying then s
  else if s.launches.any (fun p => holdsTiles p.2) then ckptPreempt s
  else { s with ckpt := some { c with copying := true }, ckptImage := s.ckptImage.map (fun x => { x with complete := false }) }

/-- `PLACEMENT` (R97, R138, R148): a launch that could not complete yet completes; otherwise the next placeable launch is placed;
otherwise the first waiting one pre-empts. -/
def execPlacement (s : State) : Host.Outcome State Fault Refusal :=
  onEvent argNone (fun _ s =>
    match unfinished s with
    | h :: _ => tryFinish s h
    | [] => match s.ckpt with
      | some c => ckptPass s c
      | none =>
        let ws := waitingOrder s
        match placeable s [] ws with
        | some h => beginPlace s h
        | none => match ws with
          | h :: _ => preemptFor s h
          | [] => s) s

end Sys2Proof.Machine
end

