-- ==== Sys2Proof/Machine/Plots.lean ====
section
/-! DEFINITION. The plot controllers' commands and the headland's answers to their events (R135 to R140, R147 to R149, R156,
R198, R304 to R313), and the loss of a plot controller (R137). -/

namespace Sys2Proof.Machine

open Sys2Proof

/-! ## Links (R136) -/

/-- The plot takes the head of its inbox: the permit returns and a waiting command moves up. -/
def takeCmd (s : State) (p : Nat) : Option (Msg × State) :=
  let k := linkOf s p
  if k.failed then none
  else match k.cmds with
    | [] => none
    | x :: t => some (x.msg, modLink s p (fun k => match k.cmdWait with
        | [] => { k with cmds := t, cmdPermits := k.cmdPermits + 1, stuckSince := s.time }
        | w :: ws => { k with cmds := t ++ [{ seq := k.cmdSeq, msg := w }], cmdWait := ws, cmdSeq := k.cmdSeq + 1,
                              stuckSince := s.time }))

/-- The headland takes the head of a plot's event queue. -/
def takeEv (s : State) (p : Nat) : Option (Msg × State) :=
  let k := linkOf s p
  match k.events with
  | [] => none
  | x :: t => some (x.msg, modLink s p (fun k => match k.evWait with
      | [] => { k with events := t, evPermits := k.evPermits + 1 }
      | w :: ws => { k with events := t ++ [{ seq := k.evSeq, msg := w }], evWait := ws, evSeq := k.evSeq + 1 }))

/-- An event on a link's command of one kind: `f` gives what follows once it is taken, from the state in which it still waits. -/
def cmdEvent (pick : Msg → Option Nat) (f : State → State → Nat → Nat → State) (s : State) : Host.Outcome State Fault Refusal :=
  onEvent argN (fun p s =>
    match takeCmd s p with
    | none => s
    | some (m, s1) => match pick m with
      | none => s
      | some h => f s s1 p h) s

/-- An event on a message from a plot. -/
def evEvent (pick : Msg → Option α) (f : State → Nat → α → State) (s : State) : Host.Outcome State Fault Refusal :=
  onEvent argN (fun p s =>
    match takeEv s p with
    | none => s
    | some (m, s1) => match pick m with
      | none => s
      | some x => f s1 p x) s

/-- The tiles of a launch on a plot. -/
def plotTiles (l : Launch) (p : Nat) : List Nat := l.tileset.filter (fun t => plotOf t = p)

/-- A plot answers. -/
def answer (s : State) (p h : Nat) (a : PlotAns) : State := sendEv s p (.answer h a)

/-! ## PLACE (R61, R62, R122, R123, R131, R135, R147, R155, R156, R273) -/

/-- A tile as it holds nothing; which of a pair runs stays (R14). -/
def blankTile (tl : Tile) : Tile := { parked := tl.parked, active := tl.active, pausedAt := tl.pausedAt, idleCyc := tl.idleCyc }

/-- A logical tile as placement loads it; the entries of channels 0 to 3 are firmware's (R134, R162). -/
def placedTile (s : State) (h t : Nat) : Tile :=
  let l := launchOf s h
  let cs := List.range l.images.length
  let valid := (l.wins.zip (List.range 8)).foldl (fun (b : BitVec 8) x => if x.1.valid then b ||| BitVec.twoPow 8 x.2 else b) 0
  { blankTile (tileOf s t) with
    launch := h
    partw := l.partw
    estr := l.estime
    clkq := l.clkreq
    dbgctl := (fnOf s l.func).brk
    chan := (List.range 4).map (fun i => s.boot.chans.getD i 0) ++ l.chan.drop 4
    seed := cs.map (fun c => (c, l.seed))
    winsel := cs.map (fun c => (c, valid))
    wins := cs.map (fun c => (c, l.wins))
    graph := (l.images.zip cs).map (fun x => (x.2, { nodes := aget x.1.nodes t [], codes := x.1.codes })) }

/-- Load the gate images of a launch into the SRAM of its sowers, as they were read at dispatch (R123, R133). -/
def loadSowers (s : State) (l : Launch) : State :=
  (l.sowers.zip l.gates).foldl (fun s x => modSower s x.1.1 (fun y => { y with image := x.2 })) s

/-- The first plot of a launch also loads what the launch has once. -/
def firstPlot (l : Launch) (p : Nat) : Bool := (plotsOf l).head? = some p

/-- Place a launch's tiles on a plot. -/
def placeTiles (s : State) (p h : Nat) : State :=
  (plotTiles (launchOf s h) p).foldl (fun s t => claimLimbo (binConfig (setTile s t (placedTile s h t)) t) t) s

/-- `PLACE`: the plot loads what was read and checked at dispatch (R131, R133, R139, R156; log 69). -/
def execPlace (s : State) : Host.Outcome State Fault Refusal :=
  cmdEvent (fun m => match m with | .place h => some h | _ => none) (fun _ s p h =>
    let l := launchOf s h
    if l.phase ≠ .placing then s
    else answer (placeTiles (if firstPlot l p then loadSowers s l else s) p h) p h .placed) s

/-- Note a plot's answer. -/
def noteAnswer (s : State) (p h : Nat) (a : PlotAns) : State := modLaunch s h (fun l => { l with answers := aput l.answers p a })

/-- The answers of all plots, once they are complete. -/
def allAnswers (l : Launch) : Option (List PlotAns) :=
  let as := (plotsOf l).filterMap (fun p => afind l.answers p)
  if as.length = (plotsOf l).length then some as else none

/-- Of two failed validations the one reported (R131): number of the check, ACCESS_FAULT or not, context, tile, node. -/
def earlierFail (a b : Nat × Bool × Nat × Nat × Nat) : Nat × Bool × Nat × Nat × Nat :=
  let key (x : Nat × Bool × Nat × Nat × Nat) : List Nat := [x.1, x.2.2.1, x.2.2.2.1, x.2.2.2.2]
  if lexLt (key b) (key a) then b else a

/-- The failure among the answers to PLACE. -/
def placeFail (as : List PlotAns) : Option (Nat × Bool × Nat × Nat × Nat) :=
  (as.filterMap (fun a => match a with
    | .rejected n c t k => some (n, false, c, t, k)
    | .accessFault n => some (n, true, 0, 0, 0)
    | _ => none)).foldl (fun acc x => match acc with
      | none => some x
      | some y => some (earlierFail y x)) none

/-- Ask the plots to free a launch's tiles; it then completes with a status. -/
def askFree (s : State) (h status : Nat) : State :=
  let l := launchOf s h
  cmdAll (setLaunch s h { l with status := some status, phase := .freeing, answers := [] }) l (.freeTiles h)

/-- Every plot has answered PLACE (R139). -/
def placedAll (s : State) (h : Nat) (as : List PlotAns) : State :=
  match placeFail as with
  | some (n, acc, c, t, k) =>
    if acc then askFree s h 9
    else askFree (modLaunch s h (fun l => { l with reason := n, failCtx := c, failTile := t, failNode := k })) h 1
  | none =>
    let s1 := modLaunch s h (fun l => { l with phase := .running, answers := [], est := [], estSent := [] })
    askReeval (cmdAll s1 (launchOf s1 h) (.go h)) 1

/-- `PLACED`: PLACED or REJECTED from a plot (R139). -/
def execPlaced (s : State) : Host.Outcome State Fault Refusal :=
  evEvent (fun m => match m with
      | .answer h .placed => some (h, PlotAns.placed)
      | .answer h (.rejected n c t k) => some (h, .rejected n c t k)
      | .answer h (.accessFault n) => some (h, .accessFault n)
      | _ => none)
    (fun s p (h, a) =>
      let l := launchOf s h
      if l.phase ≠ .placing then s
      else
        let s1 := noteAnswer s p h a
        match allAnswers (launchOf s1 h) with
        | none => s1
        | some as => placedAll s1 h as) s

/-! ## GO (R128, R139, R305, R313) -/

/-- A GO for the launch is still on its way to another plot. -/
def goElsewhere (s : State) (h : Nat) : Bool := s.links.any (fun k => k.2.cmds.any (fun x => x.msg = .go h) || k.2.cmdWait.contains (.go h))

/-- Insert a token of an inbound queue by TAG, behind equal ones (R313). -/
def tagInsert (f : Flight) : List Flight → List Flight
  | [] => [f]
  | g :: t => if f.tok.tag.toNat < g.tok.tag.toNat then f :: g :: t else g :: tagInsert f t

/-- Deliver a token of a save image to the launch's tile; without room in the overflow region it stays in the network. -/
def resumeTok (h : Nat) (s : State) (f : Flight) : State := (deliver s f).getD (inject s { f with formedFor := some h })

/-- A restored launch resumes: the steps its barrier left, scanned flits, the inbound queue, engine commands and held writes
(R305, R313). -/
def resumeLaunch (s : State) (h : Nat) (x : SaveImage) : State :=
  let l := launchOf s h
  let s1 := modLaunch { s with cmds := s.cmds ++ x.cmds, reqs := s.reqs ++ x.reqs } h (fun l => { l with save := none })
  let s2 := if x.stepPending then enterCtx s1 h ((l.ctx.toNat + 1) % l.images.length) else s1
  let s3 := x.scanned.foldl (fun s f => (arrive s f).getD (inject s f)) s2
  (x.inbound.foldl (fun fs f => tagInsert f fs) []).foldl (resumeTok h) s3

/-- `GO`: on the plot's tiles context 0 becomes current and its initial tokens are injected (R128, R135); a restored launch resumes
with the last plot's GO (R313). -/
def execGo (s : State) : Host.Outcome State Fault Refusal :=
  cmdEvent (fun m => match m with | .go h => some h | _ => none) (fun _ s p h =>
    let s1 := discardNear s p
    let l := launchOf s1 h
    if l.phase ≠ .running then s1
    else match l.save with
      | none => enterTiles (noteCtx s1 h 0) h 0 (plotTiles l p) true
      | some x => if goElsewhere s1 h then s1 else resumeLaunch s1 h x) s

/-! ## KILL and FREE (R304, R149, R174) -/

/-- The units of a tile that have made accesses of their own (R29). -/
def tileAskers (s : State) (t : Nat) : List Nat :=
  let tl := tileOf s t
  tl.slots.toList.map (fun x => x.firing.party) ++ (s.cmds.filter (fun c => c.tile = t)).map (·.id) ++ tl.mat.map (·.id)
    ++ (List.range 4).map (askSlot t)

/-- Clear one tile of a launch that has ended: what it had issued is withdrawn. -/
def clearTile (s0 : State) (t : Nat) : State :=
  let s := (tileAskers s0 t).foldl forgetFar s0
  let s1 := { s with
    reqs := s.reqs.filter (fun r => r.tile ≠ t)
    cmds := s.cmds.filter (fun c => c.tile ≠ t)
    recodes := (s.recodes.filter (fun r => r.begun || !r.issuer.any (fun x => x.1 = t))).map
      (fun r => if r.issuer.any (fun x => x.1 = t) then { r with issuer := none } else r) }
  setTile (forgetHeld (pruneHeld s1) (tileLaunch s t).asid) t (blankTile (tileOf s t))

/-- Drop what a launch still has in the network. -/
def dropFlits (s : State) (h : Nat) : State := { s with net := s.net.filter (fun f => f.launch ≠ h) }

/-- Tokens of a plot's overflow queues: dropped, or handled as for an exited destination (R174). -/
def clearOvf (dead : Bool) (s : State) (t : Nat) : State :=
  let (s1, fs) := ovfDrain s t
  if dead then fs.foldl (fun s f => deadLetter s f) s1 else s1

/-- Stop, clear and free a launch's tiles on a plot. -/
def clearPlot (dead : Bool) (s : State) (p h : Nat) : State :=
  ((plotTiles (launchOf s h) p).filter (fun t => (tileOf s t).launch = h)).foldl (fun s t => clearTile (clearOvf dead s t) t) s

/-- A KILL sent for a newcomer takes effect with the first plot that takes it, unless the launch has retired (R148). -/
def killTakes (s : State) (h : Nat) : State :=
  let l := launchOf s h
  if !l.killAsk || l.closing || l.status.isSome then s
  else loseMembers (setLaunch s h { l with status := some 6, phase := .killing, answers := [] }) h

/-- `KILL` (R304). -/
def execKill (s : State) : Host.Outcome State Fault Refusal :=
  cmdEvent (fun m => match m with | .kill h => some h | _ => none) (fun _ s p h =>
    let s1 := killTakes s h
    if (launchOf s1 h).phase = .killing then answer (clearPlot false (dropFlits s1 h) p h) p h .freed else s1) s

/-- `FREE`: tokens that the launch's queues still hold are undeliverable (R174). -/
def execFreeTiles (s : State) : Host.Outcome State Fault Refusal :=
  cmdEvent (fun m => match m with | .freeTiles h => some h | _ => none) (fun _ s p h =>
    answer (clearPlot true s p h) p h .freed) s

/-- The sowers and combine units of an ended launch hold nothing of it; the sowers are free (R203). -/
def freeEdges (s : State) (h : Nat) (l : Launch) : State :=
  let s1 := l.sowers.foldl (fun s x => if (sowerOf s x.1).holder = h then
    let s2 := (ovfDrain s (sowerId x.1)).1
    { s2 with sowers := adel s2.sowers x.1 } else s) s
  { s1 with combs := s1.combs.map (fun c => (c.1, { c.2 with
      groups := c.2.groups.filter (fun g => g.launch ≠ h)
      rows := c.2.rows.filter (fun r => !l.sowers.any (fun x => x.1 = r.1 / 64))
      slabRows := c.2.slabRows.filter (fun r => !l.sowers.any (fun x => x.1 = r.gate / 64))
      told := c.2.told.filter (· ≠ h) })) }

/-- All plots have freed a launch's tiles: leases and tiles are released, then it completes (R149, R132). -/
def freedAll (s : State) (h : Nat) : State :=
  let l := launchOf s h
  let s1 := freeEdges (modLaunch s h (fun l => { l with phase := .ending, endTime := s.time })) h l
  tryFinish (askReeval s1 1) h

/-- Note FREED of a plot. -/
def noteFreed (s : State) (p h : Nat) : State :=
  let s1 := noteAnswer s p h .freed
  let l := launchOf s1 h
  if (plotsOf l).all (fun p => afind l.answers p = some .freed) then freedAll s1 h else s1

/-- `FREED` (R149). -/
def execFreed (s : State) : Host.Outcome State Fault Refusal :=
  evEvent (fun m => match m with | .answer h .freed => some h | _ => none)
    (fun s p h =>
      match (launchOf s h).phase with
      | .killing => noteFreed s p h
      | .freeing => noteFreed s p h
      | _ => s) s

/-! ## SAVE (R305 to R311) -/

/-- SAVE has taken effect on a plot and its tiles have come to rest. -/
def saveReady (s : State) (p h : Nat) : Bool :=
  let l := launchOf s h
  let ts := plotTiles l p
  (saveStops s l || (l.save.any (·.stepPending) && !collBusy s l))
    && ts.all (fun t => (tileOf s t).slots.toList.all (fun x => x.phase ≠ .running))
    && s.reqs.all (fun r => !ts.contains r.tile || r.held.isSome)

/-- A token that the tiles of the launch on a plot sent, or one of its edge units. -/
def scannedBy (p h : Nat) (f : Flight) : Bool :=
  let o := f.tok.origin.toNat
  f.launch = h && (!isTile o || plotOf o = p)

/-- Save the tiles of a launch on a plot; held values are in their slabs first (R438). -/
def savePlot (s : State) (p h : Nat) : State :=
  let l := launchOf s h
  let ts := plotTiles l p
  let x := l.save.getD {}
  let x1 := { x with
    tiles := ts.foldl (fun m t => aput m t { tileOf s t with diverted := [], heldSlab := none }) x.tiles
    scanned := x.scanned ++ s.net.filter (scannedBy p h)
    cmds := x.cmds ++ s.cmds.filter (fun c => ts.contains c.tile)
    reqs := x.reqs ++ (s.reqs.filter (fun r => ts.contains r.tile)).map (fun r => { r with held := none, pte := none }) }
  let s1 := modLaunch { s with net := s.net.filter (fun f => !scannedBy p h f) } h (fun l => { l with save := some x1 })
  ts.foldl (fun s t =>
    let (s2, fs) := ovfDrain s t
    clearTile (fs.foldl (fun s f => toInbound s h f) s2) t) s1

/-- `SAVE` (R306). A launch whose last step is over takes no save (R148). -/
def execSave (s : State) : Host.Outcome State Fault Refusal :=
  cmdEvent (fun m => match m with | .save h => some h | _ => none) (fun s0 s p h =>
    let l := launchOf s h
    if l.closing || l.phase ≠ .saving then s
    else if !saveReady s p h then s0
    else answer (savePlot s p h) p h .saved) s

/-- The request that a launch's window still holds is accepted when its tiles have been saved, and stands in the image (R46,
log 64). -/
def closeWindow (s : State) (h : Nat) : State :=
  match (launchOf s h).clkHeld with
  | none => dropClkReq s h
  | some v => dropClkReq (eachTile (acceptReq s h v) h (fun t => { t with clkev := t.clkev ||| evCOAL })) h

/-- Every plot has answered SAVED: the image gets its tags, the launch waits again, its sowers are free (R148, R306, R307, R309).
DESIGN CHOICE (log 64): the re-evaluation that follows carries CAUSE 1. -/
def savedAll (s0 : State) (h : Nat) : State :=
  let s := closeWindow s0 h
  let l := launchOf s h
  let (n, s1) := newId s
  let x := { l.save.getD {} with boots := s.boot.ret.boots, stepid := l.stepid, time := s.time, checks := l.images.map (·.check) }
  let s2 := setLaunch s1 h { l with phase := .saved, answers := [], savedOrder := n, save := some (sealImage x) }
  askReeval (l.sowers.foldl (fun s x => if (sowerOf s x.1).holder = h then { s with sowers := adel s.sowers x.1 } else s) s2) 1

/-! ## RESTORE (R312) -/

/-- What reading the graph images again comes to: they are as they were, one cannot be read or its CHECK differs, or a read waits. -/
inductive Reread where
  | images (s : State) (ims : List Image)
  | lost (s : State)
  | wait (w : State)

/-- Read the graph images of a launch again, each with the CHECK it had. -/
def rereadImages (l : Launch) : List (Image × BitVec 32) → State → Reread
  | [], s => .images s []
  | (im, chk) :: t, s =>
    match memRead s l.asid (l.asid = 0) l.func im.ia.toNat 64 with
    | .fault s1 _ _ => .lost s1
    | .held w _ _ => .wait w
    | .stall w => .wait w
    | .ok s1 hd =>
      if lnat hd 44 4 ≠ chk.toNat || !imgHdrOk hd then .lost s1
      else match memRead s1 l.asid (l.asid = 0) l.func im.ia.toNat (ihLen hd) with
        | .fault s2 _ _ => .lost s2
        | .held w _ _ => .wait w
        | .stall w => .wait w
        | .ok s2 b => match rereadImages l t s2 with
          | .images s3 ims => .images s3 (imageIn im.ia.toNat b :: ims)
          | r => r

/-- A saved tile with its graph partition loaded again (R308); of the uncorrectable words those of the pool are uncorrectable again
(R310). -/
def restoredTile (x : SaveImage) (ims : List Image) (t : Nat) : Tile :=
  let tl := aget x.tiles t {}
  { tl with graph := (ims.zip (List.range ims.length)).map (fun i => (i.2, { nodes := aget i.1.nodes t [], codes := i.1.codes }))
            badWords := tl.badWords.filter (· < 2 ^ 40) }

/-- A tile takes up what a save image holds of it. -/
def reloadTile (x : SaveImage) (ims : List Image) (s : State) (t : Nat) : State :=
  let tl := tileOf s t
  setTile s t { restoredTile x ims t with parked := tl.parked, active := tl.active, pausedAt := tl.pausedAt, idleCyc := tl.idleCyc }

/-- `RESTORE` (R312). -/
def execRestore (s : State) : Host.Outcome State Fault Refusal :=
  cmdEvent (fun m => match m with | .restore h => some h | _ => none) (fun s0 s p h =>
    let l := launchOf s h
    let x := l.save.getD {}
    if l.phase ≠ .restoring then s
    else if !imageHeadOk s.boot.ret.boots l x then answer s p h .lost
    else match rereadImages l (l.images.zip x.checks) (asAsker s (askLaunch h)) with
      | .wait w => keepWaits s0 w
      | .lost s1 => answer s1 p h .lost
      | .images s1 ims =>
        if !imageSound s1.boot.saveKey l x then answer s1 p h .lost
        else
          let s2 := if firstPlot l p then loadSowers s1 l else s1
          answer ((plotTiles l p).foldl (reloadTile x ims) s2) p h .restored) s

/-- `SAVED`: SAVED, RESTORED or LOST from a plot (R148, R312, R313). -/
def execSaved (s : State) : Host.Outcome State Fault Refusal :=
  evEvent (fun m => match m with
      | .answer h .saved => some (h, PlotAns.saved)
      | .answer h .restored => some (h, .restored)
      | .answer h .lost => some (h, .lost)
      | _ => none)
    (fun s p (h, a) =>
      let l := launchOf s h
      match l.phase, a with
      | .saving, .saved =>
        let s1 := noteAnswer s p h a
        if (allAnswers (launchOf s1 h)).isSome then savedAll s1 h else s1
      | .restoring, .lost => askEnd s h 4
      | .restoring, .restored =>
        let s1 := noteAnswer s p h a
        if (allAnswers (launchOf s1 h)).isSome then
          let s2 := modLaunch s1 h (fun l => { l with phase := .running, answers := [] })
          askReeval (cmdAll s2 (launchOf s2 h) (.go h)) 1
        else s1
      | _, _ => s) s

/-! ## FAULT, ESTIMATE, SINKS (R68, R140, R147, R198) -/

/-- `FAULT`: the launch of a lease violation is ended (R68). -/
def execFault (s : State) : Host.Outcome State Fault Refusal :=
  evEvent (fun m => match m with | .fault h p => some (h, p) | _ => none)
    (fun s _ (h, p) => if p.code = cLeaseViolation then askEnd s h 3 else s) s

/-- The estimate of a plot arrives; a drain that has become too long is made a checkpoint (R148). -/
def takeEstimate (s : State) (p h : Nat) (v : BitVec 32) : State :=
  let s1 := modLaunch s h (fun l => { l with est := aput l.est p v })
  let l := launchOf s1 h
  if l.phase = .draining && l.drainAsk && !l.closing && s.params.drainmax < remaining l && l.pclass ≤ 1
      && unitsUsed s1 + imageUnits s1 l ≤ s.boot.saveUnits then beginSave s1 h
  else s1

/-- Estimates that plots still owe: the value changed and 10 µs have passed (R147). -/
def oweEstimates (s : State) (p : Nat) : State :=
  (s.launches.filter (fun x => holdsTiles x.2 && (plotsOf x.2).contains p && (afind x.2.estSent p).isSome)).foldl
    (fun s x => sendEstimate s x.1 p) s

/-- `ESTIMATE` (R147): the headland takes a plot's estimate; with none on the way the plot sends what it owes. -/
def execEstimate (s : State) : Host.Outcome State Fault Refusal :=
  onEvent argN (fun p s =>
    match takeEv s p with
    | some (.estimate h v, s1) => takeEstimate s1 p h v
    | some _ => s
    | none => oweEstimates s p) s

/-- Add one SINKS report of every plot to the totals; the launch retires once every context is complete (R140, R198). -/
def addSinks (s : State) (h : Nat) : State :=
  let l := launchOf s h
  let heads := (plotsOf l).filterMap (fun p => (aget l.sinkAns p []).head?)
  if heads.length ≠ (plotsOf l).length then s
  else
    let tot := heads.foldl (fun m x => amod m x.1 0 (· + x.2)) l.sinkTotals
    let s1 := modLaunch s h (fun l => { l with
      sinkTotals := tot, sinkAns := l.sinkAns.map (fun x => (x.1, x.2.drop 1)) })
    if l.closing && l.status.isNone && (l.images.zip (List.range 8)).all (fun x => x.1.sinks ≤ aget tot x.2 0) then askFree s1 h 0 else s1

/-- `SINKS` (R140, R198). -/
def execSinks (s : State) : Host.Outcome State Fault Refusal :=
  evEvent (fun m => match m with | .sinks h cs => some (h, cs) | _ => none)
    (fun s p (h, cs) => addSinks (modLaunch s h (fun l => { l with sinkAns := aput l.sinkAns p (aget l.sinkAns p [] ++ cs) })) h) s

/-! ## The loss of a plot controller (R137, R150) -/

/-- A crash entry (R150) of a cause, with the launch and queue involved. -/
def crashBytes (s : State) (cause plot : Nat) (r : CpuRegs) : List Byte :=
  let b := bytesLE 8 s.time ++ bytesLE 1 cause ++ bytesLE 1 plot ++ bytesLE 2 r.qid.toNat ++ bytesLE 4 s.boot.ret.boots.toNat
    ++ bytesLE 8 r.lrec.toNat ++ bytesLE 8 r.pc.toNat ++ bytesLE 8 r.mcause.toNat ++ bytesLE 8 r.mtval.toNat ++ padTo r.data 76
  b ++ bytesLE 4 (crc32 b).toNat

/-- The bytes of the record's header that its check covers. -/
def retHeader (r : Retention) : List Byte := bytesLE 4 r.magic.toNat ++ bytesLE 4 r.boots.toNat ++ bytesLE 4 r.next ++ bytesLE 4 r.count.toNat

/-- The header of the record with its check. -/
def sealRet (r : Retention) : Retention := { r with hcrc := crc32 (retHeader r) }

/-- Write a crash entry (R150). -/
def writeCrash (s : State) (cause plot : Nat) (r : CpuRegs) : State :=
  let x := s.boot.ret
  { s with boot := { s.boot with ret := sealRet { x with
      entries := aput x.entries x.next (crashBytes s cause plot r), next := (x.next + 1) % 511, count := satInc x.count } } }

/-- A launch is ended with KILLED whatever it was to end with. -/
def overKill (s : State) (h : Nat) : State := modLaunch s h (fun l => { l with status := some 6 })

/-- What becomes of a launch with tiles on a plot that is lost: it completes with KILLED; a plot that owed FREED is asked again
(R137). -/
def plotLost (p : Nat) (s : State) (h : Nat) : State :=
  let l := launchOf s h
  match l.phase with
  | .killing => if afind l.answers p = some .freed then s else sendCmd (overKill s h) p (.kill h)
  | .freeing => if afind l.answers p = some .freed then s else sendCmd (overKill s h) p (.freeTiles h)
  | _ => if holdsTiles l then askEnd s h 6 else s

/-- Launches with a tile on a plot. -/
def onPlot (s : State) (p : Nat) : List Nat := (s.launches.filter (fun x => (plotsOf x.2).contains p)).map (·.1)

/-- The controller has returned no permit for 10 ms while a command is outstanding (R137). -/
def plotStuck (s : State) (p : Nat) : Bool := !(linkOf s p).cmds.isEmpty && due s (linkOf s p).stuckSince 10000000

/-- A plot controller fails: a crash entry with the headland's registers, a reload with fresh permits, its launches killed (R137,
R150). -/
def plotFails (s : State) (p : Nat) (r : CpuRegs) : State :=
  let s1 := writeCrash s 3 p r
  let s2 := { s1 with links := aput s1.links p { failed := true }
                      boot := { s1.boot with reloads := aput s1.boot.reloads p s.time } }
  (onPlot s2 p).foldl (plotLost p) s2

/-- The controller of a plot works: it is neither gone nor being reloaded. -/
def plotWorks (s : State) (p : Nat) : Bool := p < 80 && !s.boot.plotFail.contains p && (afind s.boot.reloads p).isNone

/-- `PLOT_CONTROLLER_FAILED`: the headland finds a plot whose permits do not come back, or past 128 the watchdog of a plot expires
(R137). -/
def execPlotControllerFailed (s : State) : Host.Outcome State Fault Refusal :=
  onEvent (fun a => match a with | .cpu n r => some (n, r) | _ => none) (fun (n, r) s =>
    if n < 128 then if plotWorks s n && plotStuck s n then plotFails s n r else s
    else if plotWorks s (n - 128) then plotFails s (n - 128) r else s) s

/-- A reloaded controller answers: its link works again (R137). -/
def plotReloaded (s : State) (p : Nat) : State :=
  if (afind s.boot.reloads p).isNone then s
  else modLink { s with boot := { s.boot with reloads := adel s.boot.reloads p } } p (fun k => { k with failed := false, stuckSince := s.time })

/-- A launch when a plot of it is gone for good. -/
def plotGone (p : Nat) (s : State) (h : Nat) : State :=
  let l := launchOf s h
  match l.phase with
  | .done => s
  | .ending => s
  | .killing => noteFreed (clearPlot false s p h) p h
  | .freeing => noteFreed (clearPlot false s p h) p h
  | _ =>
    let s1 := endLaunch s h 6
    if (launchOf s1 h).phase = .killing then noteFreed (clearPlot false s1 p h) p h else s1

/-- `PLOT_FAIL`: the reload has not answered within 10 ms; until reset no launch runs on the plot (R137). -/
def execPlotFail (s : State) : Host.Outcome State Fault Refusal :=
  onEvent argN (fun p s =>
    match afind s.boot.reloads p with
    | none => s
    | some t0 =>
      if !due s t0 10000000 then s
      else
        let s1 := { s with boot := { s.boot with reloads := adel s.boot.reloads p, plotFail := s.boot.plotFail ++ [p] } }
        (onPlot s1 p).foldl (plotGone p) s1) s

end Sys2Proof.Machine
end

