-- ==== Sys2Proof/Machine/Engine.lean ====
section
/-! DEFINITION. Engine commands and their timelines (R463 to R472), barriers, counted signals and step end (R473 to R475),
and the completion of a command (R241, R294). -/

namespace Sys2Proof.Machine

open Sys2Proof

/-! ## Issue (R463, R464) -/

/-- Commands outstanding on a counter. -/
def outstanding (s : State) (t : Nat) (c : BitVec 3) (tl : BitVec 2) : Nat :=
  (s.cmds.filter (fun x => x.tile = t && x.ctx = c && x.tl = tl)).length

/-- Number a command and put it on its way: issue releases at `.plot`; a 17th command waits (R463, R464). -/
def issueCmd (s : State) (t : Nat) (sl : Slot) (tl : BitVec 2) (kind : CmdKind) (src dst : Range) : WRes :=
  let c := sl.firing.ctx
  if 16 ≤ outstanding s t c tl || relWaits s sl.reqs sl.firing.clock .plot then .wait s
  else
    let (i, s1) := newId s
    let (p, s2) := newId s1
    let tm := timelineOf s2 t c tl
    let s3 := setTimeline s2 t c tl { tm with issued := tm.issued + 1 }
    let x : Cmd := { id := i, tile := t, ctx := c, tl := tl, num := tm.issued + 1, kind := kind, src := src, dst := dst,
                     seed := sl.seed, tag := sl.firing.tag, node := BitVec.ofNat 12 sl.firing.node, party := p,
                     clock := sl.firing.clock }
    .go { s3 with cmds := s3.cmds ++ [x] }

/-- Form one range of a command: a scratchpad extent or a memory extent (R464). An empty range is not checked. -/
def cmdRange (s : State) (t : Nat) (sl : Slot) (spad : Bool) (acc : Acc) (a : Word) (n : Nat) : Except Poison Range :=
  if spad then
    if n ≠ 0 && (imageOf s t sl.firing.ctx).scratch < a.toNat + n then .error (mkPoison s t sl.firing cPartition)
    else .ok (.spad a.toNat)
  else if n = 0 then .ok (.mem {})
  else match slotAddr s t sl acc a n with
    | .error c => .error (vaPoison s t sl.firing c a)
    | .ok f => .ok (.mem f)

/-- Two ranges of one space overlap (R465). -/
def rangesMeet (s : State) (a b : Range) (n m : Nat) : Bool :=
  match a, b with
  | .spad x, .spad y => extMeet (x, n) (y, m)
  | .mem x, .mem y => x.asid = y.asid && extMeet (iaNorm s x.ia.toNat, n) (iaNorm s y.ia.toNat, m)
  | _, _ => false

/-- Form both ranges and issue; `copy` refuses ranges that overlap. -/
def twoRanges (s : State) (t : Nat) (k : Fin 4) (sl : Slot) (tl : BitVec 2) (kind : CmdKind) (copy : Bool)
    (ss : Bool) (sa : Word) (sn : Nat) (ds : Bool) (da : Word) (dn : Nat) : WRes :=
  match cmdRange s t sl ss .load sa sn with
  | .error p => .fault s p
  | .ok src => match cmdRange s t sl ds .store da dn with
    | .error p => .fault s p
    | .ok dst =>
      if copy && rangesMeet s src dst sn dn then wfault s t k cIllegal else issueCmd s t sl tl kind src dst

/-- `cpy dst, src, n, tlN, #f` (R465). -/
def execCpy (w : EWord) (s : State) : Host.Outcome State Fault Refusal :=
  runWordE w.g (fun _ _ sl => 2 ^ 32 < (opVal sl w.c).toNat) false [w.a, w.b, w.c] [] [] (fun t k sl _ s =>
    let n := (opVal sl w.c).toNat
    if [w.a, w.b, w.c].any (opMark sl) then wfault s t k cNondet
    else if 2 ^ 32 < n then wfault s t k cIllegal
    else fenced sl (fun sl =>
      twoRanges s t k sl w.tl (.cpy n) true (w.imm.getLsbD 0) (opVal sl w.b) n (w.imm.getLsbD 1) (opVal sl w.a) n) s) s

/-- The destination format of `cpyf` (R465). -/
def cpyfDst (w : EWord) : EFmt := if w.ty = .q4 then .l4 (16 <<< (w.imm.extractLsb' 13 2).toNat) else .ty w.ty
def cpyfSrc (w : EWord) : EFmt := (efmt (w.imm.extractLsb' 2 8).toNat).getD .mx

/-- `cpyf.T dst, src, n, tlN, #f` (R465). -/
def execCpyf (w : EWord) (s : State) : Host.Outcome State Fault Refusal :=
  let bad (sl : Slot) : Bool := opVal sl w.c = 0 || 2 ^ 24 < (opVal sl w.c).toNat
  runWordE w.g (fun _ _ sl => bad sl) false [w.a, w.b, w.c] [] [] (fun t k sl _ s =>
    let n := (opVal sl w.c).toNat
    if [w.a, w.b, w.c].any (opMark sl) then wfault s t k cNondet
    else if bad sl then wfault s t k cIllegal
    else fenced sl (fun sl =>
      twoRanges s t k sl w.tl
        (.cpyf n w.ty (w.imm.extractLsb' 2 8) ((Rm.ofCode (w.imm.extractLsb' 10 3).toNat).getD .rne) (w.imm.extractLsb' 13 2))
        true (w.imm.getLsbD 0) (opVal sl w.b) (fmtBytes (cpyfSrc w) n)
        (w.imm.getLsbD 1) (opVal sl w.a) (fmtBytes (cpyfDst w) n)) s) s

/-- Read a descriptor from the scratchpad: alignment, SCRATCH, interlock, tracking (R466, R469). -/
def withDesc (s : State) (t : Nat) (k : Fin 4) (sl : Slot) (a n : Nat) (f : State → Slot → List Byte → WRes) : WRes :=
  if a % 16 ≠ 0 then wfault s t k cIllegal
  else if (imageOf s t sl.firing.ctx).scratch < a + n then wfault s t k cPartition
  else locked s t k { spad := [(a, n)] } (fun s =>
    if readsBad (tileOf s t) [] [(a, n)] then wfault s t k cUncorrectable
    else match trackMany t false [(a, n)] s sl.firing with
      | .error e => .fault s (trackPoison s t sl.firing e)
      | .ok (s1, f1) =>
        let sl1 := { sl with firing := f1 }
        f (setSlot s1 t k sl1) sl1 (rdBytes (tileOf s t).scratch a n))

/-- The index list of a descriptor. -/
def idxList (tl : Tile) (a n : Nat) : List Nat := (List.range n).map (fun i => rdLE tl.scratch (a + 4 * i) 4)

/-- A gather-scatter descriptor is legal in itself (R466). -/
def gsOk (b : List Byte) : Bool :=
  lnat b 16 4 % 4 = 0 && 1 ≤ lnat b 20 4 && lnat b 20 4 ≤ 65536 && 1 ≤ lnat b 24 4 && lnat b 24 4 ≤ 65536
    && lnat b 28 1 < 4 && zeroes b 29 3

/-- `gath` and `scat` (R466). -/
def gsWord (gather : Bool) (w : EWord) (s : State) : Host.Outcome State Fault Refusal :=
  runWordE w.g (fun _ _ sl => (opVal sl w.a).toNat % 16 ≠ 0) false [w.a] [] [] (fun t k sl _ s =>
    if opMark sl w.a then wfault s t k cNondet
    else fenced sl (fun sl => withDesc s t k sl (opVal sl w.a).toNat 32 (fun s sl b =>
      let n := lnat b 20 4
      let row := lnat b 24 4
      let ix := lnat b 16 4
      if !gsOk b then wfault s t k cIllegal
      else if (imageOf s t sl.firing.ctx).scratch < ix + 4 * n then wfault s t k cPartition
      else locked s t k { spad := [(ix, 4 * n)] } (fun s =>
        if readsBad (tileOf s t) [] [(ix, 4 * n)] then wfault s t k cUncorrectable
        else match trackMany t false [(ix, 4 * n)] s sl.firing with
          | .error e => .fault s (trackPoison s t sl.firing e)
          | .ok (s, f) =>
            let sl := { sl with firing := f }
            let l := idxList (tileOf s t) ix n
            let lo := l.foldl min (l.headD 0)
            let hi := l.foldl max 0
            let rel := l.map (· - lo)
            let part (a : Word) : Word := a + BitVec.ofNat 64 (lo * row)
            let span := (hi - lo + 1) * row
            let ss := (b.getD 28 0).getLsbD 0
            let ds := (b.getD 28 0).getLsbD 1
            let s := setSlot s t k sl
            if gather then twoRanges s t k sl w.tl (.gath row rel) false ss (part (lword b 0)) span ds (lword b 8) (n * row)
            else twoRanges s t k sl w.tl (.scat row rel) false ss (lword b 0) (n * row) ds (part (lword b 8)) span))) s) s

/-- `gath a, tlN` (R466). -/
def execGath (w : EWord) (s : State) : Host.Outcome State Fault Refusal := gsWord true w s
/-- `scat a, tlN` (R466). -/
def execScat (w : EWord) (s : State) : Host.Outcome State Fault Refusal := gsWord false w s

/-- The tile that bit k of a multicast mask names in the plot of tile t (R467). -/
def plotTile (t k : Nat) : Nat := dieOf t * 512 + (rowOf t / 4 * 4 + k / 4) * 32 + (colOf t / 4 * 4 + k % 4)

/-- The tiles of a mask. -/
def maskTiles (t : Nat) (m : BitVec 16) : List Nat := ((List.range 16).filter (fun i => m.getLsbD i)).map (plotTile t)

/-- `mcrd off, va, c, tlN` (R467). -/
def execMcrd (w : EWord) (s : State) : Host.Outcome State Fault Refusal :=
  let bad (s : State) (t : Nat) (sl : Slot) : Bool :=
    let c := opVal sl w.c
    let m := c.extractLsb' 16 16
    (opVal sl w.a).toNat % 16 ≠ 0 || (opVal sl w.b).toNat % 128 ≠ 0 || c.extractLsb' 6 10 ≠ 0 || c.extractLsb' 32 32 ≠ 0
      || m = 0 || (maskTiles t m).any (fun x => !(tileLaunch s t).tileset.contains x)
  runWordE w.g bad false [w.a, w.b, w.c] [] [] (fun t k sl _ s =>
    let c := opVal sl w.c
    let lines := (c.extractLsb' 0 6).toNat + 1
    if [w.a, w.b, w.c].any (opMark sl) then wfault s t k cNondet
    else if bad s t sl then wfault s t k cIllegal
    else fenced sl (fun sl =>
      twoRanges s t k sl w.tl (.mcrd lines (c.extractLsb' 16 16)) false false (opVal sl w.b) (128 * lines)
        true (opVal sl w.a) (128 * lines)) s) s

/-- The directory entry of a launch (R210). -/
def dirEntry (l : Launch) (e : Nat) : DirEntry := l.dir.getD e {}

/-- `epf e`: no number, no fault (R468, R229). -/
def execEpf (w : EWord) (s : State) : Host.Outcome State Fault Refusal :=
  runWord w.g true [w.a] [] [] (fun t _ sl _ s =>
    let d := dirEntry (tileLaunch s t) (opVal sl w.a).toNat
    if d.state ≠ 2 || d.wbytes = 0 || !pkgIsLocal s d.pkg.toNat then .go s
    else match slotAddr s t sl .load d.waddr d.wbytes with
      | .error _ => .go s
      | .ok a =>
        if isHostIA a.ia.toNat || !pkgIsLocal s (iaPkg a.ia.toNat) then .go s
        else
          let (i, s1) := newId s
          .go (issueReq s1 { id := i, tile := d.bin.tile.toNat, ctx := sl.firing.ctx, party := .firing sl.firing.party,
                             pnum := sl.firing.party, addr := a, op := .prefetch d.wbytes })) s

/-- `apf off, e, tlN` (R468). -/
def execApf (w : EWord) (s : State) : Host.Outcome State Fault Refusal :=
  runWord w.g false [w.a, w.b] [] [] (fun t k sl _ s =>
    let e := (opVal sl w.b).toNat
    let l := tileLaunch s t
    let d := dirEntry l e
    if opMark sl w.a || opMark sl w.b then wfault s t k cNondet
    else if l.dir.length ≤ e || d.state = 0 || !d.pol.getLsbD 5 then wfault s t k cExpertInvalid
    else fenced sl (fun sl =>
      if d.state = 1 then issueCmd s t sl w.tl .nothing (.spad 0) (.spad 0)
      else twoRanges s t k sl w.tl (.cpy d.wbytes) true false d.waddr d.wbytes true (opVal sl w.a) d.wbytes) s) s

/-! ## Collectives at issue (R469 to R471) -/

/-- The group a tile uses under a GROUP number: the one it joined last (R471). -/
def groupOf (s : State) (g t : Nat) : Option CollGroup :=
  (s.groups.filter (fun x => x.group = g && x.joined.contains t && afind x.owner t = some (tileOf s t).launch)).getLast?

/-- A member list is well-formed for its issuer: every entry names a tile and a package that can exist (R3, R25; log 72), and one of
them the issuer (R469, R471). -/
def membersOk (s : State) (t : Nat) (b : List Byte) (n : Nat) : Bool :=
  let ms := (List.range n).map (fun i => lnat b (4 * i) 4)
  ms.all (fun m => m < 2 ^ 19 && isTile (m % 2048) && !(192 ≤ m / 2048 && m / 2048 ≤ 254)) && (ms.filter (fun m => m % 2048 = t && pkgIsLocal s (m / 2048))).length = 1

/-- The members of a list, own package as 255. -/
def membersOf (s : State) (b : List Byte) (n : Nat) : List (Nat × BitVec 8) :=
  (List.range n).map (fun i => let m := lnat b (4 * i) 4
    (m % 2048, if pkgIsLocal s (m / 2048) then 255 else BitVec.ofNat 8 (m / 2048)))

/-- Change a group. -/
def modGroup (s : State) (gid : Nat) (f : CollGroup → CollGroup) : State :=
  { s with groups := s.groups.map (fun g => if g.id = gid then f g else g) }

/-- Join a FORM: the group that waits for this tile with an identical list, or a new one (R471). -/
def joinForm (s : State) (t g : Nat) (ms : List (Nat × BitVec 8)) : Nat × State :=
  let h := (tileOf s t).launch
  match s.groups.find? (fun x => x.group = g && x.members = ms && !x.formed && !x.broken && !x.joined.contains t) with
  | some x => (x.id, modGroup s x.id (fun x => { x with joined := x.joined ++ [t], owner := aput x.owner t h }))
  | none =>
    let (i, s1) := newId s
    (i, { s1 with groups := s1.groups ++ [{ id := i, group := g, members := ms, joined := [t], owner := [(t, h)] }] })

/-- Rank of a tile in its group. -/
def rankOf (g : CollGroup) (t : Nat) : Nat := (g.members.findIdx? (fun m => m.1 = t && m.2 = 255)).getD 0

/-- Elements a member reads and writes (R470). -/
def collIn (op count : Nat) (isRoot : Bool) : Nat := if op = 6 && !isRoot then 0 else count
def collOut (op count n : Nat) : Nat := match op with | 4 => n * count | 5 => count / n | _ => count

/-- FORM (R469, R471). -/
def formWord (s : State) (t : Nat) (k : Fin 4) (sl : Slot) (w : EWord) (b : List Byte) : WRes :=
  let n := lnat b 32 2
  if n < 2 || 4096 < n then wfault s t k cIllegal
  else match slotAddr s t sl .load (lword b 24) (4 * n) with
    | .error c => .fault s (vaPoison s t sl.firing c (lword b 24))
    | .ok a => match memRead (asAsker s sl.firing.party) a.asid ((tileLaunch s t).asid = 0) a.func a.ia.toNat (4 * n) with
      | .fault s1 c _ => .fault s1 { slotPoison s t k c with addr := a.ia.setWidth 64, addrKind := 2 }
      | .held w _ _ => .wait (keepWaits s w)
      | .stall w => .wait (keepWaits s w)
      | .ok s0 m => match trackMem s0 t sl.firing a (4 * n) false with
      | .error e => .fault s0 (trackPoison s0 t sl.firing e)
      | .ok (s1, f1) =>
        let sl := { sl with firing := f1 }
        if !membersOk s t m n then wfault s1 t k cIllegal
        else if 16 ≤ outstanding s1 t sl.firing.ctx w.tl || relWaits s1 sl.reqs sl.firing.clock .plot then .wait s1
        else
          let (gid, s2) := joinForm s1 t (lnat b 0 1) (membersOf s m n)
          issueCmd (setSlot s2 t k sl) t sl w.tl (.coll gid 0 .b64 0 0 0) (.spad 0) (.spad 0)

/-- A collective on a group (R470, R471). -/
def collectiveWord (s : State) (t : Nat) (k : Fin 4) (sl : Slot) (w : EWord) (b : List Byte) : WRes :=
  let op := w.imm.toNat
  let count := lnat b 4 4
  let lone : WRes := issueCmd s t sl w.tl (.coll 0 op w.ty count (lnat b 34 2) 0) (.spad 0) (.spad 0)
  match groupOf s (lnat b 0 1) t with
  | none => lone
  | some g =>
    let n := g.members.length
    if !g.formed || g.broken then lone
    else if ((op = 5 || op = 7) && count % n ≠ 0) || (op = 6 && n ≤ lnat b 34 2) then wfault s t k cIllegal
    else if 16 ≤ outstanding s t sl.firing.ctx w.tl || relWaits s sl.reqs sl.firing.clock .plot then .wait s
    else
      let seq := aget g.issued t 0
      let s1 := modGroup s g.id (fun g => { g with issued := aput g.issued t (seq + 1) })
      twoRanges s1 t k sl w.tl (.coll g.id op w.ty count (lnat b 34 2) seq) false
        false (lword b 8) (collIn op count (rankOf g t = lnat b 34 2) * w.ty.bytes) false (lword b 16) (collOut op count n * w.ty.bytes)

/-- `coll.T a, tlN, #op` (R469). -/
def execColl (w : EWord) (s : State) : Host.Outcome State Fault Refusal :=
  runWordE w.g (fun _ _ sl => (opVal sl w.a).toNat % 16 ≠ 0) false [w.a] [] [] (fun t k sl _ s =>
    if opMark sl w.a then wfault s t k cNondet
    else fenced sl (fun sl => withDesc s t k sl (opVal sl w.a).toNat 64 (fun s sl b =>
      let form := w.imm = 0
      if 16 ≤ lnat b 0 1 || !zeroes b 1 3 || !zeroes b 36 28 then wfault s t k cIllegal
      else if form then formWord s t k sl w b
      else if lnat b 4 4 = 0 || 2 ^ 24 < lnat b 4 4 then wfault s t k cIllegal
      else collectiveWord s t k sl w b)) s) s

/-! ## Timeline words (R472) -/

/-- `tlrd d, tlN` (R472). -/
def execTlrd (w : EWord) (s : State) : Host.Outcome State Fault Refusal :=
  runWord w.g true [] [w.a] [] (fun t k sl gm s =>
    .go (setSlot s t k (wrT sl w.a (BitVec.ofNat 64 (timelineOf s t sl.firing.ctx w.tl).issued) gm))) s

/-- A satisfied wait for v: it acquires and delivers the poison of the lowest faulted command due (R241, R294). -/
def meetTimeline (s : State) (t : Nat) (sl : Slot) (tl : BitVec 2) (v : Nat) : State × Slot × Option Poison :=
  let tm := timelineOf s t sl.firing.ctx tl
  let (s1, sl1) := acquireTimeline s t sl tm
  match dueFault tm v with
  | some (i, p) => (setTimeline s1 t sl.firing.ctx tl { tm with faulted := adel tm.faulted i }, sl1, some p)
  | none => (s1, sl1, none)

/-- `tlwait tlN, v` (R472). -/
def execTlwait (w : EWord) (s : State) : Host.Outcome State Fault Refusal :=
  let bad (s : State) (t : Nat) (sl : Slot) : Bool := (timelineOf s t sl.firing.ctx w.tl).issued < (opVal sl w.b).toNat
  runWordE w.g bad false [w.b] [] [] (fun t k sl _ s =>
    let v := (opVal sl w.b).toNat
    if opMark sl w.b then wfault s t k cNondet
    else if bad s t sl then wfault s t k cIllegal
    else if (timelineOf s t sl.firing.ctx w.tl).counter < v then .wait s
    else
      let (s1, sl1, p) := meetTimeline s t sl w.tl v
      match p with
      | some p => .fault (setSlot s1 t k sl1) p
      | none => .go (setSlot s1 t k sl1)) s

/-- `tltest d, tlN` (R472, R202). -/
def execTltest (w : EWord) (s : State) : Host.Outcome State Fault Refusal :=
  runWord w.g true [] [w.a] [] (fun t k sl gm s =>
    let v := (timelineOf s t sl.firing.ctx w.tl).counter
    let (s1, sl1, p) := meetTimeline s t sl w.tl v
    let s2 := setSlot s1 t k (wrT sl1 w.a (BitVec.ofNat 64 v) (gm || (tileLaunch s t).det))
    match p with
    | some p => .fault s2 p
    | none => .go s2) s

/-! ## Synchronisation (R473 to R475) -/

/-- `bar.scope bN, dest, tag` (R473, R194). -/
def execBar (w : EWord) (s : State) : Host.Outcome State Fault Refusal :=
  let bad (s : State) (t : Nat) (sl : Slot) : Bool :=
    match sendDest (opVal sl w.a) with
    | none => true
    | some (c, d) => d.tile.toNat ≠ t || c ≠ (tileOf s t).ctx || (nodeSlot s t c d.node.toNat).isNone
  runWordE w.g bad false [w.a, w.b] [] [] (fun t k sl _ s =>
    if opMark sl w.a || opMark sl w.b then wfault s t k cNondet
    else if bad s t sl then wfault s t k cIllegal
    else match tagOperand (opVal sl w.b), sendDest (opVal sl w.a) with
      | some tag, some (_, d) =>
        let h := (tileOf s t).launch
        let n := w.imm.toNat
        let b := aget (launchOf s h).bars n {}
        let j : BarJoin := { tile := t, dest := d, tag := tag, rel := mkRelease w.scope (BitVec.ofNat 11 t) sl.firing.clock }
        if relWaits s sl.reqs sl.firing.clock w.scope then .wait s
        else if b.joins.any (fun x => x.tile = t) then
          if b.next.any (fun x => x.tile = t) then .wait s
          else .go (modLaunch s h (fun l => { l with bars := aput l.bars n { b with next := b.next ++ [j] } }))
        else .go (modLaunch s h (fun l => { l with bars := aput l.bars n { b with joins := b.joins ++ [j] } }))
      | _, _ => wfault s t k cTagOverflow) s

/-- `csig.scope dest, tag, chN` (R474). -/
def execCsig (w : EWord) (s : State) : Host.Outcome State Fault Refusal :=
  let dest (sl : Slot) : Option (BitVec 3 × Dest) := (sendDest (opVal sl w.a)).filter (fun p => p.2.port = 3)
  runWordE w.g (fun _ _ sl => (dest sl).isNone) false [w.a, w.b] [] [] (fun t k sl _ s => failWord s t k (do
    if opMark sl w.a || opMark sl w.b then throw cNondet
    let (ctx, d) ← (dest sl).elim (throw cIllegal) pure
    let tag ← (tagOperand (opVal sl w.b)).elim (throw cTagOverflow) pure
    let e ← chanCheck (tileOf s t) w.ch
    let tok := { sendTok t sl (wider w.scope (chanScope e)) with dest := d, ctx := ctx, tag := tag, chan := w.ch, body := .control 0 }
    return .go (sendFrom s t k sl (flightOf s t tok 255)))) s

/-- `stepend` (R475). -/
def execStepend (w : EWord) (s : State) : Host.Outcome State Fault Refusal :=
  runWord w.g false [] [] [] (fun t _ _ _ s => .go (modTile s t (fun x => { x with stepended := true }))) s

end Sys2Proof.Machine
end

