-- ==== Sys2Proof/Machine/EngineDone.lean ====
section
/-! DEFINITION. How an engine command is performed and its counter advances (R241, R294, R306, R463 to R471), and how
collectives are aborted (R305, R314, R315). -/

namespace Sys2Proof.Machine

open Sys2Proof

/-! ## Completion (R241, R294) -/

/-- The order position of a command's accesses: all of one command are one position of its party (log 6). -/
def Cmd.after (x : Cmd) : Clock := aput x.clock x.party 1

/-- The poison of a faulted command (R288, R294). -/
def cmdPoison (s : State) (x : Cmd) (code : BitVec 8) (ia : Option (BitVec 52)) (detail : Word) : Poison :=
  { srcTile := BitVec.ofNat 11 x.tile, srcNode := x.node, srcCtx := x.ctx, prec := codePrecise code, code := code,
    addr := (ia.getD 0).setWidth 64, addrKind := if ia.isSome then 2 else 0, detail := detail,
    step := (tileOf s x.tile).stepid, tag := x.tag, time := BitVec.ofNat 64 s.time }

/-- Move the counter over the completed prefix (R241). -/
def countUp : Nat → Timeline → Timeline
  | 0, t => t
  | fuel + 1, t =>
    match afind t.ahead (t.counter + 1) with
    | none => t
    | some c => countUp fuel { t with counter := t.counter + 1, ahead := adel t.ahead (t.counter + 1), clock := clkJoin t.clock c }

/-- A command completes, faulted or not; `c` is what is ordered before its completion (R241, R294). -/
def completeCmd (s : State) (x : Cmd) (p : Option Poison) (c : Clock) : State :=
  let s0 := { s with cmds := s.cmds.filter (fun y => y.id ≠ x.id) }
  let s1 := match p, x.dst with
    | some _, .mem f => forgetFar (forgetHeld s0 f.asid) x.id
    | _, _ => forgetFar s0 x.id
  let tm := timelineOf s1 x.tile x.ctx x.tl
  let tm1 := { tm with ahead := aput tm.ahead x.num c,
                       faulted := match p with | some p => aput tm.faulted x.num p | none => tm.faulted }
  setTimeline s1 x.tile x.ctx x.tl (countUp (tm1.ahead.length + 1) tm1)

/-- A command completes as faulted. -/
def faultCmd (s : State) (x : Cmd) (code : BitVec 8) : State :=
  completeCmd s x (some (cmdPoison s x code none 0)) x.after

/-! ## Bytes of a range -/

/-- The address of a range's first byte, if it lies in memory. -/
def rangeIA : Range → Option (BitVec 52)
  | .mem f => some f.ia
  | .spad _ => none

/-- The launch of a command may use pages of ASID 0 (R71). -/
def cmdAsid0 (s : State) (x : Cmd) : Bool := (tileLaunch s x.tile).asid = 0

/-- A command's access as it is tracked. -/
def cmdAcc (x : Cmd) (write : Bool) : TrackAcc :=
  { by_ := ⟨x.party, 1, BitVec.ofNat 11 x.tile, x.tag, none⟩, clock := x.clock, write := write, atom := none }

/-- Track one extent of a command on a tile or at the home slices (R248). -/
def cmdTrack (s : State) (x : Cmd) (t : Nat) (r : Range) (off n : Nat) (write : Bool) :
    Except (BitVec 8 × Option TrackBy) State :=
  if n = 0 then .ok s
  else match r with
    | .mem f => trackHome s (tileOf s x.tile).launch (f.plus off) n (cmdAcc x write)
    | .spad o =>
      if !(tileLaunch s x.tile).det then .ok s
      else match trackBytes tileFull (tileOf s t).track (cmdAcc x write) (o + off) (unitsOf (o + off) n) with
        | .error e => .error e
        | .ok m => .ok (modTile s t (fun y => { y with track := m }))

/-- Read one piece that lies in one line: the near slice of the engine's plot gives it if it holds it; a multicast read keeps what
comes from the home (R175, R176, R232). -/
def engPiece (s : State) (x : Cmd) (f : Formed) (n : Nat) : MRes (List Byte) :=
  let ia := f.ia.toNat
  match transAll s f.asid (cmdAsid0 s x) .load (pagesOf ia n), nearHit s (plotOf x.tile) f n with
  | (s1, .error e), some _ => .fault s1 e 0
  | (s1, .ok _), some (s2, b) => .ok { s2 with tcache := s1.tcache } b
  | (_, r), none =>
    match memRead s f.asid (cmdAsid0 s x) f.func ia n, x.kind, r with
    | .ok s2 b, .mcrd _ _, .ok ws => .ok (if isHostIA ia || !pkgIsLocal s (iaPkg ia) then s2 else fillNear s2 (plotOf x.tile) f n ws) b
    | m, _, _ => m

/-- Read an extent line by line. -/
def engRead (x : Cmd) (f : Formed) : Nat → State → Nat → Nat → MRes (List Byte)
  | 0, s, _, _ => .ok s []
  | fuel + 1, s, off, n =>
    if n = 0 then .ok s []
    else
      let g := f.plus off
      let m := min n (128 - g.ia.toNat % 128)
      match engPiece s x g m with
      | .ok s1 b => match engRead x f fuel s1 (off + m) (n - m) with
        | .ok s2 bs => .ok s2 (b ++ bs)
        | r => r
      | r => r

/-- The near slice has a part in a read: it holds a line of the extent, or the command is a multicast read. -/
def nearPart (s : State) (x : Cmd) (f : Formed) (n : Nat) : Bool :=
  match x.kind with
  | .mcrd _ _ => true
  | .coll _ _ _ _ _ _ => false
  | _ => (aget s.near (plotOf x.tile) []).any (fun l => (linesOf f.ia.toNat n).any (fun a => lineKey f.asid a = l.key))

/-- Read bytes of a range. -/
def rangeRead (s : State) (x : Cmd) (r : Range) (off n : Nat) : MRes (List Byte) :=
  match r with
  | .mem f =>
    if nearPart s x (f.plus off) n then engRead x f (n / 128 + 2) s off n
    else memRead s f.asid (cmdAsid0 s x) f.func (f.ia.toNat + off) n
  | .spad o =>
    let tl := tileOf s x.tile
    if readsBad tl [] [(o + off, n)] then .fault s cUncorrectable 0 else .ok s (rdBytes tl.scratch (o + off) n)

/-- Write bytes of a range; in a scratchpad on tile `t`. -/
def rangeWrite (s : State) (x : Cmd) (t : Nat) (r : Range) (off : Nat) (bs : List Byte) : MRes Unit :=
  match r with
  | .mem f => memWrite s f.asid (cmdAsid0 s x) f.func (f.ia.toNat + off) bs
  | .spad o => .ok (modTile s t (fun tl => wrScratch tl (o + off) bs)) ()

/-- Where a range begins within a 128-byte line. -/
def rangeSkew : Range → Nat
  | .mem f => f.ia.toNat % 128
  | .spad _ => 0

/-! ## What a command reads and writes -/

/-- The extents of the source and of the destination that a command touches, relative to its ranges. -/
def cmdExtents (x : Cmd) : List (Nat × Nat) × List (Nat × Nat) :=
  match x.kind with
  | .cpy n => ([(0, n)], [(0, n)])
  | .cpyf n ty fmt _ blk =>
    ([(0, fmtBytes ((efmt fmt.toNat).getD .mx) n)],
     [(0, fmtBytes (if ty = .q4 then .l4 (16 <<< blk.toNat) else .ty ty) n)])
  | .gath row idx => (idx.map (fun i => (i * row, row)), [(0, idx.length * row)])
  | .scat row idx => ([(0, idx.length * row)], idx.map (fun i => (i * row, row)))
  | .mcrd lines _ => ([(0, 128 * lines)], [(0, 128 * lines)])
  | _ => ([], [])

/-- The tiles whose scratchpads a command writes. -/
def cmdTargets (x : Cmd) : List Nat :=
  match x.kind with
  | .mcrd _ mask => maskTiles x.tile mask
  | _ => [x.tile]

/-- Read all extents, in order. -/
def readAll (s : State) (x : Cmd) : List (Nat × Nat) → MRes (List Byte)
  | [] => .ok s []
  | (off, n) :: t =>
    match rangeRead s x x.src off n with
    | .ok s1 b => match readAll s1 x t with
      | .ok s2 bs => .ok s2 (b ++ bs)
      | .fault s2 c d => .fault s2 c d
      | .held s2 a b => .held s2 a b
      | .stall s2 => .stall s2
    | .fault s1 c d => .fault s1 c d
    | .held s1 a b => .held s1 a b
    | .stall s1 => .stall s1

/-- The bytes a command writes, from the bytes it read, and the conditions a conversion met (R465). -/
def cmdImage (x : Cmd) (bs : List Byte) : List Byte × Fl :=
  match x.kind with
  | .cpyf n ty fmt rm blk =>
    let vs := decodeAll ((efmt fmt.toNat).getD .mx) n bs
    let (ws, f0) := if efmt fmt.toNat = some .mx then toF32s vs else (vs, {})
    let (b, f1) := encodeAll (if ty = .q4 then .l4 (16 <<< blk.toNat) else .ty ty) rm x.seed ws
    (b, f0.or f1)
  | _ => (bs, {})

/-- Cut an extent with its bytes at line ends. -/
def pieces (skew : Nat) : Nat → Nat → List Byte → List (Nat × List Byte)
  | 0, _, _ => []
  | fuel + 1, off, bs =>
    if bs.isEmpty then []
    else
      let m := min bs.length (128 - (off + skew) % 128)
      (off, bs.take m) :: pieces skew fuel (off + m) (bs.drop m)

/-- The pieces of all destination extents. -/
def allPieces (skew : Nat) : List (Nat × Nat) → List Byte → List (Nat × List Byte)
  | [], _ => []
  | (off, n) :: t, bs => pieces skew (n / 128 + 2) off (bs.take n) ++ allPieces skew t (bs.drop n)

/-- Pieces grouped by destination line, lines in the order first met; within a line in their order (R294, R466). -/
def byLine (skew : Nat) (ps : List (Nat × List Byte)) : List (List (Nat × List Byte)) :=
  (ps.map (fun p => (p.1 + skew) / 128)).eraseDups.map (fun l => ps.filter (fun p => (p.1 + skew) / 128 = l))

/-- Write one destination line on all targets: whole or not at all. -/
def writeLine (s : State) (x : Cmd) (ps : List (Nat × List Byte)) : MRes Unit :=
  (cmdTargets x).foldl (fun r t => ps.foldl (fun r p =>
    match r with
    | .ok s1 _ => match rangeWrite s1 x t x.dst p.1 p.2 with
      | .ok s2 _ => .ok s2 ()
      | .fault _ c d => .fault s c d
      | .held w a b => .held (keepWaits s w) a b
      | .stall w => .stall (keepWaits s w)
    | r => r) r) (.ok s ())

/-- How a command stands after some of its lines. -/
inductive CmdRes where
  | done (s : State)
  | part (s : State) (lines : Nat)
  | fault (s : State) (code : BitVec 8)

/-- Write lines upward from the progress made, at most `fuel` of them (R306). -/
def writeLines (x : Cmd) : Nat → State → List (List (Nat × List Byte)) → Nat → CmdRes
  | _, s, [], _ => .done s
  | 0, s, _ :: _, n => .part s n
  | fuel + 1, s, l :: t, n =>
    match writeLine s x l with
    | .ok s1 _ => writeLines x fuel s1 t (n + 1)
    | .fault s1 c _ => .fault s1 c
    | .held s1 _ _ => .part s1 n
    | .stall s1 => .part s1 n

/-- Track every extent of a command. -/
def trackCmd (s : State) (x : Cmd) : Except (BitVec 8 × Option TrackBy) State :=
  let (rs, ws) := cmdExtents x
  let r1 := rs.foldl (fun a e => a.bind (fun s => cmdTrack s x x.tile x.src e.1 e.2 false)) (.ok s)
  (cmdTargets x).foldl (fun a t => ws.foldl (fun a e => a.bind (fun s => cmdTrack s x t x.dst e.1 e.2 true)) a) r1

/-- Perform at most `fuel` lines of a command that is no collective. -/
def runCmd (fuel : Nat) (s : State) (x : Cmd) : State :=
  let (rs, ws) := cmdExtents x
  match trackCmd (asAsker s x.id) x with
  | .error e => completeCmd s x (some (cmdPoison s x e.1 (rangeIA x.src) (conflictDetail e.2))) x.after
  | .ok s1 => match readAll s1 x rs with
    | .fault s2 c _ => completeCmd s2 x (some (cmdPoison s2 x c (rangeIA x.src) 0)) x.after
    | .held w _ _ => keepWaits s w
    | .stall w => keepWaits s w
    | .ok s2 bs =>
      let (img, fl) := cmdImage x bs
      let lines := byLine (rangeSkew x.dst) (allPieces (rangeSkew x.dst) ws img)
      match writeLines x fuel s2 (lines.drop x.progress) x.progress with
      | .fault s3 c => completeCmd s3 x (some (cmdPoison s3 x c (rangeIA x.dst) 0)) x.after
      | .part s3 n => { s3 with cmds := s3.cmds.map (fun y => if y.id = x.id then { y with progress := n } else y) }
      | .done s3 =>
        match setSticky s3 x.tile { party := x.party, clock := x.after, tag := x.tag, ctx := x.ctx } fl.stat with
        | .ok (s4, f) => completeCmd s4 x none f.clock
        | .error e => completeCmd s3 x (some (cmdPoison s3 x e.1 none (conflictDetail e.2))) x.after

/-! ## Collectives (R470, R471) -/

/-- The kind of a collective command: group, op, type, COUNT, ROOT, sequence number. -/
def collKind (x : Cmd) : Option (Nat × Nat × Ty × Nat × Nat × Nat) :=
  match x.kind with
  | .coll g o ty c r q => some (g, o, ty, c, r, q)
  | _ => none

/-- The command in progress of a member for one collective of a group. -/
def memberCmd (s : State) (gid seq t : Nat) : Option Cmd :=
  s.cmds.find? (fun x => x.tile = t && (match collKind x with
    | some (g, o, _, _, _, q) => g = gid && o ≠ 0 && q = seq
    | none => false))

/-- The elements of an encoded array. -/
def elems (ty : Ty) (bs : List Byte) : List Nat := (chunks ty.bytes bs).map leNat

/-- Combine two elements of an integer type: at its width (R470). -/
def redInt (op : Nat) (ty : Ty) (a b : Nat) : Nat :=
  let le := if tySigned ty then signed (8 * ty.bytes) a ≤ signed (8 * ty.bytes) b else a ≤ b
  match op with
  | 2 => if le then b else a
  | 3 => if le then a else b
  | _ => (a + b) % 2 ^ (8 * ty.bytes)

/-- Combine two FP32 values (R470). -/
def redF (op : Nat) (a b : BitVec 32) : BitVec 32 :=
  match op with
  | 2 => f32 (fMinMax false (v32 a) (v32 b)).1
  | 3 => f32 (fMinMax true (v32 a) (v32 b)).1
  | _ => add32 a b

/-- The reduction of one element over the ranks in ascending order (R470). -/
def reduce (op : Nat) (ty : Ty) (xs : List Nat) : Nat :=
  match tyF ty with
  | none => match xs with
    | [] => 0
    | x :: t => t.foldl (redInt op ty) x
  | some _ =>
    match xs.map (fun x => f32 (tyVal ty x)) with
    | [] => 0
    | x :: t => (tyCv ty .rne 0 (v32 (t.foldl (redF op) x))).1

/-- The reduction of whole inputs. -/
def reduceAll (op : Nat) (ty : Ty) (count : Nat) (ins : List (List Byte)) : List Byte :=
  let es := ins.map (elems ty)
  ofLanes ty.bytes ((List.range count).map (fun i => reduce op ty (es.map (fun e => e.getD i 0))))

/-- Segment i of n. -/
def segment (bs : List Byte) (i n : Nat) : List Byte := (bs.drop (bs.length / n * i)).take (bs.length / n)

/-- What DST of rank r receives (R470). -/
def collImage (op : Nat) (ty : Ty) (count root r : Nat) (ins : List (List Byte)) : List Byte :=
  let n := ins.length
  match op with
  | 4 => ins.flatten
  | 5 => segment (reduceAll 1 ty count ins) r n
  | 6 => ins.getD root []
  | 7 => (ins.map (fun b => segment b r n)).flatten
  | o => reduceAll o ty count ins

/-- A member's part of a collective: its command here, or what it brings from another package. -/
inductive CollPart where
  | here (x : Cmd)
  | far (i : PeerIn)

/-- The commands among the parts. -/
def hereParts (ps : List CollPart) : List Cmd := ps.filterMap (fun p => match p with | .here x => some x | .far _ => none)

/-- What performing a collective has come to for its members. -/
inductive CollRes where
  | wait (w : State)
  | ok (s : State) (ins : List (List Byte))
  | fault (s : State) (x : Cmd) (p : Poison)

/-- The inputs of the members in rank order, each with its length. -/
def collInputs (s : State) : List (CollPart × Nat) → CollRes
  | [] => .ok s []
  | (.far i, n) :: t => match collInputs s t with
    | .ok s1 bs => .ok s1 (padTo i.bytes n :: bs)
    | r => r
  | (.here x, n) :: t =>
    match cmdTrack s x x.tile x.src 0 n false with
    | .error e => .fault s x (cmdPoison s x e.1 (rangeIA x.src) (conflictDetail e.2))
    | .ok s1 => match rangeRead (asAsker s1 x.id) x x.src 0 n with
      | .fault s2 c _ => .fault s2 x (cmdPoison s2 x c (rangeIA x.src) 0)
      | .held w _ _ => .wait w
      | .stall w => .wait w
      | .ok s2 b => match collInputs s2 t with
        | .ok s3 bs => .ok s3 (b :: bs)
        | r => r

/-- What writing the members' outputs has come to: each command with its fault if its own destination has one. -/
inductive OutRes where
  | ok (s : State) (rs : List (Cmd × Option Poison))
  | wait (w : State)

/-- Write the outputs of the members here. -/
def collOutputs (s : State) : List (CollPart × List Byte) → OutRes
  | [] => .ok s []
  | (.far _, _) :: t => collOutputs s t
  | (.here x, b) :: t =>
    let put (s : State) (p : Option Poison) : OutRes := match collOutputs s t with
      | .ok s rs => .ok s ((x, p) :: rs)
      | r => r
    match cmdTrack s x x.tile x.dst 0 b.length true with
    | .error e => put s (some (cmdPoison s x e.1 (rangeIA x.dst) (conflictDetail e.2)))
    | .ok s1 =>
      let ls := byLine (rangeSkew x.dst) (allPieces (rangeSkew x.dst) [(0, b.length)] b)
      match writeLines x (b.length / 128 + 2) (asAsker s1 x.id) ls 0 with
      | .fault s2 c => put s2 (some (cmdPoison s2 x c (rangeIA x.dst) 0))
      | .part w _ => .wait w
      | .done s2 => put s2 none

/-- Break a group (R315, R471). -/
def breakGroup (s : State) (gid : Nat) : State := modGroup s gid (fun g => { g with broken := true, seq := g.seq + 1 })

/-- Complete the commands of members as faulted with one code. -/
def faultMembers (s : State) (xs : List Cmd) (code : BitVec 8) : State := xs.foldl (fun s x => faultCmd s x code) s

/-- Op, type, COUNT and ROOT of a part. -/
def CollPart.same (op : Nat) (ty : Ty) (count root : Nat) : CollPart → Bool
  | .here x => match collKind x with
    | some (_, o, t, c, r, _) => o = op && t = ty && c = count && r = root
    | none => false
  | .far i => i.op = op && i.ty = ty && i.count = count && i.root = root

/-- Perform a collective whose members all stand: their inputs are combined in rank order and every destination here is written
before any counter advances (R241, R470, R471). -/
def performColl (s : State) (g : CollGroup) (op : Nat) (ty : Ty) (count root : Nat) (ps : List CollPart) : State :=
  let xs := hereParts ps
  if !ps.all (CollPart.same op ty count root) then breakGroup (faultMembers s xs cGroupBroken) g.id
  else
    let ranks := ps.zip (List.range ps.length)
    match collInputs s (ranks.map (fun p => (p.1, collIn op count (p.2 = root) * ty.bytes))) with
    | .wait w => keepWaits s w
    | .fault s1 x p =>
      let s2 := completeCmd s1 x (some p) x.after
      breakGroup (faultMembers s2 (xs.filter (fun y => y.id ≠ x.id)) cPeerAborted) g.id
    | .ok s1 ins =>
      match collOutputs s1 (ranks.map (fun p => (p.1, collImage op ty count root p.2 ins))) with
      | .wait w => keepWaits s w
      | .ok s2 rs =>
        let all := xs.foldl (fun c x => clkJoin c x.after) []
        modGroup (rs.foldl (fun s r => completeCmd s r.1 r.2 all) s2) g.id (fun g => { g with seq := g.seq + 1, farIn := [] })

/-- Every member of a group has issued FORM (R471). -/
def allFormed (g : CollGroup) : Bool :=
  (g.members.zip (List.range g.members.length)).all (fun (m, r) => if m.2 = 255 then g.joined.contains m.1 else g.farFormed.contains r)

/-- A FORM completes once every member has formed (R471). -/
def runForm (s : State) (x : Cmd) (g : CollGroup) : State :=
  if g.formed then completeCmd s x none x.after
  else if g.broken then faultCmd s x cPeerAborted
  else if allFormed g then
    completeCmd (modGroup s g.id (fun g => { g with formed := true, seq := 0 })) x none x.after
  else s

/-- The part of the member of a rank in one collective, once it is there. -/
def collPart (s : State) (g : CollGroup) (seq rank : Nat) (m : Nat × BitVec 8) : Option CollPart :=
  if m.2 = 255 then (memberCmd s g.id seq m.1).map .here
  else ((afind g.farIn rank).filter (fun i => i.seq = seq)).map .far

/-- Perform a collective command. -/
def runColl (s : State) (x : Cmd) (gid op : Nat) (ty : Ty) (count root seq : Nat) : State :=
  match s.groups.find? (fun g => g.id = gid) with
  | none => faultCmd s x cGroupBroken
  | some g =>
    if op = 0 then runForm s x g
    else if g.broken then s
    else
      let ps := (g.members.zip (List.range g.members.length)).filterMap (fun (m, r) => collPart s g seq r m)
      if ps.length = g.members.length then performColl s g op ty count root ps else s

/-- What a group member on another package does reaches the group, while the module is joined (R314, R471). -/
def peerColl (s : State) (gid : Nat) (f : CollGroup → CollGroup) : State := if joined s then modGroup s gid f else s

/-- One command goes on: all of it, or `fuel` lines. -/
def moveCmd (fuel : Nat) (s : State) (x : Cmd) : State :=
  match x.kind with
  | .coll g op ty c r q => runColl s x g op ty c r q
  | _ => runCmd fuel s x

/-- `ENGINE_COMMAND_COMPLETE` (R241). -/
def execEngineCommandComplete (s : State) : Host.Outcome State Fault Refusal :=
  onEvent argN (fun i s =>
    match s.cmds.find? (fun x => x.id = i) with
    | none => s
    | some x => moveCmd (2 ^ 32) s x) s

/-- `COLLECTIVE_ABORT`: an abort of a broken group reaches a member (R314). -/
def execCollectiveAbort (s : State) : Host.Outcome State Fault Refusal :=
  onEvent argNN (fun (t, gid) s =>
    match s.groups.find? (fun g => g.id = gid) with
    | none => s
    | some g =>
      if !g.broken then s
      else faultMembers s (s.cmds.filter (fun x => x.tile = t && (collKind x).any (fun k => k.1 = gid))) cPeerAborted) s

/-- `COLLECTIVE_SAVE_EXPIRE`: a collective in progress 2 ms after SAVE is aborted (R305). -/
def execCollectiveSaveExpire (s : State) : Host.Outcome State Fault Refusal :=
  onEvent argN (fun i s =>
    match s.cmds.find? (fun x => x.id = i) with
    | none => s
    | some x =>
      let l := tileLaunch s x.tile
      match collKind x with
      | some (g, _) =>
        if l.phase = .saving && due s l.saveSince 2000000 then breakGroup (faultCmd s x cPeerAborted) g else s
      | none => s) s

end Sys2Proof.Machine
end

