-- ==== Sys2Proof/Machine/Tiers.lean ====
section
/-! DEFINITION. The tiers at work: grants and exhaustion (R86 to R91), the ballooning engine (R88, R89), recoding (R96),
shootdowns (R73), page moves and the rotation engine (R90, R227). -/

namespace Sys2Proof.Machine

open Sys2Proof

/-! ## Frames, records and chunks (R78, R81, R82) -/

/-- A page by ASID and page number of its IA, the key under which a tier lists it. -/
def pageOfKey (k : Nat) : BitVec 12 × Nat := (BitVec.ofNat 12 (k / 2 ^ 28), k % 2 ^ 28 * 65536)

/-- What a PTE maps: a record by its index, or past 2^32 a kind-0 frame. -/
def pteSlot (w : Nat) : Nat := if pteKind w = 0 then 2 ^ 32 + pteAddr w else pteAddr w

/-- The chunks of a kind-0 frame. -/
def frameChunks (t : Tier) (addr : Nat) : List Nat :=
  (List.range 16).map (fun i => (addr * 65536 - t.chbase) / 4096 + i)

/-- The lowest aligned run of 16 of these free chunks, as the frame's address field (R96). -/
def findFrame (chbase : Nat) (free : List Nat) : Option Nat :=
  (free.find? (fun c => (chbase + c * 4096) % 65536 = 0 && (List.range 16).all (fun i => free.contains (c + i)))).map
    (fun c => (chbase + c * 4096) / 65536)

/-- The indices of a tier's record area whose KTAG is not 0, ascending. -/
def liveRecords (s : State) (tn : Nat) : List Nat :=
  let lo := recKey s tn 0
  s.mem.filterMap (fun c =>
    if lo ≤ c.1 && c.1 < lo + (tierOf s tn).area * 256 && (c.1 - lo) % 256 = 128 && c.2.extractLsb' 0 3 ≠ 0 then some ((c.1 - lo) / 256) else none)

/-- The lowest record slot not in use (log 40). -/
def findRecord (s : State) (tn : Nat) : Option Nat :=
  let t := tierOf s tn
  let live := liveRecords s tn
  (List.range (min t.area (live.length + t.used.length + 1))).find? (fun i => !live.contains i && !t.used.any (fun p => p.2 = i))

/-- The free chunks that can be reached (R32). -/
def freeUp (s : State) (tn : Nat) : List Nat := if tn = 2 then (tierOf s 2).free.filter (chunkUp s) else (tierOf s tn).free

/-- Where a new copy of a page goes. -/
inductive NewPlace where
  | at_ (addr : Nat) (s : State)
  | space (k : Nat)
  | none_

/-- Take a frame, or a record and chunks, for a page of kind `kind` with these contents above RESERVE (R86, R96). -/
def takePlace (s : State) (tn kind : Nat) (fmt : BitVec 8) (expp : BitVec 2) (age : BitVec 8) (bs : List Byte) : NewPlace :=
  let t := tierOf s tn
  let free := freeUp s tn
  let take (cs : List Nat) : State := modTier s tn (fun t => { t with free := t.free.filter (fun c => !cs.contains c) })
  if kind = 0 then
    match findFrame t.chbase free with
    | some a =>
      if t.free.length < 16 + tierReserve t then .space 16
      else let s1 := take (frameChunks t a)
           .at_ a { s1 with mem := wrBytes s1.mem (physKey tn (a * 65536)) bs }
    | none => .space 16
  else
    let codes := (chunks 256 bs).map (blockCode kind fmt.toNat)
    let sectors := sectorSum codes
    let k := cdiv sectors 128
    match findRecord s tn with
    | none => .none_
    | some a =>
      if k ≠ 0 && (t.free.length < k + tierReserve t || free.length < k) then .space k
      else
        let r : PageRec := { ktag := BitVec.ofNat 3 kind, fmt := fmt, expp := expp, codes := codes, chunks := free.take k,
                             sectors := sectors, age := age }
        let s1 := setRec (take r.chunks) tn a r
        .at_ a { s1 with mem := wrBytes s1.mem (pageKey tn a) bs }

/-- Give back what an old PTE named: its frame unless another PTE names it (R78), or its record, whose KTAG becomes 0, with its
chunks (R96). -/
def releasePlace (s : State) (w : Nat) : State :=
  let tn := pteTier w
  if pteKind w = 0 then
    if (tierOf s tn).used.any (fun p => p.2 = pteSlot w) then s else giveChunks s tn (frameChunks (tierOf s tn) (pteAddr w))
  else
    let cs := (recOf s tn (pteAddr w)).chunks
    giveChunks { s with mem := wr8 s.mem (recKey s tn (pteAddr w) + 128) 0 } tn cs

/-- A PTE with a new address, tier and kind. -/
def ptePut (w addr tier kind : Nat) : Nat :=
  w / 2 ^ 48 * 2 ^ 48 + addr * 2 ^ 16 + bits w 15 8 * 2 ^ 8 + tier * 2 ^ 6 + kind * 2 ^ 3 + bits w 2 0

/-- The PTE of a page as memory holds it, with where it lies. -/
def pteOf (s : State) (asid : BitVec 12) (ia : Nat) : Option (Nat × Nat) :=
  (pteLoc s asid ia).map (fun (_, _, p) => (p, rdLE s.mem p 8))

/-- The pages that map what a PTE maps, by their keys. -/
def sharers (s : State) (w key : Nat) : List Nat :=
  key :: ((tierOf s (pteTier w)).used.filter (fun p => p.2 = pteSlot w && p.1 ≠ key)).map (·.1)

/-- Write a PTE with its bookkeeping. DESIGN CHOICE (log 64): its cached copy goes at once, so that of what has not passed
translation nothing uses the old entry. -/
def commitPte (s : State) (asid : BitVec 12) (ia p old new : Nat) : State :=
  let key := tcKey asid ia
  let s1 := if pteValid old then modTier s (pteTier old) (fun t => { t with used := adel t.used key }) else s
  let s2 := if pteValid new then modTier s1 (pteTier new) (fun t => { t with used := aput t.used key (pteSlot new) }) else s1
  { s2 with mem := wrLE s2.mem p 8 new, tcache := adel s2.tcache key }

/-- Requests translated under the present entries of a range of pages. -/
def passedOn (s : State) (asid : BitVec 12) (ia pages : Nat) : List Nat :=
  (s.reqs.filter (fun r => r.pte.isSome && !isHostIA r.addr.ia.toNat && r.addr.asid = asid
    && extMeet (iaLocal ia, pages * 65536) (iaLocal r.addr.ia.toNat, r.op.size))).map (·.id)

/-- A write that has passed translation stands at the home of a page. -/
def writesOn (s : State) (asid : BitVec 12) (ia : Nat) : Bool :=
  s.reqs.any (fun r => r.pte.isSome && r.op.mayWrite && !isHostIA r.addr.ia.toNat && r.addr.asid = asid
    && extMeet (iaLocal ia, 65536) (iaLocal r.addr.ia.toNat, r.op.size))

/-- The contents of a page. -/
def pageBytes (s : State) (w : Nat) : List Byte := rdBytes s.mem (pageByte w 0) 65536

/-- Begin a shootdown that waits for what passed translation of its range, and for these. -/
def beginShoot (s : State) (x : Shoot) : State :=
  let (i, s1) := newId s
  { s1 with shoots := s1.shoots ++ [{ x with id := i, waits := passedOn s x.asid x.ia.toNat x.pages ++ x.waits }] }

/-- A page that the engines do not move: not mapped, pinned, under recode or under a move (R88, R90). -/
def fixedPage (s : State) (key : Nat) : Bool :=
  let (asid, ia) := pageOfKey key
  (match pteOf s asid ia with | some (_, w) => !pteValid w || ptePinned w | none => true)
    || s.recodes.any (fun c => c.begun && c.asid = asid && iaLocal c.ia.toNat = ia)
    || s.moves.any (fun m => m.asid = asid && m.pages.any (fun p => iaLocal p = ia))

/-- What comes of a page move: it is committed, it needs this many chunks, or the page cannot be moved now. -/
inductive Moved where
  | to (s : State)
  | space (k : Nat)
  | no

/-- Every PTE of a moved page is committed with a shootdown; its old place is given back once none of them has a request left. -/
def endMove (s : State) (keys : List Nat) (w addr dst : Nat) : State :=
  let waits := keys.flatMap (fun k => passedOn s (pageOfKey k).1 (pageOfKey k).2 1)
  (keys.zip (List.range keys.length)).foldl (fun s (k, i) =>
    let (asid, ia) := pageOfKey k
    match pteOf s asid ia with
    | none => s
    | some (p, w1) =>
      beginShoot (commitPte s asid ia p w1 (ptePut w1 addr dst (pteKind w1)))
        { id := 0, asid := asid, ia := BitVec.ofNat 52 ia, pages := 1, waits := waits, moved := if i = 0 then [w] else [] }) s

/-- Move a page to another tier, its kind kept, once the writes that stand on it have been performed (R32, R88, R90). -/
def movePage (s : State) (asid : BitVec 12) (ia dst : Nat) : Moved :=
  match pteOf s asid ia with
  | none => .no
  | some (_, w) =>
    let keys := sharers s w (tcKey asid ia)
    if !tierOn s dst || !pageUp s w || (recCheck s w).toOption.isNone || keys.any (fixedPage s)
        || keys.any (fun k => writesOn s (pageOfKey k).1 (pageOfKey k).2) then .no
    else
      let r := recOf s (pteTier w) (pteAddr w)
      match takePlace s dst (pteKind w) r.fmt r.expp r.age (pageBytes s w) with
      | .at_ a s1 => .to (endMove s1 keys w a dst)
      | .space k => .space k
      | .none_ => .no

/-! ## The ballooning engine (R88, R89) -/

/-- The engine works on a tier (R88). -/
def balloons (s : State) (tn : Nat) : Bool :=
  let t := tierOf s tn
  tierOn s tn && (t.free.length < tierLow t || !t.held.isEmpty)

/-- The first record in ascending index that holds spare chunks. -/
def spareRecord (s : State) (tn : Nat) : Option Nat :=
  (liveRecords s tn).find? (fun i =>
    let b := recBytes s tn i
    recWellFormed (chunkBound s tn) b && cdiv (lnat b 132 2) 128 < lnat b 129 1)

/-- Release the spare chunks of a record. -/
def compactRecord (s : State) (tn i : Nat) : State :=
  let r := recOf s tn i
  let k := cdiv r.sectors 128
  giveChunks (setRec s tn i { r with chunks := r.chunks.take k }) tn (r.chunks.drop k)

/-- `COMPACTION_PAGE` (R88). -/
def execCompactionPage (s : State) : Host.Outcome State Fault Refusal :=
  onEvent argN (fun tn s =>
    if !balloons s tn then s
    else match spareRecord s tn with
      | none => s
      | some i => compactRecord s tn i) s

/-- The pages of a tier that may be demoted: a key, what it maps, its age (R88). -/
def demotable (s : State) (tn : Nat) : List (Nat × Nat × Nat) :=
  (tierOf s tn).used.filterMap (fun (key, slot) =>
    match pteOf s (pageOfKey key).1 (pageOfKey key).2 with
    | none => none
    | some (_, w) =>
      if (sharers s w key).any (fun k => fixedPage s k) || !pageUp s w then none
      else some (key, slot, if pteKind w = 0 then 0 else (recOf s tn (pteAddr w)).age.toNat))

/-- The coldest: the highest AGE, then the lowest record; frames after records (log 40). -/
def coldest (l : List (Nat × Nat × Nat)) : Option Nat :=
  (l.foldl (fun (a : Option (Nat × Nat × Nat)) x => match a with
    | none => some x
    | some y => if y.2.2 < x.2.2 || (y.2.2 = x.2.2 && x.2.1 < y.2.1) then some x else some y) none).map (·.1)

/-- A page has left a tier and its chunks have yet to come back to the pool: the move is not complete (R73, R88). -/
def leaving (s : State) (tn : Nat) : Bool := s.shoots.any (fun x => x.moved.any (fun w => pteTier w = tn))

/-- Demote the coldest page of a tier; when the tier below has no room, that tier is compacted or demotes first (R88). -/
def demote (s : State) (tn : Nat) : Nat → State
  | 0 => s
  | below + 1 =>
    match coldest (demotable s tn) with
    | none => s
    | some key =>
      let (asid, ia) := pageOfKey key
      match movePage s asid ia (tn + 1) with
      | .to s1 => s1
      | .no => s
      | .space _ =>
        match spareRecord s (tn + 1) with
        | some i => compactRecord s (tn + 1) i
        | none => if tn + 1 < 2 && !leaving s (tn + 1) then demote s (tn + 1) below else s

/-- `DEMOTION_COMPLETE`: the coldest page of a tier that has nothing to compact goes one tier down, one page after another (R88). -/
def execDemotionComplete (s : State) : Host.Outcome State Fault Refusal :=
  onEvent argN (fun tn s =>
    if 2 ≤ tn || !balloons s tn || (spareRecord s tn).isSome || leaving s tn then s else demote s tn 2) s

/-- Clear ACCESSED of a page and say whether it was set. -/
def clearAccessed (s : State) (key : Nat) : State × Bool :=
  let (asid, ia) := pageOfKey key
  match pteOf s asid ia with
  | none => (s, false)
  | some (p, w) =>
    if !bit w 10 then (s, false)
    else
      let tc := match afind s.tcache key with
        | some [a, b, c] => aput s.tcache key [a, b, c &&& ~~~(BitVec.twoPow 64 10)]
        | _ => s.tcache
      ({ s with mem := wrLE s.mem p 8 (w - 2 ^ 10), tcache := tc }, true)

/-- Scan one compressed page, under all its PTEs (R89). -/
def agePage (tn : Nat) (s : State) (slot : Nat) : State :=
  let keys := ((tierOf s tn).used.filter (fun p => p.2 = slot)).map (·.1)
  let (s1, hit) := keys.foldl (fun (a : State × Bool) k => let (s, h) := clearAccessed a.1 k; (s, a.2 || h)) (s, false)
  let r := recOf s1 tn slot
  setRec s1 tn slot { r with age := if hit then 0 else if r.age = 255 then 255 else r.age + 1 }

/-- `AGE_SCAN`: every compressed page of every tier, every 10 ms (R89). -/
def execAgeScan (s : State) : Host.Outcome State Fault Refusal :=
  onEvent argNone (fun _ s =>
    if !timerDue s tmScan 10000000 then s
    else timerSet ((List.range 3).foldl (fun s tn =>
      ((((tierOf s tn).used.map (·.2)).filter (· < 2 ^ 32)).eraseDups.filter (fun i => (liveRecords s tn).contains i)).foldl (agePage tn) s) s) tmScan) s

/-! ## Shootdowns (R73) -/

/-- Discard the cached entries of a range of pages. -/
def dropCached (s : State) (asid : BitVec 12) (ia pages : Nat) : State :=
  let lo := tcKey asid ia
  { s with tcache := s.tcache.filter (fun p => !(lo ≤ p.1 && p.1 < lo + pages)) }

/-- The frame of an unmapped kind-0 page returns to the pool unless another page maps it (R78). -/
def freeFrame (s : State) (w : Nat) : State := if pteKind w ≠ 0 then s else releasePlace s w

/-- Firmware answers a mailbox request: RSP, then RSPSEQ (R21); none is completed over a link that is down (R15). -/
def mailReply (s : State) (f : Nat) (seq : Word) (status : Nat) (body : List Byte) : State :=
  if !s.boot.puverUp then s
  else modFn s f (fun x => { x with
    rsp := padTo (bytesLE 8 seq.toNat ++ bytesLE 4 status ++ [0, 0, 0, 0] ++ body) 256,
    rspseq := seq, inflight := none, msix := x.msix ++ [0] })

/-! ## Recoding (R96) -/

/-- The firing that waits for a recode goes on, or faults. -/
def recodeDone (s : State) (c : Recode) (fault : Option (BitVec 8 × Nat)) : State :=
  let s1 := pruneHeld { s with recodes := s.recodes.filter (fun x => x.id ≠ c.id) }
  match c.issuer with
  | none => s1
  | some (t, k) => match slotFin k with
    | none => s1
    | some k => match fault with
      | none => advance s1 t k
      | some (code, d) =>
        let sl := slotOf s1 t k
        faultCodelet s1 t k { mkPoison s1 t sl.firing code with
          addr := c.ia.setWidth 64, addrKind := 2, detail := BitVec.ofNat 64 d }

/-- Mark a recode. -/
def markRecode (s : State) (c : Recode) (f : Recode → Recode) : State :=
  { s with recodes := s.recodes.map (fun x => if x.id = c.id then f x else x) }

/-- The page's lines leave every slice, those marked poisoned too (R96, step 1; log 67). -/
def dropLines (s : State) (asid : BitVec 12) (ia : Nat) : State :=
  let s1 := dropNear s asid ia 65536
  { s1 with badLines := s1.badLines.filter (fun p => !(lineKey asid ia ≤ p.1 && p.1 ≤ lineKey asid (ia + 65535))) }

/-- Step 5 of a recode. -/
def recodeShoot (s : State) (c : Recode) : State :=
  beginShoot (dropCached s c.asid c.ia.toNat 1) { id := 0, asid := c.asid, ia := c.ia, pages := 1, waits := [], recode := some c.id }

/-- AGE of the record a recode writes: that of the old record; from kind 0, which has none, 0 (DESIGN CHOICE, log 64). -/
def recodeAge (s : State) (w : Nat) : BitVec 8 := if pteKind w = 0 then 0 else (recOf s (pteTier w) (pteAddr w)).age

/-- Steps 3 to 5 of a recode to another kind; one that finds no space is held (R87). -/
def recodeWork (s : State) (c : Recode) (p w : Nat) : State :=
  let tn := pteTier w
  match (if poolTurn (tierOf s tn) (.recode c.id) then takePlace s tn c.kind.toNat c.fmt c.expp (recodeAge s w) (pageBytes s w)
         else .space (if c.kind = 0 then 16 else 1)) with
  | .none_ => s
  | .space k =>
    if (tierOf s tn).exhausted then recodeDone (countExh s cCapacity tn) c (some (cCapacity, tn + 4 * k))
    else noteHeld s tn { who := .recode c.id, since := s.time, asid := c.asid, ia := c.ia, k := k }
  | .at_ a s1 =>
    let s2 := markRecode (commitPte s1 c.asid c.ia.toNat p w (ptePut w a tn c.kind.toNat)) c (fun x => { x with old := some w })
    recodeShoot (dropHeld s2 tn (.recode c.id)) c

/-- A recode of a page checked as for a store (R72, R82, R394): one to the page's own kind does steps 1 and 5 only; another holds
what comes to the page, and its work begins once the writes that came before are performed (R90, R96). -/
def recodeBegin (s : State) (c : Recode) : State :=
  let ia := c.ia.toNat
  if s.recodes.any (fun x => x.begun && x.id ≠ c.id && x.asid = c.asid && iaLocal x.ia.toNat = iaLocal ia)
      || s.moves.any (fun m => m.asid = c.asid && m.pages.any (fun p => iaLocal p = iaLocal ia)) then s
  else
    let z := match c.issuer with | some (t, _) => (tileLaunch s t).asid = 0 | none => true
    match translate s c.asid ia .store z with
    | (s1, .error e) => recodeDone s1 c (some (e, 0))
    | (s1, .ok w) => match checkAll s1 [w] with
      | .error e => recodeDone s1 c (some (e, 0))
      | .ok _ => match pteOf s1 c.asid ia with
        | none => s1
        | some (p, w1) =>
          if pteAddr w1 ≠ pteAddr w || pteKind w1 ≠ pteKind w then s1
          else if pteKind w = c.kind.toNat then
            recodeShoot (dropLines (markRecode s1 c (fun x => { x with begun := true, same := true })) c.asid ia) c
          else
            let s2 := dropLines (markRecode s1 c (fun x => { x with begun := true })) c.asid ia
            if writesOn s2 c.asid ia then s2 else recodeWork s2 c p w1

/-- Data of `RECODE`. -/
def argRecode : EvArgs → Option (BitVec 12 × BitVec 52 × Word)
  | .recode a ia k => some (a, ia, k)
  | _ => none

/-- `RECODE`: a recode asked for by `pgrecode`, or else by the headland, is carried out up to its shootdown (R96). -/
def execRecode (s : State) : Host.Outcome State Fault Refusal :=
  onEvent argRecode (fun (asid, ia, kw) s =>
    match s.recodes.find? (fun c => c.asid = asid && c.ia = ia && c.kind = kw.extractLsb' 0 3 && c.old.isNone
        && !s.shoots.any (fun x => x.recode = some c.id)) with
    | some c => recodeBegin s c
    | none =>
      if !kindWordOk kw || ia.toNat % 65536 ≠ 0 || isHostIA ia.toNat || !pkgIsLocal s (iaPkg ia.toNat) then s
      else
        let (i, s1) := newId s
        let c : Recode := { id := i, asid := asid, ia := ia, kind := kw.extractLsb' 0 3, fmt := kw.extractLsb' 8 8,
                            expp := kw.extractLsb' 16 2 }
        recodeBegin { s1 with recodes := s1.recodes ++ [c] } c) s

/-- Steps 6 and 7: the old record or frame is given back, and the held requests are translated afresh. -/
def recodeEnd (s : State) (c : Recode) : State :=
  recodeDone (match c.old with | some w => releasePlace s w | none => s) c none

/-- `SHOOTDOWN_COMPLETE`: no request translated under the old entries stands (R73). -/
def execShootdownComplete (s : State) : Host.Outcome State Fault Refusal :=
  onEvent argN (fun i s =>
    match s.shoots.find? (fun x => x.id = i) with
    | none => s
    | some x =>
      if s.reqs.any (fun r => x.waits.contains r.id) then s
      else
        let s1 := dropCached { s with shoots := s.shoots.filter (fun y => y.id ≠ i) } x.asid x.ia.toNat x.pages
        let s3 := { x.moved.foldl releasePlace (x.frames.foldl freeFrame s1) with tablePool := s1.tablePool ++ x.tables }
        let s2 := match x.reply with | some (f, seq) => mailReply s3 f seq 0 [] | none => s3
        match x.recode.bind (fun r => s2.recodes.find? (fun c => c.id = r)) with
        | some c => recodeEnd s2 c
        | none => s2) s

/-! ## Held writes (R86, R87, R91) -/

/-- Try a held write again as the only one at the pool. -/
def retryHeld (s : State) (who : HeldBy) : State :=
  match who with
  | .req i => match s.reqs.find? (fun r => r.id = i) with
    | some r => if mayPerform s r then performLocal s r ((r.pte.getD []).map (·.toNat)) false else s
    | none => s
  | .recode i => match s.recodes.find? (fun c => c.id = i) with
    | some c => recodeBegin s c
    | none => s
  | .dev _ _ => s

/-- `CHUNK_GRANT`: the write that reached the pool first is performed once FREE − k ≥ RESERVE (R86, R87). A write of an engine
or of the headland is performed when that next tries it. -/
def execChunkGrant (s : State) : Host.Outcome State Fault Refusal :=
  onEvent argN (fun tn s => match (tierOf s tn).held with
    | [] => s
    | x :: _ => retryHeld s x.who) s

/-- `FIRMWARE_SPACE_NOTICE`: a write held for 1 ms is told to firmware (R91). -/
def execFirmwareSpaceNotice (s : State) : Host.Outcome State Fault Refusal :=
  onEvent argN (fun tn s => match (tierOf s tn).held.find? (fun x => !x.told && due s x.since 1000000) with
    | none => s
    | some x => modTier s tn (fun t => { t with held := t.held.map (fun y => if y.who = x.who then { y with told := true } else y) })) s

/-- A held write ends in "capacity exhausted" (R91). -/
def exhaustOne (tn : Nat) (s : State) (x : HeldWrite) : State :=
  match x.who with
  | .req i => match s.reqs.find? (fun r => r.id = i) with
    | some r => lateFault (countExh s cCapacity tn) r cCapacity (tn + 4 * x.k)
    | none => s
  | .recode i => match s.recodes.find? (fun c => c.id = i) with
    | some c => recodeDone (countExh s cCapacity tn) c (some (cCapacity, tn + 4 * x.k))
    | none => s
  | .dev _ _ => modTier (countExh s cCapacity tn) tn (fun t => { t with ended := t.ended ++ [(x.who, x.k)] })

/-- `TIER_EXHAUSTED`: firmware, told of a held write, declares its tier exhausted; every write held there ends, those of engines
and of the headland when they next try (R91). -/
def execTierExhausted (s : State) : Host.Outcome State Fault Refusal :=
  onEvent argN (fun tn s =>
    let t := tierOf s tn
    if t.exhausted || !(t.held.any (·.told)) then s
    else
      let s1 := modTier s tn (fun t => { t with exhausted := t.free.length < tierLow t, held := [] })
      t.held.foldl (exhaustOne tn) s1) s

end Sys2Proof.Machine
end

