-- ==== Sys2Proof/Machine/Boot.lean ====
section
/-! DEFINITION. Resets, bring-up, the remap tables, attestation, the sideband and the links (R10 to R15, R25, R28, R32 to R40,
R44, R50, R150, R151). -/

namespace Sys2Proof.Machine

open Sys2Proof

/-! ## Resets (R33, R36, R150, R151) -/

/-- Host memory among the cells of `State.mem` (R17). -/
def hostCells (m : List Host.Cell) : List Host.Cell := m.filter (fun p => hostKey 0 ≤ p.1)

/-- The state after a reset that keeps nothing of the module but its fuses and a retention record; the host with its memory, what
agents outside have read, the checkpoint target and the model's own schedule are outside the module. -/
def resetTo (s : State) (ret : Retention) (b : Boot → Boot) : State :=
  { State.reset with
    time := s.time
    agenda := s.agenda
    freeCtr := s.freeCtr
    nextId := s.nextId
    mem := hostCells s.mem
    ckptImage := s.ckptImage
    hostBusy := s.hostBusy
    got := s.got
    boot := b { State.reset.boot with fuses := s.boot.fuses, keyFuses := s.boot.keyFuses, revoked := s.boot.revoked, ret := ret } }

/-- The header of the record is what its check covers (R150). -/
def retOk (r : Retention) : Bool := r.magic = 0x43520001 && r.hcrc = (sealRet r).hcrc

/-- The retention record after a reset that keeps it; one whose header is wrong is cleared (R151). -/
def bootAgain (r : Retention) : Retention := if retOk r then sealRet { r with boots := r.boots + 1 } else {}

/-- The boot ROM derives K from the fused secret: another at each boot (R309). -/
def deriveKey (s : State) : State :=
  { s with freeCtr := s.freeCtr + 1, boot := { s.boot with saveKey := Config.saveKey Config.fusedSecret s.freeCtr } }

/-- `POWER_ON_RESET`: nothing is kept, BOOTS is 1. -/
def execPowerOnReset (s : State) : Host.Outcome State Fault Refusal :=
  onEvent argNone (fun _ s => resetTo s {} id) s

/-- `WARM_RESET`: the retention record is kept and the last package number written waits for the furrow step. -/
def execWarmReset (s : State) : Host.Outcome State Fault Refusal :=
  onEvent argNone (fun _ s => resetTo s (bootAgain s.boot.ret) (fun b => { b with pkgWritten := s.boot.pkgWritten })) s

/-- The module resets itself into BOOT_WAIT after a crash entry (R150). DESIGN CHOICE (log 71): a Puver link that was down stays
down. -/
def selfReset (s : State) : State :=
  deriveKey (resetTo s (bootAgain s.boot.ret) (fun b => { b with
    pkgWritten := s.boot.pkgWritten, stage := .waitImage, released := some s.time, puverUp := s.boot.puverUp }))

/-- `RESET_RELEASE`: the boot ROM has run; the module waits for its image. -/
def execResetRelease (s : State) : Host.Outcome State Fault Refusal :=
  onEvent argNone (fun _ s =>
    if s.boot.stage ≠ .held then s
    else deriveKey { s with boot := { s.boot with stage := .waitImage, code := .bootWait, released := some s.time, puverUp := true } }) s

/-! ## FSTAT (R20, R23) -/

/-- BOOT of FSTAT. -/
def bootNum : BootCode → Nat
  | .bootWait => 0 | .ready => 1 | .authFail => 2 | .lengthFail => 3 | .rollbackFail => 4 | .noImage => 5 | .remapFail => 6 | .trainFail => 7

/-- FSTAT of a function (R20). -/
def fstat (s : State) (f : Nat) : Word :=
  BitVec.ofNat 64 (bootNum s.boot.code + (if (fnOf s f).fen then 256 else 0) + (if s.boot.pkg.isSome then 512 else 0)
    + (s.boot.pkg.getD 255).toNat * 1024)

/-- The STATUS event to every function (R23). -/
def postStatus (s : State) : State :=
  (List.range 64).foldl (fun s f => postEvent s f (bytesLE 8 3 ++ bytesLE 8 (fstat s f).toNat)) s

/-- BOOT changes: every function has a STATUS event of it (R23). -/
def setBoot (s : State) (c : BootCode) : State :=
  if c = s.boot.code then s else postStatus { s with boot := { s.boot with code := c } }

/-! ## The image (R33, R34, R37, R38) -/

/-- The key under which the image's signature verifies is one of the four slots' and not revoked (R34). -/
def keyOk (b : Boot) (k : BitVec 512) : Bool :=
  (b.keyFuses.zip (List.range 4)).any (fun x => x.1 = k && !b.revoked.getLsbD x.2)

/-- What the boot ROM finds of an image; `none` accepts it. -/
def imageFault (b : Boot) (i : FwImage) : Option BootCode :=
  if i.magic ≠ 0x5A500128#32 then some .authFail
  else if 64 * 2 ^ 20 < i.length then some .lengthFail
  else if !i.key.any (keyOk b) then some .authFail
  else if 63 < i.secVer || i.secVer < b.fuses then some .rollbackFail
  else none

/-- The image is accepted: log entries 0 and 1, and the attestation key of the image with its certificate. -/
def acceptImage (s : State) (i : FwImage) : State :=
  { s with freeCtr := s.freeCtr + 1
           boot := { attest (attest { s.boot with stage := .firmware, image := some i } 1 Config.romDigest) 2 i.digest with
                     attestation := some (attestationOf i.digest s.freeCtr) } }

/-- The 5 s in which an image must arrive have passed (R34). -/
def imageLate (s : State) : Bool := s.boot.released.any (fun t => due s t 5000000000)

/-- `FIRMWARE_IMAGE_PUSH` (R33, R34, R37, R38). DESIGN CHOICE (log 71): BOOT reads BOOT_WAIT again once an image is accepted after
one that failed. -/
def execFirmwareImagePush (s : State) : Host.Outcome State Fault Refusal :=
  onEvent (fun a => match a with | .image i => some i | _ => none) (fun i s =>
    if s.boot.stage ≠ .waitImage || !s.boot.puverUp || imageLate s then s
    else match imageFault s.boot i with
      | some e => setBoot s e
      | none => setBoot (acceptImage s i) .bootWait) s

/-- `NO_IMAGE_TIMEOUT`: no valid image within 5 s of the release of reset (R34). -/
def execNoImageTimeout (s : State) : Host.Outcome State Fault Refusal :=
  onEvent argNone (fun _ s =>
    if s.boot.stage = .waitImage && imageLate s then setBoot { s with boot := { s.boot with stage := .failed } } .noImage else s) s

/-! ## The remap tables (R11 to R13) -/

/-- The place of a logical tile of a die: its number ROW × 20 + COL and its physical index. -/
abbrev Mapped := List (Nat × Nat)

/-- Pass 1: each logical row takes the healthy tiles of its physical row. -/
def remapPass1 (bad : List Nat) : Mapped :=
  (List.range 16).flatMap (fun row =>
    ((List.range 20).map (row * 20 + ·)).zip (((List.range 21).map (row * 21 + ·)).filter (fun p => !bad.contains p)))

/-- Logical tiles with no place, ascending. -/
def unmapped (m : Mapped) : List Nat := (List.range 320).filter (fun l => !m.any (fun x => x.1 = l))

/-- Pass 2: spare tiles. -/
def remapPass2 (bad : List Nat) (m : Mapped) : Mapped :=
  m ++ (unmapped m).zip ((List.range 336).filter (fun p => !bad.contains p && !m.any (fun x => x.2 = p)))

/-- The host of a tile in pass 3: an unshared mapped tile of the row, else of the die, of the lowest id. -/
def remapHost (m : Mapped) (shared : List (Nat × Nat)) (l : Nat) : Option (Nat × Nat) :=
  let free := ((List.range 320).filterMap (fun k => m.find? (fun x => x.1 = k))).filter (fun x => !shared.any (fun y => y.2 = x.2))
  match free.find? (fun x => x.1 / 20 = l / 20) with
  | some x => some x
  | none => free.head?

/-- Pass 3: each tile left shares; the pairs as the second tile and the physical tile. -/
def remapPass3 (m : Mapped) : List Nat → List (Nat × Nat) → List (Nat × Nat)
  | [], shared => shared
  | l :: t, shared => match remapHost m shared l with
    | some x => remapPass3 m t (shared ++ [(l, x.2)])
    | none => remapPass3 m t shared

/-- The remap table of a die; `none` with more than 48 unusable tiles (R12). -/
def remapTable (bad : List Nat) : Option (List (BitVec 16)) :=
  if 48 < bad.length then none
  else
    let m := remapPass2 bad (remapPass1 bad)
    let shared := remapPass3 m (unmapped m) []
    some ((List.range 320).map (fun l =>
      match m.find? (fun x => x.1 = l) with
      | some x => BitVec.ofNat 16 (x.2 + (if shared.any (fun y => y.2 = x.2) then 512 else 0))
      | none => match shared.find? (fun y => y.1 = l) with
        | some y => BitVec.ofNat 16 (y.2 + 512 + 1024)
        | none => 0))

/-! ## FIRMWARE_BRING_UP (R33, R35, R43, R44, R71, R78, R79, R97, R144, R307) -/

/-- Ranges of chunks that ascend without meeting, within a bound. -/
def rangesOk (bound : Nat) : List (Nat × Nat) → Bool
  | [] => true
  | [x] => x.1 + x.2 ≤ bound
  | x :: y :: t => x.1 + x.2 ≤ y.1 && rangesOk bound (y :: t)

/-- The ports of an interleave set (R32). -/
def portsOk (l : List Nat) : Bool := [1, 2, 3, 4, 6].contains l.length && l.all (· < 6) && l.eraseDups.length = l.length

/-- Chunk indices of a tier: 512 GB of HBM4E, 1,536 GB of LPDDR-6, the ranges declared for the cold pool (R78). -/
def tierBound (r : BringUp) (i : Nat) : Nat :=
  match i with
  | 0 => 125000000
  | 1 => 375000000
  | _ => (r.sets.map (fun x => x.1 + x.2.1)).foldl max 0

/-- Pairs of logical tiles that share a physical one (R11). -/
def sharedPairs (tabs : List (List (BitVec 16))) : Nat := ((tabs.flatten).filter (fun w => w.getLsbD 10)).length

/-- The chunks of a tier's reported capacity: HBM4E without the overflow regions and the remap reserve (R14, R78, R171). -/
def tierChunks (r : BringUp) (pairs i : Nat) : Nat :=
  match i with
  | 0 => 125000000 - 4 * 262144 - 1536 * pairs
  | 1 => 375000000
  | _ => (r.sets.map (·.2.1)).sum

/-- An operating-point entry as it is held: reserved bits ignore the write (R7, R43). -/
def oppHeld (w : Word) : Word := w &&& 0x800FFFFF00FFFFFF#64

/-- Operating points obey R43 and R44. -/
def oppsOk (opp : List Word) (pbase : Nat) : Bool :=
  opp.length = 64 && oppValid (opp.getD 0 0)
    && opp.all (fun w => !oppValid w || ((mults w).zip multRanges).all (fun x => x.2.1 ≤ x.1 && x.1 ≤ x.2.2))
    && 4 * oppCost (opp.getD 0 0) + pbase ≤ 1000
    && opp.any (fun w => oppValid w && mults w = [32, 32, 40, 32] && 4 * oppCost w + pbase ≤ 3000)

/-- What firmware finds and writes obeys the rules it is bound to (R8, R32, R43, R44, R50, R78, R97, R144). -/
def bringUpOk (r : BringUp) : Bool :=
  oppsOk r.opp r.pbase
    && r.limits.length = 4 && r.limits.all (· ≤ 105) && r.unusable.length = 4
    && r.unusable.all (fun l => l.all (· < 336) && l.eraseDups.length = l.length)
    && r.sets.all (fun x => portsOk x.2.2) && (r.target.isEmpty || portsOk r.target)
    && (List.range 3).all (fun i => rangesOk (tierBound r i) (r.freeChunks.getD i []))
    && 1 ≤ r.ckwait && r.ckwait ≤ 3600000 && 500000 ≤ r.quantum && r.quantum ≤ 100000000 && 1 ≤ r.agediv && r.agediv ≤ 64
    && r.drainmax ≤ 10000 && r.quota.length = 64 && r.quota.all (fun q => 1 ≤ q && q ≤ 64)

/-- The free pool fits in the tier's reported capacity (R14, R78, R171). -/
def poolsFit (r : BringUp) (pairs : Nat) : Bool :=
  (List.range 3).all (fun i => ((r.freeChunks.getD i []).map (·.2)).sum ≤ tierChunks r pairs i)

/-- A tier as firmware sets it up; TIERCFG [63:56] ignores the write (R7, R79). -/
def tierAt (r : BringUp) (pairs i : Nat) : Tier :=
  { cfg := r.tiercfg.getD i 0 &&& 0x00FFFFFFFFFFFFFF#64, chbase := r.chbase.getD i 0, prbase := r.prbase.getD i 0
    area := r.records.getD i 0, physical := tierChunks r pairs i
    free := (r.freeChunks.getD i []).flatMap (fun x => (List.range x.2).map (x.1 + ·)) }

/-- Bring-up ends in a failure: held kicks are dropped (R35). -/
def bringUpFails (s : State) (c : BootCode) : State :=
  setBoot { s with boot := { s.boot with stage := .failed, heldKicks := [] } } c

/-- The logical tiles that take slot 1 of a shared tile begin inactive (R11, R14). -/
def parkShared (s : State) (die : Nat) (tab : List (BitVec 16)) : State :=
  (List.range 320).foldl (fun s l =>
    if (tab.getD l 0).getLsbD 10 then modTile s (die * 512 + l / 20 * 32 + l % 20) (fun x => { x with parked := true }) else s) s

/-- Firmware has trained the memories and built the tables; log entry 2 covers them (R37). -/
def trained (s : State) (r : BringUp) (tabs : List (List (BitVec 16))) : State :=
  let n := sharedPairs tabs
  let ts := (List.range 3).map (fun i => (i, tierAt r n i))
  let opp := r.opp.map oppHeld
  let s1 := { s with
    boot := attest { s.boot with
      stage := .trained, remap := tabs, unusable := r.unusable, saveUnits := r.saveUnits, sets := r.sets, target := r.target
      qcbbase := some r.qcbbase, chans := r.chans, hostAtomics := r.hostAtomics, cfgPkg := s.boot.pkgWritten } 3
      (configDigest tabs s.boot.pkgWritten r.sets (ts.map (fun x => x.2.cfg)))
    clk := { s.clk with opp := opp, pbase := r.pbase, limit := r.limits
                        clkg := List.replicate 4 (clkWord 0 0 0 (opp.getD 0 0)) }
    tiers := ts
    tablePool := r.tables
    params := { ckwait := r.ckwait, quantum := r.quantum, agediv := r.agediv, drainmax := r.drainmax, quota := r.quota
                promote := r.promote, demote := r.demote, hyst := r.hyst } }
  (tabs.zip (List.range 4)).foldl (fun s x => parkShared s x.2 x.1) s1

/-- `FIRMWARE_BRING_UP`. -/
def execFirmwareBringUp (s : State) : Host.Outcome State Fault Refusal :=
  onEvent (fun a => match a with | .bringUp r => some r | _ => none) (fun r s =>
    if s.boot.stage ≠ .firmware || !bringUpOk r then s
    else if !r.trained then bringUpFails s .trainFail
    else
      let tabs := r.unusable.map remapTable
      if tabs.any (·.isNone) then bringUpFails s .remapFail
      else
        let ts := tabs.map (·.getD [])
        if poolsFit r (sharedPairs ts) then trained s r ts else s) s

/-- TIERCFG of each tier. -/
def tierCfgs (s : State) : List Word := (List.range 3).map (fun t => (tierOf s t).cfg)

/-- `FURROW_STEP`: ports train; the package number takes force, or the module is standalone (R25, R31, R37). -/
def execFurrowStep (s : State) : Host.Outcome State Fault Refusal :=
  onEvent (fun a => match a with | .furrow p c => some (p, c) | _ => none) (fun (planes, cxl) s =>
    if s.boot.stage ≠ .trained then s
    else match s.boot.pkgWritten with
      | none => { s with boot := { s.boot with stage := .furrowed, cxl := cxl, planes := 0, pkg := none } }
      | some n =>
        let b := { s.boot with stage := .furrowed, cxl := cxl, planes := planes, pkg := some n }
        postStatus { s with boot := if s.boot.cfgPkg = some n then b
                                    else attest b 4 (configDigest b.remap (some n) b.sets (tierCfgs s)) }) s

/-- The functions of the adapter: two physical ones, each with 31 virtual ones (R16, R20). -/
def enumerated (f : Nat) (x : Fn) : Fn :=
  { x with fen := true, vf := 2 ≤ f, parent := if f < 2 then f else if f ≤ 32 then 0 else 1 }

/-- `READY_REPORT`: held kicks are taken in order of arrival (R33, R35). -/
def execReadyReport (s : State) : Host.Outcome State Fault Refusal :=
  onEvent argNone (fun _ s =>
    if s.boot.stage ≠ .furrowed then s
    else
      let s1 := { s with boot := { s.boot with stage := .ready, heldKicks := [] }
                         fns := (List.range 64).foldl (fun m f => amod m f {} (enumerated f)) s.fns }
      s.boot.heldKicks.foldl (fun s k => kickPage s k.1 k.2.1 k.2.2.1 (fun s => doorbell s k.2.1 k.2.2.2.toNat)) (setBoot s1 .ready)) s

/-! ## The sideband (R25, R39, R40, R150) -/

/-- `PACKAGE_NUMBER_WRITE`: 0 to 191; it takes force at the next furrow step (R25). -/
def execPackageNumberWrite (s : State) : Host.Outcome State Fault Refusal :=
  onEvent (fun a => match a with | .pkg n => some n | _ => none) (fun n s =>
    if n.toNat ≤ 191 then { s with boot := { s.boot with pkgWritten := some n } } else s) s

/-- `QUOTE_REQUEST`: the reply over the log, ACC and the nonce, signed with the attestation key (R38, R39). -/
def execQuoteRequest (s : State) : Host.Outcome State Fault Refusal :=
  onEvent (fun a => match a with | .nonce n => some n | _ => none) (fun n s =>
    match s.boot.attestation with
    | none => s
    | some a => { s with freeCtr := s.freeCtr + 1, boot := { s.boot with quotes := s.boot.quotes ++ [quoteReply s.boot a n s.freeCtr] } }) s

/-- The items of R40 as they are served. -/
def servedNow (s : State) : Served :=
  { pkg := s.boot.pkg, cap := s.clk.cap, limits := s.clk.limit, sensors := s.sens.served, puver := s.boot.puverUp
    furrow := s.boot.planes, cxl := s.boot.cxl, corrected := s.sens.corrected, uncorrectable := s.sens.uncorrectable
    unusable := s.boot.unusable.map List.length, boot := s.boot.code }

/-- ECRC of a crash entry holds (R150, R151). -/
def entryOk (b : List Byte) : Bool := lnat b 124 4 = (crc32 (b.take 124)).toNat

/-- An entry of the crash record as it is reported: one whose ECRC is wrong as corrupt (R151); one not written holds zeros. -/
def crashEntry (r : Retention) (i : Nat) : SideData :=
  match afind r.entries i with
  | none => .bytes (List.replicate 128 0)
  | some b => if entryOk b then .bytes b else .corrupt

/-- What the sideband answers (R10, R11, R40, R43, R44, R79, R82, R97, R144, R150, R227, R307). -/
def sideData (s : State) : SideItem → SideData
  | .served => .items (servedNow s)
  | .opp i => .nums [(s.clk.opp.getD i 0).toNat]
  | .pbase => .nums [s.clk.pbase]
  | .remap d => .nums ((s.boot.remap.getD d []).map BitVec.toNat)
  | .tiercfg t => .nums [(tierOf s t).cfg.toNat]
  | .tierst t => .nums [(tierst s t).toNat]
  | .tierFailed => .nums ((List.range 3).filter (fun t => !tierOn s t))
  | .records t => .nums [(tierOf s t).area]
  | .saveRegion => .nums [s.boot.saveUnits]
  | .crash i => crashEntry s.boot.ret i
  | .crashHeader => .bytes (padTo (retHeader s.boot.ret ++ bytesLE 4 s.boot.ret.hcrc.toNat) 128)
  | .telemetry => .nums [s.clk.stretches, s.clk.linkAdapts, s.sens.corrected, s.sens.uncorrectable, s.sens.capRefused]
  | .scheduler => .nums ([100, s.params.quantum, 1, s.params.agediv, s.params.drainmax] ++ s.params.quota)
  | .rotation => .nums [s.params.promote, s.params.demote, s.params.hyst]
  | .checkpoint => .nums [s.params.ckwait, s.sens.ckptStatus]
  | .plotsFailed => .nums s.boot.plotFail

/-- The sideband answers from the boot ROM's BOOT_WAIT on (R33). -/
def sideRead (s : State) (i : SideItem) : State := if s.boot.stage = .held then s else gotOut s (.side i (sideData s i))

/-- `CRASH_RECORD_CLEAR` (R150). -/
def execCrashRecordClear (s : State) : Host.Outcome State Fault Refusal :=
  onEvent argNone (fun _ s =>
    { s with boot := { s.boot with ret := sealRet { s.boot.ret with next := 0, count := 0, entries := [] } } }) s

/-! ## Crashes (R50, R150) -/

/-- Write a crash entry and reset. -/
def crash (s : State) (cause : Nat) (r : CpuRegs) : State := selfReset (writeCrash s cause 255 r)

def argCpu : EvArgs → Option CpuRegs
  | .cpu _ r => some r
  | _ => none

/-- Firmware runs. -/
def fwRuns (s : State) : Bool :=
  match s.boot.stage with
  | .firmware => true | .trained => true | .furrowed => true | .ready => true | .failed => s.boot.image.isSome
  | _ => false

/-- `HEADLAND_WATCHDOG` (R150, cause 2). -/
def execHeadlandWatchdog (s : State) : Host.Outcome State Fault Refusal :=
  onEvent argCpu (fun r s => if fwRuns s then crash s 2 r else s) s

/-- `FIRMWARE_PANIC` (R150, cause 1). -/
def execFirmwarePanic (s : State) : Host.Outcome State Fault Refusal :=
  onEvent argCpu (fun r s => if fwRuns s then crash s 1 r else s) s

/-- `BASE_DIE_UNCORRECTABLE` (R150, cause 4). -/
def execBaseDieUncorrectable (s : State) : Host.Outcome State Fault Refusal :=
  onEvent argCpu (fun r s => crash { s with sens := { s.sens with uncorrectable := s.sens.uncorrectable + 1 } } 4 r) s

/-- Firmware trips (R50): a die 10 °C above its limit, or above it 10 ms after the thermal cap reached its floor. -/
def trips (s : State) (temp : List Nat) : Bool :=
  (temp.zip s.clk.limit).any (fun p => p.2 + 10 ≤ p.1)
    || (tooHot temp s.clk.limit && s.clk.floorSince.any (fun t => due s t 10000000))

/-- `THERMAL_TRIP` (R50, cause 5). -/
def execThermalTrip (s : State) : Host.Outcome State Fault Refusal :=
  onEvent argTemps (fun (temp, r) s =>
    if fwRuns s && s.boot.stage ≠ .firmware && trips s temp then crash { s with clk := { s.clk with temp := temp } } 5 r
    else s) s

/-! ## Links (R15, R28, R32) -/

/-- `PUVER_LINK_DOWN`: no further host traffic until reset (R15, R150). -/
def execPuverLinkDown (s : State) : Host.Outcome State Fault Refusal :=
  onEvent argCpu (fun r s =>
    if !s.boot.puverUp then s else writeCrash { s with boot := { s.boot with puverUp := false } } 6 255 r) s

/-- `PLANE_DOWN`: the remaining planes carry the traffic (R28). -/
def execPlaneDown (s : State) : Host.Outcome State Fault Refusal :=
  onEvent argN (fun k s => { s with boot := { s.boot with planes := s.boot.planes &&& ~~~(BitVec.twoPow 24 k) } }) s

/-- The headland takes up placing again after a checkpoint request (R97). -/
def endCkpt (s : State) (status : Nat) : State := { s with ckpt := none, sens := { s.sens with ckptStatus := status } }

/-- `CXL_PORT_DOWN`: its ranges are unreachable, firmware is notified, a checkpoint in progress over it fails (R32, R97). -/
def execCxlPortDown (s : State) : Host.Outcome State Fault Refusal :=
  onEvent argN (fun k s =>
    let told := if s.boot.cxl.getLsbD k then s.boot.portNotices ++ [k] else s.boot.portNotices
    let s1 := { s with boot := { s.boot with cxl := s.boot.cxl &&& ~~~(BitVec.twoPow 6 k), portNotices := told } }
    if s.ckpt.any (·.copying) && s.boot.target.contains k then
      { endCkpt s1 2 with ckptImage := s.ckptImage.map (fun x => { x with complete := false }) }
    else s1) s

/-! ## Checkpoints of device memory (R97, R98) -/

/-- `CHECKPOINT_REQUEST`. -/
def execCheckpointRequest (s : State) : Host.Outcome State Fault Refusal :=
  onEvent argNone (fun _ s =>
    if s.boot.stage ≠ .ready || s.ckpt.isSome then s
    else ckptPreempt { s with ckpt := some { since := s.time } }) s

/-- `CKWAIT_EXPIRE`: a launch that runs to its end is still placed (R97). -/
def execCkwaitExpire (s : State) : Host.Outcome State Fault Refusal :=
  onEvent argNone (fun _ s =>
    match s.ckpt with
    | none => s
    | some c =>
      if !c.copying && due s c.since (s.params.ckwait * 1000000) && s.launches.any (fun p => holdsTiles p.2 && 2 ≤ p.2.pclass)
      then endCkpt s 1 else s) s

/-- Device memory among the cells. -/
def deviceCells (m : List Host.Cell) : List Host.Cell := m.filter (fun p => p.1 < hostKey 0)

/-- The level-1 entries of an ASID that are valid (R71). -/
def l1Entries (s : State) (a : Nat) : List Nat :=
  let root := (aget s.roots a 0).toNat
  if !tabValid root then []
  else ((List.range 16384).map (fun i => rdLE s.mem (physKey 0 (tabAddr root + i * 8)) 8)).filter tabValid

/-- A cell lies in a free chunk. -/
def inFree (s : State) (key : Nat) : Bool :=
  let t := tierOf s (key / 2 ^ 48)
  key < 2 ^ 60 && t.chbase ≤ key % 2 ^ 48 && t.free.contains ((key % 2 ^ 48 - t.chbase) / 4096)

/-- The cells that a checkpoint copies: free chunks are not (R97). -/
def copiedCells (s : State) : List Host.Cell := (deviceCells s.mem).filter (fun p => !inFree s p.1)

/-- The region sizes of an image's header: page tables, then for each tier its record area, its chunks in use and its frames, in
bytes. -/
def regionSizes (s : State) : List Nat :=
  (131072 * ((s.roots.filter (fun p => p.2.getLsbD 0)).length + (s.roots.map (fun p => (l1Entries s p.1).length)).sum))
    :: (List.range 3).flatMap (fun tn =>
      let t := tierOf s tn
      let frames := ((t.used.map (·.2)).filter (2 ^ 32 ≤ ·)).eraseDups.length
      [t.area * 256, ((liveRecords s tn).map (fun i => (recOf s tn i).chunks.length)).sum * 4096, frames * 65536])

/-- The tags of the 4 KiB pieces that hold these cells (R97). -/
def imageTags (m : List Host.Cell) : AMap Word :=
  (m.map (fun p => p.1 / 4096)).eraseDups.foldl (fun a i => aput a i (Config.imageTag Config.fusedSecret i (rdBytes m (i * 4096) 4096))) []

/-- The image of device memory as it stands (R97). -/
def ckptOfNow (s : State) : CkptImage :=
  let m := copiedCells s
  { complete := true, revision := Config.encoderRevision, cfgs := tierCfgs s, sizes := regionSizes s, roots := s.roots
    tiers := s.tiers, mem := m, tags := imageTags m }

/-- `CHECKPOINT_COMPLETE`: every part has been performed at the target; COMPLETE is written 1 (R97). -/
def execCheckpointComplete (s : State) : Host.Outcome State Fault Refusal :=
  onEvent argNone (fun _ s =>
    match s.ckpt with
    | none => s
    | some c => if c.copying then endCkpt { s with ckptImage := some (ckptOfNow s) } 0 else s) s

/-- The control blocks in device memory are firmware's own: they are written again after what replaces its contents. -/
def keepQcbs (s : State) : State := s.queues.foldl (fun s p => { s with mem := qcbMem s p.1 p.2 }) s

/-- Device memory holds other contents: what the slices and translation caches hold of the old ones goes. -/
def replaceMem (s : State) (roots : AMap Word) (tiers : AMap Tier) (m : List Host.Cell) : State :=
  keepQcbs { s with boot := { s.boot with memLocked := false }, roots := roots, tiers := tiers, tcache := [], near := []
                    lineRel := [], badLines := [], badMem := [], mem := m ++ hostCells s.mem }

/-- An image is accepted: COMPLETE, the encoder revision and the TIERCFG values match the device (R98). -/
def ckptAccepted (s : State) (x : CkptImage) : Bool :=
  x.complete && x.revision = Config.encoderRevision && x.cfgs = tierCfgs s

/-- `MEMORY_RESTORE` (R98); the flag says that a read of the target was uncorrectable. -/
def execMemoryRestore (s : State) : Host.Outcome State Fault Refusal :=
  onEvent (fun a => match a with | .flag b => some b | _ => none) (fun bad s =>
    match s.ckptImage with
    | none => s
    | some x =>
      if !ckptAccepted s x || s.launches.any (fun p => holdsTiles p.2) then s
      else if bad || x.tags ≠ imageTags x.mem || !s.boot.target.all (fun p => s.boot.cxl.getLsbD p) then
        { s with boot := { s.boot with memLocked := true } }
      else replaceMem s x.roots x.tiers x.mem) s

/-- A tier whose pages are all unmapped and whose records are released. -/
def emptiedTier (s : State) (tn : Nat) : Tier :=
  let t := tierOf s tn
  let cs := (liveRecords s tn).flatMap (fun i => (recOf s tn i).chunks)
    ++ ((t.used.map (·.2)).filter (2 ^ 32 ≤ ·)).flatMap (fun x => frameChunks t (x - 2 ^ 32))
  { t with free := cs.foldl (fun l c => chunkInsert c l) t.free, held := [], ended := [], used := [], exhausted := false }

/-- Firmware clears device memory (R98): nothing is mapped, and no save image in it can be restored. -/
def clearMemory (s : State) : State :=
  if !fwRuns s || s.launches.any (fun p => holdsTiles p.2) then s
  else
    let s1 := { s with launches := s.launches.map (fun p =>
      (p.1, { p.2 with save := p.2.save.map (fun x => { x with patches := x.patches ++ [(0, 0, 0)] }) })) }
    replaceMem s1 [] ((List.range 3).map (fun tn => (tn, emptiedTier s tn))) []

end Sys2Proof.Machine
end

