-- ==== Sys2Proof/Machine/Mailbox.lean ====
section
/-! DEFINITION. What the host does at a function's control page: registers, mailbox requests, events, BAR2 (R16, R20 to
R23, R69, R80, R388). -/

namespace Sys2Proof.Machine

open Sys2Proof

/-! ## Registers of the control page (R20, R21) -/

/-- Registers that only read: FSTAT, FUNCID, B2CTL, HOSTBASE, ERRCNT, EVBASE, EVSIZE, EVHEAD, RSP, RSPSEQ. -/
def regRO (off : Nat) : Bool := off % 8 = 0 && (off ≤ 0x038 || (0x300 ≤ off && off ≤ 0x3F8) || off = 0x400)

/-- Registers that are written: EVTAIL, REQ, REQDB. -/
def regRW (off : Nat) : Bool := off % 8 = 0 && (off = 0x040 || (0x100 ≤ off && off ≤ 0x1F8) || off = 0x200)

/-- A write to the request doorbell: a request is taken when none is in flight and its number is the next (R21). -/
def writeReqdb (s : State) (f : Nat) (v : Word) : State :=
  let x := fnOf s f
  if x.inflight.isSome || v ≠ x.rspseq + 1 then fnErr s f else modFn s f (fun x => { x with inflight := some v })

/-- The control page's offset of a register that an access touches. -/
def regAt (off n : Nat) : Option Nat := ((List.range n).map (fun i => (off + i) / 8 * 8)).find? (fun r => regRO r || regRW r)

/-- A write to a register of the control page. -/
def regWrite (s : State) (f off n : Nat) (v : Word) : State :=
  if 64 ≤ f || !s.boot.puverUp then s
  else match regAt off n with
    | none => s
    | some r =>
      if s.boot.stage ≠ .ready then if r ≤ 8 then fnErr s f else s
      else if n ≠ 8 || regRO r || off ≠ r then fnErr s f
      else if off = 0x040 then modFn s f (fun x => { x with evtail := v.toNat })
      else if off = 0x200 then writeReqdb s f v
      else modFn s f (fun x => { x with req := x.req.take (off - 0x100) ++ bytesLE 8 v.toNat ++ x.req.drop (off - 0x100 + 8) })

/-- FUNCID of a function (R20). -/
def funcId (f : Nat) : Word :=
  let x := enumerated f {}
  BitVec.ofNat 64 (f + (if x.vf then 64 + x.parent * 128 else 0))

/-- What an 8-byte register of the control page reads; REQDB is write only (R7, R20). -/
def regValue (s : State) (f r : Nat) : Word :=
  let x := fnOf s f
  if r = 0x000 then fstat s f
  else if r = 0x008 then funcId f
  else if s.boot.stage ≠ .ready then 0
  else if r = 0x010 then x.b2ctl
  else if r = 0x018 then x.hostbase
  else if r = 0x020 then x.errcnt.setWidth 64
  else if r = 0x028 then x.evbase
  else if r = 0x030 then BitVec.ofNat 64 x.evsize
  else if r = 0x038 then BitVec.ofNat 64 x.evhead
  else if r = 0x040 then BitVec.ofNat 64 x.evtail
  else if r = 0x400 then x.rspseq
  else if 0x100 ≤ r && r ≤ 0x1F8 then lword x.req (r - 0x100)
  else if 0x300 ≤ r && r ≤ 0x3F8 then lword x.rsp (r - 0x300)
  else 0

/-- A host read at the control page: one that does not read a register whole is dropped and counted, and what the host then gets
is a free value; offsets without a register read 0 (R20). -/
def regRead (s : State) (f off n : Nat) : State :=
  if 64 ≤ f || !s.boot.puverUp then s
  else match regAt off n with
    | none => gotOut s (.reg f off 0)
    | some r =>
      if n = 8 && off = r then gotOut s (.reg f off (regValue s f r))
      else if s.boot.stage ≠ .ready && 8 < r then gotOut s (.reg f off 0)
      else let (w, s1) := drawFree (fnErr s f); gotOut s1 (.reg f off w)

def argReg : EvArgs → Option (Nat × Nat × Nat × Word)
  | .regWrite f off n v => some (f, off, n, v)
  | _ => none

/-- `REGISTER_WRITE` (R20, R21). -/
def execRegisterWrite (s : State) : Host.Outcome State Fault Refusal :=
  onEvent argReg (fun (f, off, n, v) s => regWrite s f off n v) s

/-- `EVTAIL_WRITE` (R20, R23). -/
def execEvtailWrite (s : State) : Host.Outcome State Fault Refusal :=
  onEvent argReg (fun (f, _, n, v) s => regWrite s f 0x040 n v) s

/-! ## The event ring (R23) -/

/-- `EVENT_WRITE`: the oldest event that waits is written, then EVHEAD, then MSI-X vector 1 is raised. -/
def execEventWrite (s : State) : Host.Outcome State Fault Refusal :=
  onEvent argN (fun f s =>
    let x := fnOf s f
    match x.waiting with
    | [] => s
    | r :: rest =>
      if x.evbase = 0 || !s.boot.puverUp || x.evtail + x.evsize ≤ x.evhead then s
      else
        let a := (x.evbase.toNat + x.evhead % x.evsize * 64) % 2 ^ 64
        modFn { s with mem := wrBytes s.mem (hostKey a) r } f (fun x =>
          { x with waiting := rest, evhead := x.evhead + 1, msix := x.msix ++ [1] })) s

/-! ## BAR2 (R16, R22) -/

/-- Perform one access through BAR2, or say what waits when it cannot be performed yet. A write that faults has no effect, and what
a read that faults gives is a free value (log 42). -/
def bar2One (s0 : State) (f off : Nat) (a : HostAccess) : Except State State :=
  let s := asAsker s0 (askBar2 f)
  let c := (fnOf s f).b2ctl.toNat
  let ia := bits c 51 36 * 2 ^ 36 + off
  let asid := BitVec.ofNat 12 (bits c 15 4)
  if !bit c 0 || 2 ^ 36 ≤ off then .ok s
  else match a with
    | .read n => match memRead s asid false f ia n with
      | .ok s1 b => .ok (gotOut s1 (.bar2 f off b))
      | .fault s1 _ _ => let (b, s2) := drawBytes s1 n; .ok (gotOut s2 (.bar2 f off b))
      | .held w _ _ => .error w
      | .stall w => .error w
    | .write bs => match memWrite s asid false f ia bs with
      | .ok s1 _ => .ok s1
      | .fault s1 _ _ => .ok s1
      | .held w _ _ => .error w
      | .stall w => .error w

/-- Perform what a function's host has asked for, in order, as far as it can be performed. -/
def bar2Go (f : Nat) : List (Nat × HostAccess) → State → State
  | [], s => modFn s f (fun x => { x with bar2 := [] })
  | (off, a) :: t, s => match bar2One s f off a with
    | .ok s1 => bar2Go f t s1
    | .error w => modFn (keepWaits s w) f (fun x => { x with bar2 := (off, a) :: t })

def argBar2 : EvArgs → Option (Nat × List (Nat × HostAccess))
  | .bar2 f off acc => some (f, [(off, acc)])
  | .n f => some (f, [])
  | _ => none

/-- `HOST_BAR2_ACCESS`: the host makes an access, or those that wait are tried again. -/
def execHostBar2Access (s : State) : Host.Outcome State Fault Refusal :=
  onEvent argBar2 (fun (f, new) s =>
    if s.boot.stage ≠ .ready || 64 ≤ f || !s.boot.puverUp then s else bar2Go f ((fnOf s f).bar2 ++ new) s) s

/-! ## Mailbox requests (R21, R22) -/

/-- How firmware answers: at once with a status and a body, having changed the state; or later. -/
inductive Answer where
  | now (s : State) (status : Nat) (body : List Byte)
  | later (s : State)

/-- A refusal has no effect. -/
def deny (s : State) (status : Nat) : Answer := .now s status []

/-- Bytes of a message that its request does not name are zero: bytes 2 to 7 and the body but for these ranges. -/
def reqNamed (m : List Byte) (named : List (Nat × Nat)) : Bool :=
  (m.zip (List.range 256)).all (fun (b, i) => b = 0 || i < 2 || named.any (fun r => r.1 ≤ i && i < r.1 + r.2))

/-- The bytes each request names. -/
def reqFields (code : Nat) : List (Nat × Nat) :=
  match code with
  | 1 => [(8, 2), (16, 8), (24, 3), (28, 2), (32, 16)]
  | 2 => [(8, 2)]
  | 3 => [(8, 3)]
  | 4 => [(8, 3)]
  | 5 => [(8, 2)]
  | 6 => [(8, 2), (16, 16)]
  | 7 => [(8, 2), (16, 8)]
  | 8 => [(8, 1), (16, 8)]
  | 9 => [(8, 1), (10, 2), (16, 8)]
  | 10 => [(16, 12)]
  | 11 => [(8, 2)]
  | 12 => [(8, 6)]
  | _ => []

/-- Firmware performs the request in flight of a function if it has this code. -/
def mailEvent (code : Nat) (go : State → Nat → Word → List Byte → Answer) (s : State) : Host.Outcome State Fault Refusal :=
  onEvent (fun a => match a with | .mailbox f seq => some (f, seq) | _ => none) (fun (f, seq) s =>
    let x := fnOf s f
    if s.boot.stage ≠ .ready || !s.boot.puverUp || x.inflight ≠ some seq || lnat x.req 0 2 ≠ code then s
    else
      let a := if reqNamed x.req (reqFields code) then go s f seq x.req else deny s 1
      match a with
      | .now s1 st body => mailReply s1 f seq st body
      | .later s1 => s1) s

/-- Function `g` is the physical function `f` itself or one of its virtual functions. -/
def servesFn (s : State) (f g : Nat) : Bool := f = g || ((fnOf s g).vf && (fnOf s g).parent = f)

/-- A request that only a physical function may make, for one of its functions. -/
def pfFor (s : State) (f g : Nat) : Bool := !(fnOf s f).vf && servesFn s f g

/-- The owner of an ASID. -/
def ownsAsid (s : State) (f a : Nat) : Bool := afind s.asidOwner a = some f

/-- `MAILBOX_INVALID_REQUEST`: an unknown code or a malformed message (R21, R22). -/
def execMailboxInvalidRequest (s : State) : Host.Outcome State Fault Refusal :=
  onEvent (fun a => match a with | .mailbox f seq => some (f, seq) | _ => none) (fun (f, seq) s =>
    let x := fnOf s f
    let code := lnat x.req 0 2
    if s.boot.stage ≠ .ready || !s.boot.puverUp || x.inflight ≠ some seq || (1 ≤ code && code ≤ 12 && reqNamed x.req (reqFields code)) then s
    else mailReply s f seq 1 []) s

/-- The control block of a QUEUE_CREATE (R22, R105). -/
def newQueue (f : Nat) (m : List Byte) : Queue :=
  let ctl := lnat m 26 1
  { base := BitVec.ofNat 52 (lnat m 16 8), logsz := lnat m 24 1, cls := lnat m 25 1, en := bit ctl 0, dkick := bit ctl 1, func := f,
    asid := BitVec.ofNat 12 (lnat m 28 2), rmirror := BitVec.ofNat 52 (lnat m 32 8), errsig := BitVec.ofNat 52 (lnat m 40 8),
    state := if bit ctl 0 then .active else .idle }

/-- The fields of a QUEUE_CREATE but its class and address space are in range (R22, R105). -/
def createOk (m : List Byte) : Bool :=
  lnat m 8 2 < 4096 && lnat m 16 8 < 2 ^ 52 && lnat m 16 8 % 4096 = 0 && 4 ≤ lnat m 24 1 && lnat m 24 1 ≤ 16 && lnat m 26 1 < 4
    && lnat m 32 8 < 2 ^ 52 && lnat m 40 8 < 2 ^ 52 && lnat m 40 8 % 8 = 0

/-- `QUEUE_CREATE` (R22, R105). -/
def execQueueCreate (s : State) : Host.Outcome State Fault Refusal :=
  mailEvent 1 (fun s f _ m =>
    let q := lnat m 8 2
    let asid := lnat m 28 2
    if !createOk m || 6 < lnat m 25 1 || 4096 ≤ asid then deny s 1
    else if (afind s.queues q).isSome then deny s 1
    else if asid = 0 || !ownsQid s f q || !ownsAsid s f asid then deny s 2
    else .now { setQueue s q (newQueue f m) with qidOwner := aput s.qidOwner q f } 0 []) s

/-- Firmware creates a queue of ASID 0, its fields laid out as in a QUEUE_CREATE, or changes the class of a queue without dispatched
packets, to 7 for a periodic one (R100, R105). -/
def fwQueue (s : State) (q f : Nat) (m : List Byte) : State :=
  if s.boot.stage ≠ .ready || 4096 ≤ q || 64 ≤ f || 7 < lnat m 25 1 then s
  else match afind s.queues q with
    | none =>
      if createOk m && lnat m 8 2 = q && lnat m 28 2 = 0 then { setQueue s q (newQueue f m) with qidOwner := aput s.qidOwner q f }
      else s
    | some x => if x.pkts.isEmpty then setQueue s q { x with cls := lnat m 25 1 } else s

/-- A queue that is no more: its slot and claims are free, its id stays with its function. -/
def dropQueue (s : State) (q : Nat) : State :=
  let s1 := setPendBit s q false
  { s1 with queues := adel s1.queues q, slotQ := s1.slotQ.filter (fun x => x.2.1 ≠ q), claims := s1.claims.filter (fun x => x.2 ≠ q) }

/-- `QUEUE_DESTROY` acts as DISABLE; it is answered once no dispatched packet is left (R22, R112). -/
def execQueueDestroy (s : State) : Host.Outcome State Fault Refusal :=
  mailEvent 2 (fun s f _ m =>
    let q := lnat m 8 2
    if 4096 ≤ q then deny s 1
    else if !ownsQid s f q || (afind s.queues q).any (fun x => x.asid = 0) then deny s 2
    else if (afind s.queues q).isNone then deny s 1
    else
      let s1 := control 3 s q
      let x := queueOf s1 q
      if x.state = .idle && x.pkts.isEmpty && x.draining.isNone then .now (dropQueue s1 q) 0 [] else .later s1) s

/-- `QUEUE_ASSIGN` (R22). -/
def execQueueAssign (s : State) : Host.Outcome State Fault Refusal :=
  mailEvent 3 (fun s f _ m =>
    let q := lnat m 8 2
    let g := lnat m 10 1
    if 4096 ≤ q || 64 ≤ g then deny s 1
    else if !pfFor s f g || !(match afind s.qidOwner q with | some o => servesFn s f o | none => true) then deny s 2
    else if (afind s.queues q).isSome then deny s 5
    else .now { s with qidOwner := aput s.qidOwner q g } 0 []) s

/-- Clear a page table (R71). -/
def blankTable (s : State) (a : Nat) : State :=
  { s with mem := s.mem.filter (fun p => !(physKey 0 a ≤ p.1 && p.1 < physKey 0 a + 131072)) }

/-- `ASID_CREATE` (R22, R71). -/
def execAsidCreate (s : State) : Host.Outcome State Fault Refusal :=
  mailEvent 4 (fun s f _ m =>
    let a := lnat m 8 2
    let g := lnat m 10 1
    if 4096 ≤ a || 64 ≤ g then deny s 1
    else if a = 0 || !pfFor s f g then deny s 2
    else if (afind s.asidOwner a).isSome then deny s 5
    else match s.tablePool with
      | [] => deny s 5
      | t :: rest =>
        let s1 := blankTable { s with tablePool := rest } t
        .now { s1 with roots := aput s1.roots a (BitVec.ofNat 64 (t + 1)), asidOwner := aput s1.asidOwner a g } 0 []) s

/-- The page tables of an ASID. -/
def tablesOf (s : State) (a : Nat) : List Nat :=
  let root := (aget s.roots a 0).toNat
  if !tabValid root then [] else tabAddr root :: (l1Entries s a).map tabAddr

/-- The mapped pages of an ASID with their PTEs. -/
def mappedOf (s : State) (a : Nat) : List (Nat × Nat) :=
  ((List.range 4).flatMap (fun tn => (tierOf s tn).used.filter (fun p => p.1 / 2 ^ 28 = a))).filterMap (fun p =>
    (pteOf s (BitVec.ofNat 12 a) (pageOfKey p.1).2).map (fun x => (p.1, x.2)))

/-- `ASID_DESTROY`: refused while a page is leased; its tables are free and it is answered when the shootdown of the whole ASID
has completed (R22, R69, R73). -/
def execAsidDestroy (s : State) : Host.Outcome State Fault Refusal :=
  mailEvent 5 (fun s f seq m =>
    let a := lnat m 8 2
    if s.shoots.any (fun x => x.reply = some (f, seq)) then .later s
    else if 4096 ≤ a then deny s 1
    else if a = 0 || (fnOf s f).vf || !((afind s.asidOwner a).any (servesFn s f)) then deny s 2
    else
      let ps := mappedOf s a
      if ps.any (fun p => pteLease p.2 ≠ 0) then deny s 3
      else
        let ts := tablesOf s a
        let s1 := { s with roots := adel s.roots a, asidOwner := adel s.asidOwner a,
                           tiers := s.tiers.map (fun p => (p.1, { p.2 with used := p.2.used.filter (fun u => u.1 / 2 ^ 28 ≠ a) })) }
        .later (beginShoot s1 { id := 0, asid := BitVec.ofNat 12 a, ia := 0, pages := 2 ^ 28, waits := [], reply := some (f, seq),
                                frames := ps.map (·.2), tables := ts })) s

/-- The PTE's tier would hold more pages than its logical capacity, or frames than its physical one (R80). -/
def overcommits (s : State) (key new : Nat) : Bool :=
  let tn := pteTier new
  let t := tierOf s tn
  let us := adel t.used key ++ [(key, pteSlot new)]
  pteValid new && tierOn s tn
    && (t.physical * bits t.cfg.toNat 55 48 < us.length * 256 || t.physical < (us.filter (fun u => 2 ^ 32 ≤ u.2)).length * 16)

/-- The frame of a newly mapped kind-0 page leaves the free pool (R78). -/
def claimFrame (s : State) (w : Nat) : State :=
  if !pteValid w || pteKind w ≠ 0 then s
  else modTier s (pteTier w) (fun t =>
    let cs := frameChunks t (pteAddr w)
    { t with free := t.free.filter (fun c => !cs.contains c) })

/-- Find the PTE of a page, allocating its level-2 table if needed; `none` without table space (R22). -/
def reachPte (s : State) (a ia : Nat) : Option (State × Nat) :=
  match pteLoc s (BitVec.ofNat 12 a) ia with
  | some (_, _, p) => some (s, p)
  | none => match s.tablePool with
    | [] => none
    | t :: rest =>
      let s1 := blankTable { s with tablePool := rest } t
      let e := physKey 0 (tabAddr (aget s.roots a 0).toNat + bits ia 43 30 * 8)
      let s2 := { s1 with mem := wrLE s1.mem e 8 (t + 1) }
      (pteLoc s2 (BitVec.ofNat 12 a) ia).map (fun x => (s2, x.2.2))

/-- The IA of a page request: aligned, its package field 255 or the own number. -/
def pageIaOk (s : State) (ia : Nat) : Bool := ia < 2 ^ 52 && ia % 65536 = 0 && pkgIsLocal s (iaPkg ia)

/-- `PTE_WRITE` (R22, R69, R71, R73, R78, R80). -/
def execPteWrite (s : State) : Host.Outcome State Fault Refusal :=
  mailEvent 6 (fun s f seq m =>
    let a := lnat m 8 2
    let ia := lnat m 16 8
    if s.shoots.any (fun x => x.reply = some (f, seq)) then .later s
    else if 4096 ≤ a || !pageIaOk s ia then deny s 1
    else if a = 0 || !ownsAsid s f a then deny s 2
    else match reachPte s a ia with
      | none => deny s 5
      | some (s1, p) =>
        let asid := BitVec.ofNat 12 a
        let old := rdLE s1.mem p 8
        let new := lnat m 24 8 % 2 ^ 56 + pteLease old * 2 ^ 56
        if pteLease old ≠ 0 && (!pteValid new || ptePerm new < ptePerm old) then deny s 3
        else if overcommits s1 (tcKey asid ia) new then deny s 4
        else
          let s2 := claimFrame (commitPte s1 asid ia p old new) new
          .later (beginShoot s2 { id := 0, asid := asid, ia := BitVec.ofNat 52 ia, pages := 1, waits := [], reply := some (f, seq),
                                  frames := if pteValid old then [old] else [] })) s

/-- `PTE_READ` (R22). -/
def execPteRead (s : State) : Host.Outcome State Fault Refusal :=
  mailEvent 7 (fun s f _ m =>
    let a := lnat m 8 2
    let ia := lnat m 16 8
    if 4096 ≤ a || !pageIaOk s ia then deny s 1
    else if a = 0 || !ownsAsid s f a then deny s 2
    else .now s 0 (bytesLE 8 ((pteOf s (BitVec.ofNat 12 a) ia).map (·.2) |>.getD 0))) s

/-- `SET_HOSTBASE` (R17, R22). -/
def execSetHostbase (s : State) : Host.Outcome State Fault Refusal :=
  mailEvent 8 (fun s f _ m =>
    let g := lnat m 8 1
    if 64 ≤ g || lnat m 16 8 % 4096 ≠ 0 then deny s 1
    else if !pfFor s f g then deny s 2
    else .now (modFn s g (fun x => { x with hostbase := lword m 16 })) 0 []) s

/-- `SET_BAR2` (R20, R22). -/
def execSetBar2 (s : State) : Host.Outcome State Fault Refusal :=
  mailEvent 9 (fun s f _ m =>
    let a := lnat m 10 2
    let ia := lnat m 16 8
    if 2 ≤ lnat m 8 1 || 4096 ≤ a || 2 ^ 52 ≤ ia || ia % 2 ^ 36 ≠ 0 || iaPkg ia ≠ 255 then deny s 1
    else if a = 0 || !ownsAsid s f a then deny s 2
    else .now (modFn s f (fun x => { x with b2ctl := BitVec.ofNat 64 (lnat m 8 1 + a * 16 + ia / 2 ^ 36 * 2 ^ 36) })) 0 []) s

/-- `SET_EVENTS` (R22, R23). -/
def execSetEvents (s : State) : Host.Outcome State Fault Refusal :=
  mailEvent 10 (fun s f _ m =>
    let z := lnat m 24 4
    if lnat m 16 8 % 4096 ≠ 0 || z = 0 || 4096 < z || 2 ^ Nat.log2 z ≠ z then deny s 1
    else .now (modFn s f (fun x => { x with evbase := lword m 16, evsize := z, evhead := 0, evtail := 0 })) 0 []) s

/-- `BRK_CTL` (R22, R388). -/
def execBrkCtl (s : State) : Host.Outcome State Fault Refusal :=
  mailEvent 11 (fun s f _ m =>
    let g := lnat m 8 1
    if 64 ≤ g || 2 ≤ lnat m 9 1 then deny s 1
    else if !pfFor s f g then deny s 2
    else .now (modFn s g (fun x => { x with brk := lnat m 9 1 = 1 })) 0 []) s

/-- A launch by its handle as records carry it. -/
def launchByHandle (s : State) (h : Nat) : Option Nat :=
  ((s.launches.filter (fun p => p.1 % 65536 = h && p.2.phase ≠ .done)).map (·.1)).head?

/-- `BRK_RESUME`: the stopped slot goes on with its next word (R22, R388). -/
def execBrkResume (s : State) : Host.Outcome State Fault Refusal :=
  mailEvent 12 (fun s f _ m =>
    let t := lnat m 10 2
    match launchByHandle s (lnat m 8 2), slotFin (lnat m 13 1) with
    | some h, some k =>
      if !ownsQid s f (launchOf s h).qid then deny s 2
      else if (tileOf s t).launch ≠ h || (tileOf s t).ctx.toNat ≠ lnat m 12 1 || (slotOf s t k).phase ≠ .stopped then deny s 1
      else
        let s1 := modSlot s t k (fun x => { x with phase := .running })
        .now (if (codeOf s1 t k).length ≤ (slotOf s1 t k).word then endCodelet s1 t k else s1) 0 []
    | _, _ => deny s 1) s

end Sys2Proof.Machine
end

