-- ==== Sys2Proof/Machine/Rotation.lean ====
section
/-! DEFINITION. The rotation engine (R227, R90, R212), the adaptive thresholds (R286, R287) and the switching of shared
tiles (R14). -/

namespace Sys2Proof.Machine

open Sys2Proof

/-! ## Heat (R227) -/

/-- HEAT of one entry at the end of a millisecond. -/
def heatStep (d : DirEntry) : DirEntry :=
  if polRot d then { d with heat := min 0xFFFF (d.heat - d.heat / 16 + d.sown), sown := 0 } else { d with sown := 0 }

/-- `HEAT_UPDATE`: every millisecond (R227). -/
def execHeatUpdate (s : State) : Host.Outcome State Fault Refusal :=
  onEvent argNone (fun _ s =>
    if !timerDue s tmHeat 1000000 then s
    else timerSet { s with launches := s.launches.map (fun p => (p.1, { p.2 with dir := p.2.dir.map heatStep })) } tmHeat) s

/-! ## Tier moves (R227, R90) -/

/-- The pages that hold the weights of a paged entry, by ASID and IA. -/
def weightPages (s : State) (l : Launch) (d : DirEntry) : Option (BitVec 12 × List Nat) :=
  if d.wbytes = 0 then none
  else match formAddr s l l.wins 0xFF .load d.waddr d.wbytes with
    | .error _ => none
    | .ok f =>
      if isHostIA f.ia.toNat || !pkgIsLocal s (iaPkg f.ia.toNat) then none
      else some (f.asid, (pagesOf f.ia.toNat d.wbytes).map (fun p => p.1 / 65536 * 65536))

/-- The tier of a mapped page that may be moved. -/
def movableTier (s : State) (asid : BitVec 12) (ia : Nat) : Option Nat :=
  (pteOf s asid ia).bind (fun (_, w) => if pteValid w && !ptePinned w then some (pteTier w) else none)

/-- Paged entries with ROT of launches that hold tiles: launch, entry, heat, the pages of its weights. -/
def rotEntries (s : State) : List (Nat × Nat × Nat × BitVec 12 × List Nat) :=
  (s.launches.filter (fun p => p.2.phase = .running || p.2.phase = .draining)).flatMap (fun p =>
    (p.2.dir.zip (List.range p.2.dir.length)).filterMap (fun (d, e) =>
      if !polRot d || d.state ≠ 2 || s.moves.any (fun m => m.handle = p.1 && m.expert = e) then none
      else (weightPages s p.2 d).map (fun w => (p.1, e, d.heat, w.1, w.2))))

/-- The first entry that none of the others surpasses. -/
def extreme (better : Nat → Nat → Bool) (l : List (Nat × Nat × Nat × BitVec 12 × List Nat)) :
    Option (Nat × Nat × Nat × BitVec 12 × List Nat) :=
  l.foldl (fun a x => match a with
    | none => some x
    | some y => if better x.2.2.1 y.2.2.1 then some x else some y) none

/-- Begin a move of one entry's pages. -/
def beginMove (up : Bool) (s : State) (x : Option (Nat × Nat × Nat × BitVec 12 × List Nat)) : State :=
  match x with
  | none => s
  | some (h, e, _, asid, ps) => { s with moves := s.moves ++ [{ handle := h, expert := e, up := up, asid := asid, pages := ps }] }

/-- The tier moves of one pass: the hottest paged entry with pages below HBM4E goes up, the coldest in HBM4E down. -/
def tierMoves (s : State) : State :=
  let es := rotEntries s
  let tiers (x : Nat × Nat × Nat × BitVec 12 × List Nat) := x.2.2.2.2.filterMap (movableTier s x.2.2.2.1)
  let hot := extreme (fun a b => decide (b < a)) (es.filter (fun x => s.params.promote ≤ x.2.2.1 && (tiers x).any (0 < ·)))
  let cold := extreme (fun a b => decide (a < b)) (es.filter (fun x => x.2.2.1 < s.params.demote && (tiers x).any (· = 0)))
  beginMove false (beginMove true s hot) (if cold.map (fun x => (x.1, x.2.1)) = hot.map (fun x => (x.1, x.2.1)) then none else cold)

/-! ## Swaps (R227, R212) -/

/-- Resident entries with ROT of the same weight size, the coldest first met. -/
def swapMate (l : Launch) (p : DirEntry) : Option (Nat × Nat) :=
  ((l.dir.zip (List.range l.dir.length)).filter (fun x =>
    polRot x.1 && x.1.state = 1 && x.1.wbytes = p.wbytes)).foldl (fun a x => match a with
      | none => some (x.2, x.1.heat)
      | some y => if x.1.heat < y.2 then some (x.2, x.1.heat) else some y) none

/-- The swaps a launch offers: paged entry, resident entry, the paged one's heat. -/
def swapOffers (s : State) (h : Nat) (l : Launch) : List (Nat × Nat × Nat × Nat) :=
  if l.det || !(l.phase = .running || l.phase = .draining) || !l.swap.isEmpty then []
  else (l.dir.zip (List.range l.dir.length)).filterMap (fun (d, e) =>
    if !polRot d || d.state ≠ 2 || d.wbytes = 0 || s.moves.any (fun m => m.handle = h && m.expert = e) then none
    else match swapMate l d with
      | some (q, hq) => if hq + s.params.hyst < d.heat then some (h, e, q, d.heat) else none
      | none => none)

/-- Stage the swap of the hottest paged entry that has one (log 41). -/
def stageSwap (s : State) : State :=
  match (s.launches.flatMap (fun p => swapOffers s p.1 p.2)).foldl (fun (a : Option (Nat × Nat × Nat × Nat)) x => match a with
    | none => some x
    | some y => if y.2.2.2 < x.2.2.2 then some x else some y) none with
  | none => s
  | some (h, p, q, _) => modLaunch s h (fun l => { l with swap := l.swap ++ [(p, q)] })

/-- `ROTATION_MOVE`: the moves of one pass begin, every 10 ms; a swap is staged for the next step barrier (R227). -/
def execRotationMove (s : State) : Host.Outcome State Fault Refusal :=
  onEvent argNone (fun _ s => if !timerDue s tmRotate 10000000 then s else timerSet (stageSwap (tierMoves s)) tmRotate) s

/-- Writes stand on a page, through any of its PTEs. -/
def pageWritten (s : State) (asid : BitVec 12) (ia : Nat) : Bool :=
  (pteOf s asid ia).any (fun (_, w) => (sharers s w (tcKey asid ia)).any (fun k => writesOn s (pageOfKey k).1 (pageOfKey k).2))

/-- Move one page a tier up or down, if it may be moved: `none` when writes that came before are still to be performed (R90). -/
def moveOne (m : PageMove) (s : State) (ia : Nat) : Option State :=
  match movableTier s m.asid ia with
  | none => some s
  | some t =>
    if m.up && t = 0 || !m.up && t ≠ 0 then some s
    else if pageWritten s m.asid ia then none
    else match movePage { s with moves := s.moves.filter (· ≠ m) } m.asid ia (if m.up then t - 1 else t + 1) with
      | .to s1 => some { s1 with moves := s.moves }
      | _ => some s

/-- `TIER_MOVE_COMMIT`: the pages are in their new tier; the writes held go on. A page that finds no room stays (log 41). -/
def execTierMoveCommit (s : State) : Host.Outcome State Fault Refusal :=
  onEvent argNN (fun (h, e) s =>
    match s.moves.find? (fun m => m.handle = h && m.expert = e) with
    | none => s
    | some m =>
      match m.pages.foldl (fun a ia => a.bind (fun s => moveOne m s ia)) (some s) with
      | none => s
      | some s1 => { s1 with moves := s1.moves.filter (· ≠ m) }) s

/-! ## Adaptive thresholds (R286, R287) -/

/-- A finite value other than zero. -/
def finNonzero (b : BitVec 32) : Bool := b.extractLsb' 0 31 ≠ 0 && b.extractLsb' 23 8 ≠ 0xFF

/-- The registers th0 to th5 scaled by a factor. -/
def scaleTh (k : BitVec 32) (th : Vector (BitVec 32) 8) : Vector (BitVec 32) 8 :=
  th.mapFinIdx (fun i v _ => if i < 6 && finNonzero v then mul32 v k else v)

/-- Adjust the thresholds for S survivors a slab. -/
def adjustTh (thctl : Word) (sv : Nat) (th : Vector (BitVec 32) 8) : Vector (BitVec 32) 8 :=
  let target := (thctl.extractLsb' 16 12).toNat
  if target + target / 16 < sv then scaleTh 0x3F900000 th
  else if sv < target - target / 16 then scaleTh 0x3F600000 th
  else th

/-- `THRESHOLD_ADJUST`: the oldest window that is complete adjusts its tile's thresholds. -/
def execThresholdAdjust (s : State) : Host.Outcome State Fault Refusal :=
  onEvent argN (fun t s =>
    let tl := tileOf s t
    match tl.adaptDue with
    | [] => s
    | sv :: rest => setTile s t { tl with th := adjustTh tl.thctl sv tl.th, adaptDue := rest }) s

/-! ## Shared tiles (R14) -/

/-- The row of the remap table of a tile. -/
def remapRow (s : State) (t : Nat) : BitVec 16 := (s.boot.remap.getD (dieOf t) []).getD (rowOf t * 20 + colOf t) 0

/-- The other logical tile of a shared physical tile. -/
def pairOf (s : State) (t : Nat) : Option Nat :=
  let r := remapRow s t
  if !isTile t || !r.getLsbD 9 then none
  else ((List.range 320).map (fun l => dieOf t * 512 + l / 20 * 32 + l % 20)).find? (fun u =>
    u ≠ t && (remapRow s u).extractLsb' 0 10 = r.extractLsb' 0 10)

/-- No ready firing and no unit at work. -/
def tileIdle (s : State) (t : Nat) : Bool :=
  let tl := tileOf s t
  tl.ready.isEmpty && tl.busy.isEmpty && tl.mat.isEmpty && tl.runs.isEmpty && tl.slots.toList.all (fun x => x.phase = .free)
    && !s.reqs.any (fun r => r.tile = t) && !s.cmds.any (fun c => c.tile = t)

/-- `TILE_SWITCH`: the other logical tile of the pair runs once the active one idles or has had 65,536 MAT cycles. -/
def execTileSwitch (s : State) : Host.Outcome State Fault Refusal :=
  onEvent argN (fun t s =>
    match pairOf s t with
    | none => s
    | some u =>
      let (a, b) := if (tileOf s t).parked then (u, t) else (t, u)
      if (tileOf s a).parked || !(tileOf s b).parked then s
      else if !(tileIdle s a) && !(cycDue s a 0 65536 (tileOf s a).active) then s
      else unparkTile (parkTile s a) b) s

end Sys2Proof.Machine
end

