-- ==== Sys2Proof/Machine/Dispatch.lean ====
section
/-! DEFINITION. The one match from an instruction or event to its meaning. -/

namespace Sys2Proof.Machine

open Sys2Proof

def exec (i : Instr) (s : State) : Host.Outcome State Fault Refusal :=
  match i with
  | .nodeAdd r => Sys2Proof.Machine.execNodeAdd r s
  | .nodeSub r => Sys2Proof.Machine.execNodeSub r s
  | .nodeMul r => Sys2Proof.Machine.execNodeMul r s
  | .nodeAnd r => Sys2Proof.Machine.execNodeAnd r s
  | .nodeOr r => Sys2Proof.Machine.execNodeOr r s
  | .nodeXor r => Sys2Proof.Machine.execNodeXor r s
  | .nodeShl r => Sys2Proof.Machine.execNodeShl r s
  | .nodeShr r => Sys2Proof.Machine.execNodeShr r s
  | .nodeSar r => Sys2Proof.Machine.execNodeSar r s
  | .nodeMin r => Sys2Proof.Machine.execNodeMin r s
  | .nodeMax r => Sys2Proof.Machine.execNodeMax r s
  | .nodeCmp r => Sys2Proof.Machine.execNodeCmp r s
  | .nodeSel r => Sys2Proof.Machine.execNodeSel r s
  | .nodeDup r => Sys2Proof.Machine.execNodeDup r s
  | .nodeSteer r => Sys2Proof.Machine.execNodeSteer r s
  | .nodeMerge r => Sys2Proof.Machine.execNodeMerge r s
  | .nodeSwitch r => Sys2Proof.Machine.execNodeSwitch r s
  | .nodeGate r => Sys2Proof.Machine.execNodeGate r s
  | .nodeSink r => Sys2Proof.Machine.execNodeSink r s
  | .nodeConst r => Sys2Proof.Machine.execNodeConst r s
  | .nodeTagin r => Sys2Proof.Machine.execNodeTagin r s
  | .nodeTagnext r => Sys2Proof.Machine.execNodeTagnext r s
  | .nodeTagout r => Sys2Proof.Machine.execNodeTagout r s
  | .nodeTagset r => Sys2Proof.Machine.execNodeTagset r s
  | .nodeCount r => Sys2Proof.Machine.execNodeCount r s
  | .nodeBin r => Sys2Proof.Machine.execNodeBin r s
  | .nodeJoin r => Sys2Proof.Machine.execNodeJoin r s
  | .nodeCwait r => Sys2Proof.Machine.execNodeCwait r s
  | .nodeFire r => Sys2Proof.Machine.execNodeFire r s
  | .nodeMctl r => Sys2Proof.Machine.execNodeMctl r s
  | .nodeIsect r => Sys2Proof.Machine.execNodeIsect r s
  | .nodeSendx r => Sys2Proof.Machine.execNodeSendx r s
  | .nodeLds r => Sys2Proof.Machine.execNodeLds r s
  | .nodeSts r => Sys2Proof.Machine.execNodeSts r s
  | .nodePchk r => Sys2Proof.Machine.execNodePchk r s
  | .add w => Sys2Proof.Machine.execAdd w s
  | .sub w => Sys2Proof.Machine.execSub w s
  | .mul w => Sys2Proof.Machine.execMul w s
  | .mulh w => Sys2Proof.Machine.execMulh w s
  | .div w => Sys2Proof.Machine.execDiv w s
  | .rem w => Sys2Proof.Machine.execRem w s
  | .andR w => Sys2Proof.Machine.execAndR w s
  | .orR w => Sys2Proof.Machine.execOrR w s
  | .xor w => Sys2Proof.Machine.execXor w s
  | .andn w => Sys2Proof.Machine.execAndn w s
  | .notR w => Sys2Proof.Machine.execNotR w s
  | .shl w => Sys2Proof.Machine.execShl w s
  | .shr w => Sys2Proof.Machine.execShr w s
  | .sar w => Sys2Proof.Machine.execSar w s
  | .rotl w => Sys2Proof.Machine.execRotl w s
  | .clz w => Sys2Proof.Machine.execClz w s
  | .ctz w => Sys2Proof.Machine.execCtz w s
  | .popc w => Sys2Proof.Machine.execPopc w s
  | .min w => Sys2Proof.Machine.execMin w s
  | .max w => Sys2Proof.Machine.execMax w s
  | .abs w => Sys2Proof.Machine.execAbs w s
  | .neg w => Sys2Proof.Machine.execNeg w s
  | .extR w => Sys2Proof.Machine.execExtR w s
  | .bext w => Sys2Proof.Machine.execBext w s
  | .bdep w => Sys2Proof.Machine.execBdep w s
  | .mov w => Sys2Proof.Machine.execMov w s
  | .movi w => Sys2Proof.Machine.execMovi w s
  | .moviHi w => Sys2Proof.Machine.execMoviHi w s
  | .lea w => Sys2Proof.Machine.execLea w s
  | .addI w => Sys2Proof.Machine.execAddI w s
  | .subI w => Sys2Proof.Machine.execSubI w s
  | .mulI w => Sys2Proof.Machine.execMulI w s
  | .andI w => Sys2Proof.Machine.execAndI w s
  | .orI w => Sys2Proof.Machine.execOrI w s
  | .xorI w => Sys2Proof.Machine.execXorI w s
  | .andnI w => Sys2Proof.Machine.execAndnI w s
  | .shlI w => Sys2Proof.Machine.execShlI w s
  | .shrI w => Sys2Proof.Machine.execShrI w s
  | .sarI w => Sys2Proof.Machine.execSarI w s
  | .rotlI w => Sys2Proof.Machine.execRotlI w s
  | .minI w => Sys2Proof.Machine.execMinI w s
  | .maxI w => Sys2Proof.Machine.execMaxI w s
  | .cmpI w => Sys2Proof.Machine.execCmpI w s
  | .cmp w => Sys2Proof.Machine.execCmp w s
  | .tst w => Sys2Proof.Machine.execTst w s
  | .sel w => Sys2Proof.Machine.execSel w s
  | .pand w => Sys2Proof.Machine.execPand w s
  | .por w => Sys2Proof.Machine.execPor w s
  | .pnot w => Sys2Proof.Machine.execPnot w s
  | .fadd w => Sys2Proof.Machine.execFadd w s
  | .fsub w => Sys2Proof.Machine.execFsub w s
  | .fmul w => Sys2Proof.Machine.execFmul w s
  | .ffma w => Sys2Proof.Machine.execFfma w s
  | .fdiv w => Sys2Proof.Machine.execFdiv w s
  | .fsqrt w => Sys2Proof.Machine.execFsqrt w s
  | .fmin w => Sys2Proof.Machine.execFmin w s
  | .fmax w => Sys2Proof.Machine.execFmax w s
  | .fabs w => Sys2Proof.Machine.execFabs w s
  | .fneg w => Sys2Proof.Machine.execFneg w s
  | .fcmp w => Sys2Proof.Machine.execFcmp w s
  | .fcvt w => Sys2Proof.Machine.execFcvt w s
  | .fclass w => Sys2Proof.Machine.execFclass w s
  | .send w => Sys2Proof.Machine.execSend w s
  | .sendv w => Sys2Proof.Machine.execSendv w s
  | .sendx w => Sys2Proof.Machine.execSendx w s
  | .emit w => Sys2Proof.Machine.execEmit w s
  | .tagmk w => Sys2Proof.Machine.execTagmk w s
  | .pchk w => Sys2Proof.Machine.execPchk w s
  | .poison w => Sys2Proof.Machine.execPoison w s
  | .done w => Sys2Proof.Machine.execDone w s
  | .rdsr w => Sys2Proof.Machine.execRdsr w s
  | .wrsr w => Sys2Proof.Machine.execWrsr w s
  | .trap w => Sys2Proof.Machine.execTrap w s
  | .brk w => Sys2Proof.Machine.execBrk w s
  | .nop w => Sys2Proof.Machine.execNop w s
  | .clkreq w => Sys2Proof.Machine.execClkreq w s
  | .kick w => Sys2Proof.Machine.execKick w s
  | .winld w => Sys2Proof.Machine.execWinld w s
  | .cflush w => Sys2Proof.Machine.execCflush w s
  | .halt w => Sys2Proof.Machine.execHalt w s
  | .pgrecode w => Sys2Proof.Machine.execPgrecode w s
  | .vadd w => Sys2Proof.Machine.execVadd w s
  | .vsub w => Sys2Proof.Machine.execVsub w s
  | .vmul w => Sys2Proof.Machine.execVmul w s
  | .vfma w => Sys2Proof.Machine.execVfma w s
  | .vmin w => Sys2Proof.Machine.execVmin w s
  | .vmax w => Sys2Proof.Machine.execVmax w s
  | .vabs w => Sys2Proof.Machine.execVabs w s
  | .vneg w => Sys2Proof.Machine.execVneg w s
  | .vand w => Sys2Proof.Machine.execVand w s
  | .vor w => Sys2Proof.Machine.execVor w s
  | .vxor w => Sys2Proof.Machine.execVxor w s
  | .vshl w => Sys2Proof.Machine.execVshl w s
  | .vshr w => Sys2Proof.Machine.execVshr w s
  | .vsar w => Sys2Proof.Machine.execVsar w s
  | .vexp2 w => Sys2Proof.Machine.execVexp2 w s
  | .vlog2 w => Sys2Proof.Machine.execVlog2 w s
  | .vrcp w => Sys2Proof.Machine.execVrcp w s
  | .vrsq w => Sys2Proof.Machine.execVrsq w s
  | .vtanh w => Sys2Proof.Machine.execVtanh w s
  | .vsigm w => Sys2Proof.Machine.execVsigm w s
  | .vgelu w => Sys2Proof.Machine.execVgelu w s
  | .vsilu w => Sys2Proof.Machine.execVsilu w s
  | .vcvt w => Sys2Proof.Machine.execVcvt w s
  | .vcmp w => Sys2Proof.Machine.execVcmp w s
  | .vsel w => Sys2Proof.Machine.execVsel w s
  | .vbcast w => Sys2Proof.Machine.execVbcast w s
  | .vmov w => Sys2Proof.Machine.execVmov w s
  | .vperm w => Sys2Proof.Machine.execVperm w s
  | .vrot w => Sys2Proof.Machine.execVrot w s
  | .vredsum w => Sys2Proof.Machine.execVredsum w s
  | .vredmax w => Sys2Proof.Machine.execVredmax w s
  | .vredmin w => Sys2Proof.Machine.execVredmin w s
  | .vscan w => Sys2Proof.Machine.execVscan w s
  | .vtopk w => Sys2Proof.Machine.execVtopk w s
  | .vquant w => Sys2Proof.Machine.execVquant w s
  | .vdequant w => Sys2Proof.Machine.execVdequant w s
  | .vld w => Sys2Proof.Machine.execVld w s
  | .vldPort w => Sys2Proof.Machine.execVldPort w s
  | .vst w => Sys2Proof.Machine.execVst w s
  | .vldx w => Sys2Proof.Machine.execVldx w s
  | .vstx w => Sys2Proof.Machine.execVstx w s
  | .hfwd w => Sys2Proof.Machine.execHfwd w s
  | .hinv w => Sys2Proof.Machine.execHinv w s
  | .hthr w => Sys2Proof.Machine.execHthr w s
  | .hexp w => Sys2Proof.Machine.execHexp w s
  | .hbias w => Sys2Proof.Machine.execHbias w s
  | .dtag w => Sys2Proof.Machine.execDtag w s
  | .dtget w => Sys2Proof.Machine.execDtget w s
  | .thset w => Sys2Proof.Machine.execThset w s
  | .mma w => Sys2Proof.Machine.execMma w s
  | .mmag w => Sys2Proof.Machine.execMmag w s
  | .mmas w => Sys2Proof.Machine.execMmas w s
  | .macz w => Sys2Proof.Machine.execMacz w s
  | .macld w => Sys2Proof.Machine.execMacld w s
  | .macldSpad w => Sys2Proof.Machine.execMacldSpad w s
  | .macst w => Sys2Proof.Machine.execMacst w s
  | .macstSpad w => Sys2Proof.Machine.execMacstSpad w s
  | .mtr w => Sys2Proof.Machine.execMtr w s
  | .mburst w => Sys2Proof.Machine.execMburst w s
  | .srld w => Sys2Proof.Machine.execSrld w s
  | .srfence w => Sys2Proof.Machine.execSrfence w s
  | .mwait w => Sys2Proof.Machine.execMwait w s
  | .ld w => Sys2Proof.Machine.execLd w s
  | .st w => Sys2Proof.Machine.execSt w s
  | .sopen w => Sys2Proof.Machine.execSopen w s
  | .sclose w => Sys2Proof.Machine.execSclose w s
  | .sld w => Sys2Proof.Machine.execSld w s
  | .sst w => Sys2Proof.Machine.execSst w s
  | .sldSlab w => Sys2Proof.Machine.execSldSlab w s
  | .sstSlab w => Sys2Proof.Machine.execSstSlab w s
  | .sbar w => Sys2Proof.Machine.execSbar w s
  | .pref w => Sys2Proof.Machine.execPref w s
  | .fence w => Sys2Proof.Machine.execFence w s
  | .aadd w => Sys2Proof.Machine.execAadd w s
  | .aaddf w => Sys2Proof.Machine.execAaddf w s
  | .amin w => Sys2Proof.Machine.execAmin w s
  | .amax w => Sys2Proof.Machine.execAmax w s
  | .aand w => Sys2Proof.Machine.execAand w s
  | .aor w => Sys2Proof.Machine.execAor w s
  | .axor w => Sys2Proof.Machine.execAxor w s
  | .axch w => Sys2Proof.Machine.execAxch w s
  | .acas w => Sys2Proof.Machine.execAcas w s
  | .cpy w => Sys2Proof.Machine.execCpy w s
  | .cpyf w => Sys2Proof.Machine.execCpyf w s
  | .gath w => Sys2Proof.Machine.execGath w s
  | .scat w => Sys2Proof.Machine.execScat w s
  | .coll w => Sys2Proof.Machine.execColl w s
  | .mcrd w => Sys2Proof.Machine.execMcrd w s
  | .tlrd w => Sys2Proof.Machine.execTlrd w s
  | .tlwait w => Sys2Proof.Machine.execTlwait w s
  | .tltest w => Sys2Proof.Machine.execTltest w s
  | .epf w => Sys2Proof.Machine.execEpf w s
  | .apf w => Sys2Proof.Machine.execApf w s
  | .bar w => Sys2Proof.Machine.execBar w s
  | .csig w => Sys2Proof.Machine.execCsig w s
  | .stepend w => Sys2Proof.Machine.execStepend w s
  | .powerOnReset => Sys2Proof.Machine.execPowerOnReset s
  | .warmReset => Sys2Proof.Machine.execWarmReset s
  | .resetRelease => Sys2Proof.Machine.execResetRelease s
  | .firmwareImagePush => Sys2Proof.Machine.execFirmwareImagePush s
  | .noImageTimeout => Sys2Proof.Machine.execNoImageTimeout s
  | .firmwareBringUp => Sys2Proof.Machine.execFirmwareBringUp s
  | .furrowStep => Sys2Proof.Machine.execFurrowStep s
  | .readyReport => Sys2Proof.Machine.execReadyReport s
  | .packageNumberWrite => Sys2Proof.Machine.execPackageNumberWrite s
  | .capWrite => Sys2Proof.Machine.execCapWrite s
  | .quoteRequest => Sys2Proof.Machine.execQuoteRequest s
  | .crashRecordClear => Sys2Proof.Machine.execCrashRecordClear s
  | .checkpointRequest => Sys2Proof.Machine.execCheckpointRequest s
  | .ckwaitExpire => Sys2Proof.Machine.execCkwaitExpire s
  | .checkpointComplete => Sys2Proof.Machine.execCheckpointComplete s
  | .memoryRestore => Sys2Proof.Machine.execMemoryRestore s
  | .puverLinkDown => Sys2Proof.Machine.execPuverLinkDown s
  | .planeDown => Sys2Proof.Machine.execPlaneDown s
  | .cxlPortDown => Sys2Proof.Machine.execCxlPortDown s
  | .packageUnreachableTimeout => Sys2Proof.Machine.execPackageUnreachableTimeout s
  | .hostBar2Access => Sys2Proof.Machine.execHostBar2Access s
  | .doorbell => Sys2Proof.Machine.execDoorbell s
  | .resume => Sys2Proof.Machine.execResume s
  | .resetQueue => Sys2Proof.Machine.execResetQueue s
  | .disable => Sys2Proof.Machine.execDisable s
  | .enable => Sys2Proof.Machine.execEnable s
  | .registerWrite => Sys2Proof.Machine.execRegisterWrite s
  | .evtailWrite => Sys2Proof.Machine.execEvtailWrite s
  | .eventWrite => Sys2Proof.Machine.execEventWrite s
  | .queueCreate => Sys2Proof.Machine.execQueueCreate s
  | .queueDestroy => Sys2Proof.Machine.execQueueDestroy s
  | .queueAssign => Sys2Proof.Machine.execQueueAssign s
  | .asidCreate => Sys2Proof.Machine.execAsidCreate s
  | .asidDestroy => Sys2Proof.Machine.execAsidDestroy s
  | .pteWrite => Sys2Proof.Machine.execPteWrite s
  | .pteRead => Sys2Proof.Machine.execPteRead s
  | .setHostbase => Sys2Proof.Machine.execSetHostbase s
  | .setBar2 => Sys2Proof.Machine.execSetBar2 s
  | .setEvents => Sys2Proof.Machine.execSetEvents s
  | .brkCtl => Sys2Proof.Machine.execBrkCtl s
  | .brkResume => Sys2Proof.Machine.execBrkResume s
  | .mailboxInvalidRequest => Sys2Proof.Machine.execMailboxInvalidRequest s
  | .launch => Sys2Proof.Machine.execLaunch s
  | .copy => Sys2Proof.Machine.execCopy s
  | .copyComplete => Sys2Proof.Machine.execCopyComplete s
  | .packetNop => Sys2Proof.Machine.execPacketNop s
  | .signal => Sys2Proof.Machine.execSignal s
  | .wait => Sys2Proof.Machine.execWait s
  | .waitEvaluate => Sys2Proof.Machine.execWaitEvaluate s
  | .waitTimeoutExpire => Sys2Proof.Machine.execWaitTimeoutExpire s
  | .write => Sys2Proof.Machine.execWrite s
  | .writeSignal => Sys2Proof.Machine.execWriteSignal s
  | .cond => Sys2Proof.Machine.execCond s
  | .loopPacket => Sys2Proof.Machine.execLoopPacket s
  | .switchPacket => Sys2Proof.Machine.execSwitchPacket s
  | .timestamp => Sys2Proof.Machine.execTimestamp s
  | .schedulerTick => Sys2Proof.Machine.execSchedulerTick s
  | .ageStep => Sys2Proof.Machine.execAgeStep s
  | .queueUnbind => Sys2Proof.Machine.execQueueUnbind s
  | .queueBind => Sys2Proof.Machine.execQueueBind s
  | .periodicPending => Sys2Proof.Machine.execPeriodicPending s
  | .periodicRelease => Sys2Proof.Machine.execPeriodicRelease s
  | .deadlineExpire => Sys2Proof.Machine.execDeadlineExpire s
  | .leaseResidency => Sys2Proof.Machine.execLeaseResidency s
  | .leaseTimeout => Sys2Proof.Machine.execLeaseTimeout s
  | .placement => Sys2Proof.Machine.execPlacement s
  | .place => Sys2Proof.Machine.execPlace s
  | .go => Sys2Proof.Machine.execGo s
  | .save => Sys2Proof.Machine.execSave s
  | .restore => Sys2Proof.Machine.execRestore s
  | .kill => Sys2Proof.Machine.execKill s
  | .freeTiles => Sys2Proof.Machine.execFreeTiles s
  | .placed => Sys2Proof.Machine.execPlaced s
  | .fault => Sys2Proof.Machine.execFault s
  | .saved => Sys2Proof.Machine.execSaved s
  | .estimate => Sys2Proof.Machine.execEstimate s
  | .sinks => Sys2Proof.Machine.execSinks s
  | .freed => Sys2Proof.Machine.execFreed s
  | .plotControllerFailed => Sys2Proof.Machine.execPlotControllerFailed s
  | .plotFail => Sys2Proof.Machine.execPlotFail s
  | .headlandWatchdog => Sys2Proof.Machine.execHeadlandWatchdog s
  | .firmwarePanic => Sys2Proof.Machine.execFirmwarePanic s
  | .baseDieUncorrectable => Sys2Proof.Machine.execBaseDieUncorrectable s
  | .arbiterReevaluate => Sys2Proof.Machine.execArbiterReevaluate s
  | .coalesceWindowClose => Sys2Proof.Machine.execCoalesceWindowClose s
  | .grantTakeEffect => Sys2Proof.Machine.execGrantTakeEffect s
  | .thermalCapStep => Sys2Proof.Machine.execThermalCapStep s
  | .thermalTrip => Sys2Proof.Machine.execThermalTrip s
  | .droopStretch => Sys2Proof.Machine.execDroopStretch s
  | .tileSwitch => Sys2Proof.Machine.execTileSwitch s
  | .homeRequest => Sys2Proof.Machine.execHomeRequest s
  | .chunkGrant => Sys2Proof.Machine.execChunkGrant s
  | .firmwareSpaceNotice => Sys2Proof.Machine.execFirmwareSpaceNotice s
  | .tierExhausted => Sys2Proof.Machine.execTierExhausted s
  | .compactionPage => Sys2Proof.Machine.execCompactionPage s
  | .demotionComplete => Sys2Proof.Machine.execDemotionComplete s
  | .ageScan => Sys2Proof.Machine.execAgeScan s
  | .shootdownComplete => Sys2Proof.Machine.execShootdownComplete s
  | .recode => Sys2Proof.Machine.execRecode s
  | .heatUpdate => Sys2Proof.Machine.execHeatUpdate s
  | .rotationMove => Sys2Proof.Machine.execRotationMove s
  | .thresholdAdjust => Sys2Proof.Machine.execThresholdAdjust s
  | .tokenArrive => Sys2Proof.Machine.execTokenArrive s
  | .overflowReinject => Sys2Proof.Machine.execOverflowReinject s
  | .overflowExhausted => Sys2Proof.Machine.execOverflowExhausted s
  | .ptimeoutExpire => Sys2Proof.Machine.execPtimeoutExpire s
  | .acknowledgement => Sys2Proof.Machine.execAcknowledgement s
  | .unitClockGate => Sys2Proof.Machine.execUnitClockGate s
  | .firingIssue => Sys2Proof.Machine.execFiringIssue s
  | .codeletWaitTimeout => Sys2Proof.Machine.execCodeletWaitTimeout s
  | .barrierComplete => Sys2Proof.Machine.execBarrierComplete s
  | .sowerClose => Sys2Proof.Machine.execSowerClose s
  | .stepBarrier => Sys2Proof.Machine.execStepBarrier s
  | .sowerRowToken => Sys2Proof.Machine.execSowerRowToken s
  | .sowerBufferToken => Sys2Proof.Machine.execSowerBufferToken s
  | .groupRecord => Sys2Proof.Machine.execGroupRecord s
  | .binTokenArrive => Sys2Proof.Machine.execBinTokenArrive s
  | .binTimerExpire => Sys2Proof.Machine.execBinTimerExpire s
  | .binNotice => Sys2Proof.Machine.execBinNotice s
  | .binStepEndFiring => Sys2Proof.Machine.execBinStepEndFiring s
  | .combineResult => Sys2Proof.Machine.execCombineResult s
  | .batchReplay => Sys2Proof.Machine.execBatchReplay s
  | .collectiveAbort => Sys2Proof.Machine.execCollectiveAbort s
  | .matrixComplete => Sys2Proof.Machine.execMatrixComplete s
  | .engineCommandComplete => Sys2Proof.Machine.execEngineCommandComplete s
  | .sensorRefresh => Sys2Proof.Machine.execSensorRefresh s
  | .tierMoveCommit => Sys2Proof.Machine.execTierMoveCommit s
  | .collectiveSaveExpire => Sys2Proof.Machine.execCollectiveSaveExpire s

end Sys2Proof.Machine
end

