-- ==== Sys2Proof/Machine/Moves.lean ====
section
/-! DEFINITION. The moves that are neither an event nor a codelet word: time passing, a line or a cached translation leaving, one
line of an engine command, the next emission of a count run, errors, and what agents outside the module do (log 1). -/

namespace Sys2Proof.Machine

open Sys2Proof

/-- A line leaves a slice: the near copy, and at the line's home the record of its last release (R175, R236). -/
def evictLine (s : State) (plot key : Nat) : State :=
  { s with near := amod s.near plot [] (fun l => l.filter (fun x => x.key ≠ key)),
           lineRel := if key % 2 ^ 37 % 80 = plot then s.lineRel.map (fun p => if p.1 = key then (p.1, { p.2 with last := none }) else p)
                      else s.lineRel }

/-- Another module accesses memory of this package: what cannot be performed yet has not come in (R27, R231). -/
def peerAccess (s : State) (asid : BitVec 12) (ia : Nat) (r : State → MRes (List Byte)) : State :=
  if !joined s || isHostIA ia || !pkgIsLocal s (iaPkg ia) then s
  else match r s with
    | .ok s1 b => gotOut s1 (.peer asid ia 0 b)
    | .fault s1 c _ => gotOut s1 (.peer asid ia c [])
    | .held w _ _ => keepWaits s w
    | .stall w => keepWaits s w

/-- The bytes a result stands for, if it has one. -/
def MRes.asBytes (f : α → List Byte) : MRes α → MRes (List Byte)
  | .ok s v => .ok s (f v)
  | .fault s c d => .fault s c d
  | .held s t k => .held s t k
  | .stall s => .stall s

/-- A byte of the retention record changes under an error: of an entry, or of the header (R151). -/
def strikeRet (r : Retention) (i off : Nat) (b : Byte) : Retention :=
  if i = 511 then
    let h := lmod (retHeader r ++ bytesLE 4 r.hcrc.toNat) off (fun _ => b)
    let n (o : Nat) : BitVec 32 := BitVec.ofNat 32 (lnat h o 4)
    { r with magic := n 0, boots := n 4, next := lnat h 8 4, count := n 12, hcrc := n 16 }
  else { r with entries := (afind r.entries i).elim r.entries (fun e => aput r.entries i (lmod e off (fun _ => b))) }

/-- A word of a tile, a sower or a combine unit becomes uncorrectable (R10, R299): of a token in the store, by its number, past 2^48 on
a tile; of a group of a combine unit; of the rest of a tile, by its key. -/
def strike (s : State) (t a : Nat) : State :=
  let bad (f : Flight) : Flight := { f with tok := { f.tok with bad := true } }
  match asSower t, asComb t with
  | some u, _ => modSower s u (fun x => { x with store := lmod x.store a bad })
  | none, some u => modComb s u (fun x => { x with groups := lmod x.groups a (fun g =>
      { g with poison := g.poison.or (some { unitPoison s t cUncorrectable with tag := g.tag, step := (launchOf s g.launch).stepid }) }) })
  | none, none => modTile s t (fun x =>
      if 2 ^ 48 ≤ a then { x with store := lmod x.store (a - 2 ^ 48) bad } else { x with badWords := a :: x.badWords })

/-- What the checkpoint target holds of device memory is written as device memory is. -/
def imageFits (x : CkptImage) : Bool := Memory.wf x.mem && x.mem.all (fun p => p.1 < hostKey 0)

/-- Change the save image of a launch that the device has written whole. -/
def modSave (s : State) (h : Nat) (f : Launch → SaveImage → SaveImage) : State :=
  modLaunch s h (fun l => if l.phase = .saved || l.phase = .restoring then { l with save := l.save.map (f l) } else l)

/-- Time passing, a line or a cached translation leaving (R72, R175), one line of an engine command (R306), the next emission of a
count run (R347), errors (R10, R98, R133, R151, R309), the host's own accesses and reads (R20, R101, R246), the sideband (R40), other
packages (R67, R226, R231, R471) and firmware (R98, R100, R137). -/
def moveOther (s : State) (m : Move) : State :=
  match m with
  | .event _ _ => s
  | .word _ _ => s
  | .tick n => passTime s n
  | .evict p key => evictLine s p key
  | .forget key => { s with tcache := adel s.tcache key }
  | .line i =>
    match s.cmds.find? (fun x => x.id = i) with
    | none => s
    | some x => if (collKind x).isSome then s else moveCmd 1 s x
  | .run t k => stepRun s t k
  | .strike t a => strike s t a
  | .correct => { s with sens := { s.sens with corrected := s.sens.corrected + 1 } }
  | .strikeMem a => { s with badMem := a :: s.badMem }
  | .strikeSave h u => modSave s h (fun _ x => { x with badUnits := u :: x.badUnits })
  | .strikeRet i off b => { s with boot := { s.boot with ret := strikeRet s.boot.ret i off b } }
  | .tamper h u off b => modSave s h (fun l x => overwrite s.boot.saveKey l x u off b)
  | .target x => if x.all imageFits then { s with ckptImage := x } else s
  | .adapt => { s with clk := { s.clk with linkAdapts := s.clk.linkAdapts + 1 } }
  | .contend b => { s with hostBusy := b }
  | .hostStore a bs => { s with mem := wrBytes s.mem (hostKey a) bs }
  | .hostLoad a n => gotOut s (.host a (rdBytes s.mem (hostKey a) n))
  | .regRead f off n => regRead s f off n
  | .kickRead f q off n => kickRead s f q off n
  | .kickWrite f q off n _ => if off < 16 && n = 8 then s else kickIgnored s f q n
  | .side i => sideRead s i
  | .tokenIn f src => tokenIn s f src
  | .tokenOut n => tokenOut s n
  | .peerRead asid ia n => peerAccess s asid ia (fun s => memRead s asid false 0 ia n)
  | .peerWrite asid ia bs => peerAccess s asid ia (fun s => (memWrite s asid false 0 ia bs).asBytes (fun _ => []))
  | .peerAtom asid ia op ty v v2 => peerAccess s asid ia (fun s =>
      (memAtomic s false asid false 0 ia ty.bytes (atomNew op ty (atomArg ty v) (atomArg ty v2))).asBytes (bytesLE ty.bytes))
  | .peerLease asid ia up => peerLease s asid ia up
  | .peerForm gid rank => peerColl s gid (fun g => { g with farFormed := rank :: g.farFormed })
  | .peerIn gid rank x => peerColl s gid (fun g => { g with farIn := aput g.farIn rank x })
  | .peerLost gid => peerColl s gid (fun g => if g.broken then g else { g with broken := true, seq := g.seq + 1 })
  | .clearMem => clearMemory s
  | .fwQueue q f m => fwQueue s q f m
  | .reloaded p => plotReloaded s p

end Sys2Proof.Machine
end

