-- ==== Sys2Proof/Machine/Step.lean ====
section
/-! DEFINITION. One step: the firing that was issued is performed; otherwise the next move of the agenda is made; with
no move left, time goes on (log 1). -/

namespace Sys2Proof.Machine

open Sys2Proof

/-- Perform an issued firing: fetch and decode its node record and run it. -/
def stepFiring (s : State) (t : Nat) (f : Firing) : Host.Outcome State Fault Refusal :=
  match nextNode s t f with
  | none => .next { s with focus := .idle }
  | some (.error e) => .next (faultNode { s with focus := .idle } t f e)
  | some (.ok i) => exec i { s with focus := .firing t f }

/-- Run the next word of a codelet slot, in its turn (R191). -/
def stepWord (s : State) (t : Nat) (k : Fin 4) : Host.Outcome State Fault Refusal :=
  if !hasTurn s t k then .next { s with focus := .idle }
  else match nextWord s t k with
  | none => .next { s with focus := .idle }
  | some (.error e) => .next (tookTurn (faultWord { s with focus := .idle } t k e) t k)
  | some (.ok i) => match exec i { s with focus := .slot t k } with
    | .next s1 => .next (tookTurn s1 t k)
    | o => o

/-- Make one move (log 1). -/
def stepMove (s : State) (m : Move) : Host.Outcome State Fault Refusal :=
  match m with
  | .event i a => exec i { s with focus := .event a }
  | .word t k => if h : k < 4 then stepWord s t ⟨k, h⟩ else .next { s with focus := .idle }
  | m => .next (moveOther { s with focus := .idle } m)

def step (s : State) : Host.Outcome State Fault Refusal :=
  match s.focus with
  | .issue t f => stepFiring s t f
  | _ =>
    match s.agenda with
    | [] => .next (passTime { s with focus := .idle } 1)
    | m :: rest => stepMove { s with agenda := rest } m

/-- The state in which the next step fetches and runs exactly this instruction: a codelet word at the start of a codelet
of tile 0 whose slot 0 has the next move, or a node record whose firing has just been issued on tile 0. -/
def State.withFetchWord (s : State) (nbits w : Nat) : State :=
  let tl := tileOf s 0
  let g := aget tl.graph 0 {}
  if nbits ≤ 64 then
    { setTile s 0 { tl with graph := aput tl.graph 0 { g with codes := [[BitVec.ofNat 64 (w % 2 ^ nbits)]] },
                            slots := tl.slots.set 0 { phase := .running }, lastSlot := 3 }
      with focus := .idle, agenda := .word 0 0 :: s.agenda }
  else
    { setTile s 0 { tl with graph := aput tl.graph 0 { g with nodes := [BitVec.ofNat 128 (w % 2 ^ nbits)] } }
      with focus := .issue 0 {} }

end Sys2Proof.Machine
end

