-- ==== Sys2Proof/Certificates/Slice0/Obligations.lean ====
section
/-! DEFINITION. The statements for the provers. `Sys2Proof.Spec` holds what they share: when a word, a firing or an event
runs, and what the rules give as its result, written from the rules. -/

namespace Sys2Proof.Spec

open Sys2Proof Sys2Proof.Machine

/-! ## Codelet words -/

/-- Slot `k` of tile `t` is in focus and its codelet is live (R190). -/
def Live (s : State) (t : Nat) (k : Fin 4) : Prop :=
  s.focus = .slot t k ∧ ((slotOf s t k).phase = .running ∨ ∃ n, (slotOf s t k).phase = .waiting n)

/-- The guard of a word is off or holds (R190, R330). -/
def Pass (sl : Slot) (g : Guard) : Prop := g.ge = true → sl.p[pIdx g.gp] = !g.gn

/-- The guard of a word is on and fails. -/
def Fails (sl : Slot) (g : Guard) : Prop := g.ge = true ∧ sl.p[pIdx g.gp] = g.gn

/-- The guard of a word is on and its predicate is marked (R202). -/
def guardMark (sl : Slot) (g : Guard) : Bool := g.ge && sl.pm[pIdx g.gp]

/-- No operand waits for an earlier word (R190). -/
def Settled (sl : Slot) (os : List SOp) : Prop := ∀ o ∈ os, opPending sl o = false

/-- None of the operands is marked (R202). -/
def Unmarked (sl : Slot) (os : List SOp) : Prop := ∀ o ∈ os, opMark sl o = false

/-- No word of the tile's memories is uncorrectable, and no temporary or predicate in error (R10, R299). -/
def Sound (s : State) (t : Nat) : Prop := (tileOf s t).badWords = []

/-- A word that is no scalar word runs: live, settled, guard off or holding, guard and sources unmarked, nothing in error. -/
def Runs (s : State) (t : Nat) (k : Fin 4) (g : Guard) (srcs ds : List SOp) : Prop :=
  Live s t k ∧ Settled (slotOf s t k) (srcs ++ ds) ∧ Pass (slotOf s t k) g ∧ guardMark (slotOf s t k) g = false
    ∧ Unmarked (slotOf s t k) srcs ∧ Sound s t

/-! ## Scalar words (R360 to R371) -/

/-- What a scalar word reads and gives: guard, sources, source predicates, destinations, their values, sticky bits. -/
structure Sc where
  g : Guard
  srcs : List SOp := []
  psrcs : List (BitVec 2) := []
  d : Option SOp := none
  pd : Option (BitVec 2) := none
  val : Slot → Word := fun _ => 0
  pred : Slot → Bool := fun _ => false
  sticky : Slot → Word := fun _ => 0

/-- The mark of what the word writes: a marked guard or source marks it (R202, R371). -/
def Sc.mark (c : Sc) (sl : Slot) : Bool :=
  guardMark sl c.g || c.srcs.any (opMark sl) || c.psrcs.any (fun p => sl.pm[pIdx p])

/-- The slot after the word: the temporary and the predicate written, with the mark. -/
def Sc.put (c : Sc) (sl0 sl : Slot) : Slot :=
  let a := match c.d with | some d => wrT sl d (c.val sl0) (c.mark sl0) | none => sl
  match c.pd with | some p => wrP a p (c.pred sl0) (c.mark sl0) | none => a

/-- The scalar word runs: its slot is live, no operand is pending, its guard is off or holds, nothing is in error. -/
def Sc.Runs (c : Sc) (s : State) (t : Nat) (k : Fin 4) : Prop :=
  Live s t k ∧ Settled (slotOf s t k) (c.srcs ++ c.d.toList) ∧ Pass (slotOf s t k) c.g ∧ Sound s t

/-- A word has exactly the effect `c`: it completes, its sticky bits are set (none when marked), its destinations are
written, and the codelet goes on. -/
def Sc.Effect (c : Sc) (i : Instr) : Prop :=
  ∀ s t k s1 f1, c.Runs s t k →
    setSticky s t (slotOf s t k).firing (if c.mark (slotOf s t k) then 0 else c.sticky (slotOf s t k)) = .ok (s1, f1) →
    exec i s = .next (advance (setSlot s1 t k (c.put (slotOf s t k) { slotOf s t k with firing := f1 })) t k)

/-- Width of a type (R360). -/
def width (t : Ty) : Nat :=
  match t with | .s8 => 8 | .z8 => 8 | .s32 => 32 | .z32 => 32 | _ => 64

/-- Types that read as unsigned (R360). -/
def isZ (t : Ty) : Bool := t = .z8 || t = .z32 || t = .z64

/-- rd(x) (R360). -/
def rd (t : Ty) (x : Word) : Int := if isZ t then ((x.toNat % 2 ^ width t : Nat) : Int) else (x.toNat : Int).bmod (2 ^ width t)

/-- wr(r) (R360). -/
def wr (t : Ty) (r : Int) : Word := BitVec.ofInt 64 (if isZ t then r % 2 ^ width t else r.bmod (2 ^ width t))

/-- The w-bit pattern of an operand. -/
def pat (t : Ty) (x : Word) : Nat := x.toNat % 2 ^ width t

/-- The count of a shift or rotate: the low log2 w bits (R363). -/
def cnt (t : Ty) (b : Word) : Nat := b.toNat % width t

/-- IMM as its type extends it (R361). -/
def immOf (t : Ty) (i : BitVec 32) : Word := if isZ t then BitVec.ofNat 64 i.toNat else BitVec.ofInt 64 i.toInt

/-- A word with the given bits. -/
def ofBits (f : Nat → Bool) : Word := BitVec.ofNat 64 (((List.range 64).map (fun i => if f i then 2 ^ i else 0)).sum)

/-- Bit positions set in a word, ascending. -/
def ones (b : Word) : List Nat := (List.range 64).filter (fun i => b.getLsbD i)

/-- cond(CC) of two integers (R325). -/
def cond (cc : Cc) (a b : Int) : Bool :=
  match cc with
  | .eq => a == b | .ne => a != b | .lt => decide (a < b) | .le => decide (a ≤ b) | .gt => decide (b < a)
  | .ge => decide (b ≤ a) | .uo => false

/-- A register-form word of two sources. -/
def reg2 (w : RWord) (f : Word → Word → Word) : Sc :=
  { g := w.g, srcs := [w.a, w.b], d := some w.d, val := fun sl => f (opVal sl w.a) (opVal sl w.b) }

/-- A register-form word of one source. -/
def reg1 (w : RWord) (f : Word → Word) : Sc := { g := w.g, srcs := [w.a], d := some w.d, val := fun sl => f (opVal sl w.a) }

/-- An immediate-form word (R361). -/
def imm2 (w : IWord) (f : Word → Word → Word) : Sc :=
  { g := w.g, srcs := [w.a], d := some w.d, val := fun sl => f (opVal sl w.a) (immOf w.ty w.imm) }

/-- The results of R363 on operand words. -/
def rAdd (t : Ty) (a b : Word) : Word := wr t (rd t a + rd t b)
def rSub (t : Ty) (a b : Word) : Word := wr t (rd t a - rd t b)
def rMul (t : Ty) (a b : Word) : Word := wr t (rd t a * rd t b)
def rMulh (t : Ty) (a b : Word) : Word := wr t (rd t a * rd t b / 2 ^ width t)
def rMin (t : Ty) (a b : Word) : Word := wr t (min (rd t a) (rd t b))
def rMax (t : Ty) (a b : Word) : Word := wr t (max (rd t a) (rd t b))
def rAnd (t : Ty) (a b : Word) : Word := wr t ((a &&& b).toNat : Int)
def rOr (t : Ty) (a b : Word) : Word := wr t ((a ||| b).toNat : Int)
def rXor (t : Ty) (a b : Word) : Word := wr t ((a ^^^ b).toNat : Int)
def rAndn (t : Ty) (a b : Word) : Word := wr t ((a &&& ~~~b).toNat : Int)
def rNot (t : Ty) (a : Word) : Word := wr t ((~~~a).toNat : Int)
def rShl (t : Ty) (a b : Word) : Word := wr t (rd t a * 2 ^ cnt t b)
def rShr (t : Ty) (a b : Word) : Word := wr t ((pat t a / 2 ^ cnt t b : Nat) : Int)
def rSar (t : Ty) (a b : Word) : Word := wr t ((pat t a : Int).bmod (2 ^ width t) / 2 ^ cnt t b)
def rRotl (t : Ty) (a b : Word) : Word := wr t ((pat t a * 2 ^ cnt t b + pat t a / 2 ^ (width t - cnt t b) : Nat) : Int)
def rAbs (t : Ty) (a : Word) : Word := wr t (if isZ t then rd t a else ((rd t a).natAbs : Int))
def rClz (t : Ty) (a : Word) : Word := wr t ((width t - (if pat t a = 0 then 0 else Nat.log2 (pat t a) + 1) : Nat) : Int)
def rCtz (t : Ty) (a : Word) : Word := wr t ((((List.range (width t)).find? (fun i => a.getLsbD i)).getD (width t) : Nat) : Int)
def rPopc (t : Ty) (a : Word) : Word := wr t ((((List.range (width t)).countP (fun i => a.getLsbD i)) : Nat) : Int)

/-- `div` and `rem` of R364: truncation toward zero, with its borderline cases. -/
def rDiv (t : Ty) (a b : Word) : Word :=
  if rd t b = 0 then 0
  else if rd t a = -2 ^ (width t - 1) ∧ rd t b = -1 then wr t (rd t a)
  else wr t ((rd t a).tdiv (rd t b))

def rRem (t : Ty) (a b : Word) : Word :=
  if rd t b = 0 then wr t (rd t a)
  else if rd t a = -2 ^ (width t - 1) ∧ rd t b = -1 then 0
  else wr t (rd t a - rd t b * (rd t a).tdiv (rd t b))

/-- The sticky bit of a division by zero. -/
def rDz (w : RWord) (sl : Slot) : Word := if rd w.ty (opVal sl w.b) = 0 then statDZ else 0


/-- R363: the arithmetic words of two register operands, for every type, operand, guard and mark. -/
def IntegerArithmetic : Prop :=
  ∀ w : RWord,
    (reg2 w (rAdd w.ty)).Effect (.add w) ∧ (reg2 w (rSub w.ty)).Effect (.sub w) ∧ (reg2 w (rMul w.ty)).Effect (.mul w)
    ∧ (reg2 w (rMulh w.ty)).Effect (.mulh w) ∧ (reg2 w (rMin w.ty)).Effect (.min w) ∧ (reg2 w (rMax w.ty)).Effect (.max w)
    ∧ (reg1 w (rAbs w.ty)).Effect (.abs w) ∧ (reg1 w (fun a => wr w.ty (0 - rd w.ty a))).Effect (.neg w)
    ∧ (reg1 w (fun a => wr w.ty (rd w.ty a))).Effect (.mov w)

/-- R364: division, with DZ set where the divisor reads as 0 (R371: not when marked). -/
def IntegerDivision : Prop :=
  ∀ w : RWord,
    Sc.Effect { reg2 w (rDiv w.ty) with sticky := rDz w } (.div w)
    ∧ Sc.Effect { reg2 w (rRem w.ty) with sticky := rDz w } (.rem w)

/-- R363: logic, shifts, rotates and bit counts of register operands. -/
def IntegerLogicAndShifts : Prop :=
  ∀ w : RWord,
    (reg2 w (rAnd w.ty)).Effect (.andR w) ∧ (reg2 w (rOr w.ty)).Effect (.orR w) ∧ (reg2 w (rXor w.ty)).Effect (.xor w)
    ∧ (reg2 w (rAndn w.ty)).Effect (.andn w) ∧ (reg1 w (rNot w.ty)).Effect (.notR w) ∧ (reg2 w (rShl w.ty)).Effect (.shl w)
    ∧ (reg2 w (rShr w.ty)).Effect (.shr w) ∧ (reg2 w (rSar w.ty)).Effect (.sar w) ∧ (reg2 w (rRotl w.ty)).Effect (.rotl w)
    ∧ (reg1 w (rClz w.ty)).Effect (.clz w) ∧ (reg1 w (rCtz w.ty)).Effect (.ctz w) ∧ (reg1 w (rPopc w.ty)).Effect (.popc w)

/-- R361, R363: the immediate forms. -/
def IntegerImmediates : Prop :=
  ∀ w : IWord,
    (imm2 w (rAdd w.ty)).Effect (.addI w) ∧ (imm2 w (rSub w.ty)).Effect (.subI w) ∧ (imm2 w (rMul w.ty)).Effect (.mulI w)
    ∧ (imm2 w (rAnd w.ty)).Effect (.andI w) ∧ (imm2 w (rOr w.ty)).Effect (.orI w) ∧ (imm2 w (rXor w.ty)).Effect (.xorI w)
    ∧ (imm2 w (rAndn w.ty)).Effect (.andnI w) ∧ (imm2 w (rShl w.ty)).Effect (.shlI w) ∧ (imm2 w (rShr w.ty)).Effect (.shrI w)
    ∧ (imm2 w (rSar w.ty)).Effect (.sarI w) ∧ (imm2 w (rRotl w.ty)).Effect (.rotlI w) ∧ (imm2 w (rMin w.ty)).Effect (.minI w)
    ∧ (imm2 w (rMax w.ty)).Effect (.maxI w)

/-- R365: bit fields, bit gather and scatter, immediates moved, `lea`. -/
def ShapedIntegerWords : Prop :=
  (∀ w : RWord,
    (reg2 w (fun a b =>
      let f := (a >>> (b.toNat % 64)).extractLsb' 0 (w.sh.toNat + 1)
      if w.ty = .z64 then f.zeroExtend 64 else f.signExtend 64)).Effect (.extR w)
    ∧ (reg2 w (fun a b => ofBits (fun j => ((ones b)[j]?).any (fun i => a.getLsbD i)))).Effect (.bext w)
    ∧ (reg2 w (fun a b => ofBits (fun i => b.getLsbD i && a.getLsbD ((List.range i).countP (fun j => b.getLsbD j))))).Effect (.bdep w)
    ∧ (reg2 w (fun a b => a + b * BitVec.ofNat 64 (2 ^ w.sh.toNat))).Effect (.lea w)
    ∧ (8 ≤ w.sh.toNat → Instr.check (.lea w) ≠ none))
  ∧ ∀ w : IWord,
    Sc.Effect { g := w.g, d := some w.d, val := fun _ => wr w.ty (rd w.ty (immOf w.ty w.imm)) } (.movi w)
    ∧ Sc.Effect { g := w.g, srcs := [w.d], d := some w.d,
                  val := fun sl => BitVec.ofNat 64 (w.imm.toNat * 2 ^ 32 + (opVal sl w.d).toNat % 2 ^ 32) } (.moviHi w)
    ∧ (w.ty ≠ .b64 → Instr.check (.moviHi w) ≠ none)

/-- R366: compares, tests, selections and predicate logic. -/
def CompareAndPredicateWords : Prop :=
  (∀ w : RWord,
    Sc.Effect { g := w.g, srcs := [w.a, w.b], pd := some w.pd,
                pred := fun sl => cond w.cc (rd w.ty (opVal sl w.a)) (rd w.ty (opVal sl w.b)) } (.cmp w)
    ∧ Sc.Effect { g := w.g, srcs := [w.a, w.b], pd := some w.pd,
                  pred := fun sl => (List.range (width w.ty)).any (fun i => (opVal sl w.a).getLsbD i && (opVal sl w.b).getLsbD i) } (.tst w)
    ∧ Sc.Effect { g := w.g, srcs := [w.a, w.b], psrcs := [w.pa], d := some w.d,
                  val := fun sl => wr w.ty (rd w.ty (if sl.p[pIdx w.pa] then opVal sl w.a else opVal sl w.b)) } (.sel w)
    ∧ Sc.Effect { g := w.g, psrcs := [w.pa, w.pb], pd := some w.pd, pred := fun sl => sl.p[pIdx w.pa] && sl.p[pIdx w.pb] } (.pand w)
    ∧ Sc.Effect { g := w.g, psrcs := [w.pa, w.pb], pd := some w.pd, pred := fun sl => sl.p[pIdx w.pa] || sl.p[pIdx w.pb] } (.por w)
    ∧ Sc.Effect { g := w.g, psrcs := [w.pa], pd := some w.pd, pred := fun sl => !sl.p[pIdx w.pa] } (.pnot w)
    ∧ (w.cc = .uo → Instr.check (.cmp w) ≠ none))
  ∧ ∀ w : IWord,
    Sc.Effect { g := w.g, srcs := [w.a], pd := some w.pd,
                pred := fun sl => cond w.cc (rd w.ty (opVal sl w.a)) (rd w.ty (immOf w.ty w.imm)) } (.cmpI w)
    ∧ (w.cc = .uo → Instr.check (.cmpI w) ≠ none)

/-! ## Parity of temporaries and predicates (R299) -/

/-- A temporary or predicate of a slot is in error. -/
def TempBad (s : State) (t : Nat) (k : Fin 4) (i : Fin 8) : Prop := badTemp k i.val ∈ (tileOf s t).badWords
def PredBad (s : State) (t : Nat) (k : Fin 4) (p : BitVec 2) : Prop := badPred k p ∈ (tileOf s t).badWords

/-- A scalar word whose guard, sources or source predicates are in error faults; one that reads nothing in error clears the error of
the temporary it writes. -/
def Sc.Parity (c : Sc) (i : Instr) : Prop :=
  ∀ s t k, Live s t k → Settled (slotOf s t k) (c.srcs ++ c.d.toList) → Pass (slotOf s t k) c.g →
    let guardBad := c.g.ge = true ∧ PredBad s t k c.g.gp
    let readsBad := guardBad ∨ (∃ j, .t j ∈ c.srcs ∧ TempBad s t k j) ∨ ∃ p ∈ c.psrcs, PredBad s t k p
    (readsBad → exec i s = .next (faultCodelet s t k (slotPoison s t k cUncorrectable)))
    ∧ ∀ j, c.d = some (.t j) → c.pd = none → TempBad s t k j → ¬ readsBad → (∀ sl, c.sticky sl = 0) →
        exec i s = .next (advance (modTile (setSlot s t k (c.put (slotOf s t k) (slotOf s t k))) t (fun x =>
          { x with badWords := x.badWords.filter (fun y => y ≠ badTemp k j.val) })) t k)

/-- R299: parity of the codelet core's temporaries and predicates, on words of each form: a read in error faults with "uncorrectable
error", a write clears the error. -/
def ParityErrors : Prop :=
  (∀ w : RWord, (reg2 w (rAdd w.ty)).Parity (.add w) ∧ (reg1 w (fun a => wr w.ty (rd w.ty a))).Parity (.mov w)
    ∧ Sc.Parity { g := w.g, srcs := [w.a, w.b], psrcs := [w.pa], d := some w.d,
                  val := fun sl => wr w.ty (rd w.ty (if sl.p[pIdx w.pa] then opVal sl w.a else opVal sl w.b)) } (.sel w)
    ∧ Sc.Parity { g := w.g, psrcs := [w.pa, w.pb], pd := some w.pd, pred := fun sl => sl.p[pIdx w.pa] && sl.p[pIdx w.pb] } (.pand w))
  ∧ ∀ w : IWord, (imm2 w (rAdd w.ty)).Parity (.addI w)
    ∧ Sc.Parity { g := w.g, d := some w.d, val := fun _ => wr w.ty (rd w.ty (immOf w.ty w.imm)) } (.movi w)



/-! ## Scalar float words (R253, R254, R260, R367 to R370) -/

/-- The rational value of a finite exact value. -/
def rat : Val → ℚ
  | .fin n m e => (if n then -1 else 1) * m * 2 ^ e
  | _ => 0

/-- Place of a value that is no NaN on the extended line: below, among or above the rationals. -/
def place : Val → Int × ℚ
  | .inf n => (if n then -1 else 1, 0)
  | v => (0, rat v)

/-- a < b on the extended line. -/
def less (a b : Val) : Bool :=
  decide ((place a).1 < (place b).1 ∨ ((place a).1 = (place b).1 ∧ (place a).2 < (place b).2))

/-- The five floating formats of R253. -/
def floats : List FFmt := [.f32, .f16, .bf16, .e4m3f, .e5m2]

/-- A float word of sources `srcs` whose exact result is rounded once to TYPE in mode RM with the slot's SEED copy (R367). -/
def flt (w : RWord) (srcs : List SOp) (op : Slot → Val × Fl) : Sc :=
  { g := w.g, srcs := srcs, d := some w.d,
    val := fun sl => BitVec.ofNat 64 ((fTy w.ty).round w.rm sl.seed (op sl).1).1,
    sticky := fun sl => ((((fTy w.ty).round w.rm sl.seed (op sl).1).2).or (op sl).2).stat }

/-- The decoded operand of a float word (R362). -/
def src (w : RWord) (o : SOp) (sl : Slot) : Val := (fTy w.ty).decode ((opVal sl o).toNat % 2 ^ (fTy w.ty).width)

/-- cond(CC) of two float values by their places (R368). -/
def fHolds (cc : Cc) (a b : Val) : Prop :=
  if a.isNan || b.isNan then cc = .ne ∨ cc = .uo
  else match cc with
    | .eq => place a = place b
    | .ne => place a ≠ place b
    | .lt => less a b = true
    | .le => less a b = true ∨ place a = place b
    | .gt => less b a = true
    | .ge => less b a = true ∨ place a = place b
    | .uo => False

/-- NV of `fcmp` (R368). -/
def fcmpNv (cc : Cc) (a b : Val) : Bool :=
  (a.isNan || b.isNan) && (cc = .lt || cc = .le || cc = .gt || cc = .ge || a.isSig || b.isSig)

/-- `fmin` and `fmax`: the operand that is the lesser or greater, −0 below +0; a NaN gives the canonical one (R367). -/
def minMax (w : RWord) (lesser : Bool) : Sc :=
  { g := w.g, srcs := [w.a, w.b], d := some w.d,
    val := (fun sl =>
      let a := src w w.a sl
      let b := src w w.b sl
      let first := less a b || (place a = place b && a.isNeg)
      let n := (fTy w.ty).width
      BitVec.ofNat 64 (if a.isNan || b.isNan then (fTy w.ty).nanBits
        else if first = lesser then (opVal sl w.a).toNat % 2 ^ n else (opVal sl w.b).toNat % 2 ^ n)),
    sticky := fun sl => if (src w w.a sl).isSig || (src w w.b sl).isSig then statNV else 0 }

/-- The class mask of an encoding, from its sign, exponent and fraction fields (R370). -/
def classMask (f : FFmt) (b : Nat) : Nat :=
  let neg := b / 2 ^ (f.width - 1) % 2 = 1
  let ex := b / 2 ^ f.frac % 2 ^ f.ebits
  let fr := b % 2 ^ f.frac
  if ex = 2 ^ f.ebits - 1 then
    if fr = 0 then (if neg then 0x001 else 0x080) else if fr < 2 ^ (f.frac - 1) then 0x100 else 0x200
  else if ex = 0 then if fr = 0 then (if neg then 0x008 else 0x010) else (if neg then 0x004 else 0x020)
  else if neg then 0x002 else 0x040


/-- R367: arithmetic float words give the exact result rounded once, with the conditions of the operation and of the rounding
in STAT. -/
def FloatArithmeticWords : Prop :=
  ∀ w : RWord,
    (flt w [w.a, w.b] (fun sl => (src w w.a sl).add w.rm (src w w.b sl))).Effect (.fadd w)
    ∧ (flt w [w.a, w.b] (fun sl => (src w w.a sl).add w.rm (src w w.b sl).neg)).Effect (.fsub w)
    ∧ (flt w [w.a, w.b] (fun sl => (src w w.a sl).mul (src w w.b sl))).Effect (.fmul w)
    ∧ (flt w [w.a, w.b, w.c] (fun sl =>
        (((src w w.a sl).mul (src w w.b sl)).1.add w.rm (src w w.c sl)).map id
          (((src w w.a sl).mul (src w w.b sl)).2.or ·))).Effect (.ffma w)
    ∧ (flt w [w.a, w.b] (fun sl => (src w w.a sl).div (src w w.b sl))).Effect (.fdiv w)
    ∧ (flt w [w.a] (fun sl => (src w w.a sl).sqrt)).Effect (.fsqrt w)

/-- R253, R254: the exact sum, product and fused result of finite operands are those of the rationals, and set nothing. -/
def FloatExactResults : Prop :=
  ∀ (rm : Rm) (a b : Val), (∃ n m e, a = .fin n m e) → (∃ n m e, b = .fin n m e) →
    rat (a.add rm b).1 = rat a + rat b ∧ rat (a.mul b).1 = rat a * rat b ∧ rat a.neg = -rat a ∧ rat a.abs = |rat a|
    ∧ (∀ c, (∃ n m e, c = .fin n m e) → rat (Val.fma rm a b c).1 = rat a * rat b + rat c)
    ∧ (a.add rm b).2 = {} ∧ (a.mul b).2 = {}

/-- R254, R264, R367: what a rounding of R260 to nearest gives lies no further from the exact value than any value of the
format, unless the result overflows. -/
def RoundingIsNearest : Prop :=
  ∀ f ∈ floats, ∀ (seed : BitVec 32) (n : Bool) (m : Nat) (e : Int),
    (f.round .rne seed (.fin n m e)).2.ovf = false → (f.round .rne seed (.fin n m e)).2.sat = false →
    ∃ n' m' e', f.decode (f.round .rne seed (.fin n m e)).1 = .fin n' m' e'
      ∧ ∀ b n2 m2 e2, b < 2 ^ f.width → f.decode b = .fin n2 m2 e2 →
          |rat (.fin n' m' e') - rat (.fin n m e)| ≤ |rat (.fin n2 m2 e2) - rat (.fin n m e)|

/-- R253, R260: a value of a format rounds to its own encoding in every mode, and sets nothing; a NaN rounds to the canonical
one. -/
def RoundingKeepsEncodings : Prop :=
  ∀ f ∈ floats, ∀ (rm : Rm) (seed : BitVec 32) (b : Nat), b < 2 ^ f.width →
    ((f.decode b).isNan = false → f.round rm seed (f.decode b) = (b, {}))
    ∧ ((f.decode b).isNan = true → (f.round rm seed (f.decode b)).1 = f.nanBits)

/-- R367, R368: `fmin`, `fmax`, `fabs`, `fneg` and `fcmp`. -/
def FloatOrderWords : Prop :=
  (∀ (w : RWord) (s : State) (t : Nat) (k : Fin 4) s1 f1 (c : Sc), c = { g := w.g, srcs := [w.a, w.b], pd := some w.pd } →
    c.Runs s t k →
    setSticky s t (slotOf s t k).firing
      (if c.mark (slotOf s t k) then 0
       else if fcmpNv w.cc (src w w.a (slotOf s t k)) (src w w.b (slotOf s t k)) then statNV else 0) = .ok (s1, f1) →
    ∃ p : Bool, (p = true ↔ fHolds w.cc (src w w.a (slotOf s t k)) (src w w.b (slotOf s t k)))
      ∧ exec (.fcmp w) s = .next (advance (setSlot s1 t k
          (wrP { slotOf s t k with firing := f1 } w.pd p (c.mark (slotOf s t k)))) t k))
  ∧ ∀ w : RWord, w.ty = .f16 ∨ w.ty = .bf16 ∨ w.ty = .f32 →
    Sc.Effect { g := w.g, srcs := [w.a], d := some w.d,
                val := fun sl => BitVec.ofNat 64
                  (if (src w w.a sl).isNan then (fTy w.ty).nanBits
                   else (opVal sl w.a).toNat % 2 ^ ((fTy w.ty).width - 1)) } (.fabs w)
    ∧ Sc.Effect { g := w.g, srcs := [w.a], d := some w.d,
                  val := fun sl => BitVec.ofNat 64
                    (if (src w w.a sl).isNan then (fTy w.ty).nanBits
                     else ((opVal sl w.a).toNat + 2 ^ ((fTy w.ty).width - 1)) % 2 ^ (fTy w.ty).width) } (.fneg w)
    ∧ (minMax w true).Effect (.fmin w) ∧ (minMax w false).Effect (.fmax w)

/-- R369, R370: conversions and classes. Model's choices in it: log 56. -/
def FloatConvertAndClassWords : Prop :=
  ∀ w : RWord,
    Sc.Effect { g := w.g, srcs := [w.a], d := some w.d,
                val := (fun sl =>
                  let p := (tyCv w.ty w.rm sl.seed (tyVal (srcTy w.sh.toNat) (opVal sl w.a).toNat)).1
                  if (tyF w.ty).isSome then BitVec.ofNat 64 p else wr w.ty p),
                sticky := fun sl => (tyCv w.ty w.rm sl.seed (tyVal (srcTy w.sh.toNat) (opVal sl w.a).toNat)).2.stat } (.fcvt w)
    ∧ (w.ty = .f16 ∨ w.ty = .bf16 ∨ w.ty = .f32 →
        Sc.Effect { g := w.g, srcs := [w.a], d := some w.d,
                    val := fun sl => BitVec.ofNat 64 (classMask (fTy w.ty) ((opVal sl w.a).toNat % 2 ^ (fTy w.ty).width)) } (.fclass w))


/-! ## Token and system words (R372 to R394) -/

/-- The word completes: its slot's effect is in `s'`, and the codelet goes on. -/
def Goes (i : Instr) (s : State) (t : Nat) (k : Fin 4) (s' : State) : Prop := exec i s = .next (advance s' t k)

/-- The word faults with a code: the codelet ends there (R192). -/
def FaultsWith (i : Instr) (s : State) (t : Nat) (k : Fin 4) (c : BitVec 8) : Prop :=
  exec i s = .next (faultCodelet s t k (slotPoison s t k c))

/-- The word waits and is tried again. -/
def Waits (i : Instr) (s : State) (t : Nat) (k : Fin 4) : Prop := exec i s = .next (waitWord s t k)

/-- Nothing that the word touches is still to be written by matrix work or a group load of its slot (R190, R432). -/
def Unheld (s : State) (t : Nat) (k : Fin 4) (fo : Foot) : Prop :=
  (∀ m ∈ (tileOf s t).mat, m.id ∈ (slotOf s t k).mats → m.foot.meets fo = false) ∧ groupPending s t k fo = false
    ∧ ∀ m ∈ (slotOf s t k).mfault, m.1.meets fo = false

/-- The launch of the tile is not deterministic (R134). -/
def NotDet (s : State) (t : Nat) : Prop := (tileLaunch s t).det = false

/-- A 64-bit value is a send destination (R373). -/
def isDest (v : Word) : Prop := v.toNat < 2 ^ 29 ∧ v.getLsbD 25 = true

/-- The channel of a send is usable (R162, R164). -/
def Usable (s : State) (t : Nat) (c : BitVec 5) : Prop := 4 ≤ c.toNat ∧ (chanOf (tileOf s t) c).getLsbD 63 = true

/-- The flight of a token that a codelet sends: the header of R372. -/
def sent (s : State) (t : Nat) (sl : Slot) (d : Dest) (ctx : BitVec 3) (tag : BitVec 20) (ch : BitVec 5) (body : Body) : Flight :=
  { tok := { dest := d, ctx := ctx, tag := tag, chan := ch, seq := (port0 sl.firing).seq, rankw := (port0 sl.firing).rankw,
             origin := BitVec.ofNat 11 t, body := body, batch := sl.firing.batch,
             rel := { scope := chanScope (chanOf (tileOf s t) ch), place := BitVec.ofNat 11 t, clock := sl.firing.clock } },
    launch := (tileOf s t).launch, pkg := 255 }

/-- The destination a value names (R373, R157). -/
def destOf (v : Word) : Dest :=
  { v := v.getLsbD 25, tile := v.extractLsb' 14 11, node := v.extractLsb' 2 12, port := v.extractLsb' 0 2 }

/-- The recode that `pgrecode` asks for (R394). -/
def askedRecode (s : State) (t : Nat) (k : Fin 4) (f : Formed) (b : Word) : Recode :=
  { id := s.nextId, asid := f.asid, ia := f.ia, kind := b.extractLsb' 0 3, fmt := b.extractLsb' 8 8,
    expp := b.extractLsb' 16 2, issuer := some (t, k.val) }

/-- The poison of a self-raised fault. -/
def selfPoison (s : State) (t : Nat) (k : Fin 4) (code : BitVec 8) (detail : Word) : Poison :=
  { slotPoison s t k code with detail := detail }


/-- R372 to R374: `send` sends one scalar with the header of its operands; a reply node comes with IMM[14]. -/
def SendWord : Prop :=
  ∀ s t k (w : EWord), Runs s t k w.g [w.a, w.b, w.c] [] →
    isDest (opVal (slotOf s t k) w.a) → (opVal (slotOf s t k) w.c).toNat ≤ 0xFFFFF → Usable s t w.ch →
    let sl := slotOf s t k
    let f := sent s t sl (destOf (opVal sl w.a)) ((opVal sl w.a).extractLsb' 26 3) ((opVal sl w.c).setWidth 20) w.ch (.scalar (opVal sl w.b))
    let r := w.imm.getLsbD 14
    Goes (.send w) s t k (sendFrom s t k sl { f with tok := { f.tok with
      reply := r, rnode := w.imm.extractLsb' 2 12, rport := w.imm.extractLsb' 0 2, rctx := if r then sl.firing.ctx else 0 } })

/-- R377: `emit` sends to destination A and then B as IMM[1:0] selects them, on channel CH or on the leading token's, with ch0
to ch3 becoming ch4; a field with V = 0 sends nothing. -/
def EmitWord : Prop :=
  ∀ s t k (w : EWord), Runs s t k w.g [w.b, w.c] [] → (opVal (slotOf s t k) w.c).toNat ≤ 0xFFFFF →
    let sl := slotOf s t k
    let lead := (leadTok sl.firing).chan
    let ch : BitVec 5 := if w.imm.getLsbD 2 then w.ch else if lead.toNat < 4 then 4 else lead
    Usable s t ch →
    let r := nodeRec s t sl.firing.ctx sl.firing.node
    let f (d : Dest) := sent s t sl d sl.firing.ctx ((opVal sl w.c).setWidth 20) ch (.scalar (opVal sl w.b))
    let sendTo (on : Bool) (d : Dest) (s : State) : State := if on && d.v then sendFrom s t k (slotOf s t k) (f d) else s
    Goes (.emit w) s t k (sendTo (w.imm.getLsbD 1) r.destB (sendTo (w.imm.getLsbD 0) r.destA s))

/-- R290, R372: a send leaves at once when nothing of the codelet stands before it or has yet to pass translation, and otherwise waits
behind the codelet's accesses; it is received after the accesses its release covers (R235); after a late fault nothing leaves. -/
def SendLeavesInOrder : Prop :=
  ∀ s t k (f : Flight),
    let sl := slotOf s t k
    (sl.late = none → sl.held = [] → (∀ r ∈ sl.reqs, unpassed s r = false ∧ standsBefore s f.tok.rel.scope r = false) →
      (sendFrom s t k sl f).net = s.net
        ++ [{ f with since := s.time, after := f.after ++ knownBefore s f.tok.rel.scope f.tok.rel.clock }])
    ∧ (sl.late = none → sl.held = [] → (∃ r ∈ sl.reqs, unpassed s r = true ∨ standsBefore s f.tok.rel.scope r = true) →
      (sendFrom s t k sl f).net = s.net ∧ (slotOf (sendFrom s t k sl f) t k).held = [⟨sl.reqs, f⟩])
    ∧ (sl.late ≠ none → (sendFrom s t k sl f).net = s.net)

/-- R372 step 1 and 2, R380, R390: where sends fault: a value that is no destination, a tag above 0xFFFFF, a reserved or
invalid channel; and `poison`, which faults by itself with its code and DETAIL. -/
def SendFaults : Prop :=
  (∀ s t k (w : EWord), Runs s t k w.g [w.a, w.b, w.c] [] → ¬ isDest (opVal (slotOf s t k) w.a) → FaultsWith (.send w) s t k cIllegal)
  ∧ (∀ s t k (w : EWord), Runs s t k w.g [w.a, w.b, w.c] [] → isDest (opVal (slotOf s t k) w.a) →
      0xFFFFF < (opVal (slotOf s t k) w.c).toNat → FaultsWith (.send w) s t k cTagOverflow)
  ∧ (∀ s t k (w : EWord), Runs s t k w.g [w.a, w.b, w.c] [] → isDest (opVal (slotOf s t k) w.a) →
      (opVal (slotOf s t k) w.c).toNat ≤ 0xFFFFF → w.ch.toNat < 4 → FaultsWith (.send w) s t k cChanReserved)
  ∧ (∀ s t k (w : EWord), Runs s t k w.g [w.a, w.b, w.c] [] → isDest (opVal (slotOf s t k) w.a) →
      (opVal (slotOf s t k) w.c).toNat ≤ 0xFFFFF → 4 ≤ w.ch.toNat → (chanOf (tileOf s t) w.ch).getLsbD 63 = false →
      FaultsWith (.send w) s t k cChanInvalid)
  ∧ (∀ s t k (w : RWord), Runs s t k w.g [w.a] [] →
      exec (.poison w) s = .next (faultCodelet s t k (selfPoison s t k (0xC0 + w.sh.setWidth 8) (opVal (slotOf s t k) w.a))))

/-- R374 to R376: `sendv` and `sendx` send a burst of NELEM elements read from vK on, after the route filter, to the value's
destination or to the key's combine unit. -/
def BurstSendWords : Prop :=
  ∀ s t k (w : EWord) data fmt dtag body fl s1 f1 s2 f2,
    let sl := slotOf s t k
    let n := (opVal sl w.b).toNat
    let e := chanOf (tileOf s t) w.ch
    Usable s t w.ch → Unheld s t k { regs := sendRegs e w.ty n w.v.toNat } →
    sendData s t sl e w.ty n w.v.toNat = .ok (fmt, data, dtag) →
    routeFilter e fmt n dtag sl.seed data = .ok (body, fl) →
    trackMany t false ((sendRegs e w.ty n w.v.toNat).map vregUnit) s sl.firing = .ok (s1, f1) →
    setSticky s1 t f1 fl.stat = .ok (s2, f2) →
    let rel (f : Flight) : Flight := { f with tok := { f.tok with rel := { f.tok.rel with clock := f2.clock } } }
    (Runs s t k w.g [w.a, w.b, w.c] [] → isDest (opVal sl w.a) → (opVal sl w.c).toNat ≤ 0xFFFFF →
      Goes (.sendv w) s t k (sendFrom s2 t k { sl with firing := f2 } (rel
        { sent s t sl (destOf (opVal sl w.a)) ((opVal sl w.a).extractLsb' 26 3) ((opVal sl w.c).setWidth 20) w.ch body with
          launch := (tileOf s2 t).launch })))
    ∧ (Runs s t k w.g [w.a, w.b] [] → (opVal sl w.a).toNat < 2 ^ 52 →
      let key := opVal sl w.a
      let rankw := key.extractLsb' 36 16
      let f := sent s t sl { v := true, tile := BitVec.ofNat 11 (combId (rankw.toNat / 256 % 32)), node := 0, port := 0 } 0
                 (key.extractLsb' 0 20) w.ch body
      Goes (.sendx w) s t k (sendFrom s2 t k { sl with firing := f2 } (rel
        { f with pkg := rankw.extractLsb' 0 8, launch := (tileOf s2 t).launch,
                 tok := { f.tok with seq := key.extractLsb' 20 16, rankw := rankw } })))

/-- R378: `tagmk` forms a × 2^S + (b mod 2^S), marked as its sources are, or fails with "tag overflow". -/
def TagmkWord : Prop :=
  ∀ s t k (w : RWord),
    let c : Sc := { g := w.g, srcs := [w.a, w.b], d := some w.d }
    let sl := slotOf s t k
    let v := (opVal sl w.a).toNat * 2 ^ w.sh.toNat + (opVal sl w.b).toNat % 2 ^ w.sh.toNat
    c.Runs s t k →
    (v ≤ 0xFFFFF → Goes (.tagmk w) s t k (setSlot s t k (wrT sl w.d (BitVec.ofNat 64 v) (c.mark sl))))
    ∧ (0xFFFFF < v → FaultsWith (.tagmk w) s t k cTagOverflow)

/-- R379: `pchk` of a stream: not open gives 0 and 0; with nothing outstanding, a failed stream gives 1 and its code, and any
other 0 and 0; with an access outstanding it waits. -/
def PchkStream : Prop :=
  ∀ s t k (w : RWord) (n : BitVec 4),
    let sl := slotOf s t k
    let st := streamOf s t sl.firing.ctx n
    Runs s t k w.g [w.a, w.b] [w.d] → opVal sl w.a = n.setWidth 64 → opVal sl w.b = 0 →
    (st.isOpen = false → Goes (.pchk w) s t k (setSlot s t k (wrP (wrT sl w.d 0 false) w.pd false false)))
    ∧ (st.isOpen = true → (∃ r ∈ s.reqs, r.party = .stream t sl.firing.ctx n) → Waits (.pchk w) s t k)
    ∧ (st.isOpen = true → (∀ r ∈ s.reqs, r.party ≠ .stream t sl.firing.ctx n) → st.failed = none →
        Goes (.pchk w) s t k (setSlot s t k (wrP (wrT sl w.d 0 false) w.pd false false)))
    ∧ (∀ p, st.isOpen = true → (∀ r ∈ s.reqs, r.party ≠ .stream t sl.firing.ctx n) → st.failed = some p →
        Goes (.pchk w) s t k (setSlot s t k (wrP (wrT sl w.d (p.code.setWidth 64) false) w.pd true false)))

/-- R379, R294: `pchk` of a timeline whose counter has reached b takes the lowest poison not yet delivered, once, and acquires. -/
def PchkTimeline : Prop :=
  ∀ s t k (w : RWord) (n : BitVec 2),
    let sl := slotOf s t k
    let b := (opVal sl w.b).toNat
    let tm := timelineOf s t sl.firing.ctx n
    let s0 := acquireAt s t .sys
    let sl0 := { sl with firing := { sl.firing with clock := clkJoin sl.firing.clock tm.clock } }
    Runs s t k w.g [w.a, w.b] [w.d] → opVal sl w.a = 16 + n.setWidth 64 → b ≤ tm.issued →
    (tm.counter < b → Waits (.pchk w) s t k)
    ∧ (b ≤ tm.counter → (∀ p ∈ tm.faulted, b < p.1) →
        Goes (.pchk w) s t k (setSlot s0 t k (wrP (wrT sl0 w.d 0 false) w.pd false false)))
    ∧ (∀ i p rest pre, b ≤ tm.counter → tm.faulted = pre ++ (i, p) :: rest → (∀ q ∈ pre, b < q.1) → i ≤ b →
        Goes (.pchk w) s t k (setSlot (setTimeline s0 t sl.firing.ctx n { tm with faulted := adel tm.faulted i }) t k
          (wrP (wrT sl0 w.d (p.code.setWidth 64) false) w.pd true false)))

/-- R374, R386, R388: `done` ends the codelet, `nop` does nothing, `brk` does nothing with DBGCTL.EN = 0. -/
def DoneNopBrkWords : Prop :=
  ∀ s t k,
    (∀ w : RWord, Runs s t k w.g [] [] → exec (.done w) s = .next (endCodelet s t k) ∧ Goes (.nop w) s t k s)
    ∧ (∀ w : IWord, Runs s t k w.g [] [] → (tileOf s t).dbgctl = false → Goes (.brk w) s t k s)
    ∧ (∀ w : IWord, Runs s t k w.g [] [] → (tileOf s t).dbgctl = true →
        ∃ s', exec (.brk w) s = .next s' ∧ (slotOf s' t k).phase = .stopped
          ∧ (slotOf s' t k).word = (slotOf s t k).word + 1
          ∧ (fnOf s' (launchOf s (tileOf s t).launch).func).waiting = (fnOf s (launchOf s (tileOf s t).launch).func).waiting
              ++ [breakRecord t k (slotOf s t k).firing w.imm (tileOf s t).launch ++ List.replicate 42 0])

/-- R381, R382, R202: `rdsr` writes the register to D; TIME, CLKG and CLKEV are marked in deterministic mode.
Model's choices in it: log 30. -/
def RdsrWord : Prop :=
  ∀ s t k (w : IWord) s1 f1,
    let c : Sc := { g := w.g, d := some w.d }
    let sl := slotOf s t k
    let n := w.imm.toNat
    let tl := tileOf s t
    c.Runs s t k → trackSr s t sl.firing false n = .ok (s1, f1) →
    ∀ v, ((n = 0x000 ∧ v = BitVec.ofNat 64 s.time)
        ∨ (n = 0x001 ∧ v = BitVec.ofNat 64 ((s.boot.pkg.getD 255).toNat * 2048 + t))
        ∨ (n = 0x002 ∧ v = BitVec.ofNat 64 (((tileLaunch s t).images.length - 1) * 256 + tl.ctx.toNat))
        ∨ (n = 0x003 ∧ v = tl.stepid.setWidth 64) ∨ (n = 0x004 ∧ v = tl.stat) ∨ (n = 0x005 ∧ v = sl.seed.setWidth 64)
        ∨ (n = 0x006 ∧ v = sl.winsel.setWidth 64) ∨ (n = 0x007 ∧ v = tl.partw.setWidth 64)
        ∨ (n = 0x008 ∧ v = if (tileLaunch s t).det then 1 else 0) ∨ (n = 0x009 ∧ v = tl.estr.setWidth 64)
        ∨ (n = 0x00A ∧ v = tl.thctl) ∨ (n = 0x00B ∧ v = if tl.dbgctl then 1 else 0)
        ∨ (n = 0x010 ∧ v = s.clk.clkg.getD (t / 512) 0) ∨ (n = 0x011 ∧ v = tl.clkq) ∨ (n = 0x012 ∧ v = tl.clkev)
        ∨ (∃ i : Fin 8, n = 0x018 + i ∧ v = (tl.th[i]).setWidth 64)
        ∨ (∃ i < 32, n = 0x020 + 2 * i ∧ v = (tl.chan.getD i 0).extractLsb' 0 64)
        ∨ (∃ i < 32, n = 0x021 + 2 * i ∧ v = (tl.chan.getD i 0).extractLsb' 64 64)) →
      Goes (.rdsr w) s t k (setSlot s1 t k (wrT { sl with firing := f1 } w.d v
        (guardMark sl w.g || ((n = 0x000 || n = 0x010 || n = 0x012) && (tileLaunch s t).det))))

/-- R381, R383, R384, R54, R286: `wrsr`. SEED and WINSEL change the slot's copy; STAT and CLKEV clear where the value holds
ones; THCTL keeps its fields; a register that is read-only for codelets faults with "illegal encoding".
Model's choices in it: log 27. -/
def WrsrWord : Prop :=
  ∀ s t k (w : IWord),
    let sl := slotOf s t k
    let n := w.imm.toNat
    let a := opVal sl w.a
    Runs s t k w.g [w.a] [] →
    (n = 0x005 → Goes (.wrsr w) s t k (setSlot s t k { sl with seed := a.setWidth 32 }))
    ∧ (n = 0x006 → Goes (.wrsr w) s t k (setSlot s t k { sl with winsel := a.setWidth 8 }))
    ∧ (NotDet s t → n = 0x004 →
        Goes (.wrsr w) s t k (modTile (setSlot s t k sl) t (fun x => { x with stat := x.stat &&& ~~~(a &&& 0x71F#64) })))
    ∧ (NotDet s t → n = 0x00A →
        Goes (.wrsr w) s t k (modTile (setSlot s t k sl) t (fun x => { x with thctl := a &&& 0x8FFFFF00#64 })))
    ∧ (NotDet s t → n = 0x012 →
        Goes (.wrsr w) s t k (modTile (setSlot s t k sl) t (fun x => { x with clkev := x.clkev &&&
          ~~~((a &&& 0xF#64) ||| (if a.extractLsb' 8 8 = 0xFF then 0xFF00 else 0)) })))
    ∧ (NotDet s t → n = 0x009 →
        Goes (.wrsr w) s t k (sendEstimate (modTile (setSlot s t k sl) t (fun x => { x with estr := a.setWidth 32 }))
          (tileOf s t).launch (plotOf t)))
    ∧ (∀ s1, n = 0x011 → clkRequest s (tileOf s t).launch a = some s1 → Goes (.wrsr w) s t k s1)
    ∧ (∀ (i : Fin 8) x, NotDet s t → n = 0x018 + i → thValue (a.setWidth 32) = some x →
        Goes (.wrsr w) s t k (modTile (setSlot s t k sl) t (fun y => { y with th := y.th.set i x })))
    ∧ (∀ i : Fin 8, n = 0x018 + i → thValue (a.setWidth 32) = none → FaultsWith (.wrsr w) s t k cThreshold)
    ∧ (n ∈ [0x000, 0x001, 0x002, 0x003, 0x007, 0x008, 0x00B, 0x010] ∨ 0x020 ≤ n → FaultsWith (.wrsr w) s t k cIllegal)

/-- R387, R393, R149: `trap` ends the codelet and its launch with KILLED, after a fault record of TYPE 3; `halt` with OK once
no access of the launch stands. -/
def TrapAndHaltWords : Prop :=
  ∀ s t k,
    let sl := slotOf s t k
    let h := (tileOf s t).launch
    (∀ w : IWord, Runs s t k w.g [w.a] [] →
      exec (.trap w) s = .next (endCodelet (askEnd (appendLog s h true
        (faultRecord 3 (w.imm.setWidth 8) sl.firing.node t sl.firing.ctx.toNat 0 (bytesLE 8 (opVal sl w.a).toNat) [])) h 6) t k))
    ∧ (∀ w : RWord, Runs s t k w.g [] [] → (∀ r ∈ s.reqs, (tileOf s r.tile).launch ≠ h) →
        exec (.halt w) s = .next (endCodelet (askEnd s h 0) t k))

/-- R45, R46, R102, R104, R389, R391, R392, R394: clock requests, device kicks, window reloads, flushes, recodes.
Model's choices in it: log 11, 27. -/
def ClockKickWindowWords : Prop :=
  ∀ s t k (w : RWord),
    let sl := slotOf s t k
    let a := opVal sl w.a
    let b := opVal sl w.b
    (∀ s1, Runs s t k w.g [w.a] [] → clkRequest s (tileOf s t).launch a = some s1 → Goes (.clkreq w) s t k s1)
    ∧ (Runs s t k w.g [w.a] [] → clkRequest s (tileOf s t).launch a = none → FaultsWith (.clkreq w) s t k cClockRange)
    ∧ (Runs s t k w.g [w.a, w.b] [] → a.toNat < 4096 → relWaits s sl.reqs sl.firing.clock .dom = false →
        kickOk s a.toNat b.toNat (tileLaunch s t).asid = true → Goes (.kick w) s t k (doorbell s a.toNat b.toNat))
    ∧ (Runs s t k w.g [w.a, w.b] [] → 4096 ≤ a.toNat → FaultsWith (.kick w) s t k cIllegal)
    ∧ (∀ d, Runs s t k w.g [w.a, w.b] [] → a.toNat < 8 → b.toNat % 8 = 0 →
        b.toNat + 24 ≤ (imageOf s t sl.firing.ctx).scratch → Unheld s t k { spad := [(b.toNat, 24)] } → Sound s t → NotDet s t →
        d = winOf (rdBytes (tileOf s t).scratch b.toNat 24) → d.ok (tileLaunch s t).asid = true →
        ∃ s', Goes (.winld w) s t k s'
          ∧ (aget (tileOf s' t).wins sl.firing.ctx.toNat []) = lmod (aget (tileOf s t).wins sl.firing.ctx.toNat []) a.toNat (fun _ => d)
          ∧ (slotOf s' t k).winsel.getLsbD a.toNat = d.valid
          ∧ (aget (tileOf s' t).winsel sl.firing.ctx.toNat 0).getLsbD a.toNat = d.valid)
    ∧ (∀ f, Runs s t k w.g [w.a, w.b] [] → 0 < b.toNat → b.toNat ≤ 2 ^ 32 → slotAddr s t sl .load a b.toNat = .ok f →
        flushDue s sl f b.toNat = [] →
        Goes (.cflush w) s t k (if w.sh = 0 then dropNear s f.asid f.ia.toNat b.toNat else s))
    ∧ (∀ f, Runs s t k w.g [w.a, w.b] [] → 0 < b.toNat → b.toNat ≤ 2 ^ 32 → slotAddr s t sl .load a b.toNat = .ok f →
        sl.due = none → flushDue s sl f b.toNat ≠ [] →
        exec (.cflush w) s = .next (waitWord (setSlot s t k { sl with due := some (flushDue s sl f b.toNat) }) t k))
    ∧ (Runs s t k w.g [w.a, w.b] [] → b = 0 → Goes (.cflush w) s t k s)
    ∧ (Runs s t k w.g [w.a, w.b] [] → 2 ^ 32 < b.toNat → FaultsWith (.cflush w) s t k cIllegal)
    ∧ (∀ f, Runs s t k w.g [w.a, w.b] [] → a.toNat % 65536 = 0 → kindWordOk b = true → (∀ r ∈ s.recodes, r.issuer ≠ some (t, k.val)) →
        slotAddr s t sl .store a 65536 = .ok f → isHostIA f.ia.toNat = false → pkgIsLocal s (iaPkg f.ia.toNat) = true →
        ∃ s', exec (.pgrecode w) s = .next s'
          ∧ s'.recodes = s.recodes ++ [askedRecode s t k f b]
          ∧ (∃ n, (slotOf s' t k).phase = .waiting n))


/-! ## Vector words (R395 to R427) -/

/-- Lanes of a register (R395). -/
def lanesOf (t : Ty) : Nat := 512 / t.bytes

/-- Lane i of register v (R395). -/
def lane (tl : Tile) (t : Ty) (v i : Nat) : Nat := leNat (rdBytes tl.vreg (512 * v + i * t.bytes) t.bytes)

/-- Bit i of register v's image. -/
def vbit (tl : Tile) (v i : Nat) : Bool := (rd8 tl.vreg (512 * v + i / 8)).getLsbD (i % 8)

/-- Lane i is enabled (R398). -/
def on (tl : Tile) (w : VWord) (i : Nat) : Bool := !w.me || vbit tl w.vm.toNat i

/-- The scalar at the lane type (R397). -/
def scal (sl : Slot) (w : VWord) : Nat := (opVal sl (vScalar w)).toNat % 2 ^ (8 * w.ty.bytes)

/-- Lane i of operand b: VB's, or the scalar (R397). -/
def bLane (tl : Tile) (sl : Slot) (w : VWord) (i : Nat) : Nat := if w.sb then scal sl w else lane tl w.ty w.vb.toNat i

/-- The registers that operand b and the mask name. -/
def bReg (w : VWord) : List Nat := if w.sb then [] else [w.vb.toNat]
def mReg (w : VWord) : List Nat := if w.me then [w.vm.toNat] else []

/-- The tag of operand b: a scalar's is 0 (R397). -/
def bTag (tl : Tile) (w : VWord) : BitVec 3 := if w.sb then 0 else regTag tl w.vb.toNat

/-- Some of several conditions. -/
def orAll (l : List Fl) : Fl :=
  { nv := l.any (·.nv), ovf := l.any (·.ovf), nx := l.any (·.nx), sat := l.any (·.sat), dz := l.any (·.dz) }

/-- All registers lie below the context's VREGS (R399 step 2). -/
def Below (s : State) (t : Nat) (k : Fin 4) (rs : List Nat) : Prop :=
  ∀ r ∈ rs, r < (imageOf s t (slotOf s t k).firing.ctx).vregs

/-- A masked destination already carries the result's tag (R398). -/
def Keeps (tl : Tile) (w : VWord) (tag : BitVec 3) : Prop := w.me = true → regTag tl w.vd.toNat = tag

/-- Slab groups exist for the type (R282). -/
def Slabs (t : Ty) : Prop := t = .f16 ∨ t = .bf16 ∨ t = .f32

/-- A vector word that runs performs exactly `o`: nothing it names or touches is still to be written; tracking records its accesses
(R400), its conditions become sticky bits, the engine's clock runs (R187), its registers, scratchpad bytes and scalar result are
written, the codelet goes on. -/
def Lands (i : Instr) (g : Guard) (srcs ds : List SOp) (s : State) (t : Nat) (k : Fin 4) (named : List Nat) (o : VOut) : Prop :=
  ∀ s1 f1 s2 f2, Runs s t k g srcs ds → Unheld s t k { regs := named } → Unheld s t k o.foot →
    trackOut s t (slotOf s t k).firing o = .ok (s1, f1) → setSticky s1 t f1 o.fl.stat = .ok (s2, f2) →
    let sl := { slotOf s t k with firing := f2 }
    Goes i s t k (setSlot (modTile (wakeUnit s2 t .vectorEngine) t (fun now => { now with
      vreg := o.tl.vreg, vtag := o.tl.vtag, scratch := o.tl.scratch, th := o.tl.th, badWords := o.tl.badWords })) t k
      (match o.out with | some (d, v) => wrT sl d v false | none => sl))

/-- Lane results written to the enabled lanes of VD with a tag; the other lanes stay. -/
def onVd (tl : Tile) (w : VWord) (rs grp : List Nat) (fl : Fl) (tag : BitVec 3) (f : Nat → Nat × Fl) : VOut :=
  let n := lanesOf w.ty
  { tl := setReg tl w.vd.toNat ((List.range n).flatMap (fun i =>
            bytesLE w.ty.bytes (if on tl w i then (f i).1 else lane tl w.ty w.vd.toNat i))) tag,
    reads := rs ++ mReg w ++ grp, writes := [w.vd.toNat] ++ grp,
    fl := fl.or (orAll (((List.range n).filter (on tl w)).map (fun i => (f i).2))) }

/-- The groups of the tagged sources (R281). -/
def groups (tl : Tile) (t : Ty) (rs : List Nat) : List Nat :=
  ((rs.filter (fun r => regTag tl r ≠ 0)).map (fun r => r - r % (8 * t.bytes))).eraseDups

/-- The registers of a group (R281). -/
def members (t : Ty) (base : Nat) : List Nat := (List.range (8 * t.bytes)).map (base + ·)

/-- The tile with the tagged source groups reconstructed, and the conditions met (R281, R282). -/
def rebuilt (s : State) (t : Nat) (ty : Ty) (rs : List Nat) : Tile × Fl := reconAll ty (groups (tileOf s t) ty rs) (tileOf s t)

/-- The registers a reconstruction reads and writes. -/
def regroup (s : State) (t : Nat) (ty : Ty) (rs : List Nat) : List Nat := (groups (tileOf s t) ty rs).flatMap (members ty)

/-- A word of the reconstructing class may run: registers and groups below VREGS, tags only at types with slab groups, one
tag in each group (R281, R282, R399). -/
def CanRec (s : State) (t : Nat) (k : Fin 4) (ty : Ty) (rs named : List Nat) : Prop :=
  Below s t k (named ++ regroup s t ty rs) ∧ (Slabs ty ∨ ∀ r ∈ rs, regTag (tileOf s t) r = 0)
    ∧ ∀ b ∈ groups (tileOf s t) ty rs, ∀ r ∈ members ty b, regTag (tileOf s t) r = regTag (tileOf s t) b

/-- A reconstructing word whose lanes are `f` of the reconstructed tile. -/
def recVd (s : State) (t : Nat) (w : VWord) (rs : List Nat) (f : Tile → Nat → Nat × Fl) : VOut :=
  onVd (rebuilt s t w.ty rs).1 w rs (regroup s t w.ty rs) (rebuilt s t w.ty rs).2 0 (f (rebuilt s t w.ty rs).1)

/-- A lane as a word. -/
def lw (x : Nat) : Word := BitVec.ofNat 64 x

/-- A lane-wise result: floats rounded once in mode RM with the slot's SEED copy, integers modulo 2^w (R402). -/
def arith (w : VWord) (sl : Slot) (fo : (Nat → Val) → Val × Fl) (io : Int) : Nat × Fl :=
  match tyF w.ty with
  | some f =>
    let r := fo f.decode
    ((f.round w.rm sl.seed r.1).1, r.2.or (f.round w.rm sl.seed r.1).2)
  | none => ((io % 2 ^ (8 * w.ty.bytes)).toNat, {})

/-- R395, R397 to R402, R282: `vadd`, `vsub`, `vmul`, `vfma`, with the tag of the linear class. -/
def VectorArithmeticWords : Prop :=
  ∀ s t k (w : VWord),
    let tl := tileOf s t
    let sl := slotOf s t k
    let rs := w.va.toNat :: bReg w
    let x := lane tl w.ty w.va.toNat
    let y := bLane tl sl w
    let z := lane tl w.ty w.vc.toNat
    let ta := regTag tl w.va.toNat
    let tb := bTag tl w
    Below s t k (rs ++ mReg w ++ [w.vd.toNat]) → (Slabs w.ty ∨ (ta = 0 ∧ tb = 0)) →
    (ta = tb → Keeps tl w ta →
      Lands (.vadd w) w.g (vSrc w) [] s t k (rs ++ mReg w ++ [w.vd.toNat])
        (onVd tl w rs [] {} ta (fun i => arith w sl (fun d => (d (x i)).add w.rm (d (y i))) (x i + y i)))
      ∧ Lands (.vsub w) w.g (vSrc w) [] s t k (rs ++ mReg w ++ [w.vd.toNat])
        (onVd tl w rs [] {} ta (fun i => arith w sl (fun d => (d (x i)).add w.rm (d (y i)).neg) (x i - y i))))
    ∧ (ta = 0 ∨ tb = 0 → Keeps tl w (ta ||| tb) →
      Lands (.vmul w) w.g (vSrc w) [] s t k (rs ++ mReg w ++ [w.vd.toNat])
        (onVd tl w rs [] {} (ta ||| tb) (fun i => arith w sl (fun d => (d (x i)).mul (d (y i))) (x i * y i))))
    ∧ (ta = 0 ∨ tb = 0 → Keeps tl w (ta ||| tb) → w.vc.toNat < (imageOf s t sl.firing.ctx).vregs →
      regTag tl w.vc.toNat = ta ||| tb →
      Lands (.vfma w) w.g (vSrc w) [] s t k (rs ++ [w.vc.toNat] ++ mReg w ++ [w.vd.toNat])
        (onVd tl w (rs ++ [w.vc.toNat]) [] {} (ta ||| tb)
          (fun i => arith w sl (fun d => Val.fma w.rm (d (x i)) (d (y i)) (d (z i))) (x i * y i + z i))))

/-- `vmin` and `vmax` on one lane (R403). -/
def lesser (t : Ty) (least : Bool) (a b : Nat) : Nat × Fl :=
  match tyF t with
  | some f =>
    let p := f.decode a
    let q := f.decode b
    if p.isNan || q.isNan then (f.nanBits, { nv := p.isSig || q.isSig })
    else (if (less p q || (place p = place q && p.isNeg)) = least then a else b, {})
  | none => (if decide (rd t (lw a) < rd t (lw b)) = least then a else b, {})

/-- `vabs` and `vneg` on one lane (R403). -/
def absolute (t : Ty) (a : Nat) : Nat :=
  match tyF t with
  | some f => if (f.decode a).isNan then f.nanBits else a % 2 ^ (f.width - 1)
  | none => if isZ t then a else ((rd t (lw a)).natAbs % 2 ^ (8 * t.bytes))

def negated (t : Ty) (a : Nat) : Nat :=
  match tyF t with
  | some f => if (f.decode a).isNan then f.nanBits else (a + 2 ^ (f.width - 1)) % 2 ^ f.width
  | none => ((-(a : Int)) % 2 ^ (8 * t.bytes)).toNat

/-- cond(CC) on two lanes with its NV (R325, R368, R407). -/
def holds (t : Ty) (cc : Cc) (a b : Nat) : Bool × Fl :=
  match tyF t with
  | some f =>
    let p := f.decode a
    let q := f.decode b
    (if p.isNan || q.isNan then cc = .ne || cc = .uo
     else match cc with
      | .eq => decide (place p = place q)
      | .ne => decide (place p ≠ place q)
      | .lt => less p q
      | .le => less p q || decide (place p = place q)
      | .gt => less q p
      | .ge => less q p || decide (place p = place q)
      | .uo => false, { nv := fcmpNv cc p q })
  | none => (cond cc (rd t (lw a)) (rd t (lw b)), {})

/-- A bit image: bit i is `b i`. -/
def bitImg (b : Nat → Bool) : List Byte :=
  (List.range 512).map (fun j => BitVec.ofNat 8 (((List.range 8).map (fun m => if b (8 * j + m) then 2 ^ m else 0)).sum))

/-- The types of integer and float lane arithmetic (R402, R403). -/
def arithTy (t : Ty) : Prop := t ∈ [Ty.s8, .z8, .s32, .z32, .s64, .z64, .f16, .bf16, .f32]

/-- R282, R398, R403, R407: order, sign and compare words. -/
def VectorOrderWords : Prop :=
  ∀ s t k (w : VWord),
    let tl := tileOf s t
    let sl := slotOf s t k
    let a := w.va.toNat
    let rs := a :: bReg w
    let named := rs ++ mReg w ++ [w.vd.toNat]
    arithTy w.ty →
    (CanRec s t k w.ty rs named →
      (Keeps (rebuilt s t w.ty rs).1 w 0 →
        Lands (.vmin w) w.g (vSrc w) [] s t k named
          (recVd s t w rs (fun r i => lesser w.ty true (lane r w.ty a i) (bLane r sl w i)))
        ∧ Lands (.vmax w) w.g (vSrc w) [] s t k named
          (recVd s t w rs (fun r i => lesser w.ty false (lane r w.ty a i) (bLane r sl w i))))
      ∧ (let r := (rebuilt s t w.ty rs).1
         let c := fun i => holds w.ty w.cc (lane r w.ty a i) (bLane r sl w i)
         let bs := (List.range (lanesOf w.ty)).filter (on r w)
         Lands (.vcmp w) w.g (vSrc w) [] s t k named
          { tl := setReg r w.vd.toNat (bitImg (fun i => decide (i < lanesOf w.ty) && on r w i && (c i).1)) 0,
            reads := rs ++ mReg w ++ regroup s t w.ty rs, writes := [w.vd.toNat] ++ regroup s t w.ty rs,
            fl := (rebuilt s t w.ty rs).2.or (orAll (bs.map (fun i => (c i).2))) }))
    ∧ (CanRec s t k w.ty [a] ([a] ++ mReg w ++ [w.vd.toNat]) → Keeps (rebuilt s t w.ty [a]).1 w 0 →
        Lands (.vabs w) w.g [] [] s t k ([a] ++ mReg w ++ [w.vd.toNat])
          (recVd s t w [a] (fun r i => (absolute w.ty (lane r w.ty a i), {}))))
    ∧ (Below s t k ([a] ++ mReg w ++ [w.vd.toNat]) → (Slabs w.ty ∨ regTag tl a = 0) → Keeps tl w (regTag tl a) →
        Lands (.vneg w) w.g [] [] s t k ([a] ++ mReg w ++ [w.vd.toNat])
          (onVd tl w [a] [] {} (regTag tl a) (fun i => (negated w.ty (lane tl w.ty a i), {}))))

/-- R404: the logic words act on lane bits, the shifts by the low log2 w bits of the count; untagged operands only. -/
def VectorLogicWords : Prop :=
  ∀ s t k (w : VWord),
    let tl := tileOf s t
    let n := 8 * w.ty.bytes
    let rs := w.va.toNat :: bReg w
    let x := lane tl w.ty w.va.toNat
    let y := bLane tl (slotOf s t k) w
    let does (i : Instr) (f : Nat → Nat) : Prop := Lands i w.g (vSrc w) [] s t k (rs ++ mReg w ++ [w.vd.toNat])
      (onVd tl w rs [] {} 0 (fun i => (f i, {})))
    Below s t k (rs ++ mReg w ++ [w.vd.toNat]) → regTag tl w.va.toNat = 0 → bTag tl w = 0 → Keeps tl w 0 →
    does (.vand w) (fun i => x i &&& y i) ∧ does (.vor w) (fun i => x i ||| y i) ∧ does (.vxor w) (fun i => x i ^^^ y i)
    ∧ does (.vshl w) (fun i => x i * 2 ^ (y i % n) % 2 ^ n)
    ∧ does (.vshr w) (fun i => x i / 2 ^ (y i % n))
    ∧ does (.vsar w) (fun i => ((x i : Int).bmod (2 ^ n) / 2 ^ (y i % n) % 2 ^ n).toNat)

/-- R405: the function words give the value of the function of each lane, rounded once in mode RM; the values are those of
`fnVal` (log 8), its special inputs those of `VectorFunctionInputs`. -/
def VectorFunctionWords : Prop :=
  ∀ s t k (w : VWord),
    let a := w.va.toNat
    let named := [a] ++ mReg w ++ [w.vd.toNat]
    let does (i : Instr) (o : FnOp) : Prop := Lands i w.g [] [] s t k named
      (recVd s t w [a] (fun r i => arith w (slotOf s t k) (fun d => fnVal o (d (lane r w.ty a i))) 0))
    Slabs w.ty → CanRec s t k w.ty [a] named → Keeps (rebuilt s t w.ty [a]).1 w 0 →
    does (.vexp2 w) .exp2 ∧ does (.vlog2 w) .log2 ∧ does (.vrcp w) .rcp ∧ does (.vrsq w) .rsq
    ∧ does (.vtanh w) .tanh ∧ does (.vsigm w) .sigm ∧ does (.vgelu w) .gelu ∧ does (.vsilu w) .silu

/-- The value a table entry of R405 names. -/
def isVal (v : Val × Fl) (n : Bool) (q : ℚ) : Prop := v.2 = {} ∧ rat v.1 = q ∧ v.1.isNeg = n ∧ v.1.isNan = false ∧ ∀ b, v.1 ≠ .inf b

/-- R405: the table of special inputs. -/
def VectorFunctionInputs : Prop :=
  (∀ o sig, fnVal o (.nan sig) = (.nan false, { nv := sig }))
  ∧ fnVal .exp2 (.inf false) = (.inf false, {}) ∧ fnVal .log2 (.inf false) = (.inf false, {})
  ∧ isVal (fnVal .rcp (.inf false)) false 0 ∧ isVal (fnVal .rsq (.inf false)) false 0 ∧ isVal (fnVal .tanh (.inf false)) false 1
  ∧ isVal (fnVal .sigm (.inf false)) false 1 ∧ fnVal .gelu (.inf false) = (.inf false, {})
  ∧ fnVal .silu (.inf false) = (.inf false, {})
  ∧ isVal (fnVal .exp2 (.inf true)) false 0 ∧ fnVal .log2 (.inf true) = (.nan false, { nv := true })
  ∧ isVal (fnVal .rcp (.inf true)) true 0 ∧ fnVal .rsq (.inf true) = (.nan false, { nv := true })
  ∧ isVal (fnVal .tanh (.inf true)) true (-1) ∧ isVal (fnVal .sigm (.inf true)) false 0
  ∧ isVal (fnVal .gelu (.inf true)) true 0 ∧ isVal (fnVal .silu (.inf true)) true 0
  ∧ (∀ n e, isVal (fnVal .exp2 (.fin n 0 e)) false 1 ∧ fnVal .log2 (.fin n 0 e) = (.inf true, { dz := true })
      ∧ fnVal .rcp (.fin n 0 e) = (.inf n, { dz := true }) ∧ fnVal .rsq (.fin n 0 e) = (.inf n, { dz := true })
      ∧ isVal (fnVal .tanh (.fin n 0 e)) n 0 ∧ isVal (fnVal .sigm (.fin n 0 e)) false (1 / 2)
      ∧ isVal (fnVal .gelu (.fin n 0 e)) n 0 ∧ isVal (fnVal .silu (.fin n 0 e)) n 0)
  ∧ ∀ m e, 0 < m → fnVal .log2 (.fin true m e) = (.nan false, { nv := true })
      ∧ fnVal .rsq (.fin true m e) = (.nan false, { nv := true })

/-- R406: `vcvt` converts the elements of its PART; narrowing leaves the other lanes. Model's choices in it: log 56. -/
def VectorConvertWord : Prop :=
  ∀ s t k (w : VWord) (st : Ty),
    let tl := tileOf s t
    let a := w.va.toNat
    let ta := regTag tl a
    let m := min (lanesOf w.ty) (lanesOf st)
    let p := w.vb.toNat
    let hit (i : Nat) : Bool := on tl w i && (st.bytes < w.ty.bytes || (p * m ≤ i && i < p * m + m))
    let c (i : Nat) : Nat × Fl := tyCv w.ty w.rm (slotOf s t k).seed
      (tyVal st (lane tl st a (if st.bytes < w.ty.bytes then p * m + i else i - p * m)))
    Ty.ofCode w.vc.toNat = some st → st ≠ .b64 → w.ty ≠ .b64 → Below s t k ([a] ++ mReg w ++ [w.vd.toNat]) →
    p < max w.ty.bytes st.bytes / min w.ty.bytes st.bytes →
    (ta = 0 ∨ ((tyF w.ty).isSome = true ∧ Slabs st)) →
    (w.me = true ∨ w.ty.bytes < st.bytes → regTag tl w.vd.toNat = ta) →
    Lands (.vcvt w) w.g [] [] s t k ([a] ++ mReg w ++ [w.vd.toNat])
      { tl := setReg tl w.vd.toNat ((List.range (lanesOf w.ty)).flatMap (fun i =>
                bytesLE w.ty.bytes (if hit i then (c i).1 else lane tl w.ty w.vd.toNat i))) ta,
        reads := [a] ++ mReg w, writes := [w.vd.toNat],
        fl := orAll (((List.range (lanesOf w.ty)).filter hit).map (fun i => (c i).2)) }

/-- R408 to R410: selection, broadcast, move, permutation and rotation. -/
def VectorMoveWords : Prop :=
  ∀ s t k (w : VWord),
    let tl := tileOf s t
    let sl := slotOf s t k
    let a := w.va.toNat
    let n := lanesOf w.ty
    let rs := a :: bReg w
    w.ty ≠ .b64 →
    (CanRec s t k w.ty rs (rs ++ [w.vc.toNat] ++ mReg w ++ [w.vd.toNat]) → Keeps (rebuilt s t w.ty rs).1 w 0 →
      let o := recVd s t w rs (fun r i => (if vbit r w.vc.toNat i then lane r w.ty a i else bLane r sl w i, {}))
      Lands (.vsel w) w.g (vSrc w) [] s t k (rs ++ [w.vc.toNat] ++ mReg w ++ [w.vd.toNat])
        { o with reads := rs ++ [w.vc.toNat] ++ mReg w ++ regroup s t w.ty rs })
    ∧ (w.sb = true → Below s t k (mReg w ++ [w.vd.toNat]) → Keeps tl w 0 →
      Lands (.vbcast w) w.g (vSrc w) [] s t k (mReg w ++ [w.vd.toNat]) (onVd tl w [] [] {} 0 (fun _ => (scal sl w, {}))))
    ∧ (Below s t k ([a] ++ mReg w ++ [w.vd.toNat]) → Keeps tl w (regTag tl a) →
      Lands (.vmov w) w.g [] [] s t k ([a] ++ mReg w ++ [w.vd.toNat])
        (onVd tl w [a] [] {} (regTag tl a) (fun i => (lane tl w.ty a i, {}))))
    ∧ (CanRec s t k w.ty rs (rs ++ mReg w ++ [w.vd.toNat]) → Keeps (rebuilt s t w.ty rs).1 w 0 → w.sb = false →
      Lands (.vperm w) w.g (vSrc w) [] s t k (rs ++ mReg w ++ [w.vd.toNat])
        (recVd s t w rs (fun r i => (lane r w.ty a (lane r w.ty w.vb.toNat i % n), {}))))
    ∧ (CanRec s t k w.ty [a] ([a] ++ mReg w ++ [w.vd.toNat]) → Keeps (rebuilt s t w.ty [a]).1 w 0 →
      Lands (.vrot w) w.g (vSrc w) [] s t k ([a] ++ mReg w ++ [w.vd.toNat])
        (recVd s t w [a] (fun r i => (lane r w.ty a ((i + if w.sb then scal sl w else w.vb.toNat) % n), {}))))

/-- The fixed tree: node i of level j (R268). -/
def tree {α : Type} (op : α → α → α) (v : Nat → α) : Nat → Nat → α
  | 0, i => v i
  | j + 1, i => op (tree op v j (2 * i)) (tree op v j (2 * i + 1))

/-- A sum in FP32, rounded RNE, with the conditions of what went in. -/
def plus32 (p q : Val × Fl) : Val × Fl :=
  let r := p.1.add .rne q.1
  let z := FFmt.f32.round .rne 0 r.1
  (FFmt.f32.decode z.1, (p.2.or q.2).or (r.2.or z.2))

/-- The lesser or greater of two values, NaN if one is (R268). -/
def pick (least : Bool) (p q : Val × Fl) : Val × Fl :=
  if p.1.isNan || q.1.isNan then (.nan false, (p.2.or q.2).or { nv := p.1.isSig || q.1.isSig })
  else (if (less p.1 q.1 || (place p.1 = place q.1 && p.1.isNeg)) = least then p.1 else q.1, p.2.or q.2)

/-- A value rounded RNE to a type, with its conditions. -/
def toTy (f : FFmt) (v : Val × Fl) : Nat × Fl := ((f.round .rne 0 v.1).1, v.2.or (f.round .rne 0 v.1).2)

/-- log2 of the segment length (R411). -/
def segLog (w : VWord) : Nat := if w.vc = 0 then Nat.log2 (lanesOf w.ty) else w.vc.toNat

/-- The reduction of segment j: floats by the tree, a disabled lane the identity; integers by `int` (R411). -/
def reduced (w : VWord) (r : Tile) (fop : Val × Fl → Val × Fl → Val × Fl) (fid : Val) (int : List Int → Int) (j : Nat) :
    Nat × Fl :=
  let L := 2 ^ segLog w
  let x := fun i => lane r w.ty w.va.toNat (j * L + i)
  match tyF w.ty with
  | some f => toTy f (tree fop (fun i => (if on r w (j * L + i) then f.decode (x i) else fid, {})) (segLog w) 0)
  | none =>
    ((int (((List.range L).filter (fun i => on r w (j * L + i))).map (fun i => rd w.ty (lw (x i)))) % 2 ^ (8 * w.ty.bytes)).toNat, {})

/-- The scan of lane i of a segment that begins at lane b: the sum of the enabled lanes up to it (R268, R411). -/
def scanned (w : VWord) (r : Tile) (f : FFmt) (b : Nat) : Nat → Val × Fl
  | 0 => (if on r w b then f.decode (lane r w.ty w.va.toNat b) else .fin true 0 0, {})
  | i + 1 =>
    plus32 ((scanned w r f b i).1, {})
      (if on r w (b + (i + 1)) then f.decode (lane r w.ty w.va.toNat (b + (i + 1))) else .fin true 0 0, {})

/-- R268, R411: reductions and scans by segments. -/
def VectorReductionWords : Prop :=
  ∀ s t k (w : VWord),
    let a := w.va.toNat
    let R := rebuilt s t w.ty [a]
    let grp := regroup s t w.ty [a]
    let named := [a] ++ mReg w ++ [w.vd.toNat]
    let L := 2 ^ segLog w
    let red (fop : Val × Fl → Val × Fl → Val × Fl) (fid : Val) (int : List Int → Int) : VOut :=
      let xs := (List.range (lanesOf w.ty / L)).map (reduced w R.1 fop fid int)
      { tl := setReg R.1 w.vd.toNat (let l := xs.flatMap (fun x => bytesLE w.ty.bytes x.1)
              l ++ List.replicate (512 - l.length) 0) 0,
        reads := [a] ++ mReg w ++ grp, writes := [w.vd.toNat] ++ grp, fl := R.2.or (orAll (xs.map (·.2))) }
    arithTy w.ty → w.vc.toNat ≤ Nat.log2 (lanesOf w.ty) → CanRec s t k w.ty [a] named →
    Lands (.vredsum w) w.g [] [] s t k named (red plus32 (.fin true 0 0) List.sum)
    ∧ Lands (.vredmax w) w.g [] [] s t k named (red (pick false) (.inf true)
        (fun l => l.foldl max (if isZ w.ty then 0 else -2 ^ (width w.ty - 1))))
    ∧ Lands (.vredmin w) w.g [] [] s t k named (red (pick true) (.inf false)
        (fun l => l.foldl min (if isZ w.ty then 2 ^ width w.ty - 1 else 2 ^ (width w.ty - 1) - 1)))
    ∧ (Keeps R.1 w 0 → Lands (.vscan w) w.g [] [] s t k named (recVd s t w [a] (fun r i =>
        let b := i / L * L
        match tyF w.ty with
        | some f => toTy f (scanned w r f b (i % L))
        | none => (((((List.range (i % L + 1)).filter (fun j => on r w (b + j))).map
            (fun j => rd w.ty (lw (lane r w.ty a (b + j))))).sum % 2 ^ (8 * w.ty.bytes)).toNat, {}))))

/-- Lane i ranks before lane j: the greater first, −0 below +0, NaN last, ties by the lower lane (R412). -/
def before (t : Ty) (x : Nat → Nat) (i j : Nat) : Bool :=
  match tyF t with
  | some f =>
    let p := f.decode (x i)
    let q := f.decode (x j)
    let gt (p q : Val) : Bool := !p.isNan && (q.isNan || less q p || (place p = place q && !p.isNeg && q.isNeg))
    gt p q || (!gt q p && decide (i ≤ j))
  | none => decide (rd t (lw (x j)) < rd t (lw (x i)) ∨ (x i = x j ∧ i ≤ j))

/-- R412: `vtopk` gives the first k ranks: values in VD, lane numbers in VC. -/
def VectorTopkWord : Prop :=
  ∀ s t k (w : VWord) (rank : List Nat),
    let a := w.va.toNat
    let R := rebuilt s t w.ty [a]
    let grp := regroup s t w.ty [a]
    let named := [a] ++ mReg w ++ [w.vd.toNat, w.vc.toNat]
    let x := lane R.1 w.ty a
    let n := if w.sb then (opVal (slotOf s t k) (vScalar w)).toNat else w.vb.toNat
    let top := rank.take n
    let fill (b : Nat) (l : List Nat) : List Byte :=
      l.flatMap (bytesLE b) ++ List.replicate (512 - b * l.length) 0
    let canon (y : Nat) : Nat := match tyF w.ty with | some f => if (f.decode y).isNan then f.nanBits else y | none => y
    w.ty ∈ [Ty.s32, .z32, .f16, .bf16, .f32] → 1 ≤ n → n ≤ min 64 (lanesOf w.ty) → CanRec s t k w.ty [a] named →
    rank.Perm ((List.range (lanesOf w.ty)).filter (on R.1 w)) → rank.Pairwise (fun i j => before w.ty x i j = true) →
    Lands (.vtopk w) w.g (vSrc w) [] s t k named
      { tl := setReg (setReg R.1 w.vd.toNat (fill w.ty.bytes (top.map (fun i => canon (x i)))) 0) w.vc.toNat
                (fill 4 (top ++ List.replicate (n - top.length) 0xFFFFFFFF)) 0,
        reads := [a] ++ mReg w ++ grp, writes := [w.vd.toNat, w.vc.toNat] ++ grp, fl := R.2 }

/-- The greatest code value of an 8-bit block (R414). -/
def topCode (t : Ty) : Nat := match t with | .e4m3 => 448 | .e5m2 => 57344 | _ => 127

/-- The EXP of an 8-bit block: the smallest whose range holds the greatest magnitude, from 0 to 62 (R414). -/
def blockExp (m : Nat) (xs : List Val) : Nat :=
  if xs.all (fun x => rat x = 0) then 0
  else ((List.range 62).find? (fun (e : Nat) => xs.all (fun x => |rat x| ≤ m * 2 ^ ((e : Int) - 32)))).getD 62

/-- An 8-bit block: scale byte, codes, conditions (R414). -/
def block8 (t : Ty) (rm : Rm) (seed : BitVec 32) (xs : List Val) : Nat × List Nat × Fl :=
  if xs.any (fun x => x.isNan || x = .inf false || x = .inf true) then (0x3F, xs.map (fun _ => 0), { nv := true })
  else
    let m := topCode t
    let e := blockExp m xs
    let cs := xs.map (fun x => if (m : ℚ) < |rat x| / 2 ^ ((e : Int) - 32)
      then ((tyCv t .rne 0 (.fin x.isNeg m 0)).1, ({ sat := true } : Fl)) else tyCv t rm seed (x.scale (32 - (e : Int))))
    (e, cs.map (·.1), orAll (cs.map (·.2)))

/-- R413 to R415, R282: quantisation of VA's blocks into VD and VD + 1, and back. -/
def VectorQuantWords : Prop :=
  ∀ s t k (w : VWord) (st : Ty),
    let a := w.va.toNat
    let d := w.vd.toNat
    let seed := (slotOf s t k).seed
    let B := 16 * 2 ^ (w.vb.toNat % 4)
    let fill (l : List Byte) : List Byte := l ++ List.replicate (512 - l.length) 0
    Ty.ofCode w.vc.toNat = some st →
    (w.ty ∈ [Ty.s8, .e4m3, .e5m2, .q4] → Slabs st → CanRec s t k st [a] [a, d, d + 1] →
      let R := rebuilt s t st [a]
      let x (i : Nat) : Val := tyVal st (lane R.1 st a i)
      let tys := if w.vb.getLsbD 2 then [w.vb.toNat / 8 % 4] else [0, 1, 2, 3]
      let bs := (List.range (lanesOf st / B)).map (fun j =>
        let xs := (List.range B).map (fun i => x (j * B + i))
        if w.ty = .q4 then l4Block tys w.rm seed xs else block8 w.ty w.rm seed xs)
      let codes := bs.flatMap (·.2.1)
      let data : List Byte := if w.ty = .q4 then (List.range (codes.length / 2)).map (fun j =>
          BitVec.ofNat 8 (codes.getD (2 * j) 0 % 16 + 16 * (codes.getD (2 * j + 1) 0 % 16)))
        else codes.map (BitVec.ofNat 8)
      Lands (.vquant w) w.g [] [] s t k [a, d, d + 1]
        { tl := setReg (setReg R.1 d (fill data) 0) (d + 1) (fill (bs.map (fun b => BitVec.ofNat 8 b.1))) 0,
          reads := [a] ++ regroup s t st [a], writes := [d, d + 1] ++ regroup s t st [a],
          fl := R.2.or (orAll (bs.map (·.2.2))) })
    ∧ (Slabs w.ty → st ∈ [Ty.s8, .e4m3, .e5m2, .q4] → Below s t k [a, a + 1, d] → regTag (tileOf s t) a = 0 →
      regTag (tileOf s t) (a + 1) = 0 →
      let tl := tileOf s t
      let scale (i : Nat) : Nat := lane tl .z8 (a + 1) (i / B)
      let v (i : Nat) : Val × Fl :=
        if st = .q4 then (l4Val (scale i) (lane tl .z8 a (i / 2) / 16 ^ (i % 2) % 16), {})
        else if scale i = 0x3F ∨ 64 ≤ scale i then (.nan false, { nv := true })
        else ((tyVal st (lane tl .z8 a i)).scale ((scale i : Int) - 32), {})
      let r (i : Nat) : Nat × Fl := tyCv w.ty w.rm seed (v i).1
      Lands (.vdequant w) w.g [] [] s t k [a, a + 1, d]
        { tl := setReg tl d ((List.range (lanesOf w.ty)).flatMap (fun i => bytesLE w.ty.bytes (r i).1)) 0,
          reads := [a, a + 1], writes := [d],
          fl := orAll ((List.range (lanesOf w.ty)).map (fun i => (v i).2.or (r i).2)) })

/-- The length of a `vld` or `vst` (R416). -/
def runLen (sl : Slot) (w : VWord) : Nat := if w.sb then (opVal sl (vScalar w)).toNat else 512 * (w.vb.toNat + 1)

/-- The registers of a run. -/
def runRegs (w : VWord) (len : Nat) : List Nat := (List.range ((len + 511) / 512)).map (w.vd.toNat + ·)

/-- A tile with bytes put into the registers of a run under the mask: the rest of the last register 0 (R416). -/
def runPut (tl : Tile) (w : VWord) (tag : BitVec 3) (len : Nat) (bs : Nat → Byte) : Tile :=
  (List.range ((len + 511) / 512)).foldl (fun x j => setReg x (w.vd.toNat + j)
    ((List.range 512).map (fun m => if on tl w (m / w.ty.bytes) then (if 512 * j + m < len then bs (512 * j + m) else 0)
      else rd8 tl.vreg (512 * (w.vd.toNat + j) + m))) tag) tl

/-- R416 to R419: `vld`, its port form and `vst`; a length of 0 does nothing. -/
def VectorLoadStoreWords : Prop :=
  ∀ s t k (w : VWord),
    let tl := tileOf s t
    let sl := slotOf s t k
    let len := runLen sl w
    let a := (opVal sl (vAddr w)).toNat
    let regs := runRegs w len
    let named := mReg w ++ regs
    let tagged (tag : BitVec 3) : Prop := w.me = true → ∀ r ∈ regs, regTag tl r = tag
    w.ty ≠ .b64 → len ≤ 131072 →
    (len = 0 → Lands (.vld w) w.g (vAddr w :: vSrc w) [] s t k named { tl := tl }
      ∧ Lands (.vst w) w.g (vAddr w :: vSrc w) [] s t k named { tl := tl })
    ∧ (0 < len → Below s t k named → a + len ≤ (imageOf s t sl.firing.ctx).scratch →
      (tagged 0 → Lands (.vld w) w.g (vAddr w :: vSrc w) [] s t k named
        { tl := runPut tl w 0 len (fun m => rd8 tl.scratch (a + m)), reads := mReg w, writes := regs, sreads := [(a, len)] })
      ∧ Lands (.vst w) w.g (vAddr w :: vSrc w) [] s t k named
        { tl := { tl with scratch := wrBytes tl.scratch a ((List.range len).map (fun m =>
                    if on tl w (m % 512 / w.ty.bytes) then rd8 tl.vreg (512 * w.vd.toNat + m) else rd8 tl.scratch (a + m))) },
          reads := named, swrites := [(a, len)] })
    ∧ (∀ tok img tag, 8 ≤ w.va.toNat → afind sl.firing.ops (w.va.toNat - 8) = some tok → payloadImage tok = some (img, tag) →
      (len = 0 → Lands (.vldPort w) w.g (vSrc w) [] s t k named { tl := tl })
      ∧ (0 < len → Below s t k named → tagged tag → Lands (.vldPort w) w.g (vSrc w) [] s t k named
          { tl := runPut tl w tag len (fun m => img.getD m 0), reads := mReg w, writes := regs }))

/-- R418: `vldx` and `vstx` move each enabled lane at a + its index, the higher lane's store standing. -/
def VectorIndexedWords : Prop :=
  ∀ s t k (w : VWord),
    let tl := tileOf s t
    let sl := slotOf s t k
    let b := w.ty.bytes
    let ix := (List.range ((lanesOf w.ty + 127) / 128)).map (w.vb.toNat + ·)
    let addr (i : Nat) : Nat := ((opVal sl (vAddr w)).toNat + lane tl .z32 (w.vb.toNat + i / 128) (i % 128)) % 2 ^ 64
    let act := (List.range (lanesOf w.ty)).filter (on tl w)
    let named := ix ++ mReg w ++ [w.vd.toNat]
    w.ty ≠ .b64 → Below s t k named → (∀ i ∈ act, addr i % b = 0 ∧ addr i + b ≤ (imageOf s t sl.firing.ctx).scratch) →
    (∀ r ∈ ix, regTag tl r = 0) →
    (Keeps tl w 0 → Lands (.vldx w) w.g [vAddr w] [] s t k named
      { onVd tl w ix [] {} 0 (fun i => (leNat (rdBytes tl.scratch (addr i) b), {})) with
        sreads := act.map (fun i => (addr i, b)) })
    ∧ Lands (.vstx w) w.g [vAddr w] [] s t k named
      { tl := { tl with scratch := act.foldl (fun m i => wrBytes m (addr i) (bytesLE b (lane tl w.ty w.vd.toNat i))) tl.scratch },
        reads := ix ++ mReg w ++ [w.vd.toNat], swrites := act.map (fun i => (addr i, b)) }

/-- R399: the first failing check ends the codelet: registers above VREGS, then tags. -/
def VectorFaults : Prop :=
  ∀ s t k (w : VWord),
    let tl := tileOf s t
    let rs := w.va.toNat :: bReg w
    let named := rs ++ mReg w ++ [w.vd.toNat]
    let ta := regTag tl w.va.toNat
    let tb := bTag tl w
    Runs s t k w.g (vSrc w) [] → Unheld s t k { regs := named } →
    (¬ Below s t k named → ∀ i ∈ [Instr.vadd w, .vsub w, .vmul w, .vand w, .vor w, .vxor w, .vshl w, .vshr w, .vsar w],
      FaultsWith i s t k cPartition)
    ∧ (Below s t k named → ta ≠ tb → FaultsWith (.vadd w) s t k cDomain ∧ FaultsWith (.vsub w) s t k cDomain)
    ∧ (Below s t k named → ta ≠ 0 → tb ≠ 0 → FaultsWith (.vmul w) s t k cDomain)
    ∧ (Below s t k named → ta ≠ 0 ∨ tb ≠ 0 → ∀ i ∈ [Instr.vand w, .vor w, .vxor w, .vshl w, .vshr w, .vsar w],
      FaultsWith i s t k cDomain)
    ∧ (Runs s t k w.g (vAddr w :: vSrc w) [] → w.sb = true → 131072 < (opVal (slotOf s t k) (vScalar w)).toNat →
      Unheld s t k { regs := mReg w ++ runRegs w (runLen (slotOf s t k) w) } →
      FaultsWith (.vld w) s t k cIllegal ∧ FaultsWith (.vst w) s t k cIllegal)


/-! ## Wavelet words (R270, R281, R420 to R427) -/

/-- Element e of the slab in a group, row-major, as FP32 bits (R281, R420). -/
def elem (tl : Tile) (t : Ty) (base e : Nat) : Nat :=
  (FFmt.f32.round .rne 0 (tyVal t (lane tl t (base + e / lanesOf t) (e % lanesOf t)))).1

/-- The slab of a group. -/
def slab (tl : Tile) (t : Ty) (base : Nat) : List Nat := (List.range 4096).map (elem tl t base)

/-- A group written with element codes and a tag (R281). -/
def putSlab (tl : Tile) (t : Ty) (base : Nat) (tag : BitVec 3) (c : Nat → Nat) : Tile :=
  (List.range (8 * t.bytes)).foldl (fun x k => setReg x (base + k)
    ((List.range (lanesOf t)).flatMap (fun i => bytesLE t.bytes (c (lanesOf t * k + i)))) tag) tl

/-- An FP32 result rounded RNE once to the type (R420). -/
def fromF32 (t : Ty) (x : Nat) : Nat × Fl := if t = .f32 then (x, {}) else tyCv t .rne 0 (FFmt.f32.decode x)

/-- What a word on groups does: VD's group written, VA's read. -/
def onGroup (tl : Tile) (w : VWord) (fl : Fl) (tag : BitVec 3) (c : Nat → Nat × Fl) : VOut :=
  { tl := putSlab tl w.ty w.vd.toNat tag (fun e => (c e).1), reads := members w.ty w.va.toNat,
    writes := members w.ty w.vd.toNat, fl := fl.or (orAll ((List.range 4096).map (fun e => (c e).2))) }

/-- Level c of the forward transform of R270: averages of averages. -/
def fwdAt (x : Nat → Nat) : Nat → Nat → Nat
  | 0, i => x i
  | l + 1, i =>
    (FFmt.f32.round .rne 0 (((FFmt.f32.decode (fwdAt x l (2 * i))).add .rne (FFmt.f32.decode (fwdAt x l (2 * i + 1)))).1.scale (-1))).1

/-- The inverse of R270 after l levels. -/
def invAt (out : Nat → Nat) : Nat → Nat → Nat
  | 0, _ => out 0
  | l + 1, i =>
    let c := FFmt.f32.decode (invAt out l (i / 2))
    let d := FFmt.f32.decode (out (2 ^ l + i / 2))
    (FFmt.f32.round .rne 0 (c.add .rne (if i % 2 = 0 then d else d.neg)).1).1

/-- R270: the transform of 64 elements and its inverse, entry by entry. -/
def HaarLines : Prop :=
  ∀ c : List Nat, c.length = 64 →
    let x := fun i => c.getD i 0
    (fwd64 c).1.length = 64 ∧ (fwd64 c).1.getD 0 0 = fwdAt x 6 0
    ∧ (∀ l < 6, ∀ i < 32 / 2 ^ l, (fwd64 c).1.getD (32 / 2 ^ l + i) 0 =
        (FFmt.f32.round .rne 0 (((FFmt.f32.decode (fwdAt x l (2 * i))).add .rne
          (FFmt.f32.decode (fwdAt x l (2 * i + 1))).neg).1.scale (-1))).1)
    ∧ (inv64 c).1 = (List.range 64).map (invAt x 6)

/-- R272: a slab is transformed along axis 0, then axis 1, and back in the opposite order, line by line. -/
def HaarSlabs : Prop :=
  ∀ (c : List Nat) (h : BitVec 3), c.length = 4096 →
    let col (x : List Nat) (j : Nat) : List Nat := (List.range 64).map (fun i => x.getD (64 * i + j) 0)
    let row (x : List Nat) (i : Nat) : List Nat := (List.range 64).map (fun j => x.getD (64 * i + j) 0)
    let a := (slabFwd (h &&& 1) c).1
    let b := (slabInv (h &&& 2) c).1
    (∀ i < 64, ∀ j < 64, a.getD (64 * i + j) 0 = if h.getLsbD 0 then (fwd64 (col c j)).1.getD i 0 else c.getD (64 * i + j) 0)
    ∧ (∀ i < 64, ∀ j < 64, (slabFwd h c).1.getD (64 * i + j) 0 = if h.getLsbD 1 then (fwd64 (row a i)).1.getD j 0
        else a.getD (64 * i + j) 0)
    ∧ (∀ i < 64, ∀ j < 64, b.getD (64 * i + j) 0 = if h.getLsbD 1 then (inv64 (row c i)).1.getD j 0 else c.getD (64 * i + j) 0)
    ∧ (∀ i < 64, ∀ j < 64, (slabInv h c).1.getD (64 * i + j) 0 = if h.getLsbD 0 then (inv64 (col b j)).1.getD i 0
        else b.getD (64 * i + j) 0)

/-- The threshold register of coefficient (i, j) (R271, R274, R423). -/
def thOf (h : BitVec 3) (i j : Nat) : Nat :=
  let lev (i : Nat) : Nat := if i = 0 then 7 else 6 - Nat.log2 i
  if h.getLsbD 0 && h.getLsbD 1 then min (lev i) (lev j) - 1 else if h.getLsbD 0 then lev i - 1
  else if h.getLsbD 1 then lev j - 1 else 7

/-- The groups of VA and VD lie below VREGS and VA's registers carry one tag (R399, R420). -/
def GroupOk (s : State) (t : Nat) (k : Fin 4) (w : VWord) (more : List Nat) : Prop :=
  Below s t k (members w.ty w.va.toNat ++ members w.ty w.vd.toNat ++ more)
    ∧ ∀ r ∈ members w.ty w.va.toNat, regTag (tileOf s t) r = regTag (tileOf s t) w.va.toNat

/-- R281, R420 to R423, R425: the words on slab groups. Model's choices in it: log 24, 29. -/
def WaveletGroupWords : Prop :=
  ∀ s t k (w : VWord),
    let tl := tileOf s t
    let a := w.va.toNat
    let tag := regTag tl a
    let x := slab tl w.ty a
    let code (e : Nat) : Nat := lane tl w.ty (a + e / lanesOf w.ty) (e % lanesOf w.ty)
    let named := members w.ty a ++ members w.ty w.vd.toNat
    let axes := w.vb.setWidth 3
    let cop := opCode (w.vc.toNat % 32)
    Slabs w.ty →
    (GroupOk s t k w [] →
      (tag &&& axes = 0 → (tag.getLsbD 1 = false ∨ axes.getLsbD 0 = false) →
        Lands (.hfwd w) w.g [] [] s t k named
          (onGroup tl w (slabFwd axes x).2 (tag ||| axes) (fun e => fromF32 w.ty ((slabFwd axes x).1.getD e 0))))
      ∧ Lands (.hinv w) w.g [] [] s t k named
          (onGroup tl w (if tag = 0 then {} else (slabInv tag x).2) 0
            (fun e => if tag = 0 then (code e, {}) else fromF32 w.ty ((slabInv tag x).1.getD e 0)))
      ∧ (let keep (e : Nat) : Bool := survives (x.getD e 0) (tl.th.toList.getD (thOf tag (e / 64) (e % 64)) 0).toNat
         Lands (.hthr w) w.g [] [cop] s t k named
          { onGroup tl w {} tag (fun e => (if keep e then code e else 0, {})) with
            out := some (cop, BitVec.ofNat 64 ((List.range 4096).countP keep)), treads := List.range 8 }))
    ∧ (GroupOk s t k w (bReg w) → (∀ r ∈ bReg w, regTag tl r = 0) →
        let b := (List.range 64).map (fun j => (FFmt.f32.round .rne 0 (tyVal w.ty (bLane tl (slotOf s t k) w j))).1)
        let b' := if tag.getLsbD 1 then fwd64 b else (b, {})
        let sum (e : Nat) : Nat × Fl :=
          let r := (FFmt.f32.decode (x.getD e 0)).add .rne (FFmt.f32.decode (b'.1.getD (e % 64) 0))
          ((tyCv w.ty .rne 0 r.1).1, r.2.or (tyCv w.ty .rne 0 r.1).2)
        Lands (.hbias w) w.g (vSrc w) [] s t k (bReg w ++ named)
          { onGroup tl w b'.2 tag (fun e => if tag.getLsbD 0 && decide (64 ≤ e) then (code e, {}) else sum e) with
            reads := bReg w ++ members w.ty a })

/-- R274: a coefficient survives when it is a NaN or its magnitude exceeds the threshold. -/
def Survival : Prop :=
  ∀ c t : Nat, c < 2 ^ 32 → t ≤ 0x7F800000 →
    (survives c t = true ↔ (FFmt.f32.decode c).isNan = true ∨ less (FFmt.f32.decode t) (FFmt.f32.decode c).abs = true)

/-- R424, R426, R427, R273: `hexp`, `dtag`, `dtget`, `thset`. -/
def WaveletTagWords : Prop :=
  ∀ s t k (w : VWord),
    let tl := tileOf s t
    let sl := slotOf s t k
    let a := w.va.toNat
    let b := w.ty.bytes
    let kept (e : Nat) : Bool := vbit tl a e
    let run := (List.range (1 + ((List.range 4096).countP kept * b + 511) / 512)).map (a + ·)
    let dt := if w.ty = .b64 then [w.vd.toNat] else members w.ty w.vd.toNat
    let d := opCode (w.vd.toNat % 32)
    (Slabs w.ty → Below s t k (run ++ members w.ty w.vd.toNat) → (∀ r ∈ run, regTag tl r = 0) →
      Lands (.hexp w) w.g [] [] s t k (a :: members w.ty w.vd.toNat)
        { tl := putSlab tl w.ty w.vd.toNat (w.vb.setWidth 3) (fun e =>
            if kept e then leNat (rdBytes tl.vreg (512 * (a + 1) + (List.range e).countP kept * b) b) else 0),
          reads := run, writes := members w.ty w.vd.toNat })
    ∧ (w.ty = .b64 ∨ Slabs w.ty → Below s t k dt →
      Lands (.dtag w) w.g [] [] s t k dt
        { tl := { tl with vtag := dt.foldl (fun m r => asetd m r (w.vb.setWidth 3) 0) tl.vtag }, writes := dt })
    ∧ (Below s t k [a] → Lands (.dtget w) w.g [] [d] s t k [a] { tl := tl, reads := [a], out := some (d, (regTag tl a).setWidth 64) })
    ∧ (Slabs w.ty → w.vd.toNat < 8 →
      let x := (FFmt.f32.round .rne 0 (tyVal w.ty (scal sl w))).1
      (x = 0x80000000 ∨ x ≤ 0x7F800000 → Lands (.thset w) w.g [vScalar w] [] s t k []
        { tl := { tl with th := tl.th.set (w.vd.extractLsb' 0 3).toFin (if x = 0x80000000 then 0 else BitVec.ofNat 32 x) },
          twrites := [w.vd.toNat] })
      ∧ (¬ (x = 0x80000000 ∨ x ≤ 0x7F800000) → Runs s t k w.g [vScalar w] [] → Unheld s t k { regs := [] } →
          FaultsWith (.thset w) s t k cThreshold))


/-! ## Matrix engine (R265 to R267, R428 to R446) -/

/-- A matrix word is accepted with plan `p`: what it names and touches is settled, the queue has room, tracking records its
accesses; the instruction joins the queue and its slot's outstanding ones, and the codelet goes on (R432). -/
def Accepts (i : Instr) (g : Guard) (srcs : List SOp) (s : State) (t : Nat) (k : Fin 4) (named : Foot) (x : Word) (p : MatPlan)
    (exts : List (Range × Nat × Nat)) : Prop :=
  let sl := slotOf s t k
  ∀ s1 f n, Runs s t k g srcs [] → Unheld s t k named → Unheld s t k p.foot → (tileOf s t).mat.length < 8 →
    queueMat s t sl.firing (some k.val) sl.seed i x p exts = .ok (s1, f, n) →
    Goes i s t k (modSlot s1 t k (fun y => { y with firing := f, mats := y.mats ++ [n] }))

/-- R432, R429: in a launch that is not deterministic an accepted instruction without weights in memory is put last in the
queue with the record, operand value and SEED copy of its issue, under a new number. Model's choices in it: log 25, 55. -/
def MatrixQueue : Prop :=
  ∀ s t f slot seed i x p, NotDet s t →
    queueMat s t f slot seed i x p [] =
      .ok (modTile (wakeUnit { s with nextId := s.nextId + 1 } t .matrixEngine) t (fun y => { y with
            mat := y.mat ++ [{ id := s.nextId, instr := i, xval := x, seed := seed, slot := slot, firing := f, shape := p.shape,
                               foot := p.foot, rtag := p.rtag, dst := p.dst, blocks := p.blocks }],
            burst := (y.burst.1, cycNow s (dieOf t) 0) }), f, s.nextId)

/-- What a word that moves slab AD touches, reads and writes (R441 to R444, R448). -/
def slabPlan (w : SWord) (fo : Foot) (tag : BitVec 3) : MatPlan :=
  { foot := { fo with slabs := [w.ad.toNat] }, writes := { slabs := [w.ad.toNat] }, rtag := tag, dst := some w.ad.toNat }

/-- R432, R434, R441 to R444: `macz`, `macld`, `macst` and `mtr` are accepted when their registers lie below VREGS, their
scratchpad bytes below SCRATCH and their source registers carry one tag. -/
def MatrixMoveWords : Prop :=
  ∀ s t k (w : SWord),
    let im := imageOf s t (slotOf s t k).firing.ctx
    let tl := tileOf s t
    let a := members w.ty w.oa.toNat
    let b := members w.ty w.ob.toNat
    let x := opVal (slotOf s t k) w.x
    let e : List (Nat × Nat) := [(x.toNat, 4096 * w.ty.bytes)]
    Accepts (.macz w) w.g [] s t k { slabs := [w.ad.toNat] } 0 (slabPlan w {} 0) []
    ∧ (w.ty ≠ .q4 → (∀ r ∈ a, r < im.vregs) → (∀ r ∈ a, regTag tl r = regTag tl w.oa.toNat) →
        Accepts (.macld w) w.g [] s t k { regs := a, slabs := [w.ad.toNat] } 0
          (slabPlan w { regs := a } (regTag tl w.oa.toNat)) [])
    ∧ (x.toNat + 4096 * w.ty.bytes ≤ im.scratch →
        Accepts (.macldSpad w) w.g [w.x] s t k {} x (slabPlan w { spad := e } ((w.tb.extractLsb' 0 2).setWidth 3)) []
        ∧ Accepts (.macstSpad w) w.g [w.x] s t k {} x
            { foot := { spad := e, slabs := [w.ad.toNat] }, reads := { slabs := [w.ad.toNat] }, writes := { spad := e } } [])
    ∧ ((∀ r ∈ a, r < im.vregs) →
        Accepts (.macst w) w.g [] s t k {} 0
          { foot := { regs := a, slabs := [w.ad.toNat] }, reads := { slabs := [w.ad.toNat] }, writes := { regs := a } } [])
    ∧ ((∀ r ∈ b ++ a, r < im.vregs) → w.ty ≠ .q4 → (∀ r ∈ b, regTag tl r = regTag tl w.ob.toNat) →
        Accepts (.mtr w) w.g [] s t k { regs := b ++ a } 0
          { foot := { regs := b ++ a }, reads := { regs := b }, writes := { regs := a }, rtag := swapH (regTag tl w.ob.toNat) } [])

/-- R284, R431: the result tag of an A image tag and a B image tag, where the shape allows them. -/
def tagOf (a b : BitVec 3) : BitVec 3 := (if a.getLsbD 0 then 1 else 0) ||| (if b.getLsbD 0 then 2 else 0)

/-- The tags of the operands may be multiplied (R284, R431). -/
def TagsFit (a b : BitVec 3) (m n : Nat) : Prop :=
  a.getLsbD 1 = false ∧ b.getLsbD 1 = false ∧ (a.getLsbD 0 = true → m = 64) ∧ (b.getLsbD 0 = true → n = 64)

/-- R434, R436: `mma` is accepted when its record is valid, its strides hold its rows, its images lie in range, its tags fit
and its slab carries the result tag or is zeroed first. Model's choices in it: log 25, 55. -/
def MatrixMultiplyWord : Prop :=
  ∀ s t k (w : SWord) b ta tb,
    let sl := slotOf s t k
    let tl := tileOf s t
    let e := matEnv s t sl.firing.ctx
    let r := shapeOf b
    let oa := (mmaOpnds w r).1
    let ob := (mmaOpnds w r).2
    let fa := oa.foot tl w.oa.toNat
    let fb := ob.foot tl w.ob.toNat
    let x := if w.dec then opVal sl w.x else 0
    shapeAt tl w.shr.toNat = some b → x.extractLsb' 32 32 = 0 →
    (oa.cmp = true ∨ oa.rowSize ≤ oa.rowb) → (ob.cmp = true ∨ ob.rowSize ≤ ob.rowb) →
    oa.inRange tl e.vregs e.scratch = true → ob.inRange tl e.vregs e.scratch = true →
    opTag oa tl r.af fa = .ok ta → opTag ob tl r.bf fb = .ok tb → TagsFit ta tb r.m r.n →
    (w.z = true ∨ slabTagDue tl w.ad.toNat = tagOf ta tb) →
    Accepts (.mma w) w.g (if w.dec then [w.x] else []) s t k (mmaNamed w e sl) x
      { foot := (fa.join fb).join { slabs := [w.ad.toNat], recs := [w.shr.toNat] }, writes := { slabs := [w.ad.toNat] },
        rtag := tagOf ta tb, dst := some w.ad.toNat, shape := b } []

/-- R439, R440: `mmag` and `mmas` are accepted when their checks give a plan. Model's choices in it: log 25, 55. -/
def MatrixSparseWords : Prop :=
  ∀ s t k (w : SWord) p,
    let sl := slotOf s t k
    let e := matEnv s t sl.firing.ctx
    let x := if w.dec then opVal sl w.x else 0
    (mmasPlan e w x = .ok p →
      Accepts (.mmas w) w.g (if w.dec then [w.x] else []) s t k (mmasNamed w e sl) x p [])
    ∧ ∀ exts, magPlan w s t sl = .ok (p, exts) →
      Accepts (.mmag w) w.g [w.x] s t k (magNamed w e sl) (opVal sl w.x) p exts

/-- R434: issue checks that fail end the codelet: an invalid record, a stride below the row, registers past VREGS, tags that
differ. -/
def MatrixFaults : Prop :=
  ∀ s t k (w : SWord),
    let sl := slotOf s t k
    let tl := tileOf s t
    let im := imageOf s t sl.firing.ctx
    Runs s t k w.g [] [] → w.dec = false →
    (shapeAt tl w.shr.toNat = none → Unheld s t k { slabs := [w.ad.toNat], recs := [w.shr.toNat] } →
      FaultsWith (.mma w) s t k cIllegal ∧ FaultsWith (.mmas w) s t k cIllegal)
    ∧ ((∃ r ∈ members w.ty w.oa.toNat, im.vregs ≤ r) →
        Unheld s t k { regs := members w.ty w.oa.toNat, slabs := [w.ad.toNat] } → FaultsWith (.macld w) s t k cPartition)
    ∧ ((∃ r ∈ members w.ty w.oa.toNat, im.vregs ≤ r) → Unheld s t k {} → FaultsWith (.macst w) s t k cPartition)
    ∧ ((∀ r ∈ members w.ty w.oa.toNat, r < im.vregs) → (∃ r ∈ members w.ty w.oa.toNat, regTag tl r ≠ regTag tl w.oa.toNat) →
        Unheld s t k { regs := members w.ty w.oa.toNat, slabs := [w.ad.toNat] } → w.ty ≠ .q4 →
        FaultsWith (.macld w) s t k cDomain)

/-- R445, R435, R438, R446: `mwait` waits for the slot's instructions, or for those that write AD, drains the held slab and
delivers a fault; `mburst`, `srld` and `srfence` complete as they say. Model's choices in it: log 12. -/
def MatrixControlWords : Prop :=
  ∀ s t k (w : SWord),
    let sl := slotOf s t k
    let tl := tileOf s t
    let all := w.oa = 0
    let mine (m : MatOp) : Prop := m.id ∈ sl.mats ∧ (all ∨ m.dst = some w.ad.toNat)
    let a := (opVal sl w.x).toNat
    let rec_ := rdBytes tl.scratch a 192
    let drained := modTile s t (fun y => { y with heldSlab := if all ∨ y.heldSlab = some w.ad.toNat then none else y.heldSlab })
    (Runs s t k w.g [] [] → (∃ m ∈ tl.mat, mine m) → Waits (.mwait w) s t k)
    ∧ (Runs s t k w.g [] [] → (∀ m ∈ tl.mat, ¬ mine m) → (∀ p ∈ sl.mfault, w.oa ≠ 0 ∧ p.1.slabs.contains w.ad.toNat = false) →
        Goes (.mwait w) s t k drained)
    ∧ (∀ p rest, Runs s t k w.g [] [] → (∀ m ∈ tl.mat, ¬ mine m) → sl.mfault = p :: rest → w.oa = 0 →
        exec (.mwait w) s = .next (faultCodelet (setSlot drained t k { sl with mfault := sl.mfault.filter (· ≠ p) }) t k p.2))
    ∧ (Runs s t k w.g [w.x] [] → a ≤ 65535 → Goes (.mburst w) s t k
        (modTile (if a = 0 then s else wakeUnit s t .matrixEngine) t (fun y => { y with burst := (a, cycNow s (dieOf t) 0) })))
    ∧ (Runs s t k w.g [w.x] [] → 65535 < a → FaultsWith (.mburst w) s t k cIllegal)
    ∧ (Runs s t k w.g [] [] → Goes (.srfence w) s t k s)
    ∧ (Runs s t k w.g [w.x] [] → a % 16 = 0 → a + 192 ≤ (imageOf s t sl.firing.ctx).scratch →
        Unheld s t k { spad := [(a, 192)], recs := [w.shr.toNat] } → Sound s t → NotDet s t →
        let s' := modTile s t (fun y => { y with shapes := aput y.shapes w.shr.toNat { valid := shapeOk rec_, bytes := rec_ } })
        (shapeOk rec_ = true → Goes (.srld w) s t k s')
        ∧ (shapeOk rec_ = false → exec (.srld w) s = .next (faultCodelet s' t k (slotPoison s t k cIllegal))))
    ∧ (Runs s t k w.g [w.x] [] → a % 16 ≠ 0 → FaultsWith (.srld w) s t k cIllegal)
    ∧ (Runs s t k w.g [w.x] [] → a % 16 = 0 → (imageOf s t sl.firing.ctx).scratch < a + 192 → FaultsWith (.srld w) s t k cPartition)

/-- R428: when a shape record is well-formed, field by field. Model's choices in it: log 12. -/
def ShapeRecords : Prop :=
  ∀ b : List Byte, b.length = 192 →
    let n (o l : Nat) : Nat := leNat ((b.drop o).take l)
    let flags (f rowb rows : Nat) : Prop :=
      f < 64 ∧ rowb % 16 = 0 ∧ (f % 2 = 0 → f / 2 % 8 = 0) ∧ (f / 2 % 2 = 1 → n 4 4 = 64 ∧ rows = 64 ∧ rowb = 0)
    (shapeOk b = true ↔
      (1 ≤ n 0 2 ∧ n 0 2 ≤ 64) ∧ (1 ≤ n 2 2 ∧ n 2 2 ≤ 64) ∧ (8 ≤ n 4 4 ∧ n 4 4 ≤ 16384 ∧ n 4 4 % 8 = 0)
      ∧ flags (n 8 1) (n 16 4) (n 0 2) ∧ flags (n 9 1) (n 24 4) (n 2 2) ∧ n 28 4 % 16 = 0
      ∧ (∀ i < 192, i = 10 ∨ i = 11 ∨ 32 ≤ i → b.getD i 0 = 0))

/-- Elements of a step (R265, R266). -/
def stepLen (a b : Ty) : Nat :=
  if a = .f16 ∨ a = .bf16 ∨ b = .f16 ∨ b = .bf16 then 1 else if a = .q4 ∧ b = .q4 then 8 else 2

/-- The exact sum of an accumulator and the products of elements a to a + n − 1. -/
def macc (x : Nat → Val × Val) (acc : Val) : Nat → Nat → Val
  | _, 0 => acc
  | a, n + 1 => macc x (acc.add .rne ((x a).1.mul (x a).2).1).1 (a + 1) n

/-- The accumulator after some steps of g elements, rounded RNE in FP32 once a step (R265 to R267). -/
def accumulated (x : Nat → Val × Val) (g : Nat) (acc : Nat) : Nat → Nat
  | 0 => acc
  | j + 1 => (FFmt.f32.round .rne 0 (macc x (FFmt.f32.decode (accumulated x g acc j)) (j * g) g)).1

/-- What a slab element is before the steps: zeroed, or decayed, or as it stands (R436). -/
def begun (tl : Tile) (w : SWord) (x : Word) (e : Nat) : Nat :=
  let old := if w.z then 0 else (aget tl.slab (w.ad.toNat * 4096 + e) 0).toNat
  if w.dec then (FFmt.f32.round .rne 0 ((FFmt.f32.decode old).mul (FFmt.f32.decode (x.toNat % 2 ^ 32))).1).1 else old

/-- Element k of row r of an operand image (R430, R252, R277). -/
def opElem (o : Opnd) (tl : Tile) (r k : Nat) : Val :=
  let pool := if o.spad then tl.scratch else tl.vreg
  if o.cmp then match o.fmt with
    | .ty t =>
      let e := 64 * r + k
      let bm (i : Nat) : Bool := (rd8 pool (o.start + i / 8)).getLsbD (i % 8)
      tyVal t (if bm e then leNat (rdBytes pool (o.start + 512 + (List.range e).countP bm * t.bytes) t.bytes) else 0)
    | _ => .nan false
  else
    let a := o.start + r * o.rowb
    match o.fmt with
    | .ty t => tyVal t (leNat (rdBytes pool (a + k * t.bytes) t.bytes))
    | .l4 n => l4Val (rd8 pool (a + o.depth / 2 + k / n)).toNat ((rd8 pool (a + k / 2)).toNat / 16 ^ (k % 2) % 16)
    | .mx => .nan false

/-- The outcome of an instruction on slab AD: done without a fault, the state beside the tile is `s'`, element e holds `v e`, the slab
carries `tag`, other slabs, registers and scratchpad are as before. -/
def SlabBecomes (s s' : State) (t : Nat) (m : MatOp) (ad : Nat) (tag : BitVec 3) (v : Nat → Nat) : Prop :=
  let tl := tileOf s t
  ∃ tl' fl, doMat s t m = .done s' tl' fl none
    ∧ (∀ e < 4096, aget tl'.slab (ad * 4096 + e) 0 = BitVec.ofNat 32 (v e))
    ∧ (∀ i, i / 4096 ≠ ad → aget tl'.slab i 0 = aget tl.slab i 0)
    ∧ aget tl'.stag ad 0 = tag ∧ (∀ n, n ≠ ad → aget tl'.stag n 0 = aget tl.stag n 0)
    ∧ tl'.vreg = tl.vreg ∧ tl'.vtag = tl.vtag ∧ tl'.scratch = tl.scratch

/-- R430, R436, R265 to R267: `mma` leaves in element (m, n) the steps over its rows of A and B; elements outside M × N keep
their values, or are +0 after Z. -/
def MatrixProducts : Prop :=
  ∀ s t (m : MatOp) (w : SWord),
    let tl := tileOf s t
    let r := shapeOf m.shape
    let oa := (mmaOpnds w r).1
    let ob := (mmaOpnds w r).2
    let g := stepLen w.ty (tbTy w)
    m.instr = .mma w → Sound s t → shapeOk m.shape = true → matTy w.ty = true → matTy (tbTy w) = true →
    (oa.cmp = true → w.ty ≠ .q4) → (ob.cmp = true → tbTy w ≠ .q4) →
    SlabBecomes s s t m w.ad.toNat m.rtag (fun e =>
      if e / 64 < r.m ∧ e % 64 < r.n then
        accumulated (fun k => (opElem oa tl (e / 64) k, opElem ob tl (e % 64) k)) g (begun tl w m.xval e) (r.k / g)
      else if w.z then 0 else (aget tl.slab (w.ad.toNat * 4096 + e) 0).toNat)

/-- R440: `mmas` accumulates over the depths both bitmaps hold, in pairs of that list. -/
def MatrixIntersections : Prop :=
  ∀ s t (m : MatOp) (w : SWord),
    let tl := tileOf s t
    let r := shapeOf m.shape
    let oa := (mmaOpnds w r).1
    let ob := (mmaOpnds w r).2
    let g := stepLen w.ty (tbTy w)
    let has (o : Opnd) (k : Nat) : Bool := (rd8 (if o.spad then tl.scratch else tl.vreg) (o.start + k / 8)).getLsbD (k % 8)
    let L := (List.range r.k).filter (fun k => has oa k && has ob k)
    let rows (o : Opnd) : Opnd :=
      { o with start := o.start + (r.k / 8 + 15) / 16 * 16, depth := (List.range r.k).countP (has o) }
    let at_ (o : Opnd) (row k : Nat) : Val := opElem (rows o) tl row ((List.range k).countP (has o))
    let x (e j : Nat) : Val × Val := match L[j]? with
      | some k => (at_ oa (e / 64) k, at_ ob (e % 64) k)
      | none => (.fin false 0 0, .fin false 0 0)
    let whole (e : Nat) : Nat := accumulated (x e) g (begun tl w m.xval e) (L.length / g)
    m.instr = .mmas w → Sound s t → shapeOk m.shape = true → oa.cmp = false → ob.cmp = false →
    w.ty ∈ [Ty.s8, .f16, .bf16, .e4m3, .e5m2] → tbTy w ∈ [Ty.s8, .f16, .bf16, .e4m3, .e5m2] →
    SlabBecomes s s t m w.ad.toNat m.rtag (fun e =>
      if e / 64 < r.m ∧ e % 64 < r.n then
        if L.length % g = 0 then whole e
        else (FFmt.f32.round .rne 0 (macc (x e) (FFmt.f32.decode (whole e)) (L.length - 1) 1)).1
      else if w.z then 0 else (aget tl.slab (w.ad.toNat * 4096 + e) 0).toNat)

/-- R439: `mmag` applies to each block of 8 rows its own adapter, whose weights lie in the scratchpad at the place the plan
latched: the down matrix over columns below its rank, the up matrix over columns below N. Model's choices in it: log 55. -/
def MatrixAdapters : Prop :=
  ∀ s t (m : MatOp) (w : SWord) (at_ rank : Nat → Nat),
    let tl := tileOf s t
    let r := shapeOf m.shape
    let up := m.xval.getLsbD 0
    let g := stepLen w.ty (tbTy w)
    let depth (j : Nat) : Nat := if up then rank j else r.k
    let cols (j : Nat) : Nat := if up then r.n else rank j
    let a (j : Nat) : Opnd := let o := mkOpnd w.ty r.af r.aoff r.arowb r.m r.k w.oa.toNat
      if up && !o.cmp then { o with depth := rank j } else o
    let b (j : Nat) : Opnd := { spad := true, cmp := false, start := at_ j, rowb := if up then r.urowb else r.browb, rows := cols j,
                                depth := depth j, fmt := matFmt (tbTy w) r.bf }
    m.instr = .mmag w → Sound s t → shapeOk m.shape = true → matTy w.ty = true → matTy (tbTy w) = true → w.dec = false →
    ((a 0).cmp = true → w.ty ≠ .q4) → m.blocks = (List.range (r.m / 8)).map (fun j => (.spad (at_ j), rank j)) → r.m % 8 = 0 →
    (∀ j < r.m / 8, rank j ∈ [8, 16, 24, 32, 40, 48, 56, 64]) →
    SlabBecomes s (asAsker s m.id) t m w.ad.toNat m.rtag (fun e =>
      let j := e / 64 / 8
      if e / 64 < r.m ∧ e % 64 < cols j then
        accumulated (fun k => (opElem (a j) tl (e / 64) k, opElem (b j) tl (e % 64) k)) g (begun tl w m.xval e) (depth j / g)
      else if w.z then 0 else (aget tl.slab (w.ad.toNat * 4096 + e) 0).toNat)

/-- R441 to R444: what `macz`, `macld`, `macst` and `mtr` leave. -/
def MatrixMoves : Prop :=
  ∀ s t (m : MatOp) (w : SWord),
    let tl := tileOf s t
    let b := w.ty.bytes
    let rm := (Rm.ofCode (w.tb.extractLsb' 0 3).toNat).getD .rne
    let el (base e : Nat) : Nat := leNat (rdBytes tl.vreg (512 * base + e * b) b)
    let put (base : Nat) (tag : BitVec 3) (c : Nat → Nat) : Tile := putSlab tl w.ty base tag c
    let conv (e : Nat) : Nat × Fl := tyCv w.ty rm m.seed (FFmt.f32.decode (aget tl.slab (w.ad.toNat * 4096 + e) 0).toNat)
    let fl := orAll ((List.range 4096).map (fun e => (conv e).2))
    let bytes := (List.range 4096).flatMap (fun e => bytesLE b (conv e).1)
    Sound s t → w.ty ∈ [Ty.s8, .f16, .bf16, .e4m3, .e5m2, .f32] →
    (m.instr = .macz w → SlabBecomes s s t m w.ad.toNat 0 (fun _ => 0))
    ∧ (m.instr = .macld w → SlabBecomes s s t m w.ad.toNat m.rtag
        (fun e => (FFmt.f32.round .rne 0 (tyVal w.ty (el w.oa.toNat e))).1))
    ∧ (m.instr = .macldSpad w → SlabBecomes s s t m w.ad.toNat m.rtag
        (fun e => (FFmt.f32.round .rne 0 (tyVal w.ty (leNat (rdBytes tl.scratch (m.xval.toNat + e * b) b)))).1))
    ∧ (m.instr = .macst w → doMat s t m = .done s (put w.oa.toNat (aget tl.stag w.ad.toNat 0) (fun e => (conv e).1)) fl none)
    ∧ (m.instr = .macstSpad w → doMat s t m = .done s { tl with scratch := wrBytes tl.scratch m.xval.toNat bytes } fl none)
    ∧ (m.instr = .mtr w → doMat s t m = .done s (put w.oa.toNat m.rtag (fun e => el w.ob.toNat (64 * (e % 64) + e / 64))) {} none)

/-- R432, R433, R435, R438: the instruction at the head of a tile's queue is performed, the held slab drained first: its slab, registers
and sticky bits change at once, and its slot counts it as completed; its fault waits there for the word that meets it; while memory does
not answer it waits. -/
def MatrixCompletes : Prop :=
  ∀ s t m rest,
    let s0 := drainHeld { s with focus := .idle } t
    s.focus = .event (.n t) → (tileOf s t).mat = m :: rest →
    (∀ w, doMat s0 t m = .wait w → exec .matrixComplete s = .next (keepWaits { s with focus := .idle } w))
    ∧ ∀ s' tl fl flt ia, doMat s0 t m = .done s' tl fl flt ia →
      let s1 := setTile s' t { tl with mat := rest, burst := (tl.burst.1 - 1, tl.burst.2), stat := tl.stat ||| fl.stat }
      let poison (f : Firing) (c : BitVec 8) : Poison :=
        match ia with
        | some a => { mkPoison s1 t f c with addr := a.setWidth 64, addrKind := 2 }
        | none => mkPoison s1 t f c
      NotDet s1 t →
      (∀ k : Fin 4, m.slot = some k.val →
        exec .matrixComplete s = .next (settle (modSlot s1 t k (fun x => { x with
          mats := x.mats.filter (· ≠ m.id),
          mfault := x.mfault ++ (flt.map (fun c => (m.foot, poison (slotOf s1 t k).firing c))).toList })) t k))
      ∧ (m.slot = none → flt = none →
        let n := nodeRec s1 t m.firing.ctx m.firing.node
        exec .matrixComplete s = .next (doneFiring (emitTo s1 t m.firing
          (emission m.firing (leadTok m.firing) (.scalar ((n.literal.extractLsb' 4 6).setWidth 64))) (bothDests n)) t m.firing.party))
      ∧ (∀ c, m.slot = none → flt = some c →
        exec .matrixComplete s = .next (doneFiring (takeFault s1 t m.firing (poison m.firing c)) t m.firing.party))


/-! ## Memory words (R59 to R74, R231 to R240, R449 to R457) -/

/-- R60, R59: an extent is canonical when it does not carry out of bit 63 and both its ends lie in the same half of the
canonical space. -/
def ExtentsCanonical : Prop :=
  ∀ first size : Nat, 0 < size → first < 2 ^ 64 →
    (extentOk first size = true ↔
      first + size ≤ 2 ^ 56 ∨ (2 ^ 64 - 2 ^ 56 ≤ first ∧ first + size ≤ 2 ^ 64))

/-- A window can match an address (R64). -/
def matchesAt (ws : List Win) (sel : BitVec 8) (va : Nat) (i : Nat) : Prop :=
  ∃ w, ws[i]? = some w ∧ w.base.getLsbD 63 = true ∧ sel.getLsbD i = true ∧ w.lo ≤ vaInt va ∧ vaInt va ≤ w.hi

/-- R64, R61: the lowest-numbered matching window decides: "window range", then "window permission", else the IA is its OFFSET
plus the distance from its base; without one, "window miss". -/
def WindowSearch : Prop :=
  ∀ (ws : List Win) (sel : BitVec 8) (kind : Acc) (va size : Nat),
    ((∀ i, ¬ matchesAt ws sel va i) → findWin ws sel kind va size 0 = .error cWindowMiss)
    ∧ ∀ i w, matchesAt ws sel va i → (∀ j < i, ¬ matchesAt ws sel va j) → ws[i]? = some w →
      (w.hi < vaInt (va + size - 1) → findWin ws sel kind va size 0 = .error cWindowRange)
      ∧ (vaInt (va + size - 1) ≤ w.hi → w.perm kind = false → findWin ws sel kind va size 0 = .error cWindowPermission)
      ∧ (vaInt (va + size - 1) ≤ w.hi → w.perm kind = true →
          findWin ws sel kind va size 0 = .ok (w.offset.toNat + (vaInt va - w.lo).toNat, w.asid))

/-- R449, R68, R25, R17: the checks of an extent in their order. -/
def AddressForming : Prop :=
  ∀ (s : State) (l : Launch) (ws : List Win) (sel : BitVec 8) (kind : Acc) (va : Word) (size ia : Nat) (asid : BitVec 12),
    let f := formAddr s l ws sel kind va size
    (extentOk va.toNat size = false → f = .error cNonCanonical)
    ∧ (∀ c, extentOk va.toNat size = true → findWin ws sel kind va.toNat size 0 = .error c → f = .error c)
    ∧ (extentOk va.toNat size = true → findWin ws sel kind va.toNat size 0 = .ok (ia, asid) →
        ((∀ d ∈ l.leases, d.covers s kind ia size = false) → f = .error cLeaseViolation)
        ∧ ((∃ d ∈ l.leases, d.covers s kind ia size = true) →
            (192 ≤ iaPkg ia ∧ iaPkg ia ≤ 254 → f = .error cPackageRange)
            ∧ (iaPkg ia < 192 → 0xF0000000000 ≤ iaLocal ia → s.boot.pkg ≠ some (BitVec.ofNat 8 (iaPkg ia)) →
                f = .error cNonLocalHost)
            ∧ (iaPkg ia = 255 ∨ (iaPkg ia < 192 ∧ iaLocal ia < 0xF0000000000) ∨
                (iaPkg ia < 192 ∧ s.boot.pkg = some (BitVec.ofNat 8 (iaPkg ia))) →
                f = .ok { ia := BitVec.ofNat 52 ia, asid := asid, func := l.func, va := va })))

/-- The state once an access of a codelet has been issued: its request joins those under way, with the slot's clock one
position on; a temporary it will write is pending with mark `m`, an acquire holds later accesses back, the memory port's clock runs
(R187, R202, R231, R234, R449). -/
def asked (s : State) (t : Nat) (k : Fin 4) (w : MWord) (a : Formed) (op : ReqOp) (d : Option (Fin 8)) (m : Bool) : State :=
  let sl := slotOf s t k
  let f := sl.firing
  let c := aput f.clock f.party (aget f.clock f.party 0 + 1)
  let i := s.nextId
  let r : Req :=
    { id := i, tile := t, ctx := f.ctx, party := .firing f.party, pnum := f.party, addr := a, op := op,
      dest := match d with | some x => .reg k.val x w.ty | none => .none,
      ord := w.ord, scope := w.scope, clock := c, after := if w.ord = .rel ∨ w.ord = .ar then relAfter s sl w.scope else [],
      tag := f.tag, node := BitVec.ofNat 12 f.node, slot := some k.val, since := s.time,
      pte := if isHostIA a.ia.toNat then some [] else none }
  let sl1 := { sl with firing := { f with clock := c }, reqs := sl.reqs ++ [i],
                       fence := if w.ord = .acq ∨ w.ord = .ar then sl.fence ++ [i] else sl.fence,
                       tm := match d with | some x => sl.tm.set x m | none => sl.tm,
                       pend := match d with | some x => sl.pend ++ [(x, i)] | none => sl.pend }
  { wakeUnit (setSlot { s with nextId := i + 1 } t k sl1) t .memoryPort with reqs := s.reqs ++ [r] }

/-- The effective address (R449). -/
def eaOf (sl : Slot) (w : MWord) : Word := opVal sl w.base + w.off.signExtend 64

/-- The temporary a destination names. -/
def tempReg : SOp → Option (Fin 8)
  | .t i => some i
  | _ => none

/-- R449, R451, R202: `ld` and `st` are issued with the address they form, n bytes for their type; what an `ld` under a marked guard
loads is marked. -/
def LoadStoreWords : Prop :=
  ∀ s t k (w : MWord) a,
    let sl := slotOf s t k
    let n := w.ty.bytes
    sl.fence = [] → Unheld s t k { mem := [memExt a n] } →
    (Runs s t k w.g [w.base] [w.d] → slotAddr s t sl .load (eaOf sl w) n = .ok a →
      Goes (.ld w) s t k (asked s t k w a (.load n) (tempReg w.d) false))
    ∧ (Live s t k → Settled sl [w.base, w.d] → Pass sl w.g → guardMark sl w.g = true → Unmarked sl [w.base] → Sound s t →
      slotAddr s t sl .load (eaOf sl w) n = .ok a → Goes (.ld w) s t k (asked s t k w a (.load n) (tempReg w.d) true))
    ∧ (Runs s t k w.g [w.base, w.data] [] → slotAddr s t sl .store (eaOf sl w) n = .ok a →
      Goes (.st w) s t k (asked s t k w a (.store (bytesLE n ((opVal sl w.data).toNat % 2 ^ (8 * n)))) none false))

/-- R452 to R454: every atomic is issued with its operation and operands; the result is discarded when D is `zero`. -/
def AtomicWords : Prop :=
  ∀ s t k (w : MWord) a,
    let sl := slotOf s t k
    let n := w.ty.bytes
    let op (o : AtomOp) : ReqOp := .atom o w.ty (opVal sl w.data) (opVal sl w.data2) (w.d = .zero)
    let does (i : Instr) (o : AtomOp) : Prop := Goes i s t k (asked s t k w a (op o) (tempReg w.d) false)
    sl.fence = [] → Unheld s t k { mem := [memExt a n] } → (eaOf sl w).toNat % n = 0 →
    slotAddr s t sl .atomic (eaOf sl w) n = .ok a →
    (Runs s t k w.g [w.base, w.data] [w.d] →
      does (.aadd w) .add ∧ does (.aaddf w) .addf ∧ does (.amin w) .min ∧ does (.amax w) .max ∧ does (.aand w) .and
      ∧ does (.aor w) .or ∧ does (.axor w) .xor ∧ does (.axch w) .xch)
    ∧ (Runs s t k w.g [w.base, w.data, w.data2] [w.d] → does (.acas w) .cas)

/-- R449, R454, R234, R192: an address that fails its checks ends the codelet there with the fault's code and the address; a
misaligned atomic is an illegal encoding; an access behind an acquire that has not been performed waits. -/
def MemoryWordFaults : Prop :=
  ∀ s t k (w : MWord),
    let sl := slotOf s t k
    let n := w.ty.bytes
    let bad (i : Instr) (c : BitVec 8) : Prop :=
      exec i s = .next (faultCodelet s t k { slotPoison s t k c with addr := eaOf sl w, addrKind := 1 })
    (Runs s t k w.g [w.base, w.data] [w.d] →
      (sl.fence ≠ [] → Waits (.ld w) s t k)
      ∧ (∀ c, sl.fence = [] → slotAddr s t sl .load (eaOf sl w) n = .error c → bad (.ld w) c)
      ∧ (∀ c, sl.fence = [] → (eaOf sl w).toNat % n = 0 → slotAddr s t sl .atomic (eaOf sl w) n = .error c →
          ∀ i ∈ [Instr.aadd w, .aaddf w, .amin w, .amax w, .aand w, .aor w, .axor w, .axch w], bad i c)
      ∧ ((eaOf sl w).toNat % n ≠ 0 → ∀ i ∈ [Instr.aadd w, .aaddf w, .amin w, .amax w, .aand w, .aor w, .axor w, .axch w],
          FaultsWith i s t k cIllegal))
    ∧ (Runs s t k w.g [w.base, w.data] [] → ∀ c, sl.fence = [] → slotAddr s t sl .store (eaOf sl w) n = .error c → bad (.st w) c)

/-- R452, R453: the new value an atomic writes, on w-bit patterns. -/
def AtomicResults : Prop :=
  ∀ (ty : Ty) (old v v2 : Nat),
    let n := 8 * ty.bytes
    let r (x : Nat) : Int := if isZ ty then x else (x : Int).bmod (2 ^ n)
    old < 2 ^ n → v < 2 ^ n →
    (ty ∈ [Ty.b64, .s32, .z32, .s64, .z64] →
      atomNew .add ty v v2 old = some ((old + v) % 2 ^ n)
      ∧ (∃ x, atomNew .min ty v v2 old = some x ∧ (x = old ∨ x = v) ∧ r x = min (r old) (r v))
      ∧ (∃ x, atomNew .max ty v v2 old = some x ∧ (x = old ∨ x = v) ∧ r x = max (r old) (r v))
      ∧ atomNew .and ty v v2 old = some (old &&& v) ∧ atomNew .or ty v v2 old = some (old ||| v)
      ∧ atomNew .xor ty v v2 old = some (old ^^^ v) ∧ atomNew .xch ty v v2 old = some v
      ∧ atomNew .cas ty v v2 old = if old = v then some v2 else none)
    ∧ ∀ f, tyF ty = some f →
      atomNew .addf ty v v2 old = some (f.round .rne 0 ((f.decode old).add .rne (f.decode v)).1).1

/-- Stream n put after what a clock says; a closed stream keeps it for its next opening (R234, R238). -/
def tied (s : State) (t : Nat) (c : BitVec 3) (n : BitVec 4) (all : Clock) : State :=
  let x := streamOf s t c n
  setStream s t c n { x with clock := all, party := if x.isOpen then x.party else 0 }

/-- R455, R456, R457: `fence` waits for what stands before it, its own accesses, the masked streams' and those they had acquired, then
releases and acquires; `sbar` puts the masked streams' later accesses after the earlier ones; `pref` asks for lines, and a bad one does
nothing. Model's choices in it: log 6, 11. -/
def OrderWords : Prop :=
  ∀ s t k (w : MWord),
    let sl := slotOf s t k
    let c := sl.firing.ctx
    let mine (r : Req) : Prop := r.id ∈ sl.reqs ∨ ∃ n : BitVec 4, r.party = .stream t c n ∧ w.off.getLsbD n.toNat = true
    let ns := maskStreams w.off
    let all := ns.foldl (fun a n => clkJoin a (streamOf s t c n).clock) sl.firing.clock
    let n := (opVal sl w.data).toNat
    let left (i : Instr) : Prop := Goes i s t k s
    (Runs s t k w.g [] [] →
      ((∃ r ∈ s.reqs, mine r ∧ standsBefore s w.scope r.id = true) → Waits (.fence w) s t k)
      ∧ (knownBefore s w.scope all ≠ [] → Waits (.fence w) s t k)
      ∧ ((∀ r ∈ s.reqs, mine r → standsBefore s w.scope r.id = false) → knownBefore s w.scope all = [] →
          Goes (.fence w) s t k (acquireAt (setSlot (ns.foldl (fun s n => tied s t c n all) s)
            t k { sl with firing := { sl.firing with clock := all } }) t w.scope))
      ∧ (let ids := (s.reqs.filter (fun r => ns.any (fun n => r.party = .stream t c n))).map (·.id)
         let both := ns.foldl (fun a n => clkJoin a (streamOf s t c n).clock) []
         Goes (.sbar w) s t k (ns.foldl (fun s m =>
          let s1 := tied s t c m both
          let x := streamOf s1 t c m
          if x.isOpen then setStream s1 t c m { x with after := (x.after ++ ids).eraseDups } else s1) s)))
    ∧ (Live s t k → Settled sl [w.base, w.data] → Pass sl w.g → Sound s t →
      (n = 0 ∨ 1048576 < n → left (.pref w))
      ∧ (∀ e, 0 < n → n ≤ 1048576 → slotAddr s t sl .load (eaOf sl w) n = .error e → left (.pref w))
      ∧ (∀ a, 0 < n → n ≤ 1048576 → slotAddr s t sl .load (eaOf sl w) n = .ok a →
          (0xF0000000000 ≤ iaLocal a.ia.toNat ∨ pkgIsLocal s (iaPkg a.ia.toNat) = false) → left (.pref w))
      ∧ (∀ a, 0 < n → n ≤ 1048576 → slotAddr s t sl .load (eaOf sl w) n = .ok a → iaLocal a.ia.toNat < 0xF0000000000 →
          pkgIsLocal s (iaPkg a.ia.toNat) = true →
          Goes (.pref w) s t k { wakeUnit { s with nextId := s.nextId + 1 } t .memoryPort with reqs := s.reqs ++
            [{ id := s.nextId, tile := t, ctx := c, party := .firing sl.firing.party, pnum := sl.firing.party, addr := a,
               op := .prefetch n, tag := sl.firing.tag, since := s.time }] }))

/-- R70 to R73: translation of one page through the tables: where it is refused, in this order, and the PTE it gives; the
home keeps what it walked. -/
def TranslationOrder : Prop :=
  ∀ (s : State) (asid : BitVec 12) (ia : Nat) (kind : Acc) (own : Bool),
    afind s.tcache (tcKey asid ia) = none →
    let res := (Machine.translate s asid ia kind own).2
    (pteLoc s asid ia = none → res = .error cTranslationInvalid)
    ∧ ∀ r l p, pteLoc s asid ia = some (r, l, p) →
      let e := rdLE s.mem p 8
      let rsv (x : Nat) : Prop := x / 2 ^ 48 = 0 ∧ x / 2 % 2 ^ 16 = 0
      let okBits : Prop := rsv r ∧ rsv l ∧ (e / 2 ^ 48 % 2 ^ 8 = 0 ∧ e / 2 ^ 12 % 2 ^ 4 = 0 ∧ e / 2 ^ 9 % 2 = 0)
        ∧ e / 2 ^ 6 % 4 ≠ 3 ∧ e / 2 ^ 3 % 8 ≤ 4 ∧ tierOn s (e / 2 ^ 6 % 4) = true
      let perm := e / 2 % 4
      let fits : Prop := (match kind with | .load => 1 ≤ perm | .store => 2 ≤ perm | .atomic => perm = 3) ∧ (asid ≠ 0 ∨ own = true)
      (e % 2 = 0 → res = .error cTranslationInvalid)
      ∧ (e % 2 = 1 → ¬ okBits → res = .error cIllegal)
      ∧ (e % 2 = 1 → okBits → ¬ fits → res = .error cPagePermission)
      ∧ (e % 2 = 1 → okBits → fits → res = .ok e)
      ∧ (e % 2 = 1 → afind (Machine.translate s asid ia kind own).1.tcache (tcKey asid ia) =
          some [BitVec.ofNat 64 r, BitVec.ofNat 64 l, BitVec.ofNat 64 e])

/-- R81, R85: a write to a page that completes changes exactly its bytes, beside the page's record. -/
def PageWriteBytes : Prop :=
  ∀ s who w off bs s', pageWrite s who w off bs = .done s' →
    let r := recKey s (pteTier w) (pteAddr w)
    ∀ a, (pteKind w = 0 ∨ a < r ∨ r + 256 ≤ a) →
      rd8 s'.mem a = if pageByte w off ≤ a ∧ a < pageByte w off + bs.length then bs.getD (a - pageByte w off) 0 else rd8 s.mem a

/-- R82, R86, R87, R91: a write to a compressed page whose record is sound stores the new sector count and codes in the record; growth
takes the lowest free chunks of its tier, keeping RESERVE; a page that cannot grow holds the write, or faults where the tier is
exhausted. -/
def PageGrowth : Prop :=
  ∀ s who w off bs,
    let tn := pteTier w
    let t := tierOf s tn
    let r := recOf s tn (pteAddr w)
    let codes := recode { s with mem := wrBytes s.mem (pageByte w off) bs } w r off bs.length
    let need := (sectorSum codes + 127) / 128 - r.chunks.length
    let res := pageWrite s who w off bs
    pteKind w ≠ 0 → bs ≠ [] →
    (recCheck s w = .ok () → need = 0 →
      ∃ s', res = .done s' ∧ recOf s' tn (pteAddr w) = { r with codes := codes, sectors := sectorSum codes }
        ∧ (tierOf s' tn).free = t.free)
    ∧ (0 < need → t.exhausted = true → ∃ d, res = .fault s cCapacity d)
    ∧ (0 < need → t.exhausted = false → t.free.length < need + tierReserve t → res = .held tn need)
    ∧ (recCheck s w = .ok () → (∀ c ∈ t.free, c < 2 ^ 32) →
        0 < need → t.exhausted = false → need + tierReserve t ≤ t.free.length → t.held = [] →
        ∃ s', res = .done s' ∧ (tierOf s' tn).free = t.free.drop need
          ∧ recOf s' tn (pteAddr w) = { r with codes := codes, sectors := sectorSum codes, chunks := r.chunks ++ t.free.take need })

/-- R81: a record of 256 nibble codes, at most 16 chunks and fields within their widths is read back from its 256 bytes. -/
def RecordsReadBack : Prop :=
  ∀ s tn i (r : PageRec), r.codes.length = 256 → (∀ c ∈ r.codes, c < 16) → r.chunks.length ≤ 16 → (∀ c ∈ r.chunks, c < 2 ^ 32) →
    r.sectors < 2 ^ 16 →
    recOf (setRec s tn i r) tn i = r
    ∧ ∀ a, (a < recKey s tn i ∨ recKey s tn i + 256 ≤ a) → rd8 (setRec s tn i r).mem a = rd8 s.mem a

/-- R71: ACCESSED, and DIRTY for a write, are set in the page's PTE; every other byte of memory stays. -/
def TouchedPages : Prop :=
  ∀ s asid ia wr r l p, pteLoc s asid ia = some (r, l, p) →
    rdLE (touchPte s asid ia wr).mem p 8 = rdLE s.mem p 8 ||| 2 ^ 10 ||| (if wr then 2 ^ 11 else 0)
    ∧ ∀ a, (a < p ∨ p + 8 ≤ a) → rd8 (touchPte s asid ia wr).mem a = rd8 s.mem a

/-- The bytes of an extent under the translations of its pages. -/
def ReqPages (r : Req) (ws : List Nat) : List ((Nat × Nat) × Nat) := (pagesOf r.addr.ia.toNat r.op.size).zip ws

/-- R17, R19, R72, R73, R85, R87, R95, R232, R240, R294: `HOME_REQUEST` makes the next thing happen to a request: a host access is
performed at HOSTBASE; an access of this package passes translation, or meets its fault, or is answered by the near slice; once passed
it is performed, or its write is held. Model's choices in it: log 10, 11. -/
def HomeRequests : Prop :=
  ∀ s i r,
    let s0 := { s with focus := .idle }
    let ia := r.addr.ia.toNat
    let a := 2 ^ 72 + ((fnOf s r.addr.func).hostbase.toNat + (iaLocal ia - 0xF0000000000)) % 2 ^ 64
    let ps := pagesOf ia r.op.size
    s.focus = .event (.n i) → s.reqs.find? (fun x => x.id = i) = some r → reqTurn s r = true →
    (0xF0000000000 ≤ iaLocal ia → (∀ x ∈ s.reqs, ¬ (x.tile = r.tile ∧ x.id < r.id ∧ bytesMeet s x r = true)) → s.boot.puverUp = true →
      pkgCheck s ia = .ok () →
      (∀ n, r.op = .load n → 0 < n → exec .homeRequest s = .next (reqDone s0 r (rdBytes s.mem a n) false))
      ∧ (∀ bs, r.op = .store bs → bs ≠ [] → exec .homeRequest s = .next (reqDone { s0 with mem := wrBytes s.mem a bs } r [] true))
      ∧ (∀ o ty v v2 d, r.op = .atom o ty v v2 d → s.boot.hostAtomics = false →
          exec .homeRequest s = .next (lateFault s0 r cHostUnsupported 0))
      ∧ (∀ o ty v v2 d, r.op = .atom o ty v v2 d → s.boot.hostAtomics = true →
          let old := rdLE s.mem a ty.bytes
          let loop := o ≠ .add ∧ o ≠ .xch ∧ o ≠ .cas
          (loop → s.hostBusy = true → exec .homeRequest s = .next (lateFault s0 r cHostContention 0))
          ∧ (¬ loop ∨ s.hostBusy = false →
              exec .homeRequest s = .next (reqDone (match atomNew o ty (atomArg ty v) (atomArg ty v2) old with
                | none => s0
                | some x => { s0 with mem := wrLE s.mem a ty.bytes x }) r (bytesLE ty.bytes old) true))))
    ∧ (iaLocal ia < 0xF0000000000 → pkgIsLocal s (iaPkg ia) = true →
      (r.pte = none → mayPass s r = true →
        (∀ s1 c, transAll s0 r.addr.asid (reqAsid0 s r) r.op.acc ps = (s1, .error c) → exec .homeRequest s = .next (lateFault s1 r c 0))
        ∧ (∀ s1 ws, transAll s0 r.addr.asid (reqAsid0 s r) r.op.acc ps = (s1, .ok ws) →
            (r.op.mayWrite = true ∨ nearHit s1 (plotOf r.tile) r.addr r.op.size = none) →
            let s2 := { s1 with reqs := s1.reqs.filter (fun x => x.id ≠ r.id) ++ [{ r with pte := some (ws.map (BitVec.ofNat 64)) }] }
            exec .homeRequest s = .next (match r.slot.bind slotFin with | some k => pump s2 r.tile k | none => s2))
        ∧ (∀ s1 ws n s2 bs, transAll s0 r.addr.asid (reqAsid0 s r) r.op.acc ps = (s1, .ok ws) → r.op = .load n →
            nearHit s1 (plotOf r.tile) r.addr n = some (s2, bs) → NotDet s2 r.tile →
            exec .homeRequest s = .next (reqDone s2 r bs false)))
      ∧ (∀ ws, r.pte = some ws → r.held = none → mayPerform s r = true → NotDet s r.tile →
        let w := ws.map (·.toNat)
        let clean := badLineAt s r.addr.asid ia r.op.size = none ∧ memBad s (ReqPages r w) = false
        (∀ p, badLineAt s r.addr.asid ia r.op.size = some p → r.op.reads = true → exec .homeRequest s = .next (lateFaultBy s0 r p))
        ∧ (∀ c, badLineAt s r.addr.asid ia r.op.size = none → checkAll s0 w = .error c →
            exec .homeRequest s = .next (lateFault s0 r c 0))
        ∧ (badLineAt s r.addr.asid ia r.op.size = none → checkAll s0 w = .ok () → memBad s (ReqPages r w) = true → r.op.reads = true →
            exec .homeRequest s = .next (lateFault s0 r cUncorrectable 0))
        ∧ (∀ n, clean → checkAll s0 w = .ok () → r.op = .load n →
            let s1 := touchAll s0 r.addr.asid false ps
            exec .homeRequest s = .next (reqDone (fillNear s1 (plotOf r.tile) r.addr n w) r (readPages s1 (ReqPages r w)) false))
        ∧ (∀ bs s1, checkAll s0 w = .ok () → r.op = .store bs → writePages s0 (.req r.id) s0 (ReqPages r w) bs = .done s1 →
            exec .homeRequest s = .next (reqDone (nearStore (touchAll (dropAll s1 w (.req r.id)) r.addr.asid true ps)
              (plotOf r.tile) r.addr bs) r [] true))
        ∧ (∀ bs tn n, checkAll s0 w = .ok () → r.op = .store bs → writePages s0 (.req r.id) s0 (ReqPages r w) bs = .held tn n →
            exec .homeRequest s = .next (holdReq s0 r tn n))
        ∧ (∀ o ty v v2 d s1 x, clean → checkAll s0 w = .ok () → r.op = .atom o ty v v2 d →
            let old := readPages s0 (ReqPages r w)
            atomNew o ty (atomArg ty v) (atomArg ty v2) (leNat old) = some x →
            writePages s0 (.req r.id) s0 (ReqPages r w) (bytesLE ty.bytes x) = .done s1 →
            exec .homeRequest s = .next (reqDone (nearDrop (touchAll (dropAll s1 w (.req r.id)) r.addr.asid true ps)
              (plotOf r.tile) r.addr ty.bytes) r old true))))

/-- R25, R27 to R29, R244: a request for another package waits for that package; its answer or fault comes once the module is joined and
what the same party sent before on that plane to that line has been answered. Model's choices in it: log 10. -/
def RemoteAnswers : Prop :=
  ∀ s i r,
    let s0 := { s with focus := .idle }
    let ia := r.addr.ia.toNat
    s.reqs.find? (fun x => x.id = i) = some r → iaLocal ia < 0xF0000000000 → pkgIsLocal s (iaPkg ia) = false →
    (s.focus = .event (.n i) → exec .homeRequest s = .next s0)
    ∧ (∀ bs, s.focus = .event (.answer i bs) →
        (farTurn s r = true → exec .homeRequest s = .next (reqDone s0 r (padTo bs r.op.size) true))
        ∧ (farTurn s r = false → exec .homeRequest s = .next s0))
    ∧ (∀ c, s.focus = .event (.answerBad i c) → farTurn s r = true →
        c ∈ [cTranslationInvalid, cPagePermission, cRecordCorrupt, cKindMismatch, cCapacity, cTierUnreachable, cUncorrectable, cIllegal] →
        exec .homeRequest s = .next (lateFault s0 r c 0))
    ∧ (farTurn s r = true ↔ s.boot.pkg.isSome = true ∧ s.boot.planes ≠ 0 ∧ reqTurn s r = true
        ∧ ∀ x ∈ s.reqs, ¬ (x.party = r.party ∧ x.id < r.id ∧ sharePlane s x.addr.ia.toNat x.op.size ia r.op.size = true))

/-- R360, R362, R451, R452: an answer for a temporary is written there as its type reads it. -/
def AnswersReachTemporaries : Prop :=
  ∀ s (r : Req) (k : Fin 4) (d : Fin 8) ty bs, r.dest = .reg k.val d ty → bs.length = ty.bytes → ty ≠ .q4 →
    let x := BitVec.ofNat 64 (leNat bs)
    putAnswer s r bs = modSlot s r.tile k (fun sl => { sl with
      t := sl.t.set d (if (tyF ty).isSome then x else wr ty (rd ty x)) })


/-! ## Streams (R75, R76, R238, R239, R458 to R462) -/

/-- A stream's clock with its next access (R231, R234). -/
def nextClock (x : Stream) : Clock := aput x.clock x.party (aget x.clock x.party 0 + 1)

/-- The state once a memory stream's access has been issued: its request joins those under way, POS moves by `step`, the memory port's
clock runs (R187, R238, R460). -/
def streamed (s : State) (t : Nat) (k : Fin 4) (sl : Slot) (n : BitVec 4) (a : Formed) (op : ReqOp) (dest : ReqDest)
    (step : Nat) : State :=
  let c := sl.firing.ctx
  let x := streamOf s t c n
  let i := s.nextId
  let r : Req :=
    { id := i, tile := t, ctx := c, party := .stream t c n, pnum := x.party, addr := a, op := op, dest := dest,
      clock := nextClock x, after := x.after, tag := sl.firing.tag, node := BitVec.ofNat 12 sl.firing.node,
      slot := if dest = .none then none else some k.val, since := s.time, pte := if isHostIA a.ia.toNat then some [] else none }
  let s1 := setStream { s with nextId := i + 1 } t c n { x with
    clock := nextClock x, pos := x.pos + step, after := x.after.filter (fun j => s.reqs.any (fun r => r.id = j)) }
  { wakeUnit s1 t .memoryPort with reqs := s.reqs ++ [r] }

/-- A control word is legal (R459). -/
def ControlOk (c : Word) : Prop :=
  c.toNat < 2 ^ 6 ∧ c.toNat / 8 ≤ 4 ∧ ¬ (c.getLsbD 1 = true ∧ c.getLsbD 2 = true)
    ∧ (c.toNat / 8 = 0 ∨ (c.getLsbD 0 = true ∧ c.getLsbD 2 = true))

/-- A word of stream `w.strm` ends its codelet with code `c`, naming the stream (R74, R288). -/
def StreamFaultsWith (i : Instr) (s : State) (t : Nat) (k : Fin 4) (n : BitVec 4) (c : BitVec 8) : Prop :=
  exec i s = .next (faultCodelet s t k { slotPoison s t k c with strm := some n })

/-- R458, R459, R461: `sopen` opens the stream over its checked range at POS 0: a scratchpad range, a memory range in element
mode, a slab range whose header holds, a write stream with its snapshot; the cases that give "illegal encoding", and its range
faults. Model's choice in it: what an earlier fence has put the stream's number after (log 6). -/
def StreamOpenWord : Prop :=
  ∀ s t k (w : MWord),
    let sl := slotOf s t k
    let c := sl.firing.ctx
    let len := (opVal sl w.data).toNat
    let ctl := opVal sl w.data2
    let va := (eaOf sl w).toNat
    let fits : Prop := 0 < len ∧ len ≤ 2 ^ 40 ∧ ControlOk ctl ∧ (streamOf s t c w.strm).isOpen = false
    let x0 := streamOf s t c w.strm
    let old : Clock := if x0.party = 0 then x0.clock else []
    let opened (u : State) (start : Range) (h : BufHdr) : State :=
      setStream u t c w.strm
        { isOpen := true, ctl := ctl, len := len, openTag := sl.firing.tag, start := start, hdr := h, party := s.nextId,
          clock := if ctl.getLsbD 2 then aput old s.nextId (aget old s.nextId 0 + 1) else old }
    let s0 := { s with nextId := s.nextId + 1 }
    let acc : Machine.Acc := if ctl.getLsbD 0 then .store else .load
    Runs s t k w.g [w.base, w.data, w.data2] [] →
    (¬ fits → FaultsWith (.sopen w) s t k cIllegal)
    ∧ (fits → ctl.getLsbD 1 = true → va + len ≤ (imageOf s t c).scratch → Goes (.sopen w) s t k (opened s0 (.spad va) {}))
    ∧ (fits → ctl.getLsbD 1 = true → (imageOf s t c).scratch < va + len → FaultsWith (.sopen w) s t k cPartition)
    ∧ (∀ a, fits → ctl.getLsbD 1 = false → sl.fence = [] → slotAddr s t sl acc (eaOf sl w) len = .ok a →
        Unheld s t k { mem := [memExt a len] } →
        (ctl.getLsbD 2 = false → Goes (.sopen w) s t k (opened s0 (.mem a) {}))
        ∧ (ctl.getLsbD 2 = true → len < 64 → StreamFaultsWith (.sopen w) s t k w.strm cWindowRange)
        ∧ (∀ s1 b, ctl.getLsbD 2 = true → 64 ≤ len → reqOverlaps s sl a 64 = false → NotDet s1 t →
            memRead (asAsker s0 sl.firing.party) a.asid ((tileLaunch s t).asid = 0) a.func a.ia.toNat 64 = .ok s1 b →
            (∀ e, openHdr b len = .error e →
              exec (.sopen w) s = .next (faultCodelet s1 t k { slotPoison s1 t k e with strm := some w.strm }))
            ∧ (∀ h, openHdr b len = .ok h → ctl.getLsbD 0 = false → Goes (.sopen w) s t k (opened s1 (.mem a) h))
            ∧ (∀ h, openHdr b len = .ok h → ctl.getLsbD 0 = true →
                let th := (tileOf s1 t).th.toList
                let s2 := opened s1 (.mem a) { h with snap := th }
                Goes (.sopen w) s t k (streamed (setSlot s2 t k sl) t k sl w.strm (a.plus 24)
                  (.store (th.flatMap (fun v => bytesLE 4 v.toNat))) .none 0))))

/-- R92, R93, R275, R461: when the header of a buffer lets a slab stream open. -/
def SlabHeaders : Prop :=
  ∀ (b : List Byte) (len : Nat), b.length = 64 →
    let n (o l : Nat) : Nat := leNat ((b.drop o).take l)
    let h := bufHdr b
    let good : Prop := n 1 1 < 32 ∧ n 2 2 = 0 ∧ n 16 8 = 0 ∧ n 56 8 = 0 ∧ 1 ≤ n 4 4 ∧ 1 ≤ n 8 4
      ∧ n 12 4 = (n 4 4 + 63) / 64 * ((n 8 4 + 63) / 64) ∧ (efmt (n 0 1)).isSome = true ∧ n 0 1 ≠ 0x0C
    let cmp := n 1 1 / 4 % 2 = 1
    h.fmt.toNat = n 0 1 ∧ h.tags.toNat = n 1 1 ∧ h.rows = n 4 4 ∧ h.cols = n 8 4 ∧ h.slabs = n 12 4
    ∧ (¬ good → openHdr b len = .error cIllegal)
    ∧ (good → cmp → ¬ (1 ≤ n 0 1 ∧ n 0 1 ≤ 5) → openHdr b len = .error cDomain)
    ∧ (good → (cmp → 1 ≤ n 0 1 ∧ n 0 1 ≤ 5) →
        (len < 64 + n 12 4 * slotSize (n 0 1) (n 1 1 / 4 % 2 = 1) → openHdr b len = .error cWindowRange)
        ∧ (64 + n 12 4 * slotSize (n 0 1) (n 1 1 / 4 % 2 = 1) ≤ len → openHdr b len = .ok h))

/-- R460, R238: `sld` and `sst` in element mode: at START + POS, POS moving by n; a memory stream's access is issued, a
scratchpad stream's is performed at once in its turn. -/
def StreamElementWords : Prop :=
  ∀ s t k (w : MWord),
    let sl := slotOf s t k
    let c := sl.firing.ctx
    let x := streamOf s t c w.strm
    let n := w.ty.bytes
    let bs := bytesLE n ((opVal sl w.data).toNat % 2 ^ (8 * n))
    let ready : Prop := sl.fence = [] ∧ x.isOpen = true ∧ x.failed = none ∧ x.pos + n ≤ x.len
    let turn (b : Nat) : Prop := (∀ j ∈ x.after, ∀ r ∈ s.reqs, r.id ≠ j) ∧ Unheld s t k { spad := [(b + x.pos, n)] } ∧ NotDet s t
    let moved := setStream s t c w.strm { x with clock := nextClock x, pos := x.pos + n }
    (Runs s t k w.g [] [w.d] → ready → x.ctl.getLsbD 0 = false →
      (∀ a, x.start = .mem a →
        let s1 := streamed s t k sl w.strm (a.plus x.pos) (.load n)
          (match tempReg w.d with | some d => .reg k.val d w.ty | none => .none) n
        Goes (.sld w) s t k (match tempReg w.d with
          | some d => modSlot s1 t k (fun y => { y with pend := y.pend ++ [(d, s.nextId)] })
          | none => s1))
      ∧ (∀ b, x.start = .spad b → turn b → Sound s t → w.ty ≠ .q4 →
        let v := BitVec.ofNat 64 (leNat (rdBytes (tileOf s t).scratch (b + x.pos) n))
        Goes (.sld w) s t k (setSlot moved t k (wrT sl w.d (if (tyF w.ty).isSome then v else wr w.ty (rd w.ty v)) false))))
    ∧ (Runs s t k w.g [w.data] [] → ready → x.ctl.getLsbD 0 = true →
      (∀ a, x.start = .mem a → Goes (.sst w) s t k (streamed s t k sl w.strm (a.plus x.pos) (.store bs) .none n))
      ∧ (∀ b, x.start = .spad b → turn b → Sound s t →
        Goes (.sst w) s t k (modTile moved t (fun tl => { tl with scratch := wrBytes tl.scratch (b + x.pos) bs }))))

/-- R460, R294: the cases in which an access of a stream is not performed. -/
def StreamFaults : Prop :=
  ∀ s t k (w : MWord),
    let sl := slotOf s t k
    let x := streamOf s t sl.firing.ctx w.strm
    sl.fence = [] →
    (Runs s t k w.g [] [w.d] →
      (x.isOpen = false ∨ x.ctl.getLsbD 0 = true → FaultsWith (.sld w) s t k cIllegal)
      ∧ (∀ p, x.isOpen = true → x.ctl.getLsbD 0 = false → x.failed = some p → exec (.sld w) s = .next (faultCodelet s t k p))
      ∧ (x.isOpen = true → x.ctl.getLsbD 0 = false → x.failed = none → x.len < x.pos + w.ty.bytes →
          StreamFaultsWith (.sld w) s t k w.strm cWindowRange))
    ∧ (Runs s t k w.g [w.data] [] →
      (x.isOpen = false ∨ x.ctl.getLsbD 0 = false → FaultsWith (.sst w) s t k cIllegal)
      ∧ (∀ p, x.isOpen = true → x.ctl.getLsbD 0 = true → x.failed = some p → exec (.sst w) s = .next (faultCodelet s t k p))
      ∧ (x.isOpen = true → x.ctl.getLsbD 0 = true → x.failed = none → x.len < x.pos + w.ty.bytes →
          StreamFaultsWith (.sst w) s t k w.strm cWindowRange))

/-- R461, R278: the slab forms: `sld` reads slot POS into a group, `sst` writes a group of tag 0 into it as the four steps make
it; POS moves by one; the adaptive window counts the survivors (R286). Model's choices in it: log 9. -/
def StreamSlabWords : Prop :=
  ∀ s t k (w : MWord),
    let sl := slotOf s t k
    let c := sl.firing.ctx
    let x := streamOf s t c w.strm
    let g := (opVal sl w.data).toNat
    let off := 64 + x.pos * slotSize x.hdr.fmt.toNat (x.hdr.tags.getLsbD 2)
    let cmp := x.hdr.tags.getLsbD 2
    ∀ a, x.start = .mem a → sl.fence = [] → x.isOpen = true → x.failed = none → g % (8 * w.ty.bytes) = 0 →
      g + 8 * w.ty.bytes ≤ (imageOf s t c).vregs → x.pos < x.hdr.slabs → Unheld s t k { regs := members w.ty g } → NotDet s t →
      Runs s t k w.g [w.data] [] →
    (x.ctl.getLsbD 0 = false →
      Goes (.sldSlab w) s t k (streamed (setSlot s t k sl) t k sl w.strm (a.plus off) (.load (slotSize x.hdr.fmt.toNat cmp))
        (.group k.val g w.ty x.hdr.fmt x.hdr.tags) 1))
    ∧ (∀ s2 f, x.ctl.getLsbD 0 = true → Sound s t → (∀ r ∈ members w.ty g, regTag (tileOf s t) r = 0) → Slabs w.ty →
      let im := slabImage x sl.seed (slab (tileOf s t) w.ty g)
      setSticky s t sl.firing im.2.2.stat = .ok (s2, f) →
      Goes (.sstSlab w) s t k (countSlab
        (streamed (setSlot s2 t k { sl with firing := f }) t k { sl with firing := f } w.strm (a.plus off) (.store im.1) .none 1)
        t im.2.1))
    ∧ (x.ctl.getLsbD 0 = true → (∃ r ∈ members w.ty g, regTag (tileOf s t) r ≠ 0) → FaultsWith (.sstSlab w) s t k cDomain)

/-- R278, R274, R276, R93: the bytes a write stream stores for a slab: +0 past the buffer's ROWS and COLS, transformed along the tagged
axes, thinned under the snapshot, converted under RM with the SEED copy, compacted when CMP = 1. -/
def SlabStoreImages : Prop :=
  ∀ (x : Stream) (seed : BitVec 32) (c : List Nat) (t : Ty), c.length = 4096 → efmt x.hdr.fmt.toNat = some (.ty t) →
    let h : BitVec 3 := x.hdr.tags.setWidth 3 &&& 3
    let cmp := x.hdr.tags.getLsbD 2
    let rm := (Rm.ofCode (x.ctl.extractLsb' 3 3).toNat).getD .rne
    let wide := (x.hdr.cols + 63) / 64
    let inside (e : Nat) : Bool := x.pos / wide * 64 + e / 64 < x.hdr.rows && x.pos % wide * 64 + e % 64 < x.hdr.cols
    let z := (List.range 4096).map (fun e => if inside e then c.getD e 0 else 0)
    let y := if h = 0 then z else (slabFwd h z).1
    let keep (e : Nat) : Bool := (h = 0 && !cmp) || survives (y.getD e 0) (x.hdr.snap.getD (thOf h (e / 64) (e % 64)) 0).toNat
    let code (e : Nat) : Nat := (tyCv t rm seed (FFmt.f32.decode (if keep e then y.getD e 0 else 0))).1
    let im := slabImage x seed c
    (im.2.1 = if h = 0 then none else some ((List.range 4096).countP keep))
    ∧ (cmp = false → im.1 = (List.range 4096).flatMap (fun e => bytesLE t.bytes (code e)))
    ∧ (cmp = true →
        let sur := ((List.range 4096).filter keep).flatMap (fun e => bytesLE t.bytes (code e))
        im.1 = (bitImg keep) ++ sur ++ List.replicate (4096 * t.bytes - sur.length) 0)

/-- R462, R75, R76: `sclose` waits for the stream's accesses; then it deposits the records, closes and writes POS to D; a
failed stream then delivers its poison. -/
def StreamCloseWord : Prop :=
  ∀ s t k (w : MWord),
    let sl := slotOf s t k
    let c := sl.firing.ctx
    let x := streamOf s t c w.strm
    let s1 := closeStream s t c w.strm sl.firing.tag
    let s2 := setSlot s1 t k (wrT sl w.d (BitVec.ofNat 64 x.pos) false)
    Runs s t k w.g [] [w.d] →
    (x.isOpen = false → FaultsWith (.sclose w) s t k cIllegal)
    ∧ (x.isOpen = true → (∃ r ∈ s.reqs, r.party = .stream t c w.strm) → Waits (.sclose w) s t k)
    ∧ (x.isOpen = true → (∀ r ∈ s.reqs, r.party ≠ .stream t c w.strm) → x.failed = none → Goes (.sclose w) s t k s2)
    ∧ (∀ p, x.isOpen = true → (∀ r ∈ s.reqs, r.party ≠ .stream t c w.strm) → x.failed = some p →
        exec (.sclose w) s = .next (faultCodelet s2 t k p))

/-- R75, R76, R462: closing deposits one record for each range in ascending order, split at 0xFFFF_FF80 bytes, and leaves the
stream closed, its clock kept (log 6); a stream that wrote nothing deposits none. Model's choices in it: log 18. -/
def StreamRecords : Prop :=
  ∀ s t c n tag,
    let x := streamOf s t c n
    let tl := tileOf s t
    let put (u : State) (a len : Nat) : State := appendLog u tl.launch false
      (bytesLE 8 (a % 2 ^ 64) ++ bytesLE 4 len ++ [BitVec.ofNat 8 (n.toNat + 16 * c.toNat), 0, 0, 0] ++ bytesLE 8 s.time
        ++ bytesLE 4 tag.toNat ++ bytesLE 4 tl.stepid.toNat)
    let size (p : Nat × Nat) : Nat := (p.2 - p.1 + 1) * 128
    let shut : Stream := { clock := x.clock, party := x.party }
    ((∀ p ∈ x.log, p.1 ≤ p.2 ∧ size p ≤ 0xFFFFFF80) →
        closeStream s t c n tag = setStream (x.log.foldl (fun u p => put u (p.1 * 128) (size p)) s) t c n shut)
    ∧ (∀ p, x.log = [p] → 0xFFFFFF80 < size p → size p ≤ 2 * 0xFFFFFF80 →
        closeStream s t c n tag =
          setStream (put (put s (p.1 * 128) 0xFFFFFF80) (p.1 * 128 + 0xFFFFFF80) (size p - 0xFFFFFF80)) t c n shut)


/-! ## Engine commands (R241, R294, R463 to R475) -/

/-- A range of a command as it is formed at issue: a scratchpad extent within SCRATCH, or a checked memory extent (R464). -/
def RangeAt (s : State) (t : Nat) (sl : Slot) (spad : Bool) (acc : Machine.Acc) (a : Word) (n : Nat) : Range → Prop
  | .spad o => spad = true ∧ o = a.toNat ∧ (n = 0 ∨ a.toNat + n ≤ (imageOf s t sl.firing.ctx).scratch)
  | .mem f => spad = false ∧ ((n = 0 ∧ f = {}) ∨ (0 < n ∧ slotAddr s t sl acc a n = .ok f))

/-- Two ranges share a byte of one space (R465). -/
def Overlap (s : State) (n m : Nat) : Range → Range → Prop
  | .spad x, .spad y => ∃ b, x ≤ b ∧ b < x + n ∧ y ≤ b ∧ b < y + m
  | .mem x, .mem y => x.asid = y.asid ∧
      ∃ b, iaNorm s x.ia.toNat ≤ b ∧ b < iaNorm s x.ia.toNat + n ∧ iaNorm s y.ia.toNat ≤ b ∧ b < iaNorm s y.ia.toNat + m
  | _, _ => False

/-- A command may be issued: at most 15 of its counter are outstanding, and the slot's accesses and those it had acquired have passed
translation (R234, R241, R463). -/
def CanIssue (s : State) (t : Nat) (sl : Slot) (tl : BitVec 2) : Prop :=
  (s.cmds.filter (fun x => x.tile = t && x.ctx = sl.firing.ctx && x.tl = tl)).length < 16
    ∧ relWaits s sl.reqs sl.firing.clock .plot = false

/-- The state once a command has been issued: it takes the next number of its counter and stands among the commands (R463). -/
def numbered (s : State) (t : Nat) (sl : Slot) (tl : BitVec 2) (kind : CmdKind) (src dst : Range) : State :=
  let c := sl.firing.ctx
  let tm := timelineOf s t c tl
  let x : Cmd :=
    { id := s.nextId, party := s.nextId + 1, tile := t, ctx := c, tl := tl, num := tm.issued + 1, kind := kind, src := src,
      dst := dst, seed := sl.seed, tag := sl.firing.tag, node := BitVec.ofNat 12 sl.firing.node, clock := sl.firing.clock }
  { setTimeline { s with nextId := s.nextId + 2 } t c tl { tm with issued := tm.issued + 1 } with cmds := s.cmds ++ [x] }

/-- R463 to R465, R241: `cpy` and `cpyf` are issued with their checked ranges and numbered; a 17th command waits; ranges that
overlap in one space give "illegal encoding". -/
def CopyCommandWords : Prop :=
  ∀ s t k (w : EWord) src dst,
    let sl := slotOf s t k
    let n := (opVal sl w.c).toNat
    Runs s t k w.g [w.a, w.b, w.c] [] → sl.fence = [] →
    (n ≤ 2 ^ 32 → RangeAt s t sl (w.imm.getLsbD 0) .load (opVal sl w.b) n src →
      RangeAt s t sl (w.imm.getLsbD 1) .store (opVal sl w.a) n dst →
      (¬ Overlap s n n src dst → CanIssue s t sl w.tl → Goes (.cpy w) s t k (numbered s t sl w.tl (.cpy n) src dst))
      ∧ (¬ Overlap s n n src dst → ¬ CanIssue s t sl w.tl → Waits (.cpy w) s t k)
      ∧ (Overlap s n n src dst → FaultsWith (.cpy w) s t k cIllegal))
    ∧ (∀ fm rm, 0 < n → n ≤ 2 ^ 24 → efmt (w.imm.extractLsb' 2 8).toNat = some fm →
      Rm.ofCode (w.imm.extractLsb' 10 3).toNat = some rm →
      let blk := w.imm.extractLsb' 13 2
      let len := fmtBytes fm n
      let out := fmtBytes (if w.ty = .q4 then .l4 (16 * 2 ^ blk.toNat) else .ty w.ty) n
      RangeAt s t sl (w.imm.getLsbD 0) .load (opVal sl w.b) len src →
      RangeAt s t sl (w.imm.getLsbD 1) .store (opVal sl w.a) out dst →
      (¬ Overlap s len out src dst → CanIssue s t sl w.tl →
        Goes (.cpyf w) s t k (numbered s t sl w.tl (.cpyf n w.ty (w.imm.extractLsb' 2 8) rm blk) src dst))
      ∧ (Overlap s len out src dst → FaultsWith (.cpyf w) s t k cIllegal))

/-- R464 to R466: the issue checks: counts out of range and misaligned descriptors give "illegal encoding", a scratchpad
extent beyond SCRATCH gives "partition", a memory extent the poison of its check; no number is taken. -/
def CommandIssueFaults : Prop :=
  ∀ s t k (w : EWord),
    let sl := slotOf s t k
    let n := (opVal sl w.c).toNat
    let a := (opVal sl w.a).toNat
    sl.fence = [] →
    (Runs s t k w.g [w.a, w.b, w.c] [] →
      (2 ^ 32 < n → FaultsWith (.cpy w) s t k cIllegal)
      ∧ (n = 0 ∨ 2 ^ 24 < n → FaultsWith (.cpyf w) s t k cIllegal)
      ∧ (0 < n → n ≤ 2 ^ 32 → w.imm.getLsbD 0 = true → (imageOf s t sl.firing.ctx).scratch < (opVal sl w.b).toNat + n →
          FaultsWith (.cpy w) s t k cPartition)
      ∧ (∀ c, 0 < n → n ≤ 2 ^ 32 → w.imm.getLsbD 0 = false → slotAddr s t sl .load (opVal sl w.b) n = .error c →
          exec (.cpy w) s = .next (faultCodelet s t k ((slotPoison s t k c).atVA (opVal sl w.b)))))
    ∧ (Runs s t k w.g [w.a] [] →
      (a % 16 ≠ 0 → FaultsWith (.gath w) s t k cIllegal ∧ FaultsWith (.scat w) s t k cIllegal ∧ FaultsWith (.coll w) s t k cIllegal)
      ∧ (a % 16 = 0 → (imageOf s t sl.firing.ctx).scratch < a + 32 →
          FaultsWith (.gath w) s t k cPartition ∧ FaultsWith (.scat w) s t k cPartition ∧ FaultsWith (.coll w) s t k cPartition))

/-- R466: `gath` and `scat` copy their descriptor and index list at issue; the indexed extent runs from the least index to the
greatest and is checked whole. -/
def GatherScatterWords : Prop :=
  ∀ s t k (w : EWord) src dst lo hi,
    let sl := slotOf s t k
    let a := (opVal sl w.a).toNat
    let m := (tileOf s t).scratch
    let f (o l : Nat) : Nat := rdLE m (a + o) l
    let at_ (o : Nat) : Word := BitVec.ofNat 64 (f o 8)
    let idx := (List.range (f 20 4)).map (fun i => rdLE m (f 16 4 + 4 * i) 4)
    let row := f 24 4
    let rel := idx.map (fun i => i - lo)
    let off : Word := BitVec.ofNat 64 (lo * row)
    let sSpad := (BitVec.ofNat 8 (f 28 1)).getLsbD 0
    let dSpad := (BitVec.ofNat 8 (f 28 1)).getLsbD 1
    let s1 := setSlot (setSlot s t k sl) t k sl
    Runs s t k w.g [w.a] [] → sl.fence = [] → NotDet s t → Sound s t → a % 16 = 0 →
    a + 32 ≤ (imageOf s t sl.firing.ctx).scratch → f 16 4 + 4 * f 20 4 ≤ (imageOf s t sl.firing.ctx).scratch →
    Unheld s t k { spad := [(a, 32)] } → Unheld s t k { spad := [(f 16 4, 4 * f 20 4)] } →
    f 16 4 % 4 = 0 → 1 ≤ f 20 4 → f 20 4 ≤ 65536 → 1 ≤ row → row ≤ 65536 → f 28 1 < 4 → f 29 3 = 0 →
    lo ∈ idx → hi ∈ idx → (∀ i ∈ idx, lo ≤ i ∧ i ≤ hi) → CanIssue s1 t sl w.tl →
    (RangeAt s1 t sl sSpad .load (at_ 0 + off) ((hi - lo + 1) * row) src → RangeAt s1 t sl dSpad .store (at_ 8) (f 20 4 * row) dst →
      Goes (.gath w) s t k (numbered s1 t sl w.tl (.gath row rel) src dst))
    ∧ (RangeAt s1 t sl sSpad .load (at_ 0) (f 20 4 * row) src → RangeAt s1 t sl dSpad .store (at_ 8 + off) ((hi - lo + 1) * row) dst →
      Goes (.scat w) s t k (numbered s1 t sl w.tl (.scat row rel) src dst))

/-- R467: `mcrd` is issued for the tiles of its mask, which are tiles of the launch in the issuer's plot. -/
def MulticastReadWord : Prop :=
  ∀ s t k (w : EWord) src dst,
    let sl := slotOf s t k
    let c := (opVal sl w.c).toNat
    let mask : BitVec 16 := BitVec.ofNat 16 (c / 2 ^ 16)
    let n := 128 * (c % 64 + 1)
    let tileAt (i : Nat) : Nat := t / 512 * 512 + (t / 128 % 4 * 4 + i / 4) * 32 + (t % 32 / 4 * 4 + i % 4)
    let named : Prop := mask ≠ 0 ∧ ∀ i < 16, mask.getLsbD i = true → tileAt i ∈ (tileLaunch s t).tileset
    let fits : Prop := (opVal sl w.a).toNat % 16 = 0 ∧ (opVal sl w.b).toNat % 128 = 0 ∧ c / 64 % 1024 = 0 ∧ c < 2 ^ 32
    Runs s t k w.g [w.a, w.b, w.c] [] → sl.fence = [] → t < 2048 →
    (fits → named → CanIssue s t sl w.tl → RangeAt s t sl false .load (opVal sl w.b) n src →
      RangeAt s t sl true .store (opVal sl w.a) n dst →
      Goes (.mcrd w) s t k (numbered s t sl w.tl (.mcrd (c % 64 + 1) mask) src dst))
    ∧ (¬ fits ∨ ¬ named → FaultsWith (.mcrd w) s t k cIllegal)

/-- R468: `apf` copies the weights of an adapter into the scratchpad as a numbered command; an entry it may not use gives
"expert invalid" without a number; `epf` takes no number and never faults. -/
def AdapterFetchWords : Prop :=
  ∀ s t k (w : EWord),
    let sl := slotOf s t k
    let l := tileLaunch s t
    let e := (opVal sl w.b).toNat
    let d := l.dir.getD e {}
    (Runs s t k w.g [w.a, w.b] [] →
      (l.dir.length ≤ e ∨ d.state = 0 ∨ d.pol.getLsbD 5 = false → FaultsWith (.apf w) s t k cExpertInvalid)
      ∧ (e < l.dir.length → d.state = 1 → d.pol.getLsbD 5 = true → sl.fence = [] → CanIssue s t sl w.tl →
          Goes (.apf w) s t k (numbered s t sl w.tl .nothing (.spad 0) (.spad 0)))
      ∧ (∀ src dst, e < l.dir.length → d.state ≠ 0 → d.state ≠ 1 → d.pol.getLsbD 5 = true → sl.fence = [] → CanIssue s t sl w.tl →
          RangeAt s t sl false .load d.waddr d.wbytes src → RangeAt s t sl true .store (opVal sl w.a) d.wbytes dst →
          Goes (.apf w) s t k (numbered s t sl w.tl (.cpy d.wbytes) src dst)))
    ∧ (Runs s t k w.g [w.a] [] →
      ∃ s', Goes (.epf w) s t k s' ∧ s'.cmds = s.cmds ∧ s'.mem = s.mem
        ∧ (∀ x, ∃ i g, tileOf s' x = { tileOf s x with idle := i, gated := g })
        ∧ ∀ r ∈ s'.reqs, r ∈ s.reqs ∨ ∃ n, r.op = .prefetch n ∧ r.dest = .none ∧ r.slot = none)

/-- R472, R241, R294: the timeline words: `tlrd` gives the last number issued; `tlwait` waits for the counter, acquires and
delivers the lowest faulted command due; `tltest` gives the counter at once, marked in deterministic mode. -/
def TimelineWords : Prop :=
  ∀ s t k (w : EWord),
    let sl := slotOf s t k
    let c := sl.firing.ctx
    let tm := timelineOf s t c w.tl
    let v := (opVal sl w.b).toNat
    let s0 := acquireAt s t .sys
    let sl0 := { sl with firing := { sl.firing with clock := clkJoin sl.firing.clock tm.clock } }
    let rd : Sc := { g := w.g, d := some w.a }
    (rd.Runs s t k → Goes (.tlrd w) s t k (setSlot s t k (wrT sl w.a (BitVec.ofNat 64 tm.issued) (guardMark sl w.g))))
    ∧ (Runs s t k w.g [w.b] [] →
      (tm.issued < v → FaultsWith (.tlwait w) s t k cIllegal)
      ∧ (v ≤ tm.issued → tm.counter < v → Waits (.tlwait w) s t k)
      ∧ (v ≤ tm.issued → v ≤ tm.counter → (∀ p ∈ tm.faulted, v < p.1) → Goes (.tlwait w) s t k (setSlot s0 t k sl0))
      ∧ (∀ i p rest pre, v ≤ tm.issued → v ≤ tm.counter → tm.faulted = pre ++ (i, p) :: rest → (∀ q ∈ pre, v < q.1) → i ≤ v →
          exec (.tlwait w) s = .next (faultCodelet
            (setSlot (setTimeline s0 t c w.tl { tm with faulted := adel tm.faulted i }) t k sl0) t k p)))
    ∧ (rd.Runs s t k → (∀ p ∈ tm.faulted, tm.counter < p.1) →
        Goes (.tltest w) s t k (setSlot s0 t k
          (wrT sl0 w.a (BitVec.ofNat 64 tm.counter) (guardMark sl w.g || (tileLaunch s t).det))))

/-- R473, R474, R475, R194, R242: `bar` joins the generation under way, or the next when its tile has joined already, and waits
when it has joined both; `csig` sends a control token of payload 0 to port 3; `stepend` marks the tile. -/
def SynchronisationWords : Prop :=
  ∀ s t k (w : EWord),
    let sl := slotOf s t k
    let v := opVal sl w.a
    let tag := opVal sl w.b
    let h := (tileOf s t).launch
    let n := w.imm.toNat
    let b := aget (launchOf s h).bars n {}
    let here : Prop := isDest v ∧ (destOf v).tile.toNat = t ∧ v.extractLsb' 26 3 = (tileOf s t).ctx
      ∧ (nodeSlot s t (tileOf s t).ctx (destOf v).node.toNat).isSome = true
    let j : BarJoin := { tile := t, dest := destOf v, tag := tag.setWidth 20,
                         rel := { scope := w.scope, place := BitVec.ofNat 11 t, clock := sl.firing.clock } }
    let joined (b : Barrier) : State := modLaunch s h (fun l => { l with bars := aput l.bars n b })
    (Runs s t k w.g [w.a, w.b] [] →
      (¬ here → FaultsWith (.bar w) s t k cIllegal)
      ∧ (here → 0xFFFFF < tag.toNat → FaultsWith (.bar w) s t k cTagOverflow)
      ∧ (here → tag.toNat ≤ 0xFFFFF → relWaits s sl.reqs sl.firing.clock w.scope = true → Waits (.bar w) s t k)
      ∧ (here → tag.toNat ≤ 0xFFFFF → relWaits s sl.reqs sl.firing.clock w.scope = false →
          ((∀ x ∈ b.joins, x.tile ≠ t) → Goes (.bar w) s t k (joined { b with joins := b.joins ++ [j] }))
          ∧ ((∃ x ∈ b.joins, x.tile = t) → (∀ x ∈ b.next, x.tile ≠ t) → Goes (.bar w) s t k (joined { b with next := b.next ++ [j] }))
          ∧ ((∃ x ∈ b.joins, x.tile = t) → (∃ x ∈ b.next, x.tile = t) → Waits (.bar w) s t k)))
    ∧ (Runs s t k w.g [w.a, w.b] [] →
      (¬ (isDest v ∧ (destOf v).port = 3) → FaultsWith (.csig w) s t k cIllegal)
      ∧ (isDest v → (destOf v).port = 3 → tag.toNat ≤ 0xFFFFF → Usable s t w.ch →
          let f := sent s t sl (destOf v) (v.extractLsb' 26 3) (tag.setWidth 20) w.ch (.control 0)
          Goes (.csig w) s t k (sendFrom s t k sl { f with tok := { f.tok with
            rel := { f.tok.rel with scope := wider w.scope f.tok.rel.scope } } })))
    ∧ (Runs s t k w.g [] [] → Goes (.stepend w) s t k (modTile s t (fun x => { x with stepended := true })))

/-- R471: FORM at issue joins the group that waits for this member with the same number and an identical list, or begins one;
a list that omits or repeats the issuer gives "illegal encoding", as does one that names no tile or no package (log 72). -/
def GroupFormWord : Prop :=
  ∀ s t k (w : EWord) s1 a m,
    let sl := slotOf s t k
    let o := (opVal sl w.a).toNat
    let b := rdBytes (tileOf s t).scratch o 64
    let f (o l : Nat) : Nat := leNat ((b.drop o).take l)
    let s0 := setSlot s t k sl
    let entry (i : Nat) : Nat := leNat ((m.drop (4 * i)).take 4)
    let own (i : Nat) : Bool := entry i % 2048 = t && pkgIsLocal s0 (entry i / 2048)
    let sl1 := { sl with firing := { sl.firing with
      clock := aput sl.firing.clock sl.firing.party (aget sl.firing.clock sl.firing.party 0 + 1) } }
    let good : Prop := (∀ i < f 32 2, entry i < 2 ^ 19 ∧ isTile (entry i % 2048) = true ∧ ¬ (192 ≤ entry i / 2048 ∧ entry i / 2048 ≤ 254))
      ∧ (List.range (f 32 2)).countP own = 1
    Runs s t k w.g [w.a] [] → w.imm = 0 → sl.fence = [] → NotDet s t → Sound s t → o % 16 = 0 →
    o + 64 ≤ (imageOf s t sl.firing.ctx).scratch → Unheld s t k { spad := [(o, 64)] } →
    f 0 1 < 16 → f 1 3 = 0 → zeroes b 36 28 = true → 2 ≤ f 32 2 → f 32 2 ≤ 4096 →
    slotAddr s0 t sl .load (BitVec.ofNat 64 (f 24 8)) (4 * f 32 2) = .ok a →
    memRead (asAsker s0 sl.firing.party) a.asid ((tileLaunch s0 t).asid = 0) a.func a.ia.toNat (4 * f 32 2) = .ok s1 m → NotDet s1 t →
    (¬ good → exec (.coll w) s = .next (faultCodelet s1 t k (slotPoison s1 t k cIllegal)))
    ∧ (good → CanIssue s1 t sl1 w.tl →
        let h := (tileOf s1 t).launch
        let ms := membersOf s0 m (f 32 2)
        (∀ g pre rest, s1.groups = pre ++ g :: rest → g.group = f 0 1 → g.members = ms → g.formed = false → g.broken = false →
            t ∉ g.joined →
            (∀ x ∈ pre, ¬ (x.group = f 0 1 ∧ x.members = ms ∧ x.formed = false ∧ x.broken = false ∧ t ∉ x.joined)) →
            Goes (.coll w) s t k (numbered (setSlot (modGroup s1 g.id (fun x =>
              { x with joined := x.joined ++ [t], owner := aput x.owner t h })) t k sl1) t sl1 w.tl (.coll g.id 0 .b64 0 0 0) (.spad 0) (.spad 0)))
        ∧ ((∀ x ∈ s1.groups, ¬ (x.group = f 0 1 ∧ x.members = ms ∧ x.formed = false ∧ x.broken = false ∧ t ∉ x.joined)) →
            Goes (.coll w) s t k (numbered (setSlot { s1 with
                nextId := s1.nextId + 1,
                groups := s1.groups ++ [{ id := s1.nextId, group := f 0 1, members := ms, joined := [t], owner := [(t, h)] }] } t k sl1)
              t sl1 w.tl (.coll s1.nextId 0 .b64 0 0 0) (.spad 0) (.spad 0))))

/-- R469 to R471: a collective at issue takes the next sequence number of its member in the group; COUNT that the members do not
divide gives "illegal encoding" for ops 5 and 7. -/
def CollectiveWord : Prop :=
  ∀ s t k (w : EWord) g src dst,
    let sl := slotOf s t k
    let o := (opVal sl w.a).toNat
    let b := rdBytes (tileOf s t).scratch o 64
    let f (o l : Nat) : Nat := leNat ((b.drop o).take l)
    let s0 := setSlot s t k sl
    let op := w.imm.toNat
    let n := g.members.length
    let rank := rankOf g t
    Runs s t k w.g [w.a] [] → 1 ≤ op → op ≤ 7 → sl.fence = [] → NotDet s t → Sound s t → o % 16 = 0 →
    o + 64 ≤ (imageOf s t sl.firing.ctx).scratch → Unheld s t k { spad := [(o, 64)] } →
    f 0 1 < 16 → f 1 3 = 0 → zeroes b 36 28 = true → 1 ≤ f 4 4 → f 4 4 ≤ 2 ^ 24 →
    ((groupOf s0 (f 0 1) t = none ∨ (groupOf s0 (f 0 1) t = some g ∧ (g.formed = false ∨ g.broken = true))) → CanIssue s0 t sl w.tl →
        Goes (.coll w) s t k (numbered s0 t sl w.tl (.coll 0 op w.ty (f 4 4) (f 34 2) 0) (.spad 0) (.spad 0)))
    ∧ (groupOf s0 (f 0 1) t = some g → g.formed = true → g.broken = false →
      ((op = 5 ∨ op = 7) → f 4 4 % n ≠ 0 → exec (.coll w) s = .next (faultCodelet s0 t k (slotPoison s0 t k cIllegal)))
      ∧ (((op = 5 ∨ op = 7) → f 4 4 % n = 0) → (op = 6 → f 34 2 < n) → CanIssue s0 t sl w.tl →
          let s1 := modGroup s0 g.id (fun x => { x with issued := aput x.issued t (aget g.issued t 0 + 1) })
          let inLen := (if op = 6 ∧ rank ≠ f 34 2 then 0 else f 4 4) * w.ty.bytes
          let outLen := (if op = 4 then n * f 4 4 else if op = 5 then f 4 4 / n else f 4 4) * w.ty.bytes
          RangeAt s1 t sl false .load (BitVec.ofNat 64 (f 8 8)) inLen src →
          RangeAt s1 t sl false .store (BitVec.ofNat 64 (f 16 8)) outLen dst →
          Goes (.coll w) s t k (numbered s1 t sl w.tl (.coll g.id op w.ty (f 4 4) (f 34 2) (aget g.issued t 0)) src dst)))

/-! ## How commands are performed -/

/-- R241, R294: a command completes once; the counter of its timeline then shows the longest completed prefix: it stops at the
first number that has not completed, and every number it passes had. -/
def CounterShowsPrefix : Prop :=
  ∀ s (x : Cmd) p c,
    let tm := timelineOf s x.tile x.ctx x.tl
    let done (n : Nat) : Prop := n = x.num ∨ (afind tm.ahead n).isSome = true
    let tm' := timelineOf (completeCmd s x p c) x.tile x.ctx x.tl
    (completeCmd s x p c).cmds = s.cmds.filter (fun y => y.id ≠ x.id)
    ∧ tm'.issued = tm.issued ∧ tm.counter ≤ tm'.counter
    ∧ (∀ n, tm.counter < n → n ≤ tm'.counter → done n) ∧ afind tm'.ahead (tm'.counter + 1) = none
    ∧ (∀ n, tm'.counter < n → done n → (afind tm'.ahead n).isSome = true)
    ∧ (p = none → tm'.faulted = tm.faulted) ∧ (∀ q, p = some q → tm'.faulted = aput tm.faulted x.num q)

/-- R464, R465: a `cpy` between scratchpad ranges of a tile moves exactly its bytes; the counter then advances. -/
def CopyMovesBytes : Prop :=
  ∀ s i x n a d,
    s.focus = .event (.n i) → s.cmds.find? (fun y => y.id = i) = some x → x.kind = .cpy n → x.src = .spad a → x.dst = .spad d →
    n ≤ 2 ^ 32 → x.progress = 0 → NotDet s x.tile → Sound s x.tile →
    ∃ s1, exec .engineCommandComplete s = .next (completeCmd s1 x none x.after)
      ∧ s1.cmds = s.cmds ∧ s1.mem = s.mem
      ∧ ∀ b, rd8 (tileOf s1 x.tile).scratch b
          = if d ≤ b ∧ b < d + n then rd8 (tileOf s x.tile).scratch (a + (b - d)) else rd8 (tileOf s x.tile).scratch b

/-- R466: the bytes of `gath` and `scat` lie row by row where their formulas say, relative to the checked ranges. -/
def RowExtents : Prop :=
  ∀ (x : Cmd) row idx,
    (x.kind = .gath row idx → cmdExtents x = (idx.map (fun i => (i * row, row)), [(0, idx.length * row)]))
    ∧ (x.kind = .scat row idx → cmdExtents x = ([(0, idx.length * row)], idx.map (fun i => (i * row, row))))

/-- R465, R294, R241: a command that has read its bytes and written all its lines completes; one whose reads or writes fault
completes as faulted, with the fault's poison at its address; one whose reads must wait stays as it is. -/
def CommandCompletes : Prop :=
  ∀ s i x s1,
    let s0 := { s with focus := .idle }
    let es := cmdExtents x
    s.focus = .event (.n i) → s.cmds.find? (fun y => y.id = i) = some x → collKind x = none → trackCmd (asAsker s0 x.id) x = .ok s1 →
    (∀ w a b, readAll s1 x es.1 = .held w a b ∨ readAll s1 x es.1 = .stall w →
      exec .engineCommandComplete s = .next (keepWaits s0 w))
    ∧ (∀ s2 c d, readAll s1 x es.1 = .fault s2 c d →
      exec .engineCommandComplete s = .next (completeCmd s2 x (some (cmdPoison s2 x c (rangeIA x.src) 0)) x.after))
    ∧ (∀ s2 bs, readAll s1 x es.1 = .ok s2 bs →
        let im := cmdImage x bs
        let lines := (byLine (rangeSkew x.dst) (allPieces (rangeSkew x.dst) es.2 im.1)).drop x.progress
        (∀ s3 n, writeLines x (2 ^ 32) s2 lines x.progress = .part s3 n →
          exec .engineCommandComplete s = .next { s3 with cmds := s3.cmds.map (fun y => if y.id = x.id then { y with progress := n } else y) })
        ∧ (∀ s3 c, writeLines x (2 ^ 32) s2 lines x.progress = .fault s3 c →
          exec .engineCommandComplete s = .next (completeCmd s3 x (some (cmdPoison s3 x c (rangeIA x.dst) 0)) x.after))
        ∧ (∀ s3 s4 f, writeLines x (2 ^ 32) s2 lines x.progress = .done s3 →
            setSticky s3 x.tile { party := x.party, clock := x.after, tag := x.tag, ctx := x.ctx } im.2.stat = .ok (s4, f) →
            exec .engineCommandComplete s = .next (completeCmd s4 x none f.clock)))

/-- Every member of a group has formed: those here and, by rank, those of other packages (R471). -/
def AllFormed (g : CollGroup) : Prop :=
  ∀ r m, g.members[r]? = some m → (m.2 = 255 ∧ m.1 ∈ g.joined) ∨ (m.2 ≠ 255 ∧ r ∈ g.farFormed)

/-- R471: FORM completes when every member has formed, with the group's sequence number 0. Model's choices in it: log 10. -/
def FormCompletes : Prop :=
  ∀ s i x gid ty c r q g,
    let s0 := { s with focus := .idle }
    s.focus = .event (.n i) → s.cmds.find? (fun y => y.id = i) = some x → x.kind = .coll gid 0 ty c r q →
    s.groups.find? (fun y => y.id = gid) = some g →
    (g.formed = true → exec .engineCommandComplete s = .next (completeCmd s0 x none x.after))
    ∧ (g.formed = false → g.broken = true → exec .engineCommandComplete s = .next (faultCmd s0 x cPeerAborted))
    ∧ (g.formed = false → g.broken = false → AllFormed g →
        exec .engineCommandComplete s = .next (completeCmd (modGroup s0 gid (fun y => { y with formed := true, seq := 0 })) x none x.after))
    ∧ (g.formed = false → g.broken = false → ¬ AllFormed g →
        exec .engineCommandComplete s = .next s0)

/-- R470: what each rank receives: the reduction in ascending rank order, the inputs in rank order, a segment of the sum, the
root's input, a segment of every rank's input. -/
def CollectiveResults : Prop :=
  ∀ (ty : Ty) (count root r : Nat) (ins : List (List Byte)),
    let n := ins.length
    let B := ty.bytes
    let el (b : List Byte) (i : Nat) : Nat := leNat ((b.drop (B * i)).take B)
    0 < n → 0 < B → (∀ b ∈ ins, b.length = count * B) →
    (∀ op, op = 1 ∨ op = 2 ∨ op = 3 → ∀ i < count,
      el (collImage op ty count root r ins) i = reduce op ty (ins.map (fun b => el b i)) % 2 ^ (8 * B))
    ∧ collImage 4 ty count root r ins = ins.flatten
    ∧ (n ∣ count → collImage 5 ty count root r ins
        = ((collImage 1 ty count root r ins).drop (count * B / n * r)).take (count * B / n))
    ∧ collImage 6 ty count root r ins = ins.getD root []
    ∧ (n ∣ count → collImage 7 ty count root r ins = ins.flatMap (fun b => (b.drop (count * B / n * r)).take (count * B / n)))

/-- R470: the reduction of one element, one rank after another: sums of an integer type wrap at its width, max and min compare
as the type reads; floating types combine in FP32 and convert back with RNE. -/
def Reductions : Prop :=
  (∀ (ty : Ty) (xs : List Nat) (y : Nat), xs ≠ [] → (∀ x ∈ xs, x < 2 ^ (8 * ty.bytes)) → y < 2 ^ (8 * ty.bytes) →
    let w := 2 ^ (8 * ty.bytes)
    let z (n : Nat) : Int := (n : Int).bmod w
    (ty = .z8 ∨ ty = .z32 ∨ ty = .z64 →
      reduce 1 ty (xs ++ [y]) = (reduce 1 ty xs + y) % w
      ∧ reduce 2 ty (xs ++ [y]) = max (reduce 2 ty xs) y ∧ reduce 3 ty (xs ++ [y]) = min (reduce 3 ty xs) y)
    ∧ (ty = .s8 ∨ ty = .s32 ∨ ty = .s64 →
      reduce 1 ty (xs ++ [y]) = (reduce 1 ty xs + y) % w
      ∧ z (reduce 2 ty (xs ++ [y])) = max (z (reduce 2 ty xs)) (z y) ∧ z (reduce 3 ty (xs ++ [y])) = min (z (reduce 3 ty xs)) (z y)))
  ∧ ∀ (op : Nat) (ty : Ty) (x : Nat) (xs : List Nat), (tyF ty).isSome = true →
    let dec (n : Nat) : BitVec 32 := f32 (tyVal ty n)
    reduce op ty (x :: xs) = (tyCv ty .rne 0 (v32 (xs.foldl (fun a n => redF op a (dec n)) (dec x)))).1

/-- The part of the member of a rank: its command here, or what it brings from another package (R470, R471). -/
def PartOf (s : State) (g : CollGroup) (q r : Nat) (m : Nat × BitVec 8) : CollPart → Prop
  | .here x => m.2 = 255 ∧ memberCmd s g.id q m.1 = some x
  | .far i => m.2 ≠ 255 ∧ afind g.farIn r = some i ∧ i.seq = q

/-- A part agrees on op, type, COUNT and ROOT (R471). -/
def Agrees (op : Nat) (ty : Ty) (count root : Nat) : CollPart → Prop
  | .here x => ∃ g q, collKind x = some (g, op, ty, count, root, q)
  | .far i => i.op = op ∧ i.ty = ty ∧ i.count = count ∧ i.root = root

/-- R470, R471, R241, R315: a collective is performed once the parts of all its members stand, on this package and on others: all see
the same op, type, COUNT and ROOT, or every command completes with "group broken"; a member whose input faults has its poison and the
others "peer aborted"; the counters advance when every destination is written. -/
def CollectivePerforms : Prop :=
  ∀ s i x gid op ty count root q g (ps : List CollPart),
    let s0 := { s with focus := .idle }
    let xs := hereParts ps
    let broken (u : State) : State := modGroup u gid (fun g => { g with broken := true, seq := g.seq + 1 })
    s.focus = .event (.n i) → s.cmds.find? (fun y => y.id = i) = some x → x.kind = .coll gid op ty count root q → op ≠ 0 →
    s.groups.find? (fun y => y.id = gid) = some g → g.id = gid →
    (g.broken = true → exec .engineCommandComplete s = .next s0)
    ∧ (g.broken = false → ps.length = g.members.length →
      (∀ r m p, g.members[r]? = some m → ps[r]? = some p → PartOf s0 g q r m p) →
      ((∃ p ∈ ps, ¬ Agrees op ty count root p) →
        exec .engineCommandComplete s = .next (broken (xs.foldl (fun u y => faultCmd u y cGroupBroken) s0)))
      ∧ ((∀ p ∈ ps, Agrees op ty count root p) →
        let ranks := ps.zip (List.range ps.length)
        let ins := collInputs s0 (ranks.map (fun p => (p.1, (if op = 6 ∧ p.2 ≠ root then 0 else count) * ty.bytes)))
        (∀ s1 y p, ins = .fault s1 y p →
          exec .engineCommandComplete s = .next (broken
            ((xs.filter (fun z => z.id ≠ y.id)).foldl (fun u z => faultCmd u z cPeerAborted) (completeCmd s1 y (some p) y.after))))
        ∧ ∀ s1 bs s2 rs, ins = .ok s1 bs →
          collOutputs s1 (ranks.map (fun p => (p.1, collImage op ty count root p.2 bs))) = .ok s2 rs →
          exec .engineCommandComplete s = .next (modGroup
            (rs.foldl (fun u r => completeCmd u r.1 r.2 (xs.foldl (fun c y => clkJoin c y.after) [])) s2) gid
            (fun g => { g with seq := g.seq + 1, farIn := [] }))))

/-- R314, R305: an abort of a broken group completes the group's commands of a tile as faulted with "peer aborted"; 2 ms after
SAVE a collective in progress is aborted and its group is broken. -/
def CollectiveAborts : Prop :=
  (∀ s t gid g,
    let s0 := { s with focus := .idle }
    s.focus = .event (.nn t gid) → s.groups.find? (fun y => y.id = gid) = some g →
    (g.broken = true → exec .collectiveAbort s = .next ((s.cmds.filter (fun x => x.tile = t &&
        (collKind x).any (fun q => q.1 = gid))).foldl (fun u x => faultCmd u x cPeerAborted) s0))
    ∧ (g.broken = false → exec .collectiveAbort s = .next s0))
  ∧ ∀ s i x gid op ty c r q,
    let s0 := { s with focus := .idle }
    let l := launchOf s (tileOf s x.tile).launch
    s.focus = .event (.n i) → s.cmds.find? (fun y => y.id = i) = some x → x.kind = .coll gid op ty c r q →
    let passed := (s.time + (2 ^ 64 - l.saveSince % 2 ^ 64)) % 2 ^ 64
    (l.phase = .saving → 2000000 ≤ passed →
      exec .collectiveSaveExpire s = .next (modGroup (faultCmd s0 x cPeerAborted) gid (fun g => { g with broken := true, seq := g.seq + 1 })))
    ∧ (l.phase ≠ .saving ∨ passed < 2000000 → exec .collectiveSaveExpire s = .next s0)


/-! ## Nodes (R178 to R192, R292, R338 to R359) -/

/-- A firing without a poison operand and without a fault of matching is performed. -/
def Fires (s : State) (t : Nat) (f : Firing) : Prop :=
  s.focus = .firing t f ∧ f.err = none ∧ ∀ x ∈ f.ops, x.2.poison? = none

/-- A value port reads `v`: the literal on port 1, else the payload of a scalar or control token (R339, R342). -/
def Reads (r : NodeRec) (f : Firing) (p : Nat) (v : Word) : Prop :=
  (p = 1 ∧ r.lit = true ∧ v = r.literal.signExtend 64)
    ∨ (¬ (p = 1 ∧ r.lit = true) ∧ ∃ k, afind f.ops p = some k ∧ (k.body = .scalar v ∨ k.body = .control v))

/-- A burst or coordinate-sparse token has matched at a value port. -/
def DataAt (r : NodeRec) (f : Firing) (p : Nat) : Prop :=
  ¬ (p = 1 ∧ r.lit = true) ∧ ∃ k b, afind f.ops p = some k ∧ (k.body = .burst b ∨ k.body = .sparse b)

/-- Once the firing's work has brought the state `u`, its tokens leave for the valid fields of `ds` in order, with the header
of R340; a channel that is not valid brings "channel invalid" in their place; a node without a valid field emits nothing. -/
def SendsAfter (i : Instr) (s u : State) (t : Nat) (f : Firing) (m : Emission) (ds : List Dest) : Prop :=
  let ch : BitVec 5 := if m.chan.toNat < 4 then 4 else m.chan
  let e := chanOf (tileOf u t) ch
  let vs := ds.filter (·.v)
  let tok (d : Dest) : Token :=
    { dest := d, ctx := f.ctx, tag := m.tag, chan := ch, seq := m.seq, rankw := m.rankw, origin := BitVec.ofNat 11 t, body := m.body,
      batch := f.batch, rel := { scope := chanScope e, place := BitVec.ofNat 11 t, clock := f.clock } }
  (vs = [] ∨ e.getLsbD 63 = true →
    exec i s = .next (doneFiring { u with net := u.net ++ vs.map (fun d =>
      { tok := tok d, launch := (tileOf u t).launch, since := u.time, after := knownBefore u (chanScope e) f.clock }) } t f.party))
  ∧ (vs ≠ [] → e.getLsbD 63 = false → exec i s = .next (doneFiring (takeFault u t f (mkPoison u t f cChanInvalid)) t f.party))

/-- The firing does nothing but send. -/
def Sends (i : Instr) (s : State) (t : Nat) (f : Firing) (m : Emission) (ds : List Dest) : Prop :=
  SendsAfter i s { s with focus := .idle } t f m ds

/-- The firing faults with a code (R292). -/
def NodeFaults (i : Instr) (s : State) (t : Nat) (f : Firing) (c : BitVec 8) : Prop :=
  let s0 := { s with focus := .idle }
  exec i s = .next (doneFiring (takeFault s0 t f (mkPoison s0 t f c)) t f.party)

/-- What a node sends under the header of its leading token (R340). -/
def under (f : Firing) (b : Body) : Emission :=
  { chan := (leadTok f).chan, tag := f.tag, seq := (leadTok f).seq, rankw := (leadTok f).rankw, body := b }

/-- R340: the leading token: the port-3 token of a trigger-fired kind, else that of the lowest port. -/
def LeadingToken : Prop :=
  ∀ (f : Firing) k, (afind f.ops 3 = some k → leadTok f = k)
    ∧ (∀ p rest, f.ops = (p, k) :: rest → afind f.ops 3 = none → leadTok f = k)

/-- R342: the arithmetic kinds send the 64-bit result of in0 and in1, or of in0 and the literal. -/
def NodeArithmetic : Prop :=
  ∀ (r : NodeRec) s t f a b, Fires s t f → Reads r f 0 a → Reads r f 1 b →
    let out (i : Instr) (v : Word) : Prop := Sends i s t f (under f (.scalar v)) [r.destA, r.destB]
    let n := b.toNat % 64
    out (.nodeAdd r) (BitVec.ofNat 64 (a.toNat + b.toNat))
    ∧ out (.nodeSub r) (BitVec.ofInt 64 ((a.toNat : Int) - b.toNat))
    ∧ out (.nodeMul r) (BitVec.ofNat 64 (a.toNat * b.toNat))
    ∧ out (.nodeAnd r) (ofBits (fun i => a.getLsbD i && b.getLsbD i))
    ∧ out (.nodeOr r) (ofBits (fun i => a.getLsbD i || b.getLsbD i))
    ∧ out (.nodeXor r) (ofBits (fun i => a.getLsbD i != b.getLsbD i))
    ∧ out (.nodeShl r) (BitVec.ofNat 64 (a.toNat * 2 ^ n))
    ∧ out (.nodeShr r) (BitVec.ofNat 64 (a.toNat / 2 ^ n))
    ∧ out (.nodeSar r) (BitVec.ofInt 64 (a.toInt / 2 ^ n))
    ∧ out (.nodeMin r) (BitVec.ofInt 64 (min a.toInt b.toInt))
    ∧ out (.nodeMax r) (BitVec.ofInt 64 (max a.toInt b.toInt))
    ∧ (∀ p, (p, (r.literal.extractLsb' 0 4).toNat) ∈
          [(decide (a = b), 0), (decide (a ≠ b), 1), (decide (a.toInt < b.toInt), 2), (decide (a.toInt ≤ b.toInt), 3),
           (decide (b.toInt < a.toInt), 4), (decide (b.toInt ≤ a.toInt), 5), (decide (a.toNat < b.toNat), 6),
           (decide (a.toNat ≤ b.toNat), 7), (decide (b.toNat < a.toNat), 8), (decide (b.toNat ≤ a.toNat), 9)] →
        out (.nodeCmp r) (if p then 1 else 0))

/-- R343, R344: selection and routing forward the chosen token, its kind and payload unchanged. -/
def NodeRouting : Prop :=
  ∀ (r : NodeRec) s t f k v, Fires s t f →
    let both := [r.destA, r.destB]
    let fwd (i : Instr) (k : Token) (ds : List Dest) : Prop := Sends i s t f (under f k.body) ds
    (Reads r f 0 v →
      (v = 0 → afind f.ops 2 = some k → fwd (.nodeSel r) k both)
      ∧ (v ≠ 0 → r.lit = false → afind f.ops 1 = some k → fwd (.nodeSel r) k both)
      ∧ (v ≠ 0 → r.lit = true → Sends (.nodeSel r) s t f (under f (.scalar (r.literal.signExtend 64))) both))
    ∧ (afind f.ops 0 = some k →
      fwd (.nodeDup r) k both
      ∧ (Reads r f 1 v → (v ≠ 0 → fwd (.nodeSteer r) k [r.destA]) ∧ (v = 0 → fwd (.nodeSteer r) k [r.destB]))
      ∧ (Reads r f 1 v →
          (v.toNat < (r.literal.extractLsb' 0 12).toNat →
            fwd (.nodeSwitch r) k [{ r.destA with node := r.destA.node + BitVec.ofNat 12 v.toNat }])
          ∧ ((r.literal.extractLsb' 0 12).toNat ≤ v.toNat → fwd (.nodeSwitch r) k [r.destB]))
      ∧ (r.nops ≠ 3 → fwd (.nodeGate r) k both)
      ∧ (r.nops = 3 → Reads r f 2 v → (v ≠ 0 → fwd (.nodeGate r) k [r.destA]) ∧ (v = 0 → fwd (.nodeGate r) k [r.destB])))
    ∧ fwd (.nodeMerge r) (leadTok f) both

/-- R345, R293, R198, R358: `const` sends its literal; `sink` consumes its tokens, counts them with FINAL = 1 and records its
poisons; `pchk` separates poison from values. -/
def NodeConstSinkPchk : Prop :=
  ∀ (r : NodeRec) s t f,
    let s0 := { s with focus := .idle }
    let h := (tileOf s t).launch
    (Fires s t f → Sends (.nodeConst r) s t f (under f (.scalar (r.literal.signExtend 64))) [r.destA, r.destB])
    ∧ (Fires s t f → r.literal.getLsbD 0 = false → exec (.nodeSink r) s = .next (doneFiring s0 t f.party))
    ∧ (Fires s t f → r.literal.getLsbD 0 = true →
        exec (.nodeSink r) s = .next (doneFiring (modTile s0 t (fun x => { x with sunk := x.sunk + f.ops.length })) t f.party))
    ∧ (∀ n k p, s.focus = .firing t f → f.err = none → f.ops = [(n, k)] → k.body = .poison p → r.literal.getLsbD 0 = false →
        exec (.nodeSink r) s = .next (doneFiring (logPoison s0 h 1 p f.node t f.ctx []) t f.party))
    ∧ (∀ k, Fires s t f → afind f.ops 0 = some k → Sends (.nodePchk r) s t f (under f k.body) [r.destA])
    ∧ (∀ k p, s.focus = .firing t f → f.err = none → afind f.ops 0 = some k → k.body = .poison p →
        SendsAfter (.nodePchk r) s (if r.literal.getLsbD 0 then logPoison s0 h 1 p f.node t f.ctx [] else s0) t f
          (under f (.scalar p.aux)) [r.destB])

/-- R346, R178: the tag nodes forward their token under the new tag, or fault with "tag overflow". -/
def NodeTags : Prop :=
  ∀ (r : NodeRec) s t f k, Fires s t f → afind f.ops 0 = some k →
    let T := f.tag.toNat
    let S := (r.literal.extractLsb' 0 5).toNat
    let goesTo (i : Instr) (g : Nat) : Prop :=
      (g ≤ 0xFFFFF → Sends i s t f { under f k.body with tag := BitVec.ofNat 20 g } [r.destA, r.destB])
      ∧ (0xFFFFF < g → NodeFaults i s t f cTagOverflow)
    goesTo (.nodeTagin r) (T * 2 ^ S)
    ∧ (T % 2 ^ S = 2 ^ S - 1 → NodeFaults (.nodeTagnext r) s t f cTagOverflow)
    ∧ (T % 2 ^ S ≠ 2 ^ S - 1 → goesTo (.nodeTagnext r) (T + 1))
    ∧ goesTo (.nodeTagout r) (T / 2 ^ S)
    ∧ (r.lit = true → goesTo (.nodeTagset r) r.literal.toNat)
    ∧ (∀ v, r.lit = false → Reads r f 1 v → goesTo (.nodeTagset r) v.toNat)

/-- R347: `count` faults when its run passes tag 0xFFFFF; else its run begins; the tokens of the first run of a node leave one
by one to A, with tag T + i, payload i and SEQ i, and the last to B with payload N. Model's choices in it: log 35. -/
def NodeCountRuns : Prop :=
  (∀ (r : NodeRec) s t f (N : Nat), Fires s t f →
    ((r.nops = 1 ∧ N = r.literal.toNat) ∨ (r.nops ≠ 1 ∧ ∃ v, Reads r f 1 v ∧ N = v.toNat)) →
    let ch : BitVec 5 := if (leadTok f).chan.toNat < 4 then 4 else (leadTok f).chan
    (0x100000 < N ∨ (0 < N ∧ 0xFFFFF < f.tag.toNat + N - 1) → NodeFaults (.nodeCount r) s t f cTagOverflow)
    ∧ (N ≤ 0x100000 → (0 < N → f.tag.toNat + N - 1 ≤ 0xFFFFF) → Usable s t ch →
        exec (.nodeCount r) s = .next (doneFiring (modTile { s with focus := .idle } t (fun x =>
          { x with runs := x.runs ++ [{ next := 0, stop := N, firing := f }] })) t f.party)))
  ∧ ∀ s t x rest, (tileOf s t).runs = x :: rest → tileRuns s t = true →
      let f := x.firing
      let r := nodeRec s t f.ctx f.node
      let m := under f (.scalar (BitVec.ofNat 64 x.next))
      (x.next < x.stop →
        stepRun s t 0 = emitTo (modTile s t (fun y => { y with runs := { x with next := x.next + 1 } :: rest })) t f
          { m with tag := f.tag + BitVec.ofNat 20 x.next, seq := BitVec.ofNat 16 x.next } [r.destA])
      ∧ (x.stop ≤ x.next → stepRun s t 0 = emitTo (modTile s t (fun y => { y with runs := rest })) t f m [r.destB])

/-- R348, R349: a firing of `join` sends the sum with SEQ 0 and RANKW 0, one of `cwait` the count with SEQ 0. -/
def NodeJoinCwait : Prop :=
  ∀ (r : NodeRec) s t f k, Fires s t f →
    (afind f.ops 0 = some k →
      Sends (.nodeJoin r) s t f { under f k.body with seq := 0, rankw := 0 } [r.destA, r.destB])
    ∧ (afind f.ops 3 = some k → Sends (.nodeCwait r) s t f { under f k.body with seq := 0 } [r.destA, r.destB])

/-- R348: `join` adds each counted payload modulo 2^64 to the tag's counter and fires with the sum at the N-th token, led by the
token of the lowest channel. -/
def JoinCounts : Prop :=
  ∀ s t (g : Flight) v x (r : NodeRec),
    let k := g.tok
    let n := k.dest.node.toNat
    let N := (r.literal.extractLsb' 0 16).toNat
    let key := countKey k.ctx n k.tag
    nodeRec s t k.ctx n = r → nodeInstr s t k.ctx n = some (.nodeJoin r) → (nodeSlot s t k.ctx n).isSome = true → k.dest.port = 0 →
    k.body = .scalar v → k.batch = none → afind (tileOf s t).counts key = some x →
    (∀ y ∈ (tileOf s t).store, ¬ (y.tok.ctx = k.ctx ∧ y.tok.dest.node.toNat = n ∧ y.tok.dest.port.toNat = 0)) →
    let lead : Token := match x.lead with | some l => if k.chan.toNat < l.chan.toNat then k else l | none => k
    let x1 : Counting := { x with count := x.count + 1, sum := BitVec.ofNat 64 (x.sum.toNat + v.toNat), lead := some lead,
                                  rels := x.rels ++ k.rel :: k.more }
    (x.count + 1 < N → matchTok s t g = modTile s t (fun tl => { tl with counts := aput tl.counts key x1 }))
    ∧ (N ≤ x.count + 1 → ∃ f, matchTok s t g = modTile (readyFiring s t f) t (fun tl => { tl with counts := adel tl.counts key })
        ∧ f.node = n ∧ f.ctx = k.ctx ∧ f.tag = k.tag ∧ f.ops = [(0, { lead with body := .scalar x1.sum })] ∧ f.rels = x1.rels)

/-- R353, R189, R191, R384: `fire` starts its codelet at word 0 in the lowest free slot; its inputs read the operand values, the
literal, or the descriptor of a payload; temporaries are 0 in deterministic mode; SEED and WINSEL are copied.
Model's choices in it: log 5. -/
def NodeFire : Prop :=
  ∀ (r : NodeRec) s t f (k : Fin 4), Fires s t f → (slotOf s t k).phase = .free → (∀ j < k, (slotOf s t j).phase ≠ .free) →
    (aget (tileOf s t).graph f.ctx.toNat {}).codes.getD (r.literal.extractLsb' 0 10).toNat [] ≠ [] →
    ∃ s', exec (.nodeFire r) s = .next s' ∧ (∀ j ≠ k, slotOf s' t j = slotOf s t j) ∧ s'.mem = s.mem ∧ s'.net = s.net
      ∧ let sl := slotOf s' t k
        sl.phase = .running ∧ sl.firing = f ∧ sl.code = (r.literal.extractLsb' 0 10).toNat ∧ sl.word = 0
        ∧ sl.p = Vector.replicate 4 false ∧ sl.seed = aget (tileOf s t).seed f.ctx.toNat 0
        ∧ sl.winsel = aget (tileOf s t).winsel f.ctx.toNat 0
        ∧ ((tileLaunch s t).det = true → sl.t = Vector.replicate 8 0)
        ∧ ∀ i : Fin 3, (∀ v, Reads r f i v → sl.inp[i] = v)
            ∧ ∀ q b, ¬ (i.val = 1 ∧ r.lit = true) → afind f.ops i = some q → (q.body = .burst b ∨ q.body = .sparse b) →
                let w := sl.inp[i]
                w.extractLsb' 0 16 = b.nelem ∧ w.extractLsb' 16 8 = b.fmt ∧ w.extractLsb' 24 3 = b.dtag
                ∧ w.extractLsb' 32 16 = q.seq ∧ (w.extractLsb' 58 6).toNat = (b.bytes.length + 63) / 64 % 64

/-- R354: `mctl` queues the `mma` that its payload and literal name, for the matrix sequencer; an OA or OB past VREGS gives
"partition range", a type that `mma` does not take "illegal encoding". -/
def NodeMctl : Prop :=
  ∀ (r : NodeRec) s t f v ty, Fires s t f → Reads r f 0 v → Ty.ofCode (v.extractLsb' 16 4).toNat = some ty →
    let s0 := { s with focus := .idle }
    let w : SWord :=
      { g := ⟨0, false, false⟩, ty := ty, ad := r.literal.extractLsb' 4 6, oa := v.extractLsb' 0 8, ob := v.extractLsb' 8 8,
        shr := r.literal.extractLsb' 0 4, z := r.literal.getLsbD 10, dec := r.literal.getLsbD 11, hold := r.literal.getLsbD 12,
        x := .t 0, tb := v.extractLsb' 20 4 }
    let legal : Prop := (Instr.mma w).check = none
    let vregs := (imageOf s t f.ctx).vregs
    (¬ legal → NodeFaults (.nodeMctl r) s t f cIllegal)
    ∧ (legal → vregs ≤ w.oa.toNat ∨ vregs ≤ w.ob.toNat → NodeFaults (.nodeMctl r) s t f cPartition)
    ∧ (∀ p s1 f1 x, legal → w.oa.toNat < vregs → w.ob.toNat < vregs → mmaPlan (matEnv s t f.ctx) w (v >>> 24) = .ok p →
        queueMat s0 t f none (aget (tileOf s t).seed f.ctx.toNat 0) (.mma w) (v >>> 24) p [] = .ok (s1, f1, x) →
        exec (.nodeMctl r) s = .next s1)

/-- A burst or coordinate-sparse token of a fixed-width element type: its elements, which of them survive, and the survivors
(R157, R168, R355). -/
def SparseTok (k : Token) (b : Burst) (bit : Nat → Bool) (vals : List Byte) : Prop :=
  (k.body = .sparse b ∧ (∀ i < b.nelem.toNat, bit i = (b.bytes.getD (i / 8) 0).getLsbD (i % 8))
      ∧ vals = b.bytes.drop ((b.nelem.toNat + 7) / 8))
  ∨ (k.body = .burst b ∧ (∀ i < b.nelem.toNat, bit i = true) ∧ vals = b.bytes)

/-- R355: `isect` sends to A and B the survivors of each port at the set bits of both bitmaps, behind the common bitmap; tokens
of unequal NELEM or format give "route filter". Model's choices in it: log 34. -/
def NodeIsect : Prop :=
  ∀ (r : NodeRec) s t f ka kb a b bitA bitB va vb ty, Fires s t f → afind f.ops 0 = some ka → afind f.ops 1 = some kb →
    SparseTok ka a bitA va → SparseTok kb b bitB vb → efmt a.fmt.toNat = some (.ty ty) → (efmt b.fmt.toNat).isSome = true →
    b.fmt.toNat ≠ 0x0C →
    let n := a.nelem.toNat
    let m (i : Nat) : Bool := bitA i && bitB i
    let pick (bit : Nat → Bool) (vals : List Byte) : List Byte :=
      ((List.range n).filter m).flatMap (fun i => (vals.drop (ty.bytes * (List.range i).countP bit)).take ty.bytes)
    let head := (List.range ((n + 7) / 8)).map (fun j => BitVec.ofNat 8 ((List.range 8).map (fun i =>
      if 8 * j + i < n ∧ m (8 * j + i) = true then 2 ^ i else 0)).sum)
    let fl (l : List Byte) : List Byte := l ++ List.replicate ((l.length + 63) / 64 * 64 - l.length) 0
    let bodyA := head ++ pick bitA va
    let bodyB := head ++ pick bitB vb
    (a.nelem ≠ b.nelem ∨ a.fmt ≠ b.fmt → NodeFaults (.nodeIsect r) s t f cRouteFilter)
    ∧ (a.nelem = b.nelem → a.fmt = b.fmt → bodyA.length ≤ 2048 → bodyB.length ≤ 2048 →
        ty.bytes * (List.range n).countP bitA ≤ va.length → ty.bytes * (List.range n).countP bitB ≤ vb.length →
        let s0 := { s with focus := .idle }
        exec (.nodeIsect r) s = .next (doneFiring
          (emitTo (emitTo s0 t f (under f (.sparse { a with bytes := fl bodyA, zx := false })) [r.destA]) t f
            (under f (.sparse { b with bytes := fl bodyB, zx := false })) [r.destB]) t f.party))

/-- R356, R295: `sendx` sends its burst to the combine unit that RANKW names; a poison of the firing goes there as well. -/
def NodeSendx : Prop :=
  ∀ (r : NodeRec) s t f k,
    let s0 := { s with focus := .idle }
    let ch : BitVec 5 := r.literal.extractLsb' 0 5
    let e := chanOf (tileOf s t) ch
    let c := (k.rankw.extractLsb' 8 5).toNat
    let put (ch : BitVec 5) (body : Body) (sc : Scope) : State :=
      { s0 with net := s.net ++ [{
          tok := { dest := { v := true, tile := BitVec.ofNat 11 (c / 8 * 512 + 1 * 32 + 24 + c % 8), node := 0, port := 0 },
                   ctx := 0, tag := f.tag, chan := ch, seq := k.seq, rankw := k.rankw, origin := BitVec.ofNat 11 t, body := body,
                   batch := f.batch, rel := { scope := sc, place := BitVec.ofNat 11 t, clock := f.clock } },
          launch := (tileOf s t).launch, since := s.time, after := knownBefore s sc f.clock,
          pkg := if pkgIsLocal s (k.rankw.toNat % 256) then 255 else BitVec.ofNat 8 k.rankw.toNat }] }
    let bad (c : BitVec 8) : State := put 2 (.poison (mkPoison s t f c)) (sysScope s 2)
    s.focus = .firing t f → f.err = none → f.ops = [(0, k)] →
    (∀ b, k.body = .burst b → Usable s t ch → exec (.nodeSendx r) s = .next (doneFiring (put ch (.burst b) (chanScope e)) t f.party))
    ∧ (k.poison? = none → ch.toNat < 4 → exec (.nodeSendx r) s = .next (doneFiring (bad cChanReserved) t f.party))
    ∧ (k.poison? = none → 4 ≤ ch.toNat → e.getLsbD 63 = false → exec (.nodeSendx r) s = .next (doneFiring (bad cChanInvalid) t f.party))
    ∧ (k.poison? = none → (∀ b, k.body ≠ .burst b) → Usable s t ch → exec (.nodeSendx r) s = .next (doneFiring (bad cIllegal) t f.party))
    ∧ (∀ p, k.body = .poison p →
        exec (.nodeSendx r) s = .next (doneFiring (put 2 (.poison { p with hops := if p.hops = 255 then 255 else p.hops + 1 }) (sysScope s 2)) t f.party))

/-- R357: `lds` and `sts` with SPAD = 1 access n bytes of the scratchpad and send; without it they issue the access at the
address they form and stay in progress until it is performed. -/
def NodeMemory : Prop :=
  ∀ (r : NodeRec) s t f a d,
    let s0 := { s with focus := .idle }
    let n := 2 ^ (r.literal.extractLsb' 0 2).toNat
    let both := [r.destA, r.destB]
    let m := (tileOf s t).scratch
    let old := rdLE m a.toNat n
    let bs := bytesLE n (d.toNat % 2 ^ (8 * n))
    let fits : Prop := a.toNat + n ≤ (imageOf s t f.ctx).scratch
    let ask (ad : Formed) (op : ReqOp) : State :=
      let c := aput f.clock f.party (aget f.clock f.party 0 + 1)
      let s1 := modTile { s0 with nextId := s.nextId + 1 } t (fun x =>
        { x with busy := x.busy.map (fun g => if g.party = f.party then { g with clock := c } else g) })
      let q : Req :=
        { id := s.nextId, tile := t, ctx := f.ctx, party := .firing f.party, pnum := f.party, addr := ad,
          op := op, dest := .node, clock := c, tag := f.tag, node := BitVec.ofNat 12 f.node, since := s.time,
          pte := if isHostIA ad.ia.toNat then some [] else none }
      { wakeUnit s1 t .memoryPort with reqs := s.reqs ++ [q] }
    let formed (acc : Machine.Acc) : Except (BitVec 8) Formed := formAddr s (tileLaunch s t) (aget (tileOf s t).wins f.ctx.toNat [])
      (aget (tileOf s t).winsel f.ctx.toNat 0) acc a n
    Fires s t f → Reads r f 0 a →
    (r.literal.getLsbD 3 = true → NotDet s t → Sound s t →
      (fits → nodeRec s t f.ctx f.node = r → Sends (.nodeLds r) s t f (under f (.scalar
        (if r.literal.getLsbD 2 then BitVec.ofInt 64 ((old : Int).bmod (2 ^ (8 * n))) else BitVec.ofNat 64 old))) both)
      ∧ (fits → nodeRec s t f.ctx f.node = r → Reads r f 1 d →
          SendsAfter (.nodeSts r) s (modTile s0 t (fun x => { x with scratch := wrBytes x.scratch a.toNat bs, badWords := [] })) t f
            (under f (.scalar a)) both)
      ∧ (¬ fits → NodeFaults (.nodeLds r) s t f cPartition ∧ (Reads r f 1 d → NodeFaults (.nodeSts r) s t f cPartition)))
    ∧ (r.literal.getLsbD 3 = false →
      (∀ ad, formed .load = .ok ad → exec (.nodeLds r) s = .next (ask ad (.load n)))
      ∧ (∀ ad, Reads r f 1 d → formed .store = .ok ad → exec (.nodeSts r) s = .next (ask ad (.store bs)))
      ∧ (∀ c, formed .load = .error c →
          exec (.nodeLds r) s = .next (doneFiring (takeFault s0 t f ((mkPoison s0 t f c).atVA a)) t f.party)))

/-- R339: a burst or coordinate-sparse token at a value port gives "illegal encoding". -/
def ValuePorts : Prop :=
  ∀ (r : NodeRec) s t f, Fires s t f →
    (∀ i ∈ [Instr.nodeAdd r, .nodeSub r, .nodeMul r, .nodeAnd r, .nodeOr r, .nodeXor r, .nodeShl r, .nodeShr r, .nodeSar r,
        .nodeMin r, .nodeMax r, .nodeCmp r], DataAt r f 0 ∨ DataAt r f 1 → NodeFaults i s t f cIllegal)
    ∧ (DataAt r f 0 → ∀ i ∈ [Instr.nodeSel r, .nodeLds r, .nodeSts r, .nodeMctl r], NodeFaults i s t f cIllegal)
    ∧ (DataAt r f 1 → ∀ i ∈ [Instr.nodeSteer r, .nodeSwitch r], NodeFaults i s t f cIllegal)
    ∧ (DataAt r f 2 → r.nops = 3 → NodeFaults (.nodeGate r) s t f cIllegal)
    ∧ (DataAt r f 1 → r.lit = false → NodeFaults (.nodeTagset r) s t f cIllegal)
    ∧ (DataAt r f 1 → r.nops ≠ 1 → NodeFaults (.nodeCount r) s t f cIllegal)

/-- The kinds that handle no poison operand of their own (R292, R339). -/
def plainKinds (r : NodeRec) : List Instr :=
  [.nodeAdd r, .nodeSub r, .nodeMul r, .nodeAnd r, .nodeOr r, .nodeXor r, .nodeShl r, .nodeShr r, .nodeSar r, .nodeMin r, .nodeMax r,
   .nodeCmp r, .nodeSel r, .nodeDup r, .nodeSteer r, .nodeMerge r, .nodeSwitch r, .nodeGate r, .nodeConst r, .nodeTagin r,
   .nodeTagnext r, .nodeTagout r, .nodeTagset r, .nodeCount r, .nodeJoin r, .nodeCwait r, .nodeFire r, .nodeMctl r, .nodeIsect r,
   .nodeLds r, .nodeSts r]

/-- R292: a firing with a poison operand performs nothing: the poison of its lowest-numbered poisoned port goes on, one hop
more; a fault that matching met is sent when no operand is poisoned. -/
def PoisonPassesThrough : Prop :=
  ∀ (r : NodeRec) s t f p, ∀ i ∈ plainKinds r, s.focus = .firing t f →
    let s0 := { s with focus := .idle }
    (∀ pre q rest, f.ops = pre ++ q :: rest → (∀ x ∈ pre, x.2.poison? = none) → q.2.body = .poison p →
      exec i s = .next (doneFiring (raiseFiring s0 t f { p with hops := if p.hops = 255 then 255 else p.hops + 1 }) t f.party))
    ∧ ((∀ x ∈ f.ops, x.2.poison? = none) → f.err = some p → exec i s = .next (doneFiring (takeFault s0 t f p) t f.party))

/-- R292, R288, R293: taking an exception. The poison goes to each valid destination field A and B of the node's record, on
ch2 with the firing's tag; with no valid field, a TYPE 1 fault record names it. -/
def ExceptionEntry : Prop :=
  ∀ s t f p,
    let r := nodeRec s t f.ctx f.node
    let ds := [r.destA, r.destB].filter (·.v)
    let tok (d : Dest) : Token :=
      { dest := d, ctx := f.ctx, tag := f.tag, chan := 2, seq := (leadTok f).seq, rankw := (leadTok f).rankw,
        origin := BitVec.ofNat 11 t, body := .poison p, batch := f.batch,
        rel := { scope := sysScope s 2, place := BitVec.ofNat 11 t, clock := f.clock } }
    (ds ≠ [] → raiseFiring s t f p = { s with net := s.net ++ ds.map (fun d =>
        { tok := tok d, launch := (tileOf s t).launch, since := s.time, after := knownBefore s (sysScope s 2) f.clock }) })
    ∧ (ds = [] → raiseFiring s t f p = appendLog s (tileOf s t).launch true
        (faultRecord 1 p.code f.node t f.ctx.toNat p.aux p.tail []))

/-- R186, R165, R234, R236: the firing that issues next is the one of the lowest tag and node when none has waited 2,048 active MAT
cycles, else the one of those that waited longest, the lowest tag and node among those of one cycle; it acquires from what its tokens
release, also where the release misses its scope, and the next step performs it. -/
def FiringIssues : Prop :=
  (∀ s t cls f,
    let s0 := { s with focus := .idle }
    s.focus = .event (.issue t cls) → tileRuns s0 t = true → unitFree s0 t cls = true → f ∈ (tileOf s t).ready →
    classOf (nodeInstr s t f.ctx f.node) = cls →
    (let waited (g : Firing) : Prop := g.since + 2048 * 20 ≤ matCyc s0 t
     let first (g : Firing) : Prop := f.tag.toNat < g.tag.toNat ∨ (f.tag = g.tag ∧ f.node < g.node)
     (∀ g ∈ (tileOf s t).ready, classOf (nodeInstr s t g.ctx g.node) = cls → ¬ waited g ∧ (g = f ∨ first g))
     ∨ (waited f ∧ ∀ g ∈ (tileOf s t).ready, classOf (nodeInstr s t g.ctx g.node) = cls → waited g →
        g = f ∨ f.since / 20 < g.since / 20 ∨ (f.since / 20 = g.since / 20 ∧ first g))) →
    ∃ pre rest s' f', (tileOf s t).ready = pre ++ f :: rest ∧ f ∉ pre ∧ exec .firingIssue s = .next s' ∧ s'.focus = .issue t f'
      ∧ f'.node = f.node ∧ f'.ctx = f.ctx ∧ f'.tag = f.tag ∧ f'.ops = f.ops ∧ f'.party = s.nextId
      ∧ (tileOf s' t).ready = pre ++ rest ∧ f' ∈ (tileOf s' t).busy)
  ∧ ∀ s t f (q : Release),
    (syncs q q.scope (BitVec.ofNat 11 t) = true →
      acquireRel s t f q = (acquireAt s t q.scope, { f with clock := clkJoin f.clock q.clock }))
    ∧ (syncs q q.scope (BitVec.ofNat 11 t) = false → NotDet s t →
      acquireRel s t f q = (modTile (acquireAt s t q.scope) t (fun x => { x with stat := x.stat ||| 0x100#64 }), f))

/-- R179, R180, R182, R201: a token is paired with the token of its tag on the other port and fires the node; with no partner it
is kept; a second token of one port and tag is "duplicate operand" in deterministic mode and waits in order otherwise. -/
def TokensPair : Prop :=
  ∀ s t (g h : Flight) (r : NodeRec),
    let k := g.tok
    let n := k.dest.node.toNat
    let p := k.dest.port.toNat
    let forNode (x : Flight) (q : Nat) : Prop :=
      x.tok.ctx = k.ctx ∧ x.tok.dest.node.toNat = n ∧ x.tok.tag = k.tag ∧ x.tok.dest.port.toNat = q
    nodeRec s t k.ctx n = r → nodeInstr s t k.ctx n = some (.nodeAdd r) → (nodeSlot s t k.ctx n).isSome = true →
    r.nops = 2 → r.lit = false → r.sticky = false →
    (2 ≤ p → ∃ f, matchTok s t g = readyFiring s t f ∧ f.err.any (fun e => e.code = cIllegal) = true ∧ f.ops = [(p, k)])
    ∧ (p < 2 → (∀ x ∈ (tileOf s t).store, ¬ forNode x 0 ∧ ¬ forNode x 1) →
        matchTok s t g = modTile s t (fun x => { x with store := x.store ++ [g] }))
    ∧ (∀ pre rest, p < 2 → (tileOf s t).store = pre ++ h :: rest → forNode h (1 - p) →
        (∀ x ∈ pre, ¬ forNode x (1 - p)) → (∀ x ∈ (tileOf s t).store, ¬ forNode x p) →
        ∃ f, matchTok s t g = readyFiring (modTile s t (fun x => { x with store := pre ++ rest })) t f
          ∧ f.node = n ∧ f.ctx = k.ctx ∧ f.tag = k.tag ∧ f.ops = (if p = 0 then [(0, k), (1, h.tok)] else [(0, h.tok), (1, k)]))
    ∧ (∀ pre rest, p < 2 → (tileOf s t).store = pre ++ h :: rest → forNode h p → (∀ x ∈ pre, ¬ forNode x p) →
        (∀ x ∈ (tileOf s t).store, ¬ forNode x (1 - p)) →
        (NotDet s t → matchTok s t g = modTile s t (fun x => { x with store := x.store ++ [g] }))
        ∧ ((tileLaunch s t).det = true →
            ∃ f, matchTok s t g = readyFiring (modTile s t (fun x => { x with store := pre ++ rest })) t f
              ∧ f.err.any (fun e => e.code = cDuplicate) = true))

/-! ## Bins (R213 to R215, R221, R295, R301, R302, R351, R352) -/

/-- A bin event of a tile whose current context runs: node `n` is a bin with record `r`. -/
def BinReady (s : State) (t n : Nat) (r : NodeRec) : Prop :=
  s.focus = .event (.nn t n) ∧ tileRuns { s with focus := .idle } t = true ∧ nodeInstr s t (tileOf s t).ctx n = some (.nodeBin r)

/-- R351, R352: a fired half is described by one 32-byte entry for each token presented, and its batch descriptor is sent.
Model's choices in it: log 37. -/
def NodeBin : Prop :=
  ∀ (r : NodeRec) s t f x, Fires s t f → f.bin = some x →
    let b := aget (tileOf s t).bins (f.ctx.toNat * 4096 + f.node) {}
    let area := (r.literal.extractLsb' 8 24).toNat
    let s0 := { s with focus := .idle }
    let desc := area * 2 ^ 32 + (b.cap - 1) * 2 ^ 13 + (if b.adapter then 2 ^ 12 else 0) + (if x.stepEnd then 2 ^ 11 else 0)
      + (if x.full then 2 ^ 10 else 0) + x.half * 2 ^ 9 + x.entries.length
    let entry (e : Option (Nat × Token)) : List Byte := match e with
      | some (i, k) => bytesLE 16 (leNat k.header) ++ bytesLE 8 ((dataOf k).nelem.toNat + (dataOf k).fmt.toNat * 2 ^ 16
          + (dataOf k).dtag.toNat * 2 ^ 24) ++ bytesLE 2 i ++ List.replicate 6 0
      | none => List.replicate 24 0 ++ [255, 255] ++ List.replicate 6 0
    b.cap - 1 < 2 ^ 8 → x.half < 2 → x.entries.length < 2 ^ 9 →
    (x.entries = [] → Sends (.nodeBin r) s t f { chan := 4, tag := f.tag, seq := 0, rankw := 0, body := .scalar (BitVec.ofNat 64 desc) }
      [r.destA, r.destB])
    ∧ (∀ i k rest, x.entries = some (i, k) :: rest → b.adapter = false → Sound s t →
        let at_ := area * 16 + 4096 * b.cap + x.half * b.cap * 32
        let table := (x.entries.take b.cap).flatMap entry
        SendsAfter (.nodeBin r) s (modTile s0 t (fun y => { y with scratch := wrBytes y.scratch at_ table, badWords := [] })) t f
          { chan := k.chan, tag := f.tag, seq := 0, rankw := 0, body := .scalar (BitVec.ofNat 64 desc) } [r.destA, r.destB])

/-- R351, R214, R295: an arriving token takes the next payload slot of the half that fills; a half that is full fires; a poison
takes no slot and goes on to its combine unit. Model's choices in it: log 21. -/
def BinTokens : Prop :=
  ∀ s t n r (g : Flight) pre rest,
    let s0 := { s with focus := .idle }
    let c := (tileOf s t).ctx
    let key := c.toNat * 4096 + n
    let b := aget (tileOf s t).bins key {}
    let forBin (x : Flight) : Prop := x.tok.ctx = c ∧ x.tok.dest.node.toNat = n
    BinReady s t n r → (tileOf s t).store = pre ++ g :: rest → forBin g →
    (∀ p, g.tok.body = .poison p → (∀ x ∈ pre, forBin x → x.tok.poison? = none) → g ∉ pre → (afind (tileOf s t).bins key).isSome = true →
      exec .binTokenArrive s = .next (modBin (binPoison (modTile s0 t (fun x => { x with store := pre ++ rest })) t g.tok p) t key
        (fun b => { b with received := b.received + 1 })))
    ∧ (∀ d, g.tok.body = .burst d → (∀ x ∈ pre, ¬ forBin x) → (∀ x ∈ rest, forBin x → x.tok.poison? = none) → b.adapter = false →
        Sound s t → b.filling.length < b.cap → (∀ h ∈ b.retained, h.half ≠ b.half) →
        let s1 := modTile s0 t (fun x => { x with
          store := pre ++ rest, badWords := [],
          scratch := wrBytes x.scratch ((r.literal.extractLsb' 8 24).toNat * 16 + (b.half * b.cap + b.filling.length) * 2048) (d.bytes.take 2048),
          bins := aput x.bins key { b with filling := b.filling ++ [g.tok], received := b.received + 1,
                                           fillSince := if b.filling = [] then s.time else b.fillSince } })
        (b.filling.length + 1 < b.cap → exec .binTokenArrive s = .next s1)
        ∧ (b.filling.length + 1 = b.cap → exec .binTokenArrive s = .next (fireBin s1 t c n true false)))

/-- R214, R200, R219, R221: the timer fires a half that has begun to fill; a notice is counted; the step-end firing comes once
every notice and every token they count is there, also with nothing received. -/
def BinTimers : Prop :=
  ∀ s t n r,
    let s0 := { s with focus := .idle }
    let c := (tileOf s t).ctx
    let key := c.toNat * 4096 + n
    let b := aget (tileOf s t).bins key {}
    let passed := (s.time + (2 ^ 64 - b.fillSince % 2 ^ 64)) % 2 ^ 64
    BinReady s t n r →
    ((tileLaunch s t).det = false → 0 < b.timer → b.filling ≠ [] → b.timer ≤ passed →
      exec .binTimerExpire s = .next (fireBin s0 t c n false false))
    ∧ ((tileLaunch s t).det = true ∨ b.timer = 0 ∨ b.filling = [] ∨ passed < b.timer → exec .binTimerExpire s = .next s0)
    ∧ (∀ g w pre rest, (tileOf s t).store = pre ++ g :: rest → g ∉ pre → g.tok.ctx = c → g.tok.dest.node.toNat = n →
        g.tok.body = .notice w →
        (∀ x ∈ pre, ¬ (x.tok.ctx = c ∧ x.tok.dest.node.toNat = n ∧ ∃ v, x.tok.body = .notice v)) →
        exec .binNotice s = .next (modBin (modTile s0 t (fun x => { x with store := pre ++ rest })) t key (fun b =>
          { b with notices := amod b.notices (w.toNat % 2 ^ 16) 0 (· + 1), noticed := b.noticed + w.toNat / 2 ^ 16 % 2 ^ 24,
                   rels := b.rels ++ [g.tok.rel] })))
    ∧ (∀ x, afind (tileOf s t).bins key = some x →
        let there : Prop := (∀ e ∈ ownEntries s0 t c n, (r.literal.extractLsb' 0 8).toNat ≤ aget x.notices e 0) ∧ x.noticed ≤ x.received
        (x.stepFired = true ∨ ¬ there → exec .binStepEndFiring s = .next s0)
        ∧ (x.stepFired = false → there →
            exec .binStepEndFiring s = .next (modBin (if x.filling ≠ [] ∨ x.received = 0 then fireBin s0 t c n false true else s0) t key
              (fun b => { b with stepFired := true }))))

/-- R214, R352, R215: a half that fires makes one firing with the number of the batch as its tag; the half is retained and the
other one fills; an empty half makes a zero-count completion. Model's choices in it: log 21. -/
def BinFires : Prop :=
  ∀ s t c n full stepEnd,
    let key := nodeKey c n
    let b := binOf s t key
    let fire : BinFire := ⟨b.half, binEntries b, full, stepEnd⟩
    let kept : BinHalf :=
      { half := b.half, batch := b.batches, fire := fire, waits := b.filling.map (fun k => (k.tag, k.seq, k.rankw)) }
    ∃ f, fireBin s t c n full stepEnd = modBin (readyFiring s t f) t key (fun y =>
        if b.filling = [] then { y with batches := y.batches + 1, rels := [] }
        else { y with batches := y.batches + 1, rels := [], filling := [], half := 1 - b.half, retained := y.retained ++ [kept] })
      ∧ f.node = n ∧ f.ctx = c ∧ f.tag = BitVec.ofNat 20 b.batches ∧ f.rels = b.filling.map (·.rel) ++ b.rels
      ∧ f.bin = some fire


/-- R301, R302: a replay drops what descends from the batch and fires it again with the same tag, at most four times in all; then
every token of it goes to its combine unit as poison. Model's choices in it: log 39. -/
def BatchReplays : Prop :=
  ∀ s t n r batch p due h,
    let s0 := { s with focus := .idle }
    let c := (tileOf s t).ctx
    let key := nodeKey c n
    let b := binOf s t key
    let s1 := dropBatch (modBin s0 t key (fun b => { b with replayDue := due })) t key batch
    BinReady s t n r → b.replayDue = (batch, p) :: due → b.retained.find? (fun y => y.batch = batch) = some h →
    (p.code ≠ cUncorrectable → h.fired < 4 → exec .batchReplay s = .next (refire s1 t c n h))
    ∧ (p.code ≠ cUncorrectable → 4 ≤ h.fired → exec .batchReplay s = .next (giveUpBatch s1 t c n h cReplayExhausted))
    ∧ (p.code = cUncorrectable → batchBad s0 t r b h = true → exec .batchReplay s = .next (giveUpBatch s1 t c n h cUncorrectable))


/-! ## Tokens in the network (R161, R170 to R174, R184, R215) -/

/-- Of two tokens the earlier one arrives first: they go from the same unit to the same tile on the same channel (R161), or stand in
one initial token list for one tile (R128). -/
def KeepOrder (g f : Flight) : Prop :=
  g.tok.dest.tile = f.tok.dest.tile ∧ g.pkg = f.pkg
    ∧ ((g.tok.origin = f.tok.origin ∧ g.tok.chan = f.tok.chan ∧ g.src = f.src ∧ g.sower = f.sower)
      ∨ (g.first = true ∧ f.first = true ∧ g.launch = f.launch ∧ g.tok.ctx = f.tok.ctx))

/-- Token `n` of the network arrives next: it is for this package, it is the next in order, and the accesses its release covers are
where they have to be (R128, R161, R165, R235). -/
def Arrives (s : State) (n : Nat) (f : Flight) : Prop :=
  s.focus = .event (.n n) ∧ s.net[n]? = some f ∧ pkgIsLocal s f.pkg.toNat = true
    ∧ (∀ g ∈ s.net.take n, ¬ KeepOrder g f) ∧ ∀ i ∈ f.after, standsBefore s f.tok.rel.scope i = false

/-- The state without token `n` of the network. -/
def without (s : State) (n : Nat) : State := { s with focus := .idle, net := s.net.take n ++ s.net.drop (n + 1) }

/-- The die's overflow region takes the token (R171): 1 GiB of 64-byte flits. -/
def Room (s : State) (f : Flight) : Prop :=
  aget s.ovfUsed (dieOf f.tok.dest.tile.toNat) 0 + 1 + f.tok.body.beats ≤ 2 ^ 24

/-- The store of the tile accepts the token: one header entry and BEATS flits are free, its channel is not diverted, the tile is
active (R14, R170, R171). -/
def Accepts_ (s : State) (f : Flight) : Prop :=
  let t := f.tok.dest.tile.toNat
  (storeUse s t).1 + 1 ≤ 256 ∧ (storeUse s t).2 + f.tok.body.beats ≤ 1024 ∧ f.tok.chan ∉ (tileOf s t).diverted
    ∧ (tileOf s t).parked = false

/-- R161, R170, R171, R174: a token that arrives at a tile is accepted and matched, or diverted when the store has no room for
it or its channel is diverted; a token for an exited launch, or with CTX at or above NCTX, is a dead letter. -/
def TokenArrivals : Prop :=
  ∀ s n f h,
    let s1 := without s n
    let t := f.tok.dest.tile.toNat
    Arrives s n f → isAck f.tok = false → asSower t = none → asComb t = none →
    (isTile t = false → exec .tokenArrive s = .next (deadLetter s1 f))
    ∧ (isTile t = true →
      (tokTarget s1 f = .dead → exec .tokenArrive s = .next (deadLetter s1 f))
      ∧ (tokTarget s1 f = .store h → (launchOf s h).images.length ≤ f.tok.ctx.toNat → exec .tokenArrive s = .next (deadLetter s1 f))
      ∧ (tokTarget s1 f = .store h → f.tok.ctx.toNat < (launchOf s h).images.length →
          (Accepts_ s1 f → exec .tokenArrive s = .next (acceptTok s1 t { f with tok := restoreZeros f.tok }))
          ∧ (¬ Accepts_ s1 f → Room s1 f → exec .tokenArrive s = .next (spill (ovfAppend s1 f) t))
          ∧ (¬ Accepts_ s1 f → ¬ Room s1 f →
              exec .tokenArrive s = .next { s with focus := .idle }
              ∧ exec .overflowExhausted s = .next (askEnd (appendLog s1 h true (faultRecord 3 0x30 0xFFFF t f.tok.ctx.toNat 0 [] [])) h 6)))
      ∧ (tokTarget s1 f = .queue h → f.tok.ctx.toNat < (launchOf s h).images.length → Room s1 f →
          exec .tokenArrive s = .next (ovfAppend s1 f)))

/-- R171, R172: a diverted token is appended to the queue of its tile and channel, takes its flits of the region, and diversion
is in force for the channel. Model's choices in it: log 20. -/
def DivertedTokens : Prop :=
  ∀ s (f : Flight), asSower f.tok.dest.tile.toNat = none →
    let t := f.tok.dest.tile.toNat
    let c := f.tok.chan
    let u := ovfAppend s f
    let queue (x : State) : List Flight := ((x.ovf.find? (fun q => q.tile = t && q.chan = c)).map (·.toks)).getD []
    queue u = queue s ++ [f] ∧ aget u.ovfUsed (dieOf t) 0 = aget s.ovfUsed (dieOf t) 0 + 1 + f.tok.body.beats
    ∧ c ∈ (tileOf u t).diverted
    ∧ ∀ t' c', (t', c') ≠ (t, c) → u.ovf.filter (fun q => q.tile = t' && q.chan = c') = s.ovf.filter (fun q => q.tile = t' && q.chan = c')

/-- R172: an overflow queue gives back its token of lowest TAG, the longest waiting of these, once the tile has reported room and until a
token finds none; with the queue empty, its channel is diverted no longer. Model's choices in it: log 39. -/
def Reinjection : Prop :=
  ∀ s t (c : BitVec 5) q f pre post,
    let s0 := { s with focus := .idle }
    s.focus = .event (.nn t c.toNat) → asSower t = none → ovfChan s0 t = some c.toNat → takesQueued s0 t = true →
    (t ∈ s.ovfOn ∨ (storeUse s t).1 + 16 ≤ 256 ∨ (storeUse s t).1 = 0) → s.ovf = [q] → q.tile = t → q.chan = c → q.toks = pre ++ f :: post →
    (∀ g ∈ pre, f.tok.tag.toNat < g.tok.tag.toNat) → (∀ g ∈ post, f.tok.tag.toNat ≤ g.tok.tag.toNat) →
    f.tok.dest.tile.toNat = t → isAck f.tok = false →
    let room : Prop := (storeUse s t).1 + 1 ≤ 256 ∧ (storeUse s t).2 + f.tok.body.beats ≤ 1024
    let off := s.ovfOn.filter (· ≠ t)
    let on := if s.ovfOn.contains t then s.ovfOn else s.ovfOn ++ [t]
    let gone := { s0 with ovfTurn := aput s.ovfTurn t c.toNat, ovfUsed := aput s.ovfUsed (dieOf t) (aget s.ovfUsed (dieOf t) 0 - (1 + f.tok.body.beats)) }
    (¬ room → exec .overflowReinject s = .next (spill { s0 with ovfOn := off } t))
    ∧ (room → pre ++ post ≠ [] → exec .overflowReinject s = .next
        (acceptTok { gone with ovf := [{ q with toks := pre ++ post }], ovfOn := on } t { f with tok := restoreZeros f.tok }))
    ∧ (room → pre ++ post = [] → exec .overflowReinject s = .next
        (acceptTok (modTile { gone with ovf := [], ovfOn := off } t (fun x => { x with diverted := x.diverted.filter (· ≠ c) })) t
          { f with tok := restoreZeros f.tok }))

/-- R174: the destination launch of a token at a tile: the tile's own launch takes its own tokens, a launch checkpointed off the
tile the others, else the launch that holds the tile; a launch not yet placed makes it wait. -/
def DestinationLaunch : Prop :=
  ∀ s (f : Flight),
    let t := f.tok.dest.tile.toNat
    let h := (tileOf s t).launch
    let own : Prop := h ≠ 0 ∧ (f.launch = h ∨ f.formedFor = some h ∨ f.sower.isSome = true)
    (own → tokTarget s f = holderTarget s t h)
    ∧ (∀ c, ¬ own → ckptOf s t = some c → tokTarget s f = .inbound c)
    ∧ (¬ own → ckptOf s t = none → h ≠ 0 → tokTarget s f = holderTarget s t h)
    ∧ (¬ own → ckptOf s t = none → h = 0 → waitsFor s t = true → tokTarget s f = .waits)
    ∧ (¬ own → ckptOf s t = none → h = 0 → waitsFor s t = false → tokTarget s f = .dead)
    ∧ ((launchOf s h).closing = true → holderTarget s t h = .dead)
    ∧ ((launchOf s h).closing = false →
        ((launchOf s h).phase = .running → goPending s t h = false → holderTarget s t h = .store h)
        ∧ ((launchOf s h).phase = .running → goPending s t h = true →
            holderTarget s t h = if (launchOf s h).save.isSome then .inbound h else .queue h)
        ∧ ((launchOf s h).phase = .draining ∨ (launchOf s h).phase = .saving ∨ (launchOf s h).phase = .killing → holderTarget s t h = .store h)
        ∧ ((launchOf s h).phase = .placing → holderTarget s t h = .queue h)
        ∧ ((launchOf s h).phase = .restoring → holderTarget s t h = .inbound h)
        ∧ ((launchOf s h).phase = .freeing ∨ (launchOf s h).phase = .done → holderTarget s t h = .dead))

/-- R174, R508: a token that waited PTIMEOUT for a launch that was not placed is dropped as a dead letter, with its reply.
Model's choices in it: log 20. -/
def WaitingTokens : Prop :=
  ∀ s n x,
    let s0 := { s with focus := .idle }
    let d := dieOf x.flight.tok.origin.toNat
    let passed := (s.time + (2 ^ 64 - x.since % 2 ^ 64)) % 2 ^ 64
    s.focus = .event (.n n) → s.limbo[n]? = some x →
    (passed < x.limit → exec .ptimeoutExpire s = .next s0)
    ∧ (x.limit ≤ passed → exec .ptimeoutExpire s = .next (deadLetter { s0 with
        limbo := s.limbo.take n ++ s.limbo.drop (n + 1),
        ovfUsed := aput s.ovfUsed d (aget s.ovfUsed d 0 - (1 + x.flight.tok.body.beats)) } x.flight))

/-- R215, R226: an acknowledgement is consumed: it answers a token of its TAG, SEQ and rank, from the combine unit and package that the
token's RANKW names; the batch that waits for it frees its half with the last one. -/
def Acknowledgements : Prop :=
  ∀ s n f w h,
    let s1 := without s n
    let t := f.tok.dest.tile.toNat
    let q := ackOf s1 f w
    Arrives s n f → f.tok.chan = 1 → f.tok.dest.v = false → f.tok.body = .control w → isTile t = true → asSower t = none →
    tokTarget s1 f = .store h → f.tok.ctx.toNat < (launchOf s h).images.length →
    exec .acknowledgement s = .next (modTile s1 t (fun x => { x with bins := ackGo q x.bins }))
    ∧ (∀ tag seq rankw, q (tag, seq, rankw) = true ↔
        w.toNat % 2 ^ 20 = tag.toNat ∧ w.toNat / 2 ^ 20 % 2 ^ 16 = seq.toNat ∧ w.toNat / 2 ^ 36 % 8 = rankw.toNat / 2 ^ 13
        ∧ combId (rankw.toNat / 2 ^ 8 % 32) = f.tok.origin.toNat
        ∧ (f.src = none → pkgIsLocal s (rankw.toNat % 2 ^ 8) = true) ∧ (∀ p, f.src = some p → rankw.toNat % 2 ^ 8 = p.toNat))
    ∧ ∀ (b : Bin) (y : BinHalf) pre x post, b.retained = [y] → y.waits = pre ++ x :: post → q x = true → (∀ z ∈ pre, q z = false) →
        (pre ++ post ≠ [] → (ackBin q b).retained = [{ y with waits := pre ++ post }])
        ∧ (pre ++ post = [] → (ackBin q b).retained = [])

/-- R508, R288: a refused token's poison goes back on ch2 to the node its reply fields name, or to the fault log as a record of
TYPE 4. -/
def Refusals : Prop :=
  ∀ s (f : Flight) (unit : Nat) (code : BitVec 8),
    let k := f.tok
    let p : Poison := { srcTile := BitVec.ofNat 11 unit, prec := codePrecise code, code := code, step := (launchOf s f.launch).stepid,
                        tag := k.tag, time := BitVec.ofNat 64 s.time }
    let back : Token :=
      { dest := { v := true, tile := k.origin, node := k.rnode, port := k.rport }, ctx := k.rctx, tag := k.tag, chan := 2, seq := k.seq,
        rankw := k.rankw, origin := BitVec.ofNat 11 unit, body := .poison p, rel := { scope := sysScope s 2, place := BitVec.ofNat 11 unit } }
    (k.reply = true → refuse s f unit code = { s with net := s.net ++
        [{ tok := back, launch := f.launch, formedFor := some f.launch, pkg := f.src.getD 255, since := s.time }] })
    ∧ (k.reply = false → refuse s f unit code = appendLog s f.launch true
        (faultRecord 4 code 0xFFFF unit k.ctx.toNat p.aux p.tail k.header))

/-! ## Sowers and combine units (R203 to R230) -/

/-- R206, R203: a row token at the head of a sower's store is scored when its gate exists and its NELEM is the gate's D; else it is
refused with "gate shape", one whose words are uncorrectable with that (R10); a row whose accesses must wait is tried again.
Model's choices in it: log 22, 57. -/
def SowerRows : Prop :=
  ∀ s u f rest b m,
    let s0 := { s with focus := .idle }
    let so := sowerOf s u
    let gate := f.tok.dest.node.toNat
    let acq := syncs f.tok.rel f.tok.rel.scope (BitVec.ofNat 11 (u / 8 * 512 + 24 + u % 8))
    let s1 := modSower s0 u (fun x => { x with store := rest, clock := if acq then clkJoin x.clock f.tok.rel.clock else x.clock })
    let shape : Prop := gate < gateCount so.image ∧ b.nelem.toNat = (gateOf so.image gate).d ∧ b.dtag = 0
    let row : RowIn := { port := f, fmt := b.fmt.toNat, bytes := b.bytes, elems := (decodeAll m b.nelem.toNat b.bytes).map f32 }
    s.focus = .event (.n u) → sowRuns s0 u = true → so.pend = none → so.buffer = none → so.store = f :: rest → f.tok.dest.port = 0 →
    f.tok.body = .burst b → efmt b.fmt.toNat = some m →
    (f.tok.bad = true → exec .sowerRowToken s = .next (refuse s1 f (u / 8 * 512 + 24 + u % 8) cUncorrectable))
    ∧ (f.tok.bad = false → ¬ shape → exec .sowerRowToken s = .next (refuse s1 f (u / 8 * 512 + 24 + u % 8) 0x26))
    ∧ (∀ s2, f.tok.bad = false → shape → sowRow s1 u gate row = .done s2 → exec .sowerRowToken s = .next s2)
    ∧ (∀ w, f.tok.bad = false → shape → sowRow s1 u gate row = .wait w → exec .sowerRowToken s = .next (keepWaits s0 w))

/-- R206: a slab request opens the buffer that its header describes; a header that breaks the rules gives "gate shape"; its rows
then follow one by one. -/
def SowerBuffers : Prop :=
  ∀ s u f rest va,
    let s0 := { s with focus := .idle }
    let so := sowerOf s u
    let gate := f.tok.dest.node.toNat
    let s1 := sowTake s0 u f
    s.focus = .event (.n u) → sowRuns s0 u = true → so.pend = none →
    (so.buffer = none → so.store = f :: rest → f.tok.dest.port = 1 → f.tok.bad = false →
      (gateCount so.image ≤ gate → exec .sowerBufferToken s = .next (refuse s1 f (sowerId u) 0x26))
      ∧ (∀ s2 b, gate < gateCount so.image → f.tok.body = .scalar va →
          edgeRead s1 so.holder (sowerId u) (sowerOf s1 u).clock f.tok.tag va 64 = .ok s2 b →
          (sowHdrOk b (gateOf so.image gate) = false → exec .sowerBufferToken s = .next (refuse s2 f (sowerId u) 0x26))
          ∧ (sowHdrOk b (gateOf so.image gate) = true →
              exec .sowerBufferToken s = .next (modSower s2 u (fun x => { x with buffer := some { port := f, hdr := bufHdr b } })))))
    ∧ (∀ x s2 xs raw s3, so.buffer = some x → x.port.tok.body = .scalar va →
        let row : Flight := { x.port with tok := { x.port.tok with seq := BitVec.ofNat 16 x.next } }
        bandRow so.holder (sowerId u) so.clock row va x.hdr (x.next / 64) (x.next % 64) (List.range ((x.hdr.cols + 63) / 64)) s0 ([], []) = .ok s2 (xs, raw) →
        let s4 := modSower s2 u (fun y => { y with buffer := if x.next + 1 < x.hdr.rows then some { x with next := x.next + 1 } else none })
        x.hdr.tags &&& 3#8 ≠ 0 →
        sowRow s4 u x.port.tok.dest.node.toNat { port := row, fmt := 1, bytes := xs.flatMap (fun v => bytesLE 4 v.toNat), elems := xs } = .done s3 →
        exec .sowerBufferToken s = .next s3)


/-- R211, R217: one rank of a row: sent and counted below the expert's limit; dropped with RENORM for an entry of STATE 0; at the
limit dropped, rerouted to ALT, or deferred, as the policy says. Model's choices in it: log 57. -/
def Quotas : Prop :=
  ∀ (l : Launch) es (a : Sowing) r e w,
    let d := l.dir.getD e {}
    let b := if (l.images.getD l.ctx.toNat {}).maxtok = 0 then 0xFFFFFF else (l.images.getD l.ctx.toNat {}).maxtok
    let lim (e : Nat) : Nat := min (if (l.dir.getD e {}).quota = 0 then 0xFFFFFF else (l.dir.getD e {}).quota) b
    let n := aget a.counters e 0
    let x := sowRank l es a r e w
    let pol := (d.pol.extractLsb' 0 2).toNat
    let renorm := d.pol.getLsbD 2
    let alt := d.alt
    let closed : Prop := lim alt ≤ aget a.counters alt 0 ∨ (l.dir.getD alt {}).state = 0 ∨ alt ∈ es ∨ ∃ y ∈ a.ranks, y.expert = alt
    let dropped (p : Bool) : Prop := x.ranks = a.ranks ++ [{ expert := e, weight := w, dropped := some p }] ∧ x.sends = a.sends
      ∧ x.defers = a.defers ∧ x.counters = a.counters
    (d.state = 0 → dropped true ∧ x.invalid = a.invalid ++ [e])
    ∧ (d.state ≠ 0 → n < lim e → x.ranks = a.ranks ++ [{ expert := e, weight := w }] ∧ x.sends = a.sends ++ [(r, e)]
        ∧ x.counters = aput a.counters e (n + 1))
    ∧ (d.state ≠ 0 → lim e ≤ n → e ∈ x.hit ∧
        (pol ≠ 1 → pol ≠ 2 → dropped renorm)
        ∧ (pol = 1 → closed → dropped renorm)
        ∧ (pol = 1 → ¬ closed → x.ranks = a.ranks ++ [{ expert := alt, weight := w }] ∧ x.sends = a.sends ++ [(r, alt)]
            ∧ x.counters = aput a.counters alt (aget a.counters alt 0 + 1))
        ∧ (pol = 2 → x.ranks = a.ranks ++ [{ expert := e, weight := w }] ∧ x.sends = a.sends ∧ x.counters = a.counters
            ∧ x.defers = a.defers ++ [(r, e, renorm)]))

/-- R209, R222: a combine unit takes a row's group record, and its copies leave; a record whose key is open is refused with
"combine duplicate"; with 1,024 groups open the sower waits. -/
def GroupRecords : Prop :=
  ∀ s c u x,
    let s0 := { s with focus := .idle }
    let same (g : Group) : Bool := g.tag = x.group.tag && g.seq = x.group.seq
    s.focus = .event (.n c) → c / 8 * 8 = u → (sowerOf s u).pend = some x → x.unit = c →
    ((∃ g ∈ (combOf s c).groups, same g = true) →
      exec .groupRecord s = .next (refuse (modSower s0 u (fun y => { y with pend := none })) x.port (sowerId u) 0x29))
    ∧ ((∀ g ∈ (combOf s c).groups, same g = false) →
      (1024 ≤ (combOf s c).groups.length → exec .groupRecord s = .next s0)
      ∧ ((combOf s c).groups.length < 1024 →
          exec .groupRecord s = .next (tryGroup (sendRow (modComb s0 c (fun y => { y with groups := y.groups ++ [x.group] })) u x) c x.group)))

/-- R223, R215, R226, R295: a result for an open group is held and acknowledged to the package it came from; a result that no group matches, of a rank dropped or
already there, of another shape or with a domain tag is refused; a poison ends its group. -/
def CombineResults : Prop :=
  ∀ s u n f g b r x,
    let s1 := combAcquire (without s n) u f.tok
    let k := f.tok
    let unit := u / 8 * 512 + 32 + 24 + u % 8
    s.focus = .event (.n u) → stuckGroup s u = none → Arrives { s with focus := .event (.n n) } n f →
    k.dest = { v := true, tile := BitVec.ofNat 11 unit, node := 0, port := 0 } → u < 32 → isAck k = false →
    (∀ m < n, ∀ y, s.net[m]? = some y → y.tok.dest.tile ≠ BitVec.ofNat 11 unit) →
    (groupFor s1 u k = none → exec .combineResult s = .next (refuse s1 f unit 0x2A))
    ∧ (k.body = .burst b → groupFor s1 u k = some g → r = k.rankw.toNat / 2 ^ 13 → g.ranks[r]? = some x → k.batch = none →
      (x.dropped ≠ none ∨ x.result ≠ none → exec .combineResult s = .next (refuse s1 f unit 0x29))
      ∧ (x.dropped = none → x.result = none → b.nelem.toNat ≠ (groupGate s1 g).outn → exec .combineResult s = .next (refuse s1 f unit 0x2B))
      ∧ (x.dropped = none → x.result = none → b.nelem.toNat = (groupGate s1 g).outn → b.dtag ≠ 0 →
          exec .combineResult s = .next (refuse s1 f unit 0x1F))
      ∧ (x.dropped = none → x.result = none → b.nelem.toNat = (groupGate s1 g).outn → b.dtag = 0 →
          let g1 := { g with ranks := lmod g.ranks r (fun y => { y with result := some (resultVals b) }) }
          let s2 := setGroup s1 u g1
          let ack : Token :=
            { dest := { v := false, tile := k.origin, node := 0, port := 0 }, chan := 1, origin := BitVec.ofNat 11 unit,
              body := .control (BitVec.ofNat 64 (k.tag.toNat + k.seq.toNat * 2 ^ 20 + r * 2 ^ 36)),
              rel := { scope := sysScope s 1, place := BitVec.ofNat 11 unit } }
          exec .combineResult s = .next (tryGroup { s2 with net := s2.net ++ [
            { tok := ack, pkg := f.src.getD 255, formedFor := if f.src.isSome then none else some f.launch, since := s.time }] } u g1)))
    ∧ (∀ p, k.body = .poison p → groupFor s1 u k = some g →
        let g1 := { g with poison := match g.poison with | some q => some q | none => some p }
        exec .combineResult s = .next (tryGroup (setGroup s1 u g1) u g1))

/-- R224: the row of a group: the weights of the ranks not dropped, divided by their sum under RENORM, times the results, in
ascending rank, one fused step each from +0. Model's choices in it: log 43. -/
def CombinedRows : Prop :=
  ∀ (g : Group) (j : Nat),
    let live := g.ranks.filter (fun r => r.dropped.isNone)
    let q := (live.map (·.weight)).foldl add32 0
    let w (r : GroupRank) : BitVec 32 :=
      if (∃ y ∈ g.ranks, y.dropped = some true) ∧ 0 < (v32 q).cmp (.fin false 0 0) then div32 r.weight q else r.weight
    groupElem g j = live.foldl (fun acc r => fma32 (w r) ((r.result.getD []).getD j 0) acc) 0

/-- Nanoseconds that have passed since a time; the time base wraps (R6). -/
def Passed (s : State) (t0 : Nat) : Nat := (s.time + (2 ^ 64 - t0 % 2 ^ 64)) % 2 ^ 64

/-- R29, R220, R226: what waits 2 ms for another package fails: a tile's access is late with "package unreachable", one of another unit
has that fault for its answer, a sown token poisons its group, a notice is recorded, any other token is refused. -/
def UnreachablePackages : Prop :=
  (∀ s n r,
    let s0 := { s with focus := .idle }
    s.focus = .event (.unreach (.request n)) → s.reqs.find? (fun q => q.id = n) = some r →
    pkgIsLocal s (iaPkg r.addr.ia.toNat) = false → isHostIA r.addr.ia.toNat = false →
    (Passed s r.since < 2000000 → exec .packageUnreachableTimeout s = .next s0)
    ∧ (2000000 ≤ Passed s r.since → exec .packageUnreachableTimeout s = .next (lateFault s0 r 0x0F 0)))
  ∧ (∀ s n x,
    let s0 := { s with focus := .idle }
    s.focus = .event (.unreach (.request n)) → s.reqs.find? (fun q => q.id = n) = none → s.far.find? (fun y => y.id = n) = some x →
    (Passed s x.since < 2000000 → exec .packageUnreachableTimeout s = .next s0)
    ∧ (2000000 ≤ Passed s x.since → x.answer = none → x.fault = none → exec .packageUnreachableTimeout s = .next { s0 with
        far := s.far.map (fun y => if y.id = n then { y with fault := some 0x0F } else y) }))
  ∧ ∀ s n f,
    let s1 := without s n
    let unit := f.tok.origin.toNat
    s.focus = .event (.unreach (.token n)) → s.net[n]? = some f → pkgIsLocal s f.pkg.toNat = false → 2000000 ≤ Passed s f.since →
    ((∃ w, f.tok.body = .notice w) → exec .packageUnreachableTimeout s = .next
        (logPoison s1 f.launch 4 (tokPoison s unit f 0x0F) 0xFFFF unit f.tok.ctx f.tok.header))
    ∧ (∀ b, f.tok.body = .burst b → f.sower.isSome = true → exec .packageUnreachableTimeout s = .next
        (poisonGroup s1 (f.tok.rankw.toNat / 2 ^ 8 % 2 ^ 5) f.tok.tag f.tok.seq (tokPoison s unit f 0x0F)))
    ∧ (∀ b, f.tok.body = .burst b → f.sower = none → exec .packageUnreachableTimeout s = .next (refuse s1 f unit 0x0F))

/-! ## Barriers and steps (R187, R191, R194 to R198, R217 to R225) -/

/-- R194, R195, R242: a generation completes when every tile of the launch has joined; each join's barrier token carries the
generation and number and acquires from every join. -/
def BarrierCompletes : Prop :=
  ∀ s h n,
    let s0 := { s with focus := .idle }
    let l := launchOf s h
    let b := aget l.bars n {}
    let tok (j : BarJoin) : Token :=
      { dest := j.dest, ctx := (tileOf s j.tile).ctx, tag := j.tag, chan := 3, origin := BitVec.ofNat 11 j.tile,
        body := .barrier (BitVec.ofNat 64 (b.gen.toNat * 2 ^ 8 + n)), rel := { scope := sysScope s 3, place := BitVec.ofNat 11 j.tile },
        more := b.joins.map (·.rel) }
    s.focus = .event (.nn h n) → n < 2 ^ 8 → l.tileset ≠ [] →
    ((∀ t ∈ l.tileset, ∃ j ∈ b.joins, j.tile = t) → exec .barrierComplete s = .next (modLaunch { s0 with
        net := s.net ++ b.joins.map (fun j => { tok := tok j, launch := h, formedFor := some h, since := s.time }) } h (fun l =>
        { l with bars := aput l.bars n { gen := b.gen + 1, joins := b.next, next := [] } })))
    ∧ ((∃ t ∈ l.tileset, ∀ j ∈ b.joins, j.tile ≠ t) → exec .barrierComplete s = .next s0)

/-- R218 to R220: a sower closes once phase 1 holds and its rows are finished: deferred copies, histograms, then one notice for
each expert of each active gate. -/
def SowerCloses : Prop :=
  ∀ s u s2,
    let s0 := { s with focus := .idle }
    let so := sowerOf s u
    let l := launchOf s so.holder
    let gates := ((List.range (gateCount so.image)).map (fun g => (g, gateOf so.image g))).filter (fun g => g.2.ctxmask.getLsbD l.ctx.toNat)
    let ready : Prop := sowRuns s0 u = true ∧ so.closed = false ∧ so.store = [] ∧ so.pend = none ∧ so.buffer = none ∧ phase1 s0 so.holder = true
    s.focus = .event (.n u) →
    (¬ ready → exec .sowerClose s = .next s0)
    ∧ (ready → histAll so.holder u l gates (sendDeferred s0 u l so.deferred) = .wait s2 → exec .sowerClose s = .next (keepWaits s0 s2))
    ∧ (ready → histAll so.holder u l gates (sendDeferred s0 u l so.deferred) = .done s2 →
        let clk := edgeClock (sowerOf s2 u).clock (sowerId u)
        exec .sowerClose s = .next (modSower
          ((gates.flatMap (fun g => (List.range g.2.nexp).map (· + g.2.base))).foldl (fun y e => sendNotice y u so.holder clk e) s2) u
          (fun x => { x with closed := true, clock := clk })))

/-- R219: the notice to an expert's bin names the package, the sower, the copies sent in the step and the expert; an entry of
STATE 0 gets none. Model's choices in it: log 43. -/
def Notices : Prop :=
  ∀ s u h clk e,
    let d := (launchOf s h).dir.getD e {}
    let n := aget (sowerOf s u).counters e 0
    let pkg := (s.boot.pkg.getD 255).toNat
    let scope := wider .pkg (sysScope s 3)
    (d.state = 0 → sendNotice s u h clk e = s)
    ∧ (d.state ≠ 0 → e < 2 ^ 16 → n < 2 ^ 24 → u < 32 →
        sendNotice s u h clk e = { s with net := s.net ++ [
          { tok := { dest := d.bin, ctx := d.ctx, chan := 3, origin := BitVec.ofNat 11 (sowerId u),
                     body := .notice (BitVec.ofNat 64 (pkg * 2 ^ 45 + u * 2 ^ 40 + n * 2 ^ 16 + e)),
                     rel := { scope := scope, place := BitVec.ofNat 11 (sowerId u), clock := clk } },
            launch := h, formedFor := some h, sower := some u, pkg := if pkgIsLocal s d.pkg.toNat then 255 else d.pkg,
            since := s.time, after := knownBefore s scope clk }] })

/-- R196, R221, R225: the step barrier waits for both phases; the combine units' completion tokens leave first; then the staged
swaps are carried out and the step is complete. Model's choices in it: log 14. -/
def StepBarriers : Prop :=
  ∀ s h,
    let s0 := { s with focus := .idle }
    let l := launchOf s h
    let live : Prop := (l.phase = .running ∨ l.phase = .draining ∨ l.phase = .saving) ∧ l.closing = false ∧ l.tileset ≠ []
      ∧ l.save.any (·.stepPending) = false ∧ l.violated = false
    s.focus = .event (.n h) →
    (¬ live ∨ phase2 s0 h = false → exec .stepBarrier s = .next s0)
    ∧ (live → phase2 s0 h = true →
        (∀ s1, allTold s0 h = false → tellUnits s0 h = .done s1 → exec .stepBarrier s = .next s1)
        ∧ (∀ w, allTold s0 h = false → tellUnits s0 h = .wait w → exec .stepBarrier s = .next (keepWaits s0 w))
        ∧ (allTold s0 h = true → l.swap = [] → exec .stepBarrier s = .next (stepLaunch s0 h))
        ∧ (∀ s1, allTold s0 h = true → l.swap ≠ [] → swapAll h l.swap s0 = .done s1 → exec .stepBarrier s = .next (stepLaunch s1 h))
        ∧ (∀ w, allTold s0 h = true → l.swap ≠ [] → swapAll h l.swap s0 = .wait w → exec .stepBarrier s = .next (keepWaits s0 w)))

/-- R197, R198: completing a step advances STEPID by 1 and the contexts in rotation; the launch's last step is over when every
context has its final sinks. -/
def StepsAdvance : Prop :=
  ∀ s h,
    let l := launchOf s h
    let u := launchOf (stepLaunch s h) h
    let sunk := (l.tileset.map (fun t => (tileOf s t).sunk)).sum
    let after (i : Nat) : Nat := (l.images.getD i {}).sunk + if i = l.ctx.toNat then sunk else 0
    let complete : Prop := ∀ i < l.images.length, (l.images.getD i {}).sinks ≤ after i
    (∀ t ∈ l.tileset, (tileOf s t).store = [] ∧ (tileOf s t).sticky = [] ∧ (tileOf s t).counts = [] ∧ (tileOf s t).streams = []) →
    l.closing = false → l.ctx.toNat < l.images.length → l.images.length ≤ 8 →
    u.stepid = l.stepid + 1
    ∧ (complete → u.closing = true ∧ u.ctx = l.ctx)
    ∧ (¬ complete → ¬ (l.phase = .saving ∧ l.sowers ≠ []) → u.closing = false ∧ u.ctx.toNat = (l.ctx.toNat + 1) % l.images.length)

/-- R191, R187: a wait of 250 ms of `tlwait` or `mwait` ends its codelet with "wait timeout"; a unit idle for 64 cycles of its domain has its clock gated.
Model's choices in it: log 44. -/
def TileTimers : Prop :=
  (∀ s t (k : Fin 4) n i,
    let s0 := { s with focus := .idle }
    s.focus = .event (.nn t k) → (slotOf s t k).phase = .waiting n → nextWord s t k = some (.ok i) →
    ((∃ w, i = .tlwait w) ∨ (∃ w, i = .mwait w) →
      (250000000 ≤ Passed s n → exec .codeletWaitTimeout s = .next (faultCodelet s0 t k (slotPoison s0 t k 0x1A)))
      ∧ (Passed s n < 250000000 → exec .codeletWaitTimeout s = .next s0))
    ∧ ((∃ w, i = .ld w) ∨ (∃ w, i = .mma w) → exec .codeletWaitTimeout s = .next s0))
  ∧ ∀ s t u,
    let s0 := { s with focus := .idle }
    s.focus = .event (.unit t u) →
    let rested : Prop := ∃ c, afind (tileOf s t).idle (unitCode u) = some c ∧ cycDue s t (unitDom u) 64 c = true
    (unitIdle s0 t u = true → rested → u ∉ (tileOf s t).gated →
      exec .unitClockGate s = .next (modTile s0 t (fun x => { x with gated := x.gated ++ [u] })))
    ∧ (unitIdle s0 t u = false ∨ ¬ rested ∨ u ∈ (tileOf s t).gated → exec .unitClockGate s = .next s0)


/-! ## Clocks (R41 to R57) -/

/-- R50: a cap of 1,000 to 3,200 W in steps of 25 W is taken and, where it is not the one in force, the dies are re-evaluated; any
other is refused with nothing changed but the sideband's count. Model's choices in it: log 32. -/
def CapWrites : Prop :=
  ∀ s w,
    let s0 := { s with focus := .idle }
    s.focus = .event (.n w) →
    (1000 ≤ w → w ≤ 3200 → w % 25 = 0 → w = s.clk.cap → exec .capWrite s = .next s0)
    ∧ (1000 ≤ w → w ≤ 3200 → w % 25 = 0 → w ≠ s.clk.cap →
      ∃ s', exec .capWrite s = .next s' ∧ s'.clk.cap = w ∧ s'.clk.reeval = some 2 ∧ s'.clk.clkg = s.clk.clkg ∧ s'.tiles = s.tiles
        ∧ s'.clk.thermal = s.clk.thermal ∧ s'.clk.pend = s.clk.pend ∧ s'.sens = s.sens
        ∧ (s'.clk.capFell = true ↔ (s.clk.capFell = true ∨
            min w (s.clk.thermal.getD w) < min s.clk.cap (s.clk.thermal.getD s.clk.cap))))
    ∧ (¬ (1000 ≤ w ∧ w ≤ 3200 ∧ w % 25 = 0) →
        exec .capWrite s = .next { s0 with sens := { s.sens with capRefused := s.sens.capRefused + 1 } })

/-- R48: the entry granted is a valid one within the cost limit, at the least distance from the request; ties go to the lower
cost, then to the lower index. -/
def NearestEntry : Prop :=
  ∀ (opp : List Word) (q : List (Nat × Nat)) (limit : Nat), (∃ i < 64, oppValid (opp.getD i 0) = true ∧ oppCost (opp.getD i 0) ≤ limit) →
    let e := nearest opp q limit
    let dist (i : Nat) : Nat := oppDistance (opp.getD i 0) q
    let cost (i : Nat) : Nat := oppCost (opp.getD i 0)
    e < 64 ∧ oppValid (opp.getD e 0) = true ∧ cost e ≤ limit
    ∧ ∀ i < 64, oppValid (opp.getD i 0) = true → cost i ≤ limit →
        dist e < dist i ∨ (dist e = dist i ∧ (cost e < cost i ∨ (cost e = cost i ∧ e ≤ i)))

/-- R49, R51: a re-evaluation leaves each die one pending grant, or none when its entry is already in force; a grant takes effect
at its boundary or 1 ms on; one that lowers the cost because the effective cap fell has its boundary at once. -/
def GrantsPend : Prop :=
  (∀ s cause,
    let s0 := { s with focus := .idle }
    s.focus = .event .none →
    (s.clk.reeval = none → exec .arbiterReevaluate s = .next s0)
    ∧ (s.clk.reeval = some cause → exec .arbiterReevaluate s = .next { s0 with clk := { s.clk with
        pend := (List.range 4).map (fun d => ((grants s0).find? (fun g => g.1 = d)).bind (fun g => newGrant s0 cause d g.2)),
        reeval := none, capFell := false } }))
  ∧ (∀ s cause d e,
      let now := clkEntry (s.clk.clkg.getD d 0)
      let cost (i : Nat) : Nat := oppCost (s.clk.opp.getD i 0)
      (e = now → newGrant s cause d e = none)
      ∧ (e ≠ now → ∃ g, newGrant s cause d e = some g ∧ g.entry = e ∧ g.cause = cause
        ∧ (s.clk.capFell = true → cost e < cost now → g.forced = true)
        ∧ (s.clk.capFell = false → s.clk.pend.getD d none = none → g.forced = false ∧ g.since = s.time)))
  ∧ ∀ s d,
    let s0 := { s with focus := .idle }
    s.focus = .event (.n d) →
    (s.clk.pend.getD d none = none → exec .grantTakeEffect s = .next s0)
    ∧ (∀ g, s.clk.pend.getD d none = some g → g.forced = false → Passed s g.since < 1000000 → exec .grantTakeEffect s = .next s0)
    ∧ (∀ g, s.clk.pend.getD d none = some g → g.forced = true ∨ 1000000 ≤ Passed s g.since →
        exec .grantTakeEffect s = .next (takeGrant s0 d g))

/-- R53, R54: a grant that takes effect counts in GSEQ, shows its entry, cause and multipliers in CLKG, and counts in CLKEV of the
tiles on its die. -/
def GrantsTakeEffect : Prop :=
  ∀ s d (g : Grant) t h l, d < s.clk.clkg.length → g.entry < 64 →
    let s' := takeGrant s d g
    let old := s.clk.clkg.getD d 0
    let w := s'.clk.clkg.getD d 0
    let opp := s.clk.opp.getD g.entry 0
    (w.toNat / 2 ^ 48 = (old.toNat / 2 ^ 48 + 1) % 2 ^ 16 ∧ w.toNat / 2 ^ 40 % 2 ^ 8 = 0 ∧ w.toNat / 2 ^ 34 % 2 ^ 6 = g.entry
      ∧ w.toNat / 2 ^ 32 % 4 = g.cause.toNat ∧ w.toNat % 2 ^ 32 = opp.toNat % 2 ^ 24)
    ∧ (∀ d' ≠ d, s'.clk.clkg.getD d' 0 = s.clk.clkg.getD d' 0)
    ∧ (onDie s d = [(h, l)] → l.tileset = [t] → dieOf t = d →
        let ev := (tileOf s' t).clkev
        ev.getLsbD 0 = true ∧ (ev.getLsbD 1 = true ↔ ((tileOf s t).clkev.getLsbD 1 = true ∨ g.cause = 2 ∨ g.cause = 3))
        ∧ (ev.toNat / 2 ^ 8 % 2 ^ 8) = min ((tileOf s t).clkev.toNat / 2 ^ 8 % 2 ^ 8 + 1) 255)

/-- R46: when its window of 10 µs closes, the last request held is accepted and COAL is set; without one nothing is accepted. -/
def CoalesceWindows : Prop :=
  ∀ s h t0 v,
    let s0 := { s with focus := .idle }
    let l := launchOf s h
    let closed := setLaunch s0 h { l with clkWindow := none, clkHeld := none }
    s.focus = .event (.n h) → l.clkWindow = some t0 →
    (Passed s t0 < 10000 → exec .coalesceWindowClose s = .next s0)
    ∧ (10000 ≤ Passed s t0 → l.clkHeld = none → exec .coalesceWindowClose s = .next closed)
    ∧ (10000 ≤ Passed s t0 → l.clkHeld = some v →
        exec .coalesceWindowClose s = .next (eachTile (acceptReq closed h v) h (fun x => { x with clkev := x.clkev ||| 8 })))

/-- R50: the thermal cap falls by 25 W a millisecond while a die is too hot, never below 1,000 W, and rises again once every die is
5 °C below its limit, never above the programmed cap, which it follows once it has reached it. Model's choices in it: log 32. -/
def ThermalSteps : Prop :=
  ∀ s temp r, s.focus = .event (.temps temp r) →
    let th := s.clk.thermal.getD s.clk.cap
    let hot : Prop := ∃ p ∈ temp.zip s.clk.limit, p.2 < p.1
    let cool : Prop := ∀ p ∈ temp.zip s.clk.limit, p.1 + 5 ≤ p.2
    let due : Prop := ∀ t, s.clk.lastStep = some t → 1000000 ≤ Passed s t
    ∃ s', exec .thermalCapStep s = .next s' ∧ s'.clk.cap = s.clk.cap ∧ s'.tiles = s.tiles ∧ s'.clk.temp = temp
      ∧ (¬ due → s'.clk.thermal = s.clk.thermal ∧ s'.clk.reeval = s.clk.reeval)
      ∧ (due → hot → 1000 < th → s'.clk.thermal = some (th - 25) ∧ s'.clk.reeval = some 3 ∧ s'.clk.lastStep = some s.time)
      ∧ (due → hot → th ≤ 1000 → s'.clk.thermal = s.clk.thermal ∧ s'.clk.reeval = s.clk.reeval)
      ∧ (due → ¬ hot → cool → s.clk.thermal = some th → s'.clk.reeval = some 3 ∧ s'.clk.lastStep = some s.time
          ∧ (th + 25 < s.clk.cap → s'.clk.thermal = some (th + 25)) ∧ (s.clk.cap ≤ th + 25 → s'.clk.thermal = none))
      ∧ (due → ¬ hot → ¬ (cool ∧ s.clk.thermal ≠ none) → s'.clk.thermal = s.clk.thermal ∧ s'.clk.reeval = s.clk.reeval)

/-- R57, R40: a stretched clock is telemetry alone; the sideband serves what its sensors were last refreshed to, 10 ms apart. -/
def TelemetryEvents : Prop :=
  (∀ s d c, s.focus = .event (.dom d c) →
    exec .droopStretch s = .next { s with focus := .idle, clk := { s.clk with stretches := s.clk.stretches + 1 } })
  ∧ ∀ s l,
    let s0 := { s with focus := .idle }
    s.focus = .event (.sensors l) →
    ((∀ t, s.sens.refreshed = some t → 10000000 ≤ Passed s t) →
      exec .sensorRefresh s = .next { s0 with sens := { s.sens with served := l, refreshed := some s.time } })
    ∧ ∀ t, s.sens.refreshed = some t → Passed s t < 10000000 → exec .sensorRefresh s = .next s0

/-! ## Queues and packets (R99 to R120) -/

/-- A host write to a register of a kick page that is taken: the link is up and the device ready, the function owns the queue id,
the queue exists (R15, R16, R101). -/
def KickPage (s : State) (f q : Nat) : Prop :=
  s.boot.puverUp = true ∧ s.boot.stage = .ready ∧ ownsQid s f q = true ∧ (afind s.queues q).isSome = true

/-- R101, R102, R143, R35, R15: a doorbell sets WPTR when it neither falls back nor passes the ring, and marks an unbound queue; a
bad one is counted; before READY it is held; while the link is down nothing comes. Model's choices in it: log 53, 58. -/
def Doorbells : Prop :=
  ∀ s f q n v,
    let s0 := { s with focus := .idle }
    let x := queueOf s q
    let w := v.toNat
    s.focus = .event (.host f q n v) →
    (s.boot.puverUp = false → exec .doorbell s = .next s0)
    ∧ (s.boot.puverUp = true → s.boot.stage ≠ .ready →
      exec .doorbell s = .next { s0 with boot := { s.boot with heldKicks := s.boot.heldKicks ++ [(f, q, n, v)] } })
    ∧ (s.boot.puverUp = true → s.boot.stage = .ready → n ≠ 8 ∨ ownsQid s f q = false ∨ afind s.queues q = none →
        exec .doorbell s = .next (fnErr s0 f))
    ∧ (KickPage s f q → n = 8 → ¬ (x.en = true ∧ x.wptr ≤ w ∧ w - x.rptr ≤ 2 ^ x.logsz) →
        exec .doorbell s = .next (setQueue s0 q { x with errcnt := if x.errcnt = 0xFFFFFFFF#32 then x.errcnt else x.errcnt + 1 }))
    ∧ (KickPage s f q → n = 8 → x.en = true → x.wptr ≤ w → w - x.rptr ≤ 2 ^ x.logsz →
        let s1 := setQueue s0 q { x with wptr := w }
        exec .doorbell s = .next (if x.dptr < w ∧ x.slot = none ∧ x.state = .active then setPendBit s1 q true else s1))

/-- R101, R15: a kick page reads QSTATUS, RPTRRD, DPTRRD and WPTRRD of its queue, and 0 at every other offset or with no queue;
writes elsewhere in a page that is the function's are ignored. -/
def KickReads : Prop :=
  (∀ s f q off, s.boot.puverUp = true → s.boot.stage = .ready → ownsQid s f q = true →
    ∃ v, moveOther s (.kickRead f q off 8) = gotOut s (.kick f q off v)
      ∧ (afind s.queues q = none → v = 0)
      ∧ ∀ x, afind s.queues q = some x →
        (off = 0x10 → x.status < 256 → v.toNat % 256 = (match x.state with | .idle => 0 | .active => 1 | .halting => 2 | .halted => 3)
          ∧ v.toNat / 256 = x.status)
        ∧ (off = 0x18 → v = BitVec.ofNat 64 x.rptr) ∧ (off = 0x20 → v = BitVec.ofNat 64 x.dptr)
        ∧ (off = 0x28 → v = BitVec.ofNat 64 x.wptr) ∧ (off ∉ [0x10, 0x18, 0x20, 0x28] → v = 0))
  ∧ ∀ s f q off v, 16 ≤ off →
    (KickPage s f q → moveOther s (.kickWrite f q off 8 v) = s)
    ∧ (s.boot.puverUp = true → s.boot.stage = .ready → ownsQid s f q = false → moveOther s (.kickWrite f q off 8 v) = fnErr s f)

/-- R112: the CONTROL words in the states that accept them; in any other state they change nothing.
Model's choices in it: log 54. -/
def ControlWords : Prop :=
  ∀ s f q v,
    let s0 := { s with focus := .idle }
    let x := queueOf s q
    let woken (y : State) : State := if x.dptr < x.wptr then wakeQueue y q else y
    s.focus = .event (.host f q 8 v) → KickPage s f q → x.draining = none →
    (x.state = .halted → exec .resume s = .next (woken (setQueue s0 q { x with status := 0, state := .active })))
    ∧ (x.state ≠ .halted → exec .resume s = .next s0)
    ∧ (x.state = .idle → exec .enable s = .next (woken (setQueue s0 q { x with en := true, state := .active })))
    ∧ (x.state ≠ .idle → exec .enable s = .next s0)
    ∧ (x.state = .idle → exec .resetQueue s = .next s0 ∧ exec .disable s = .next s0)
    ∧ (x.state = .halting → exec .disable s = .next s0)
    ∧ (x.state = .active ∨ x.state = .halted → x.pkts = [] → x.rmirror = 0 →
        let y : Queue := { x with dptr := x.wptr, rptr := x.wptr, status := 0, loopIdx := none, loopRem := 0, skip := 0, step := 0,
                                  draining := none }
        (∃ t, exec .resetQueue s = .next t ∧ queueOf t q = { y with state := .active } ∧ pendBit t q = false ∧ t.tiles = s.tiles
          ∧ ∀ q' ≠ q, afind t.queues q' = afind s.queues q' ∧ pendBit t q' = pendBit s q')
        ∧ ∃ t, exec .disable s = .next t ∧ queueOf t q = { y with en := false, state := .idle } ∧ pendBit t q = false ∧ t.tiles = s.tiles
          ∧ ∀ q' ≠ q, afind t.queues q' = afind s.queues q' ∧ pendBit t q' = pendBit s q')

/-- The state in which a queue with nothing owed reads the packet at DPTR. -/
def settled (s : State) (qid : Nat) : State :=
  asAsker (setQueue { s with focus := .idle } qid (queueOf s qid)) (askQueue qid (queueOf s qid).dptr)

/-- The queue may dispatch with nothing in flight, and the packet at DPTR reads as `b` (R109). -/
def Dispatches (s : State) (qid : Nat) (b : List Byte) : Prop :=
  let q := queueOf s qid
  s.focus = .event (.n qid) ∧ (afind s.queues qid).isSome = true ∧ q.slot.isSome = true ∧ q.state = .active ∧ q.draining = none
    ∧ q.dptr < q.wptr ∧ q.pkts = [] ∧ q.skip = 0 ∧ q.loopIdx = none ∧ q.rptr = q.dptr ∧ (q.rmirror = 0 ∨ q.mirrored = q.rptr)
    ∧ memRead (settled s qid) q.asid (q.asid = 0) q.func (q.base.toNat + q.dptr % 2 ^ q.logsz * 64) 64 = .ok (settled s qid) b

/-- The packet in flight after dispatch, and the state with it. -/
def flying (s : State) (qid : Nat) (b : List Byte) (async : Bool) : Pkt :=
  { idx := (queueOf s qid).dptr, uid := s.nextId, bytes := b, start := s.time, async := async }

def started (s : State) (qid : Nat) (b : List Byte) (async : Bool) : State :=
  let q := queueOf s qid
  setQueue { settled s qid with nextId := s.nextId + 1 } qid { q with
    dptr := q.dptr + 1, pkts := [flying s qid b async], step := if async then q.step else 0, pktsave := if async then q.pktsave else b }

/-- The event `i` at `s` ends a packet of `u` with status `e`; where its signal operations have to wait it keeps the status. -/
def EndsAs (i : Instr) (s u : State) (qid : Nat) (p : Pkt) (e : Nat) : Prop :=
  (∀ t, endPkt u qid p e = .done t → exec i s = .next t)
  ∧ ∀ w, endPkt u qid p e = .wait w → exec i s = .next (keepWaits (modPkt u qid p (fun x => { x with status := some e })) w)

/-- The event `i` at `s` carries out an access of a packet of `u` that completes with it; where that has to wait the packet is
tried again. -/
def CompletesBy (i : Instr) (s u : State) (qid : Nat) (p : Pkt) (r : SRes) : Prop :=
  (∀ s1, r = .ok s1 → EndsAs i s s1 qid p 0)
  ∧ (∀ s1 e, r = .fail s1 e → EndsAs i s s1 qid p e)
  ∧ ∀ w, r = .wait w → exec i s = .next (keepWaits u w)

/-- R108 to R111: a packet that breaks its form ends with PACKET_INVALID, one whose slot cannot be read with ACCESS_FAULT. -/
def InvalidPackets : Prop :=
  (∀ s qid b, Dispatches s qid b → lnat b 0 1 = 1 → b.length = 64 →
    (pktOk (settled s qid) (queueOf s qid) b = true ↔
      lnat b 0 4 / 2 ^ 13 = 0 ∧ lnat b 0 4 / 2 ^ 9 % 4 ≠ 3 ∧ lnat b 0 4 / 2 ^ 11 % 4 ≠ 3 ∧ (lnat b 56 8 < 2 ^ 52 ∧ lnat b 56 8 % 8 = 0)
        ∧ ∀ i, 8 ≤ i → i < 56 → b.getD i 0 = 0)
    ∧ (pktOk (settled s qid) (queueOf s qid) b = false → EndsAs .packetNop s (started s qid b false) qid (flying s qid b false) 7))
  ∧ ∀ s qid b, Dispatches s qid b → lnat b 0 1 = 0 ∨ 12 ≤ lnat b 0 1 →
    ∀ i ∈ [Instr.packetNop, .launch, .signal, .wait, .write, .writeSignal, .cond, .loopPacket, .switchPacket, .timestamp, .copy],
      (i = .launch → s.boot.memLocked = false) → EndsAs i s (started s qid b false) qid (flying s qid b false) 7

/-- R110, R113, R117: NOP, SIGNAL, WRITE, TIMESTAMP and WRITE_SIGNAL perform their stores in their order and end with OK, or with
the status of the access that failed. -/
def StorePackets : Prop :=
  ∀ s qid b,
    let u := started s qid b false
    let q := queueOf u qid
    let p := flying s qid b false
    let f (o n : Nat) : Nat := lnat b o n
    let r7 := pktStore u q (f 8 8) (bytesLE 8 (f 16 8))
    Dispatches s qid b → pktOk (settled s qid) (queueOf s qid) b = true →
    (f 0 1 = 1 → EndsAs .packetNop s u qid p 0)
    ∧ (f 0 1 = 4 → CompletesBy .signal s u qid p (sigRmw u (f 24 1 ≠ 0) q (f 8 8) (sigNew (f 24 1) (sigInt (f 16 8)))))
    ∧ (f 0 1 = 6 → CompletesBy .write s u qid p (pktStore u q (f 8 8) ((b.drop 16).take (8 * f 48 1))))
    ∧ (f 0 1 = 11 → CompletesBy .timestamp s u qid p (pktStore u q (f 8 8) (bytesLE 8 s.time)))
    ∧ (f 0 1 = 7 →
        (∀ s1, r7 = .ok s1 → exec .writeSignal s =
          .next (modQueue (modPkt s1 qid p (fun x => { x with step := 1 })) qid (fun y => { y with step := 1 })))
        ∧ ((∀ s1, r7 ≠ .ok s1) → CompletesBy .writeSignal s u qid p r7))

/-- R117: step 1 of a WRITE_SIGNAL signals and ends it. -/
def WriteSignalSecondStep : Prop :=
  ∀ s qid p,
    let q := queueOf s qid
    let u := asAsker { s with focus := .idle } (askQueue qid p.idx)
    s.focus = .event (.n qid) → q.pkts = [p] → p.async = false → p.launch = 0 → p.step = 1 → p.status = none →
    lnat p.bytes 0 1 = 7 → q.slot.isSome = true → q.draining = none →
    CompletesBy .writeSignal s u qid p
      (sigRmw u (lnat p.bytes 40 1 ≠ 0) q (lnat p.bytes 24 8) (sigNew (lnat p.bytes 40 1) (sigInt (lnat p.bytes 32 8))))

/-- R113: the operations on a signal: set; add with saturation; subtract down to 0; a negative signal keeps its value. -/
def SignalValues : Prop :=
  ∀ (val old : Int), 0 ≤ val → val < 2 ^ 63 → -(2 ^ 63) ≤ old → old < 2 ^ 63 →
    sigNew 0 val old = val
    ∧ (old < 0 → sigNew 1 val old = old ∧ sigNew 2 val old = old)
    ∧ (0 ≤ old → sigNew 1 val old = min (old + val) (2 ^ 63 - 1) ∧ sigNew 2 val old = max (old - val) 0)

/-- R117, R120: a WAIT ends with OK when its condition on its signals holds, with SIGNAL_ABORTED when one of them is negative, with
TIMEOUT when its time has passed; else it stays. An outcome found while the queue is unbound is kept. -/
def WaitPackets : Prop :=
  (∀ s qid p e s1,
    let q := queueOf s qid
    let s0 := { s with focus := .idle }
    let u := asAsker s0 (askQueue qid p.idx)
    let time := lnat p.bytes 48 4
    s.focus = .event (.n qid) → q.pkts = [p] → p.async = false → p.launch = 0 → lnat p.bytes 0 1 = 5 → q.draining = none →
    p.outcome = none → p.status = none →
    (waitEval u q p = (s1, some e) → exec .waitEvaluate s = .next (waitOutcome s1 qid p e))
    ∧ (waitEval u q p = (s1, none) → waitOver s1 p = false → exec .waitEvaluate s = .next s1)
    ∧ (waitEval u q p = (s1, none) → waitOver s1 p = true → exec .waitEvaluate s = .next (waitOutcome s1 qid p 8))
    ∧ (time ≠ 0 → time * 1000 ≤ Passed s p.start → exec .waitTimeoutExpire s = .next (waitOutcome s0 qid p 8))
    ∧ (time = 0 ∨ Passed s p.start < time * 1000 → exec .waitTimeoutExpire s = .next s0))
  ∧ ∀ s qid (p : Pkt) e, (queueOf s qid).pkts = [p] →
    ((queueOf s qid).slot.isSome = true → ∀ t, endPkt s qid p e = .done t → waitOutcome s qid p e = t)
    ∧ ((queueOf s qid).slot = none → (queueOf s qid).state = .active → p.outcome = none →
        (queueOf (waitOutcome s qid p e) qid).pkts = [{ p with outcome := some e }]
        ∧ (qid < 4096 → pendBit (waitOutcome s qid p e) qid = true))

/-- R117: what one evaluation finds, for a WAIT on one signal. -/
def WaitConditions : Prop :=
  ∀ s (q : Queue) (p : Pkt) m,
    let a := lnat p.bytes 8 8
    let old := sigInt (leNat m)
    let v := sigInt (lnat p.bytes 40 8)
    a ≠ 0 → lnat p.bytes 16 8 = 0 → lnat p.bytes 24 8 = 0 → lnat p.bytes 32 8 = 0 → lnat p.bytes 52 1 ≤ 2 →
    memRead s q.asid (q.asid = 0) q.func a 8 = .ok s m →
    waitEval s q p = (s, if old < 0 then some 5
      else if (lnat p.bytes 52 1 = 1 ∧ old ≤ v) ∨ (lnat p.bytes 52 1 ≠ 1 ∧ old = v) then some 0 else none)

/-- R117, R118, R119: a WAIT begins to wait; COND and SWITCH owe a skip of the packets that follow; LOOP repeats its body COUNT
times. -/
def FlowPackets : Prop :=
  ∀ s qid b,
    let u := started s qid b false
    let q := queueOf u qid
    let p := flying s qid b false
    let f (o n : Nat) : Nat := lnat b o n
    let r := memRead u q.asid (q.asid = 0) q.func (f 8 8) 8
    Dispatches s qid b → pktOk (settled s qid) (queueOf s qid) b = true →
    (f 0 1 = 5 → exec .wait s = .next (evalWait u qid p))
    ∧ (∀ m s1, r = .ok s1 m →
        let w := sigInt (leNat m)
        let skips (n : Nat) : State := modQueue s1 qid (fun q => { q with skip := n })
        let cc (a b : Int) : Prop := match f 24 1 with
          | 0 => a = b | 1 => a ≠ b | 2 => a < b | 3 => a ≤ b | 4 => b < a | _ => b ≤ a
        (f 0 1 = 8 → cc w (sigInt (f 16 8)) → EndsAs .cond s (skips 0) qid p 0)
        ∧ (f 0 1 = 8 → ¬ cc w (sigInt (f 16 8)) → EndsAs .cond s (skips (f 25 1)) qid p 0)
        ∧ (∀ i, f 0 1 = 10 → i < f 53 1 → w = sigInt (f (16 + 8 * i) 8) → (∀ j < i, w ≠ sigInt (f (16 + 8 * j) 8)) →
            EndsAs .switchPacket s (skips (f (48 + i) 1)) qid p 0)
        ∧ (f 0 1 = 10 → (∀ j < f 53 1, w ≠ sigInt (f (16 + 8 * j) 8)) → EndsAs .switchPacket s (skips (f 52 1)) qid p 0))
    ∧ (∀ s1 c d, r = .fault s1 c d →
        (f 0 1 = 8 → EndsAs .cond s s1 qid p (accStatus c)) ∧ (f 0 1 = 10 → EndsAs .switchPacket s s1 qid p (accStatus c)))
    ∧ (f 0 1 = 9 → EndsAs .loopPacket s
        (modQueue u qid (fun q => { q with loopIdx := some p.idx, loopRem := f 8 2, loopBody := f 10 1 })) qid p 0)

/-- R119, R118: the body of a LOOP is dispatched again until its runs are used up; owed skips pass over packets. -/
def LoopsAndSkips : Prop :=
  ∀ (q : Queue) i, q.pkts = [] → q.dptr ≤ q.wptr →
    (q.loopIdx = none → q.dptr + q.skip ≤ q.wptr → settleQueue q = { q with dptr := q.dptr + q.skip, skip := 0 })
    ∧ (q.loopIdx = some i → q.skip = 0 → q.dptr = i + 1 + q.loopBody →
        (1 < q.loopRem → settleQueue q = { q with dptr := i + 1, skip := 0, loopRem := q.loopRem - 1 })
        ∧ (q.loopRem ≤ 1 → settleQueue q = { q with skip := 0, loopIdx := none, loopRem := 0 }))

/-- R116: a COPY runs beside later packets, its lines in ascending order, 64 KiB in a turn; it ends with OK when every byte is
copied and with ACCESS_FAULT at the first page that faults. Model's choices in it: log 65. -/
def CopyPackets : Prop :=
  (∀ s qid b, Dispatches s qid b → pktOk (settled s qid) (queueOf s qid) b = true → lnat b 0 1 = 3 →
      exec .copy s = .next (started s qid b true))
  ∧ (∀ s qid p,
      let q := queueOf s qid
      let s0 := { s with focus := .idle }
      let len := lnat p.bytes 24 8
      let r := copyLines q (lnat p.bytes 8 8) (lnat p.bytes 16 8) len (p.copied + 65536) 2050
        { asAsker s0 (askQueue qid p.idx) with copyLast := qid } p.copied
      s.focus = .event (.nn qid p.idx) → q.pkts = [p] → p.async = true → lnat p.bytes 0 1 = 3 → q.draining = none → p.status = none →
      (copyTurn s0 qid = false → exec .copyComplete s = .next s0)
      ∧ (copyTurn s0 qid = true →
        (∀ s1, r = .done s1 → EndsAs .copyComplete s (modPkt s1 qid p (fun x => { x with copied := len })) qid p 0)
        ∧ (∀ s1, r = .fault s1 → EndsAs .copyComplete s s1 qid p 9)
        ∧ ∀ s1 n, r = .part s1 n → exec .copyComplete s = .next (modPkt s1 qid p (fun x => { x with copied := n }))))
  ∧ ∀ (q : Queue) src dst len stop fuel s n,
      let m := min (len - n) (min (128 - (dst + n) % 128) (65536 - (src + n) % 65536))
      (len ≤ n → copyLines q src dst len stop (fuel + 1) s n = .done s)
      ∧ (n < len → stop ≤ n → copyLines q src dst len stop (fuel + 1) s n = .part s n)
      ∧ (n < len → n < stop →
        (∀ s1 c d, memRead s q.asid (q.asid = 0) q.func (src + n) m = .fault s1 c d →
          copyLines q src dst len stop (fuel + 1) s n = .fault s1)
        ∧ ∀ s1 b, memRead s q.asid (q.asid = 0) q.func (src + n) m = .ok s1 b →
          (∀ s2, memWrite s1 q.asid (q.asid = 0) q.func (dst + n) b = .ok s2 () →
            copyLines q src dst len stop (fuel + 1) s n = copyLines q src dst len stop fuel s2 (n + m))
          ∧ ∀ s2 c d, memWrite s1 q.asid (q.asid = 0) q.func (dst + n) b = .fault s2 c d →
            copyLines q src dst len stop (fuel + 1) s n = .fault s2)

/-- R110, R111, R114: the signal operations that end a packet: its completion signal is decremented; a failure aborts that signal
and then the error signal; a decrement that fails gives the packet that failure, and an abort that fails is the last. -/
def EndSignals : Prop :=
  ∀ s (q : Queue) (p : Pkt) s1 s2 e,
    let c := lnat p.bytes 56 8
    let er := q.errsig.toNat
    let abort (st : Nat) (old : Int) : Int := if 0 ≤ old then -(st : Int) else old
    let aborts (u : State) (a st : Nat) : SRes := sigRmw u true q a (abort st)
    c ≠ 0 → c < 2 ^ 52 → c % 8 = 0 →
    (sigRmw s true q c (sigNew 2 1) = .ok s1 → endSignals s q p 0 = (.done s1, 0))
    ∧ (sigRmw s true q c (sigNew 2 1) = .wait s1 → endSignals s q p 0 = (.wait s1, 0))
    ∧ (sigRmw s true q c (sigNew 2 1) = .fail s1 e →
        (er = 0 → endSignals s q p 0 = (.done s1, e))
        ∧ (er ≠ 0 → aborts s1 er e = .ok s2 → endSignals s q p 0 = (.done s2, e)))
    ∧ ∀ st, st ≠ 0 →
        (aborts s c st = .ok s1 → er = 0 → endSignals s q p st = (.done s1, st))
        ∧ (aborts s c st = .ok s1 → er ≠ 0 → aborts s1 er st = .ok s2 → endSignals s q p st = (.done s2, st))
        ∧ (aborts s c st = .fail s1 e → endSignals s q p st = (.done s1, st))

/-- R110, R111: the end of a packet with nothing to signal: a failure halts the queue with STATUS and ERRIDX. -/
def PacketEnds : Prop :=
  ∀ s qid (p : Pkt) status,
    let q := queueOf s qid
    q.pkts = [p] → p.async = false → q.draining = none → q.skip = 0 → q.loopIdx = none → q.state = .active → q.rmirror = 0 →
    lnat p.bytes 56 8 = 0 → q.errsig = 0 → q.status = 0 →
    ∃ t, endPkt s qid p status = .done t ∧
      let u := queueOf t qid
      u.pkts = [] ∧ u.rptr = q.dptr ∧ u.dptr = q.dptr
      ∧ (status = 0 → u.state = .active ∧ u.status = 0)
      ∧ (status ≠ 0 → u.state = .halted ∧ u.status = status ∧ u.erridx = p.idx)

/-! ## Scheduling and launches (R66 to R69, R131 to R149) -/

/-- R144, R145: each millisecond the queues that are pending and unbound age by one; effective priority is the class with one step
for each AGEDIV of age, at most 6, and class 7 stays 7. -/
def QueuesAge : Prop :=
  (∀ s,
    let s0 := { s with focus := .idle }
    s.focus = .event .none →
    ((∀ t, afind s.timers tmAge = some t → 1000000 ≤ Passed s t) → exec .ageStep s = .next { s0 with
        queues := s.queues.map (fun p => if s.pending.getLsbD p.1 = true ∧ p.2.slot = none
          then (p.1, { p.2 with age := if p.2.age = 0xFFFFFFFF#32 then p.2.age else p.2.age + 1 }) else p),
        timers := aput s.timers tmAge s.time })
    ∧ ∀ t, afind s.timers tmAge = some t → Passed s t < 1000000 → exec .ageStep s = .next s0)
  ∧ ∀ s q, (q.cls = 7 → effPrio s q = 7) ∧ (q.cls ≠ 7 → effPrio s q = min 6 (q.cls + q.age.toNat / s.params.agediv))

/-- R144, R145: a selection pass, every 100 µs or at once while a pending queue within its quota could have a free slot, gives each
pending unbound queue, in its order, the slot that the pass finds for it. Model's choices in it: log 47. -/
def SchedulerPasses : Prop :=
  (∀ s, s.focus = .event .none →
    let s0 := { s with focus := .idle, claims := s.claims.filter (fun c => s.pending.getLsbD c.2 && (queueOf s c.2).slot.isNone) }
    let pass := (candidates s0).foldl (fun u c => match slotFor u c with
      | some k => { u with claims := aput u.claims k c }
      | none => u) s0
    ((∀ t, afind s.timers tmTick = some t → 100000 ≤ Passed s t) → exec .schedulerTick s = .next (timerSet pass tmTick))
    ∧ ∀ t, afind s.timers tmTick = some t → Passed s t < 100000 →
        let now : Prop := (∃ c ∈ candidates s0, belowQuota s0 (queueOf s0 c).func = true) ∧ ∃ k < 64, slotUser s0 k = none
        (now → exec .schedulerTick s = .next pass) ∧ (¬ now → exec .schedulerTick s = .next { s with focus := .idle }))
  ∧ ∀ s c k, (List.range 64).find? (fun k => (slotUser s k).isNone) = some k → belowQuota s (queueOf s c).func = true →
      slotFor s c = some k

/-- R120, R141, R143: a queue whose slot is claimed leaves it at a boundary, and is marked if it has something left to do; a queue
that has claimed a free slot takes it, its age 0 and its mark cleared. -/
def SlotsChange : Prop :=
  ∀ s qid,
    let s0 := { s with focus := .idle }
    let q := queueOf s qid
    s.focus = .event (.n qid) →
    (q.slot = none → exec .queueUnbind s = .next s0)
    ∧ (∀ k, q.slot = some k → afind s.claims k = none → exec .queueUnbind s = .next s0)
    ∧ (∀ k c, q.slot = some k → afind s.claims k = some c →
        let s1 := { setQueue s0 qid { q with slot := none, lastrun := s.time } with slotQ := adel s.slotQ k }
        (atBoundary q = false → exec .queueUnbind s = .next s0)
        ∧ (atBoundary q = true → leftOver s0 q = false → exec .queueUnbind s = .next s1)
        ∧ (atBoundary q = true → leftOver s0 q = true → q.state = .active → exec .queueUnbind s = .next (setPendBit s1 qid true)))
    ∧ (∀ p, q.pkts = [p] → p.async = false → p.launch = 0 →
        (atBoundary q = true ↔ lnat p.bytes 0 1 = 5 ∨ (lnat p.bytes 0 1 = 7 ∧ p.step = 1)))
    ∧ (∀ k, s.claims = [(k, qid)] → s.pending.getLsbD qid = true → q.slot = none → afind s.slotQ k = none → q.pkts = [] →
        exec .queueBind s = .next { setPendBit (modQueue s0 qid (fun q => { q with slot := some k, age := 0 })) qid false with
          slotQ := aput s.slotQ k (qid, s.time), claims := adel s.claims k })

/-- R138, R148, R97: placement: a launch that could not complete yet completes first; else the first placeable launch is placed;
else the first waiting one pre-empts. Model's choices in it: log 47. -/
def Placement : Prop :=
  ∀ s,
    let s0 := { s with focus := .idle }
    s.focus = .event .none →
    (∀ h rest, unfinished s0 = h :: rest → exec .placement s = .next (tryFinish s0 h))
    ∧ (unfinished s0 = [] → s.ckpt = none →
      (∀ h, placeable s0 [] (waitingOrder s0) = some h → exec .placement s = .next (beginPlace s0 h))
      ∧ (∀ h rest, placeable s0 [] (waitingOrder s0) = none → waitingOrder s0 = h :: rest → exec .placement s = .next (preemptFor s0 h))
      ∧ (waitingOrder s0 = [] → exec .placement s = .next s0))

/-- R138, R210: the launch placed finds its tiles and sowers free and room for its directory store, and no launch ordered before it
shares a tile. Model's choices in it: log 47, 70. -/
def PlaceableLaunches : Prop :=
  ∀ s (ws : List Nat) h, placeable s [] ws = some h →
    ∃ pre post, ws = pre ++ h :: post ∧ blockers s (launchOf s h) = []
      ∧ ((launchOf s h).dir ≠ [] → (launchOf s h).dstore = [] → 2 * 2 ^ 20 / 4096 ≤ (tierOf s 0).free.length)
      ∧ ∀ b ∈ pre, ∀ t ∈ (launchOf s b).tileset, t ∉ (launchOf s h).tileset

/-- R148, R307: how a running launch yields to one of a higher class: not at all, by draining, by a kill, or by a save when the
region has room. -/
def PreemptionMethods : Prop :=
  ∀ s (n v : Launch),
    (v.pclass = 3 ∨ n.cls ≤ v.cls → methodFor s n v = .none_)
    ∧ (v.pclass ≠ 3 → v.cls < n.cls →
      (remaining v ≤ s.params.drainmax → methodFor s n v = .drain)
      ∧ (s.params.drainmax < remaining v →
        (n.cls = 7 → v.pclass = 0 → methodFor s n v = .kill)
        ∧ (¬ (n.cls = 7 ∧ v.pclass = 0) →
          (2 ≤ v.pclass → methodFor s n v = .drain)
          ∧ (v.pclass ≤ 1 → s.boot.saveUnits < unitsUsed s + imageUnits s v → methodFor s n v = .drain)
          ∧ (v.pclass ≤ 1 → unitsUsed s + imageUnits s v ≤ s.boot.saveUnits → methodFor s n v = .save))))

/-- R115, R131, R133, R137, R98: a LAUNCH packet whose records read and pass is admitted with a handle; one that fails a check ends
with LAUNCH_INVALID and its RESULT; a record that cannot be read ends with ACCESS_FAULT, one that touches a lost plot with KILLED;
none is accepted while device memory is locked. Model's choices in it: log 4, 46, 69. -/
def LaunchPackets : Prop :=
  ∀ s qid b,
    let u := { started s qid b false with nextId := s.nextId + 2 }
    let q := queueOf u qid
    let p := flying s qid b false
    let h := s.nextId + 1
    let l0 : Launch :=
      { handle := h, lrec := BitVec.ofNat 52 (lnat b 8 8), qid := qid, func := if q.asid = 0 then 0 else q.func, cls := q.cls, asid := q.asid,
        dispatched := s.time }
    let stop (y : State) (l : Launch) (status : Nat) : Host.Outcome State Fault Refusal :=
      .next (endNow (setLaunch (runsAlone y qid p h) h l) h status)
    Dispatches s qid b → pktOk (settled s qid) (queueOf s qid) b = true → lnat b 0 1 = 2 →
    (s.boot.memLocked = true → exec .launch s = .next { s with focus := .idle })
    ∧ (s.boot.memLocked = false →
      (∀ s2 c d, memRead u q.asid (q.asid = 0) q.func l0.lrec.toNat 256 = .fault s2 c d → exec .launch s = stop s2 l0 9)
      ∧ (∀ s2 s3 r ld, memRead u q.asid (q.asid = 0) q.func l0.lrec.toNat 256 = .ok s2 r → loadAll (s2, false) q r = ((s3, false), ld) →
          let lost : Prop := 4 < (validate s3 q ld).1 ∧ touchesFailed s3 (fillLaunch l0 ld) = true
          (lost → exec .launch s = stop s3 { l0 with tileset := (fillLaunch l0 ld).tileset } 6)
          ∧ (¬ lost →
            (∀ n, validate s3 q ld = (n, .pass) → exec .launch s = .next (admitLaunch (runsAlone s3 qid p h) h qid (fillLaunch l0 ld)))
            ∧ (∀ n, validate s3 q ld = (n, .access) → exec .launch s = stop s3 l0 9)
            ∧ ∀ n c t x, validate s3 q ld = (n, .fail c t x) →
                exec .launch s = stop s3 { l0 with reason := n, failCtx := c, failTile := t, failNode := x } 1)))

/-- R67, R69: the pages of a launch's leases are raised one by one, those of another package by its headland; with all raised it
waits for its place; a page with its count at 255, or RTIMEOUT passed, ends it with LEASE_FAIL. -/
def LeaseEvents : Prop :=
  (∀ s h,
    let s0 := { s with focus := .idle }
    let l := launchOf s h
    let s1 := modLaunch s0 h (fun l => { l with toRaise := [] })
    s.focus = .event (.n h) →
    (l.phase ≠ .leasing → exec .leaseResidency s = .next s0 ∧ exec .leaseTimeout s = .next s0)
    ∧ (l.phase = .leasing →
      (l.toRaise = [] → exec .leaseResidency s = .next (modLaunch s1 h (fun l => { l with phase := .waiting })))
      ∧ (∀ s2, leaseAll h l.toRaise s1 = (s2, false) → exec .leaseResidency s = .next (endLaunch s2 h 2))
      ∧ (∀ s2, leaseAll h l.toRaise s1 = (s2, true) → (launchOf s2 h).toRaise = [] →
          exec .leaseResidency s = .next (modLaunch s2 h (fun l => { l with phase := .waiting })))
      ∧ (∀ s2, leaseAll h l.toRaise s1 = (s2, true) → (launchOf s2 h).toRaise ≠ [] → exec .leaseResidency s = .next s2)
      ∧ (l.rtimeout * 1000000 ≤ Passed s l.leaseSince → exec .leaseTimeout s = .next (endLaunch s0 h 2))
      ∧ (Passed s l.leaseSince < l.rtimeout * 1000000 → exec .leaseTimeout s = .next s0)))
  ∧ ∀ s h ia c,
    let s0 := { s with focus := .idle }
    let l := launchOf s h
    l.phase = .leasing → l.toRaise = [ia] → pkgIsLocal s (iaPkg ia.toNat) = false → joined s = true →
    (s.focus = .event (.nn h (ia.toNat / 65536)) → ∃ t, exec .leaseResidency s = .next t ∧ t.mem = s.mem
      ∧ launchOf t h = { l with toRaise := [], raised := l.raised ++ [ia], phase := .waiting })
    ∧ (s.focus = .event (.answerBad h c) → exec .leaseResidency s = .next (endLaunch s0 h 2))

/-- R149, R132: a launch that ends lowers its leases, writes its RESULT, is no more, and then its packet completes; one that holds
tiles is asked to leave them first. -/
def LaunchesEnd : Prop :=
  (∀ s h status,
    ((launchOf s h).phase = .leasing ∨ (launchOf s h).phase = .waiting → endLaunch s h status =
      tryFinish (modLaunch s h (fun l => { l with status := some status, phase := .ending, endTime := s.time })) h)
    ∧ ((launchOf s h).phase = .running → endLaunch s h status = askEnd s h status))
  ∧ ∀ s h s1 p t,
    let u := dropLeases s h
    let l := launchOf u h
    let v := retire s1 h
    l.raised = [] ∧ l.toRaise = []
    ∧ (memWrite (asAsker u (askLaunch h)) l.asid (l.asid = 0) l.func (l.lrec.toNat + 240) (resultBytes l) = .ok s1 () →
      (queueOf v (launchOf v h).qid).pkts.find? (fun p => p.launch = h) = some p →
      endPkt v (launchOf v h).qid p ((launchOf v h).status.getD 0) = .done t → tryFinish s h = t)

/-- R67: the LEASE count of a valid page is raised by 1 up to 255, and lowered again. -/
def LeaseCounts : Prop :=
  ∀ s asid ia x y p,
    let w := rdLE s.mem p 8
    pteLoc s asid ia = some (x, y, p) →
    (pteValid w = false → raiseLease s asid ia = .notValid)
    ∧ (pteValid w = true → pteLease w = 255 → raiseLease s asid ia = .full)
    ∧ (pteValid w = true → pteLease w < 255 → raiseLease s asid ia = .raised { s with mem := wrLE s.mem p 8 (w + 2 ^ 56) })
    ∧ (pteLease w = 0 → lowerLease s asid ia = s)
    ∧ (0 < pteLease w → lowerLease s asid ia = { s with mem := wrLE s.mem p 8 (w - 2 ^ 56) })

/-- R143, R146: the periodic events: a queue is marked 100 µs before its release; from its release on a launch runs beside later
packets; at its deadline it ends with KILLED. -/
def PeriodicEvents : Prop :=
  (∀ s qid,
    let s0 := { s with focus := .idle }
    let q := queueOf s qid
    s.focus = .event (.n qid) →
    (q.period ≠ 0 → q.dptr < q.wptr → q.nextrel ≤ s.time + 100000 → q.slot = none → q.state = .active →
      exec .periodicPending s = .next (setPendBit s0 qid true))
    ∧ (q.period = 0 ∨ q.wptr ≤ q.dptr ∨ s.time + 100000 < q.nextrel → exec .periodicPending s = .next s0))
  ∧ ∀ s h,
    let s0 := { s with focus := .idle }
    let l := launchOf s h
    s.focus = .event (.n h) →
    (l.periodic = true → l.release ≤ s.time → exec .periodicRelease s = .next (modQueue s0 l.qid (fun q =>
        { q with pkts := q.pkts.map (fun p => if p.launch = h then { p with async := true } else p) })))
    ∧ (l.periodic = false ∨ s.time < l.release → exec .periodicRelease s = .next s0)
    ∧ (l.periodic = true → l.deadline ≠ 0 → l.release + l.deadline ≤ s.time → l.phase ≠ .done → l.status = none → l.closing = false →
        exec .deadlineExpire s = .next (endLaunch s0 h 6))
    ∧ (l.periodic = false ∨ l.deadline = 0 ∨ s.time < l.release + l.deadline ∨ l.closing = true → exec .deadlineExpire s = .next s0)


/-! ## Plots (R135 to R140, R147 to R149, R198, R304 to R313) -/

/-- The headmost command a plot has before it. -/
def CmdAt (s : State) (p : Nat) (m : Msg) : Prop :=
  (linkOf s p).failed = false ∧ (linkOf s p).cmds.head?.map (·.msg) = some m

/-- The state once a plot has taken its headmost command: the permit returns, or a command that waited follows (R136). -/
def cmdTaken (s : State) (p : Nat) : State :=
  let k := linkOf s p
  modLink { s with focus := .idle } p (fun _ => match k.cmdWait with
    | [] => { k with cmds := k.cmds.tail, cmdPermits := k.cmdPermits + 1, stuckSince := s.time }
    | w :: ws => { k with cmds := k.cmds.tail ++ [{ seq := k.cmdSeq, msg := w }], cmdWait := ws, cmdSeq := k.cmdSeq + 1,
                          stuckSince := s.time })

/-- The headmost event a plot's link holds for the headland. -/
def EvAt (s : State) (p : Nat) (m : Msg) : Prop := (linkOf s p).events.head?.map (·.msg) = some m

/-- The state once the headland has taken a plot's headmost event. -/
def evTaken (s : State) (p : Nat) : State :=
  let k := linkOf s p
  modLink { s with focus := .idle } p (fun _ => match k.evWait with
    | [] => { k with events := k.events.tail, evPermits := k.evPermits + 1 }
    | w :: ws => { k with events := k.events.tail ++ [{ seq := k.evSeq, msg := w }], evWait := ws, evSeq := k.evSeq + 1 })

/-- A link as R136 keeps it: its permits and the messages in the queue they stand for make up 4 and 8, a message waits only where no
permit is left, and the messages of a queue carry consecutive sequence numbers. -/
def LinkOk (k : Link) : Prop :=
  k.cmdPermits + k.cmds.length = 4 ∧ k.evPermits + k.events.length = 8
    ∧ (k.cmdWait ≠ [] → k.cmdPermits = 0) ∧ (k.evWait ≠ [] → k.evPermits = 0)
    ∧ (∀ (i : Nat) (x : Sent), k.cmds[i]? = some x → x.seq + BitVec.ofNat 8 (k.cmds.length - i) = k.cmdSeq)
    ∧ ∀ (i : Nat) (x : Sent), k.events[i]? = some x → x.seq + BitVec.ofNat 8 (k.events.length - i) = k.evSeq

/-- The commands, and the events, of a link that have not been taken, in their order. -/
def cmdsOf (k : Link) : List Msg := k.cmds.map (·.msg) ++ k.cmdWait
def evsOf (k : Link) : List Msg := k.events.map (·.msg) ++ k.evWait

/-- R135, R136: a command or event uses a permit, without one it waits, and none is dropped; taking a message returns the permit or
lets the first that waits follow; permits and messages always make up 4 and 8, sequence numbers follow one another. -/
def LinkPermits : Prop :=
  ({} : Link).cmdPermits = 4 ∧ ({} : Link).evPermits = 8 ∧ LinkOk {}
  ∧ (∀ s p m, LinkOk (linkOf s p) → LinkOk (linkOf (sendCmd s p m) p) ∧ LinkOk (linkOf (sendEv s p m) p)
    ∧ cmdsOf (linkOf (sendCmd s p m) p) = cmdsOf (linkOf s p) ++ [m]
    ∧ evsOf (linkOf (sendEv s p m) p) = evsOf (linkOf s p) ++ [m]
    ∧ ∀ p' ≠ p, linkOf (sendCmd s p m) p' = linkOf s p' ∧ linkOf (sendEv s p m) p' = linkOf s p')
  ∧ (∀ s p m, CmdAt s p m → LinkOk (linkOf s p) →
      LinkOk (linkOf (cmdTaken s p) p) ∧ m :: cmdsOf (linkOf (cmdTaken s p) p) = cmdsOf (linkOf s p))
  ∧ ∀ s p m, EvAt s p m → LinkOk (linkOf s p) →
      LinkOk (linkOf (evTaken s p) p) ∧ m :: evsOf (linkOf (evTaken s p) p) = evsOf (linkOf s p)

/-- R135: a message on a command link: its code, its sequence number and the launch's handle. -/
def PlotMessages : Prop :=
  ∀ (x : Sent) (h : Nat) (a : PlotAns) (f : Poison) v cs,
    let codeIs (m : Msg) (c : Nat) : Prop := x.msg = m → lnat x.bytes 0 1 = c ∧ lnat x.bytes 1 1 = x.seq.toNat ∧ lnat x.bytes 2 2 = h % 65536
    codeIs (.place h) 0x01 ∧ codeIs (.go h) 0x02 ∧ codeIs (.save h) 0x03 ∧ codeIs (.restore h) 0x04 ∧ codeIs (.kill h) 0x05
    ∧ codeIs (.freeTiles h) 0x06 ∧ codeIs (.fault h f) 0x82 ∧ codeIs (.estimate h v) 0x84 ∧ codeIs (.sinks h cs) 0x85
    ∧ codeIs (.answer h a) (match a with
      | .placed | .rejected _ _ _ _ | .accessFault _ => 0x81
      | .saved | .restored | .lost => 0x83
      | .freed => 0x86)

/-- R139, R131, R156: a plot takes PLACE, loads its tiles with what was read and checked at dispatch, the first plot of the launch its
gate images too, and answers PLACED. Model's choices in it: log 46, 69. -/
def PlaceCommands : Prop :=
  ∀ s p h, s.focus = .event (.n p) → CmdAt s p (.place h) →
    let s1 := cmdTaken s p
    let l := launchOf s1 h
    (l.phase ≠ .placing → exec .place s = .next s1)
    ∧ (l.phase = .placing → (plotsOf l).head? ≠ some p → exec .place s = .next (sendEv (placeTiles s1 p h) p (.answer h .placed)))
    ∧ (l.phase = .placing → (plotsOf l).head? = some p →
        exec .place s = .next (sendEv (placeTiles (loadSowers s1 l) p h) p (.answer h .placed)))

/-- R155, R147, R273, R134: what a placed tile holds: ESTR from ESTIME, CLKQ from CLKREQ, channels 0 to 3 as firmware set them and the
others from the record, every context's SEED and windows, and no other state of an earlier launch. -/
def PlacedTiles : Prop :=
  ∀ s h t,
    let l := launchOf s h
    let tl := placedTile s h t
    tl.launch = h ∧ tl.partw = l.partw ∧ tl.estr = l.estime ∧ tl.clkq = l.clkreq ∧ tl.dbgctl = (fnOf s l.func).brk
    ∧ (∀ i < 4, tl.chan.getD i 0 = s.boot.chans.getD i 0) ∧ (∀ i, 4 ≤ i → tl.chan.getD i 0 = l.chan.getD i 0)
    ∧ tl.stat = 0 ∧ tl.thctl = 0 ∧ tl.clkev = 0 ∧ tl.stepid = 0 ∧ tl.store = [] ∧ tl.ready = [] ∧ tl.busy = [] ∧ tl.runs = []
    ∧ tl.sticky = [] ∧ tl.counts = [] ∧ tl.mat = [] ∧ tl.badWords = []
    ∧ (∀ k : Fin 4, tl.slots[k].phase = .free)
    ∧ (∀ c < l.images.length, afind tl.seed c = some l.seed ∧ afind tl.wins c = some l.wins
        ∧ (aget tl.graph c {}).nodes = aget (l.images.getD c {}).nodes t []
        ∧ (aget tl.graph c {}).codes = (l.images.getD c {}).codes)
    ∧ (∀ c < l.images.length, ∀ i < 8, (aget tl.winsel c 0).getLsbD i = ((l.wins[i]?).map (·.valid)).getD false)
    ∧ tl.parked = (tileOf s t).parked ∧ tl.active = (tileOf s t).active

/-- R139: while an answer to PLACE is owed it is noted; the last one decides. -/
def PlacementAnswers : Prop :=
  (∀ s p h a, s.focus = .event (.n p) → EvAt s p (.answer h a) →
    (match a with | .placed => True | .rejected _ _ _ _ => True | .accessFault _ => True | _ => False) →
    let s1 := evTaken s p
    let s2 := modLaunch s1 h (fun l => { l with answers := aput l.answers p a })
    ((launchOf s1 h).phase ≠ .placing → exec .placed s = .next s1)
    ∧ ((launchOf s1 h).phase = .placing → (∃ p' ∈ plotsOf (launchOf s h), afind (launchOf s2 h).answers p' = none) →
        exec .placed s = .next s2)
    ∧ ((launchOf s1 h).phase = .placing → ∀ as, allAnswers (launchOf s2 h) = some as → exec .placed s = .next (placedAll s2 h as)))
  ∧ ∀ s h as,
    let l := launchOf s h
    let s' := placedAll s h as
    (placeFail as = none →
      (launchOf s' h).phase = .running ∧ s'.clk.reeval = some 1 ∧ ∀ p ∈ plotsOf l, .go h ∈ cmdsOf (linkOf s' p))
    ∧ (∀ n acc c t k, placeFail as = some (n, acc, c, t, k) →
        (launchOf s' h).phase = .freeing ∧ (launchOf s' h).status = some (if acc then 9 else 1)
        ∧ (acc = false → (launchOf s' h).reason = n ∧ (launchOf s' h).failCtx = c ∧ (launchOf s' h).failTile = t ∧ (launchOf s' h).failNode = k)
        ∧ ∀ p ∈ plotsOf l, .freeTiles h ∈ cmdsOf (linkOf s' p))

/-- R131: of the plots' failed checks the lowest-numbered is reported. Model's choices in it: log 46. -/
def EarliestFailures : Prop :=
  ∀ as,
    (placeFail as = none ↔ ∀ a ∈ as, (∀ n c t k, a ≠ .rejected n c t k) ∧ ∀ n, a ≠ .accessFault n)
    ∧ (∀ n acc c t k, placeFail as = some (n, acc, c, t, k) →
        (if acc then PlotAns.accessFault n else .rejected n c t k) ∈ as
        ∧ (∀ m c' t' k', PlotAns.rejected m c' t' k' ∈ as → n ≤ m) ∧ ∀ m, PlotAns.accessFault m ∈ as → n ≤ m)

/-- R135, R139, R305, R313: with a GO the first context becomes current on that plot's tiles; a saved launch resumes with the last
plot's GO; a GO discards the plot's near copies. -/
def GoCommands : Prop :=
  ∀ s p h, s.focus = .event (.n p) → CmdAt s p (.go h) →
    let s1 := discardNear (cmdTaken s p) p
    let l := launchOf s1 h
    (l.phase ≠ .running → exec .go s = .next s1)
    ∧ (l.phase = .running → l.save = none →
        exec .go s = .next (enterTiles (noteCtx s1 h 0) h 0 (l.tileset.filter (fun t => plotOf t = p)) true))
    ∧ (l.phase = .running → ∀ x, l.save = some x →
        (goElsewhere s1 h = true → exec .go s = .next s1)
        ∧ (goElsewhere s1 h = false → exec .go s = .next (resumeLaunch s1 h x)))

/-- R313: the inbound queue is delivered in ascending TAG, and in order of appending among equal tags. -/
def InboundOrder : Prop :=
  ∀ fs : List Flight,
    let out := fs.foldl (fun gs f => tagInsert f gs) []
    out.Perm fs ∧ out.Pairwise (fun a b => a.tok.tag.toNat ≤ b.tok.tag.toNat)
      ∧ ∀ g : BitVec 20, out.filter (fun f => f.tok.tag = g) = fs.filter (fun f => f.tok.tag = g)

/-- R304, R149, R148, R174: KILL and FREE clear the launch's tiles on the plot and answer FREED; KILL first drops the launch's flits.
The first plot's KILL for a newcomer ends the launch with KILLED unless its last step is over. Model's choices in it: log 49. -/
def KillAndFreeCommands : Prop :=
  (∀ s p h, s.focus = .event (.n p) →
    let s1 := cmdTaken s p
    let u := killTakes s1 h
    (CmdAt s p (.kill h) → (launchOf u h).phase = .killing →
      exec .kill s = .next (sendEv (clearPlot false { u with net := u.net.filter (fun f => f.launch ≠ h) } p h) p (.answer h .freed)))
    ∧ (CmdAt s p (.kill h) → (launchOf u h).phase ≠ .killing → exec .kill s = .next u)
    ∧ (CmdAt s p (.freeTiles h) → exec .freeTiles s = .next (sendEv (clearPlot true s1 p h) p (.answer h .freed))))
  ∧ (∀ s h,
    let l := launchOf s h
    (l.killAsk = false ∨ l.closing = true ∨ l.status ≠ none → killTakes s h = s)
    ∧ (l.killAsk = true → l.closing = false → l.status = none →
        launchOf (killTakes s h) h = { l with status := some 6, phase := .killing, answers := [] } ∧ (killTakes s h).tiles = s.tiles))
  ∧ ∀ s t,
    let s' := clearTile s t
    (tileOf s' t).launch = 0 ∧ (tileOf s' t).store = [] ∧ (tileOf s' t).ready = [] ∧ (tileOf s' t).busy = []
    ∧ (∀ k : Fin 4, (tileOf s' t).slots[k].phase = .free)
    ∧ (∀ r ∈ s'.reqs, r.tile ≠ t) ∧ (∀ c ∈ s'.cmds, c.tile ≠ t) ∧ (∀ t' ≠ t, tileOf s' t' = tileOf s t') ∧ s'.mem = s.mem

/-- R149, R132: FREED is noted; with the last plot's the launch releases what it holds and completes. -/
def FreedAnswers : Prop :=
  ∀ s p h, s.focus = .event (.n p) → EvAt s p (.answer h .freed) →
    let s1 := evTaken s p
    let s2 := modLaunch s1 h (fun l => { l with answers := aput l.answers p .freed })
    let ends : Prop := (launchOf s h).phase = .killing ∨ (launchOf s h).phase = .freeing
    (¬ ends → exec .freed s = .next s1)
    ∧ (ends → (∃ p' ∈ plotsOf (launchOf s h), afind (launchOf s2 h).answers p' ≠ some .freed) → exec .freed s = .next s2)
    ∧ (ends → (∀ p' ∈ plotsOf (launchOf s h), afind (launchOf s2 h).answers p' = some .freed) →
        exec .freed s = .next (freedAll s2 h))

/-- R305, R306, R148: a plot takes SAVE once its tiles have come to rest and answers SAVED; a launch whose last step is over
takes no save. Model's choices in it: log 48. -/
def SaveCommands : Prop :=
  ∀ s p h, s.focus = .event (.n p) → CmdAt s p (.save h) →
    let s1 := cmdTaken s p
    let l := launchOf s1 h
    (l.closing = true ∨ l.phase ≠ .saving → exec .save s = .next s1)
    ∧ (l.closing = false → l.phase = .saving → saveReady s1 p h = false → exec .save s = .next { s with focus := .idle })
    ∧ (l.closing = false → l.phase = .saving → saveReady s1 p h = true → exec .save s = .next (sendEv (savePlot s1 p h) p (.answer h .saved)))

/-- R312, R133: a plot answers LOST when the image's header, an image of a context or a tag is not as it was; else it reloads its
tiles and answers RESTORED. Model's choices in it: log 48, 61. -/
def RestoreCommands : Prop :=
  ∀ s p h x, s.focus = .event (.n p) → CmdAt s p (.restore h) → (launchOf s h).save = some x →
    let s0 := { s with focus := .idle }
    let s1 := cmdTaken s p
    let l := launchOf s1 h
    let lost (y : State) : State := sendEv y p (.answer h .lost)
    let r := rereadImages l (l.images.zip x.checks) (asAsker s1 (askLaunch h))
    (l.phase ≠ .restoring → exec .restore s = .next s1)
    ∧ (l.phase = .restoring → imageHeadOk s.boot.ret.boots l x = false → exec .restore s = .next (lost s1))
    ∧ (l.phase = .restoring → imageHeadOk s.boot.ret.boots l x = true →
        (∀ w, r = .wait w → exec .restore s = .next (keepWaits s0 w))
        ∧ (∀ s2, r = .lost s2 → exec .restore s = .next (lost s2))
        ∧ (∀ s2 ims, r = .images s2 ims →
            (imageSound s2.boot.saveKey l x = false → exec .restore s = .next (lost s2))
            ∧ (imageSound s2.boot.saveKey l x = true →
                ∃ s4, exec .restore s = .next (sendEv s4 p (.answer h .restored))
                    ∧ s4.mem = s2.mem ∧ s4.net = s2.net ∧ s4.launches = s2.launches
                    ∧ (∀ t ∈ plotTiles l p,
                      let old := aget x.tiles t {}
                      (tileOf s4 t).store = old.store ∧ (tileOf s4 t).stat = old.stat ∧ (tileOf s4 t).slots = old.slots
                        ∧ (tileOf s4 t).scratch = old.scratch ∧ (tileOf s4 t).vreg = old.vreg ∧ (tileOf s4 t).thctl = old.thctl
                        ∧ (tileOf s4 t).estr = old.estr ∧ (tileOf s4 t).clkq = old.clkq)
                    ∧ ∀ t ∉ plotTiles l p, tileOf s4 t = tileOf s2 t)))

/-- R307, R309, R311, R312: a restore asks MAGIC, HANDLE and BOOT of the header, and of every unit that it reads and bears its tag; an
image as the device wrote it passes both; a unit overwritten past the device keeps the tag it had, and the other units and tags stay as
they are. Model's choices in it: log 48, 61. -/
def SaveTags : Prop :=
  ∀ (boots : BitVec 32) (key : BitVec 512) (l : Launch) (x : SaveImage),
    let head := imageUnit l x 0
    (imageHeadOk boots l x = true ↔ lnat head 0 4 = 0x53490001 ∧ lnat head 8 2 = l.handle % 65536 ∧ lnat head 24 4 = boots.toNat)
    ∧ (imageSound key l x = true ↔ ∀ i < imageLen l x, i ∉ x.badUnits ∧ tableTag key l x i = unitTag key l x i)
    ∧ (∀ i, unitTag key l x i
        = lword (hmac512 (bytesLE 64 key.toNat) (bytesLE 8 (Config.saveIA l.handle) ++ bytesLE 8 i ++ imageUnit l x i)) 0)
    ∧ imageSound key l (sealImage x) = true
    ∧ (x.patches = [] → x.boots = boots → imageHeadOk boots l x = true)
    ∧ (∀ u off b, u < imageLen l x →
        let y := overwrite key l x u off b
        imageUnit l y u = lmod (imageUnit l x u) off (fun _ => b) ∧ (∀ i, tableTag key l y i = tableTag key l x i)
          ∧ ∀ i ≠ u, imageUnit l y i = imageUnit l x i)
    ∧ (∀ f i, appendUnit l x f i = true →
        tableTag key l (appendInbound l x f) i = unitTag key l (appendInbound l x f) i)

/-- R148, R306, R309, R312, R313: SAVED and RESTORED of every plot complete a save or a restore; one LOST ends the launch with
RESTORE_LOST. Model's choices in it: log 48. -/
def SaveAnswers : Prop :=
  ∀ s p h a, s.focus = .event (.n p) → EvAt s p (.answer h a) →
    let s1 := evTaken s p
    let l := launchOf s h
    let s2 := modLaunch s1 h (fun l => { l with answers := aput l.answers p a })
    let all : Prop := ∀ p' ∈ plotsOf l, (afind (launchOf s2 h).answers p').isSome = true
    (a = .saved → l.phase ≠ .saving → exec .saved s = .next s1)
    ∧ (a = .saved → l.phase = .saving → ¬ all → exec .saved s = .next s2)
    ∧ (a = .saved → l.phase = .saving → all → exec .saved s = .next (savedAll s2 h) ∧ (launchOf (savedAll s2 h) h).phase = .saved
        ∧ (∀ x ∈ l.sowers, (sowerOf s x.1).holder = h → (sowerOf (savedAll s2 h) x.1).holder = 0)
        ∧ ∃ y, (launchOf (savedAll s2 h) h).save = some y ∧ y.boots = s.boot.ret.boots
          ∧ ∀ i < imageLen (launchOf (savedAll s2 h) h) y,
            tableTag s.boot.saveKey (launchOf (savedAll s2 h) h) y i = unitTag s.boot.saveKey (launchOf (savedAll s2 h) h) y i)
    ∧ (a = .lost → l.phase = .restoring → exec .saved s = .next (askEnd s1 h 4))
    ∧ (a = .restored → l.phase = .restoring → ¬ all → exec .saved s = .next s2)
    ∧ (a = .restored → l.phase = .restoring → all →
        let s3 := modLaunch s2 h (fun l => { l with phase := .running, answers := [] })
        exec .saved s = .next (askReeval (cmdAll s3 (launchOf s3 h) (.go h)) 1))

/-- R68: a FAULT message whose poison is a lease violation ends the launch with LEASE_FAULT. -/
def FaultMessages : Prop :=
  ∀ s p h f, s.focus = .event (.n p) → EvAt s p (.fault h f) →
    exec .fault s = .next (if f.code = 0x06 then askEnd (evTaken s p) h 3 else evTaken s p)

/-- R147, R148: the headland keeps each plot's latest estimate; a drain whose launch now needs longer than DRAINMAX becomes a
checkpoint where PCLASS and the save region allow it. Model's choices in it: log 51. -/
def EstimateMessages : Prop :=
  (∀ s p h v, s.focus = .event (.n p) → EvAt s p (.estimate h v) →
    let s1 := modLaunch (evTaken s p) h (fun l => { l with est := aput l.est p v })
    let l := launchOf s1 h
    let turns : Prop := l.phase = .draining ∧ l.drainAsk = true ∧ l.closing = false ∧ s.params.drainmax < remaining l ∧ l.pclass ≤ 1
      ∧ unitsUsed s1 + imageUnits s1 l ≤ s.boot.saveUnits
    (turns → exec .estimate s = .next (beginSave s1 h)) ∧ (¬ turns → exec .estimate s = .next s1))
  ∧ (∀ s p, s.focus = .event (.n p) → (linkOf s p).events = [] → exec .estimate s = .next (oweEstimates { s with focus := .idle } p))
  ∧ ∀ l : Launch,
      (∀ p ∈ plotsOf l, (aget l.est p l.estime).toNat ≤ remaining l)
      ∧ (plotsOf l ≠ [] → ∃ p ∈ plotsOf l, remaining l = (aget l.est p l.estime).toNat)

/-- R140, R198: SINKS reports wait until every plot's for a barrier is there; then the counts join the totals, and a launch whose
contexts are all complete is freed with OK. -/
def SinkReports : Prop :=
  ∀ s p h cs, s.focus = .event (.n p) → EvAt s p (.sinks h cs) →
    let s1 := modLaunch (evTaken s p) h (fun l => { l with sinkAns := aput l.sinkAns p (aget l.sinkAns p [] ++ cs) })
    let l := launchOf s1 h
    let heads := (plotsOf l).filterMap (fun q => (aget l.sinkAns q []).head?)
    ((∃ q ∈ plotsOf l, aget l.sinkAns q [] = []) → exec .sinks s = .next s1)
    ∧ ((∀ q ∈ plotsOf l, aget l.sinkAns q [] ≠ []) →
        let tot := heads.foldl (fun m x => amod m x.1 0 (· + x.2)) l.sinkTotals
        let s2 := modLaunch s1 h (fun l => { l with sinkTotals := tot, sinkAns := l.sinkAns.map (fun x => (x.1, x.2.drop 1)) })
        let done : Prop := l.closing = true ∧ l.status = none
          ∧ ∀ c < min l.images.length 8, (l.images.getD c {}).sinks ≤ aget tot c 0
        (done → exec .sinks s = .next (askFree s2 h 0)) ∧ (¬ done → exec .sinks s = .next s2))

/-- R137, R150: a controller found stuck for 10 ms, or whose watchdog expires, leaves a crash entry with the headland's registers; its
link starts afresh, and every launch with a tile on it is killed; one that answers works again; one that has not after 10 ms is
failed for good. Model's choices in it: log 47. -/
def PlotFailures : Prop :=
  (∀ s n (r : CpuRegs), s.focus = .event (.cpu n r) →
    let s0 := { s with focus := .idle }
    let p := if n < 128 then n else n - 128
    let hs := (s.launches.filter (fun x => (plotsOf x.2).contains p)).map (·.1)
    let works : Prop := p < 80 ∧ p ∉ s.boot.plotFail ∧ afind s.boot.reloads p = none
    let stuck : Prop := (linkOf s p).cmds ≠ [] ∧ 10000000 ≤ Passed s (linkOf s p).stuckSince
    (¬ (works ∧ (n < 128 → stuck)) → exec .plotControllerFailed s = .next s0)
    ∧ (works → (n < 128 → stuck) →
        let s1 := writeCrash s0 3 p r
        exec .plotControllerFailed s = .next (hs.foldl (plotLost p) { s1 with
          links := aput s.links p { failed := true }, boot := { s1.boot with reloads := aput s.boot.reloads p s.time } })))
  ∧ (∀ s p, s.focus = .event (.n p) →
    let s0 := { s with focus := .idle }
    let hs := (s.launches.filter (fun x => (plotsOf x.2).contains p)).map (·.1)
    (afind s.boot.reloads p = none → exec .plotFail s = .next s0)
    ∧ (∀ t0, afind s.boot.reloads p = some t0 → Passed s t0 < 10000000 → exec .plotFail s = .next s0)
    ∧ (∀ t0, afind s.boot.reloads p = some t0 → 10000000 ≤ Passed s t0 →
        exec .plotFail s = .next (hs.foldl (plotGone p)
          { s0 with boot := { s.boot with reloads := adel s.boot.reloads p, plotFail := s.boot.plotFail ++ [p] } })))
  ∧ ∀ s p, (afind s.boot.reloads p).isSome = true →
      (linkOf (moveOther s (.reloaded p)) p).failed = false ∧ afind (moveOther s (.reloaded p)).boot.reloads p = none

/-- R150: a crash entry stands at NEXT with its time, cause, plot, BOOTS and check; NEXT goes on modulo 511 and COUNT saturates.
Model's choices in it: log 31, 50. -/
def CrashEntries : Prop :=
  ∀ s cause plot (r : CpuRegs), cause < 256 → plot < 256 → r.data.length ≤ 76 → s.time < 2 ^ 64 →
    let s' := writeCrash s cause plot r
    let x := s.boot.ret
    let e := aget s'.boot.ret.entries x.next []
    e.length = 128 ∧ lnat e 0 8 = s.time ∧ lnat e 8 1 = cause ∧ lnat e 9 1 = plot ∧ lnat e 10 2 = r.qid.toNat
    ∧ lnat e 12 4 = x.boots.toNat ∧ lnat e 16 8 = r.lrec.toNat ∧ lnat e 24 8 = r.pc.toNat ∧ lnat e 32 8 = r.mcause.toNat
    ∧ lnat e 40 8 = r.mtval.toNat ∧ lnat e 124 4 = (crc32 (e.take 124)).toNat
    ∧ s'.boot.ret.next = (x.next + 1) % 511
    ∧ s'.boot.ret.count = (if x.count = 0xFFFFFFFF#32 then x.count else x.count + 1)
    ∧ (∀ i ≠ x.next, aget s'.boot.ret.entries i [] = aget x.entries i [])
    ∧ s'.tiles = s.tiles ∧ s'.mem = s.mem

/-! ## Tiers (R73, R86 to R91, R96) -/

/-- R86, R87, R91: the write that reached the pool first is tried again; a write held for 1 ms is told to firmware; a tier is
declared exhausted with such a write, and then holds none. Model's choices in it: log 18. -/
def HeldWrites : Prop :=
  ∀ s tn,
    let s0 := { s with focus := .idle }
    let t := tierOf s tn
    let due (x : HeldWrite) : Bool := !x.told && decide (1000000 ≤ Passed s x.since)
    s.focus = .event (.n tn) →
    (t.held = [] → exec .chunkGrant s = .next s0 ∧ exec .firmwareSpaceNotice s = .next s0 ∧ exec .tierExhausted s = .next s0)
    ∧ (∀ x rest, t.held = x :: rest →
        (∀ i r, x.who = .req i → s.reqs.find? (fun r => r.id = i) = some r →
          exec .chunkGrant s = .next (if mayPerform s0 r then performLocal s0 r ((r.pte.getD []).map (·.toNat)) false else s0))
        ∧ (∀ i c, x.who = .recode i → s.recodes.find? (fun c => c.id = i) = some c → exec .chunkGrant s = .next (recodeBegin s0 c))
        ∧ (∀ a b, x.who = .dev a b → exec .chunkGrant s = .next s0))
    ∧ (∀ x, t.held.find? due = some x → exec .firmwareSpaceNotice s = .next (modTier s0 tn (fun t =>
        { t with held := t.held.map (fun y => if y.who = x.who then { y with told := true } else y) })))
    ∧ (t.held.any due = false → exec .firmwareSpaceNotice s = .next s0)
    ∧ (t.exhausted = true ∨ t.held.any (·.told) = false → exec .tierExhausted s = .next s0)
    ∧ (t.exhausted = false → t.held.any (·.told) = true →
        exec .tierExhausted s = .next (t.held.foldl (exhaustOne tn)
          (modTier s0 tn (fun t => { t with exhausted := t.free.length < tierLow t, held := [] }))))

/-- A record holds chunks in use beyond what SECTORS needs (R88). -/
def spare (s : State) (tn i : Nat) : Prop :=
  let b := recBytes s tn i
  recWellFormed (chunkBound s tn) b = true ∧ cdiv (lnat b 132 2) 128 < lnat b 129 1

/-- R88, R91: compaction takes the spare chunks of the first record in use, in ascending index, that has any; they join the free pool
and no byte of any page changes; exhaustion ends once FREE reaches LOW. -/
def Compaction : Prop :=
  (∀ s tn,
    let s0 := { s with focus := .idle }
    s.focus = .event (.n tn) →
    (balloons s tn = false → exec .compactionPage s = .next s0)
    ∧ ((∀ i ∈ liveRecords s tn, ¬ spare s tn i) → exec .compactionPage s = .next s0)
    ∧ (balloons s tn = true → ∀ pre i post, liveRecords s tn = pre ++ i :: post → (∀ j ∈ pre, ¬ spare s tn j) → spare s tn i →
        let r := recOf s tn i
        let k := cdiv r.sectors 128
        exec .compactionPage s = .next (giveChunks (setRec s0 tn i { r with chunks := r.chunks.take k }) tn (r.chunks.drop k))))
  ∧ (∀ s tn, Memory.wf s.mem = true → (liveRecords s tn).Pairwise (· < ·)
      ∧ ∀ i, i ∈ liveRecords s tn ↔ i < (tierOf s tn).area ∧ (rd8 s.mem (recKey s tn i + 128)).extractLsb' 0 3 ≠ 0)
  ∧ ∀ s tn cs,
    let t' := tierOf (giveChunks s tn cs) tn
    (∀ c, c ∈ t'.free ↔ c ∈ (tierOf s tn).free ∨ c ∈ cs)
    ∧ ((tierOf s tn).free.Pairwise (· < ·) → t'.free.Pairwise (· < ·))
    ∧ (t'.exhausted = true ↔ ((tierOf s tn).exhausted = true ∧ t'.free.length < tierLow (tierOf s tn)))
    ∧ (giveChunks s tn cs).mem = s.mem

/-- R88, R73: with nothing to compact, and no page whose chunks are still on their way back to the pool, the coldest page that may go is
moved one tier down; where it finds no room there, that tier makes some first; no page is colder, and of equal ones the lowest record goes. Model's choices in it: log 40. -/
def Demotion : Prop :=
  (∀ s tn,
    let s0 := { s with focus := .idle }
    let going (n : Nat) : Prop := ∃ x ∈ s.shoots, ∃ w ∈ x.moved, pteTier w = n
    s.focus = .event (.n tn) →
    (2 ≤ tn ∨ balloons s tn = false ∨ going tn ∨ (∃ i ∈ liveRecords s tn, spare s tn i) ∨ demotable s0 tn = [] →
      exec .demotionComplete s = .next s0)
    ∧ (tn < 2 → balloons s tn = true → ¬ going tn → (∀ i ∈ liveRecords s tn, ¬ spare s tn i) → ∀ key, coldest (demotable s0 tn) = some key →
        let r := movePage s0 (pageOfKey key).1 (pageOfKey key).2 (tn + 1)
        (∀ s', r = .to s' → exec .demotionComplete s = .next s')
        ∧ (r = .no → exec .demotionComplete s = .next s0)
        ∧ (∀ k, r = .space k →
          (∀ i, spareRecord s0 (tn + 1) = some i → exec .demotionComplete s = .next (compactRecord s0 (tn + 1) i))
          ∧ (spareRecord s0 (tn + 1) = none → tn = 1 ∨ going 1 → exec .demotionComplete s = .next s0)
          ∧ (spareRecord s0 (tn + 1) = none → tn = 0 → ¬ going 1 → exec .demotionComplete s = .next (demote s0 1 1)))))
  ∧ ∀ (l : List (Nat × Nat × Nat)) key, coldest l = some key →
      ∃ slot age, (key, slot, age) ∈ l ∧ ∀ x ∈ l, x.2.2 < age ∨ (x.2.2 = age ∧ slot ≤ x.2.1)

/-- R89: a scan, 10 ms after the last, goes over each compressed page of every tier and clears its ACCESSED; AGE becomes 0 where it
was set, else it rises by 1 up to 255. -/
def AgeScans : Prop :=
  (∀ s,
    let s0 := { s with focus := .idle }
    s.focus = .event .none →
    ((∀ t, afind s.timers tmScan = some t → 10000000 ≤ Passed s t) →
      exec .ageScan s = .next (timerSet ((List.range 3).foldl (fun s tn =>
        ((((tierOf s tn).used.map (·.2)).filter (· < 2 ^ 32)).eraseDups.filter (fun i => (liveRecords s tn).contains i)).foldl
          (agePage tn) s) s0) tmScan))
    ∧ ∀ t, afind s.timers tmScan = some t → Passed s t < 10000000 → exec .ageScan s = .next s0)
  ∧ ∀ s tn key i p w, i < 2 ^ 32 → (tierOf s tn).used = [(key, i)] → pteOf s (pageOfKey key).1 (pageOfKey key).2 = some (p, w) →
      p + 8 ≤ recKey s tn i ∨ recKey s tn i + 256 ≤ p →
    let s' := agePage tn s i
    let old := (recOf s tn i).age
    (recOf s' tn i).age = (if bit w 10 then 0 else if old = 255 then 255 else old + 1)
    ∧ rdLE s'.mem p 8 = (if bit w 10 then w - 2 ^ 10 else w) ∧ s'.tiles = s.tiles
    ∧ ∀ a, (a < p ∨ p + 8 ≤ a) → (a < recKey s tn i ∨ recKey s tn i + 256 ≤ a) → rd8 s'.mem a = rd8 s.mem a

/-- R73, R78, R96: a shootdown completes only once every request it found past translation has gone; then no entry of its range
stays cached, and its tables, its frames and what a moved page left are given back. -/
def Shootdowns : Prop :=
  ∀ s i,
    let s0 := { s with focus := .idle }
    s.focus = .event (.n i) →
    ((∀ x ∈ s.shoots, x.id ≠ i) → exec .shootdownComplete s = .next s0)
    ∧ (∀ x, s.shoots.find? (fun x => x.id = i) = some x →
        ((∃ r ∈ s.reqs, r.id ∈ x.waits) → exec .shootdownComplete s = .next s0)
        ∧ ((∀ r ∈ s.reqs, r.id ∉ x.waits) →
            let s1 := dropCached { s0 with shoots := s.shoots.filter (fun y => y.id ≠ i) } x.asid x.ia.toNat x.pages
            let s2 := { x.moved.foldl releasePlace (x.frames.foldl freeFrame s1) with tablePool := s.tablePool ++ x.tables }
            (x.reply = none → x.recode = none → exec .shootdownComplete s = .next s2)
            ∧ (∀ f q, x.reply = some (f, q) → x.recode = none → exec .shootdownComplete s = .next (mailReply s2 f q 0 []))
            ∧ (∀ c, x.reply = none → x.recode.bind (fun r => s2.recodes.find? (fun c => c.id = r)) = some c →
                exec .shootdownComplete s = .next (recodeDone (match c.old with | some w => releasePlace s2 w | none => s2) c none))
            ∧ ∀ e ∈ s2.tcache, ¬ (tcKey x.asid x.ia.toNat ≤ e.1 ∧ e.1 < tcKey x.asid x.ia.toNat + x.pages)))

/-- R96: a recode asked for by `pgrecode` is taken up, one of the headland's is added; a bad kind word or page does nothing. A
page taken a place in the pool holds its contents there. Model's choices in it: log 40. -/
def Recodes : Prop :=
  (∀ s asid ia kw,
    let s0 := { s with focus := .idle }
    let pending := s.recodes.find? (fun c => c.asid = asid && c.ia = ia && c.kind = kw.extractLsb' 0 3 && c.old.isNone
      && !s.shoots.any (fun x => x.recode = some c.id))
    let bad : Prop := kindWordOk kw = false ∨ ia.toNat % 65536 ≠ 0 ∨ isHostIA ia.toNat = true ∨ pkgIsLocal s (iaPkg ia.toNat) = false
    s.focus = .event (.recode asid ia kw) →
    (∀ c, pending = some c → exec .recode s = .next (recodeBegin s0 c))
    ∧ (pending = none → bad → exec .recode s = .next s0)
    ∧ (pending = none → ¬ bad →
        let c : Recode := { id := s.nextId, asid := asid, ia := ia, kind := kw.extractLsb' 0 3, fmt := kw.extractLsb' 8 8,
                            expp := kw.extractLsb' 16 2 }
        exec .recode s = .next (recodeBegin { s0 with nextId := s.nextId + 1, recodes := s.recodes ++ [c] } c)))
  ∧ ∀ s tn kind fmt expp age (bs : List Byte) a s' w, tn < 4 → kind < 8 → a < 2 ^ 32 → bs.length = 65536 →
      takePlace s tn kind fmt expp age bs = .at_ a s' → pageBytes s' (ptePut w a tn kind) = bs

/-! ## Rotation, thresholds, shared tiles (R14, R227, R286, R287) -/

/-- R227: HEAT at the end of a millisecond. -/
def HeatUpdates : Prop :=
  (∀ s,
    let s0 := { s with focus := .idle }
    s.focus = .event .none →
    ((∀ t, afind s.timers tmHeat = some t → 1000000 ≤ Passed s t) → exec .heatUpdate s = .next { s0 with
        launches := s.launches.map (fun p => (p.1, { p.2 with dir := p.2.dir.map heatStep })), timers := aput s.timers tmHeat s.time })
    ∧ ∀ t, afind s.timers tmHeat = some t → Passed s t < 1000000 → exec .heatUpdate s = .next s0)
  ∧ ∀ d : DirEntry, (heatStep d).sown = 0 ∧ (heatStep d).state = d.state ∧ (heatStep d).bin = d.bin
      ∧ (heatStep d).heat = if polRot d then min 0xFFFF (d.heat - d.heat / 16 + d.sown) else d.heat

/-- R227: a pass, 10 ms after the last, begins at most one move up, of an entry with HEAT ≥ PROMOTE that none is hotter than, and one down, of an entry
with HEAT < DEMOTE; no swap is staged for a deterministic launch. Model's choices in it: log 41. -/
def RotationPasses : Prop :=
  (∀ s, s.focus = .event .none →
    ((∀ t, afind s.timers tmRotate = some t → 10000000 ≤ Passed s t) →
      exec .rotationMove s = .next (timerSet (stageSwap (tierMoves { s with focus := .idle })) tmRotate))
    ∧ ∀ t, afind s.timers tmRotate = some t → Passed s t < 10000000 → exec .rotationMove s = .next { s with focus := .idle })
  ∧ (∀ s, ∃ up down : List PageMove, (tierMoves s).moves = s.moves ++ up ++ down ∧ up.length ≤ 1 ∧ down.length ≤ 1
      ∧ (∀ m ∈ up, m.up = true ∧ ∃ x ∈ rotEntries s, x.1 = m.handle ∧ x.2.1 = m.expert ∧ s.params.promote ≤ x.2.2.1
          ∧ ∀ y ∈ rotEntries s, s.params.promote ≤ y.2.2.1 → y.2.2.2.2.any (fun ia => ((movableTier s y.2.2.2.1 ia).map (decide <| 0 < ·)).getD false) = true →
              y.2.2.1 ≤ x.2.2.1)
      ∧ (∀ m ∈ down, m.up = false ∧ ∃ x ∈ rotEntries s, x.1 = m.handle ∧ x.2.1 = m.expert ∧ x.2.2.1 < s.params.demote)
      ∧ (tierMoves s).launches = s.launches ∧ (tierMoves s).mem = s.mem)
  ∧ ∀ s h (l : Launch), l.det = true → swapOffers s h l = []

/-- R227, R90: the pages of a move change tier once no request stands on them; a page that may not move stays.
Model's choices in it: log 41. -/
def TierMoves : Prop :=
  ∀ s h e,
    let s0 := { s with focus := .idle }
    s.focus = .event (.nn h e) →
    ((∀ m ∈ s.moves, ¬ (m.handle = h ∧ m.expert = e)) → exec .tierMoveCommit s = .next s0)
    ∧ (∀ m, s.moves.find? (fun m => m.handle = h && m.expert = e) = some m →
        let moved := m.pages.foldl (fun a ia => a.bind (fun s => moveOne m s ia)) (some s0)
        (moved = none → exec .tierMoveCommit s = .next s0)
        ∧ ∀ s1, moved = some s1 → exec .tierMoveCommit s = .next { s1 with moves := s1.moves.filter (· ≠ m) })

/-- R286: a window that is complete adjusts th0 to th5 by 1.125 or 0.875 where they hold a finite value other than zero; th6 and
th7 stay. -/
def ThresholdAdjusts : Prop :=
  ∀ s t,
    let s0 := { s with focus := .idle }
    let tl := tileOf s t
    s.focus = .event (.n t) →
    (tl.adaptDue = [] → exec .thresholdAdjust s = .next s0)
    ∧ (∀ sv rest, tl.adaptDue = sv :: rest →
        let target := (tl.thctl.extractLsb' 16 12).toNat
        let up : Prop := target + target / 16 < sv
        let down : Prop := sv < target - target / 16
        ∃ th, exec .thresholdAdjust s = .next (setTile s0 t { tl with th := th, adaptDue := rest })
          ∧ ∀ i : Fin 8,
            let v := tl.th[i]
            let plain : Prop := v.extractLsb' 0 31 ≠ 0 ∧ v.extractLsb' 23 8 ≠ 0xFF
            ((6 ≤ i.val ∨ ¬ plain ∨ (¬ up ∧ ¬ down)) → th[i] = v)
            ∧ (i.val < 6 → plain → up → th[i] = mul32 v 0x3F900000)
            ∧ (i.val < 6 → plain → down → th[i] = mul32 v 0x3F600000))

/-- R14: the other logical tile of a shared physical tile runs once the active one idles or has had 65,536 MAT cycles. -/
def TileSwitches : Prop :=
  ∀ s t,
    let s0 := { s with focus := .idle }
    s.focus = .event (.n t) →
    (pairOf s t = none → exec .tileSwitch s = .next s0)
    ∧ (∀ u a b, pairOf s t = some u → ((tileOf s t).parked = true ∧ a = u ∧ b = t ∨ (tileOf s t).parked = false ∧ a = t ∧ b = u) →
        let due : Prop := tileIdle s0 a = true ∨ (tileOf s a).active + 20 * 65536 ≤ cycNow s (dieOf a) 0
        ((tileOf s a).parked = true ∨ (tileOf s b).parked = false ∨ ¬ due → exec .tileSwitch s = .next s0)
        ∧ ((tileOf s a).parked = false → (tileOf s b).parked = true → due →
            ∃ s', exec .tileSwitch s = .next s'
              ∧ tileOf s' a = { tileOf s a with parked := true, pausedAt := cycNow s (dieOf a) 0 }
              ∧ (tileOf s' b).parked = false ∧ (tileOf s' b).active = cycNow s (dieOf b) 0
              ∧ (tileOf s' b).idleCyc = (tileOf s b).idleCyc + (cycNow s (dieOf b) 0 - (tileOf s b).pausedAt)
              ∧ (tileOf s' b).store = (tileOf s b).store ∧ (tileOf s' b).slots = (tileOf s b).slots
              ∧ (∀ t' ≠ a, t' ≠ b → tileOf s' t' = tileOf s t') ∧ s'.mem = s.mem))


/-! ## The control page and the mailbox (R16, R20 to R23, R388) -/

/-- R15, R20, R21: writes of a function to its control page: EVTAIL and REQ take them, REQDB takes the next number with no request in
flight; other offsets ignore them; one that does not write a register whole, or writes a read-only one, is counted, and nothing is
taken before READY or while the link is down. Model's choices in it: log 52. -/
def ControlPageWrites : Prop :=
  (∀ s f off n v,
    let s0 := { s with focus := .idle }
    let x := fnOf s f
    let counted := modFn s0 f (fun x => { x with errcnt := if x.errcnt = 0xFFFFFFFF#32 then x.errcnt else x.errcnt + 1 })
    s.focus = .event (.regWrite f off n v) → f < 64 →
    (s.boot.puverUp = false → exec .registerWrite s = .next s0 ∧ exec .evtailWrite s = .next s0)
    ∧ (s.boot.puverUp = true → regAt off n = none → exec .registerWrite s = .next s0)
    ∧ (s.boot.puverUp = true → ∀ r, regAt off n = some r →
      (s.boot.stage ≠ .ready → exec .registerWrite s = .next (if r ≤ 8 then counted else s0))
      ∧ (s.boot.stage = .ready →
        (regRO off = true ∨ n ≠ 8 ∨ off ≠ r → exec .registerWrite s = .next counted)
        ∧ (off = 0x040 → n = 8 → exec .registerWrite s = .next (modFn s0 f (fun x => { x with evtail := v.toNat })))
        ∧ (off = 0x200 → n = 8 → (x.inflight ≠ none ∨ v ≠ x.rspseq + 1) → exec .registerWrite s = .next counted)
        ∧ (off = 0x200 → n = 8 → x.inflight = none → v = x.rspseq + 1 →
            exec .registerWrite s = .next (modFn s0 f (fun x => { x with inflight := some v })))
        ∧ (off = r → 0x100 ≤ off → off ≤ 0x1F8 → n = 8 → exec .registerWrite s = .next (modFn s0 f (fun x =>
            { x with req := x.req.take (off - 0x100) ++ bytesLE 8 v.toNat ++ x.req.drop (off - 0x100 + 8) })))))
    ∧ (s.boot.puverUp = true → s.boot.stage = .ready → n = 8 →
        exec .evtailWrite s = .next (modFn s0 f (fun x => { x with evtail := v.toNat })))
    ∧ (s.boot.puverUp = true → s.boot.stage = .ready → n ≠ 8 → n ≠ 0 → exec .evtailWrite s = .next counted)
    ∧ (s.boot.stage ≠ .ready → exec .evtailWrite s = .next s0))
  ∧ ∀ off n : Nat,
    let ro (r : Nat) : Prop := r % 8 = 0 ∧ (r ≤ 0x038 ∨ (0x300 ≤ r ∧ r ≤ 0x3F8) ∨ r = 0x400)
    let rw (r : Nat) : Prop := r % 8 = 0 ∧ (r = 0x040 ∨ (0x100 ≤ r ∧ r ≤ 0x1F8) ∨ r = 0x200)
    (regRO off = true ↔ ro off) ∧ (ro off ∨ rw off → regAt off 8 = some off)
    ∧ (regAt off n = none ↔ ∀ i < n, ¬ ro ((off + i) / 8 * 8) ∧ ¬ rw ((off + i) / 8 * 8))

/-- R7, R20: an 8-byte read of a register of the control page gives its value, 0 before READY but for FSTAT and FUNCID; offsets without
a register read 0; a read that does not read a register whole is counted and gives a free value. Model's choices in it: log 66. -/
def RegisterReads : Prop :=
  (∀ s f off n, f < 64 → s.boot.puverUp = true →
    (regAt off n = none → moveOther s (.regRead f off n) = gotOut s (.reg f off 0))
    ∧ (regAt off 8 = some off → moveOther s (.regRead f off 8) = gotOut s (.reg f off (regValue s f off)))
    ∧ (∀ r, regAt off n = some r → n ≠ 8 ∨ off ≠ r → s.boot.stage = .ready ∨ r ≤ 8 →
        ∃ w, moveOther s (.regRead f off n) = gotOut { fnErr s f with freeCtr := s.freeCtr + 1 } (.reg f off w)))
  ∧ ∀ s f,
    let x := fnOf s f
    regValue s f 0x000 = fstat s f
    ∧ (f < 64 → (regValue s f 0x008).toNat = if f < 2 then f else if f ≤ 32 then f + 64 else f + 64 + 128)
    ∧ (s.boot.stage ≠ .ready → ∀ r, 8 < r → regValue s f r = 0)
    ∧ (s.boot.stage = .ready → regValue s f 0x010 = x.b2ctl ∧ regValue s f 0x018 = x.hostbase
      ∧ (regValue s f 0x020).toNat = x.errcnt.toNat ∧ regValue s f 0x028 = x.evbase ∧ regValue s f 0x030 = BitVec.ofNat 64 x.evsize
      ∧ regValue s f 0x038 = BitVec.ofNat 64 x.evhead ∧ regValue s f 0x040 = BitVec.ofNat 64 x.evtail ∧ regValue s f 0x200 = 0
      ∧ regValue s f 0x400 = x.rspseq ∧ (∀ i < 32, regValue s f (0x300 + 8 * i) = lword x.rsp (8 * i))
      ∧ ∀ i < 32, regValue s f (0x100 + 8 * i) = lword x.req (8 * i))

/-- R23: with a ring set and a slot free the oldest event is written at EVBASE + (EVHEAD mod EVSIZE) × 64 of host memory, EVHEAD
goes on and vector 1 is raised; otherwise it waits. -/
def EventRings : Prop :=
  ∀ s f,
    let s0 := { s with focus := .idle }
    let x := fnOf s f
    let ready : Prop := x.evbase ≠ 0 ∧ s.boot.puverUp = true ∧ x.evhead < x.evtail + x.evsize
    s.focus = .event (.n f) →
    (x.waiting = [] ∨ ¬ ready → exec .eventWrite s = .next s0)
    ∧ (∀ r rest, x.waiting = r :: rest → ready →
        let a := hostKey ((x.evbase.toNat + x.evhead % x.evsize * 64) % 2 ^ 64)
        exec .eventWrite s = .next (modFn { s0 with mem := wrBytes s.mem a r } f
          (fun x => { x with waiting := rest, evhead := x.evhead + 1, msix := x.msix ++ [1] })))

/-- R16, R20, R22: a host access through BAR2 is performed under B2CTL's ASID, a read giving the bytes, or waits in order; with EN = 0
it does nothing. Model's choices in it: log 42. -/
def Bar2Accesses : Prop :=
  ∀ s f off acc,
    let s0 := { s with focus := .idle }
    let u := asAsker s0 (askBar2 f)
    let c := (fnOf s f).b2ctl.toNat
    let ia := bits c 51 36 * 2 ^ 36 + off
    let asid := BitVec.ofNat 12 (bits c 15 4)
    let live : Prop := s.boot.stage = .ready ∧ f < 64 ∧ s.boot.puverUp = true
    let emptied (y : State) : State := modFn y f (fun x => { x with bar2 := [] })
    let waits (w : State) : State := modFn (keepWaits s0 w) f (fun x => { x with bar2 := [(off, acc)] })
    s.focus = .event (.bar2 f off acc) →
    (¬ live → exec .hostBar2Access s = .next s0)
    ∧ (live → (fnOf s f).bar2 = [] →
        (bit c 0 = false ∨ 2 ^ 36 ≤ off → exec .hostBar2Access s = .next (emptied u))
        ∧ (bit c 0 = true → off < 2 ^ 36 →
            (∀ n, acc = .read n →
              (∀ s1 b, memRead u asid false f ia n = .ok s1 b → exec .hostBar2Access s = .next (emptied (gotOut s1 (.bar2 f off b))))
              ∧ (∀ s1 e d, memRead u asid false f ia n = .fault s1 e d →
                  ∃ b, b.length = n ∧ exec .hostBar2Access s = .next (emptied (gotOut { s1 with freeCtr := s1.freeCtr + n } (.bar2 f off b))))
              ∧ (∀ w, memRead u asid false f ia n = .stall w → exec .hostBar2Access s = .next (waits w)))
            ∧ ∀ bs, acc = .write bs →
              (∀ s1 b, memWrite u asid false f ia bs = .ok s1 b → exec .hostBar2Access s = .next (emptied s1))
              ∧ (∀ s1 e d, memWrite u asid false f ia bs = .fault s1 e d → exec .hostBar2Access s = .next (emptied s1))
              ∧ (∀ w, memWrite u asid false f ia bs = .stall w → exec .hostBar2Access s = .next (waits w))
              ∧ (∀ w t k, memWrite u asid false f ia bs = .held w t k → exec .hostBar2Access s = .next (waits w))))

/-- The events that perform requests, with their codes (R22). -/
def requests : List (Instr × Nat) :=
  [(.queueCreate, 1), (.queueDestroy, 2), (.queueAssign, 3), (.asidCreate, 4), (.asidDestroy, 5), (.pteWrite, 6), (.pteRead, 7),
   (.setHostbase, 8), (.setBar2, 9), (.setEvents, 10), (.brkCtl, 11), (.brkResume, 12)]

/-- R21: the answer's message holds the sequence number, the status and the body; then RSPSEQ and vector 0. -/
def Replies : Prop :=
  ∀ s f seq st body, s.boot.puverUp = true → st < 2 ^ 32 → body.length ≤ 240 →
    let x := fnOf s f
    let y := fnOf (mailReply s f seq st body) f
    y.rsp = bytesLE 8 seq.toNat ++ bytesLE 4 st ++ [0, 0, 0, 0] ++ body ++ List.replicate (240 - body.length) 0
    ∧ y.rspseq = seq ∧ y.inflight = none ∧ y.msix = x.msix ++ [0] ∧ y.req = x.req ∧ y.waiting = x.waiting ∧ y.errcnt = x.errcnt
    ∧ (mailReply s f seq st body).mem = s.mem ∧ (mailReply s f seq st body).queues = s.queues
    ∧ ∀ g ≠ f, fnOf (mailReply s f seq st body) g = fnOf s g

/-- R21, R22: firmware performs only the request in flight; one with bytes it does not name, or with an unknown code, is answered
INVALID and has no effect. -/
def MalformedRequests : Prop :=
  ∀ s f seq,
    let s0 := { s with focus := .idle }
    let x := fnOf s f
    let live : Prop := s.boot.stage = .ready ∧ s.boot.puverUp = true ∧ x.inflight = some seq
    let code := lnat x.req 0 2
    s.focus = .event (.mailbox f seq) →
    (∀ r ∈ requests, (¬ live ∨ code ≠ r.2 → exec r.1 s = .next s0)
      ∧ (live → code = r.2 → reqNamed x.req (reqFields r.2) = false → exec r.1 s = .next (mailReply s0 f seq 1 [])))
    ∧ (live → (code = 0 ∨ 12 < code ∨ reqNamed x.req (reqFields code) = false) →
        exec .mailboxInvalidRequest s = .next (mailReply s0 f seq 1 []))
    ∧ (¬ live ∨ (1 ≤ code ∧ code ≤ 12 ∧ reqNamed x.req (reqFields code) = true) → exec .mailboxInvalidRequest s = .next s0)

/-- A well-formed request of one code is in flight, with this message. -/
def Asked (s : State) (f : Nat) (seq : Word) (code : Nat) (m : List Byte) : Prop :=
  s.focus = .event (.mailbox f seq) ∧ s.boot.stage = .ready ∧ s.boot.puverUp = true ∧ (fnOf s f).inflight = some seq ∧ (fnOf s f).req = m
    ∧ lnat m 0 2 = code ∧ reqNamed m (reqFields code) = true

/-- The request ends with a status and changes nothing else. -/
def Denied (s : State) (i : Instr) (f : Nat) (seq : Word) (status : Nat) : Prop :=
  exec i s = .next (mailReply { s with focus := .idle } f seq status [])

/-- R22, R105: QUEUE_CREATE writes the control block of an owned id under an owned ASID; an existing queue is left alone.
Model's choices in it: log 52. -/
def QueueCreates : Prop :=
  ∀ s f seq m, Asked s f seq 1 m →
    let s0 := { s with focus := .idle }
    let q := lnat m 8 2
    let asid := lnat m 28 2
    let ctl := lnat m 26 1
    let legal : Prop := q < 4096 ∧ lnat m 16 8 < 2 ^ 52 ∧ lnat m 16 8 % 4096 = 0 ∧ 4 ≤ lnat m 24 1 ∧ lnat m 24 1 ≤ 16 ∧ lnat m 25 1 ≤ 6
      ∧ ctl < 4 ∧ asid < 4096 ∧ lnat m 32 8 < 2 ^ 52 ∧ lnat m 40 8 < 2 ^ 52 ∧ lnat m 40 8 % 8 = 0
    let mine : Prop := asid ≠ 0 ∧ ownsQid s f q = true ∧ afind s.asidOwner asid = some f
    (¬ legal → Denied s .queueCreate f seq 1)
    ∧ (legal → (afind s.queues q).isSome = true → Denied s .queueCreate f seq 1)
    ∧ (legal → afind s.queues q = none → ¬ mine → Denied s .queueCreate f seq 2)
    ∧ (legal → mine → afind s.queues q = none →
        let x : Queue := { base := BitVec.ofNat 52 (lnat m 16 8), logsz := lnat m 24 1, cls := lnat m 25 1, en := bit ctl 0,
                           dkick := bit ctl 1, func := f, asid := BitVec.ofNat 12 asid, rmirror := BitVec.ofNat 52 (lnat m 32 8),
                           errsig := BitVec.ofNat 52 (lnat m 40 8), state := if bit ctl 0 then .active else .idle }
        exec .queueCreate s = .next (mailReply { setQueue s0 q x with qidOwner := aput s.qidOwner q f } f seq 0 [])
        ∧ x.wptr = 0 ∧ x.rptr = 0 ∧ x.dptr = 0 ∧ x.slot = none ∧ x.loopIdx = none ∧ x.status = 0)

/-- R100, R105: firmware alone creates a queue of ASID 0 and changes the class of a queue with no packet dispatched, to 7 too. -/
def FirmwareQueues : Prop :=
  ∀ s q f m,
    let asks : Prop := s.boot.stage = .ready ∧ q < 4096 ∧ f < 64 ∧ lnat m 25 1 ≤ 7
    (¬ asks → moveOther s (.fwQueue q f m) = s)
    ∧ (asks → afind s.queues q = none → createOk m = true → lnat m 8 2 = q → lnat m 28 2 = 0 →
        let t := moveOther s (.fwQueue q f m)
        (queueOf t q).asid = 0 ∧ (queueOf t q).func = f ∧ (queueOf t q).cls = lnat m 25 1 ∧ (queueOf t q).wptr = 0
          ∧ afind t.qidOwner q = some f)
    ∧ (asks → afind s.queues q = none → createOk m = false ∨ lnat m 28 2 ≠ 0 → moveOther s (.fwQueue q f m) = s)
    ∧ (asks → ∀ x, afind s.queues q = some x →
        (x.pkts = [] → moveOther s (.fwQueue q f m) = setQueue s q { x with cls := lnat m 25 1 })
        ∧ (x.pkts ≠ [] → moveOther s (.fwQueue q f m) = s))

/-- R22, R112: QUEUE_DESTROY acts as DISABLE and is answered once the queue is idle with no packet left; its id is then free. -/
def QueueDestroys : Prop :=
  ∀ s f seq m, Asked s f seq 2 m →
    let s0 := { s with focus := .idle }
    let q := lnat m 8 2
    let mine : Prop := ownsQid s f q = true ∧ ∀ x, afind s.queues q = some x → x.asid ≠ 0
    (4096 ≤ q → Denied s .queueDestroy f seq 1)
    ∧ (q < 4096 → ¬ mine → Denied s .queueDestroy f seq 2)
    ∧ (q < 4096 → mine → afind s.queues q = none → Denied s .queueDestroy f seq 1)
    ∧ (q < 4096 → mine → (afind s.queues q).isSome = true →
        let s1 := control 3 s0 q
        let x := queueOf s1 q
        let ended : Prop := x.state = .idle ∧ x.pkts = [] ∧ x.draining = none
        (ended → exec .queueDestroy s = .next (mailReply (dropQueue s1 q) f seq 0 []) ∧ afind (dropQueue s1 q).queues q = none
          ∧ (dropQueue s1 q).qidOwner = s1.qidOwner)
        ∧ (¬ ended → exec .queueDestroy s = .next s1))

/-- R22: QUEUE_ASSIGN moves a free id of the physical function to itself or one of its virtual functions.
Model's choices in it: log 52. -/
def QueueAssigns : Prop :=
  ∀ s f seq m, Asked s f seq 3 m →
    let q := lnat m 8 2
    let g := lnat m 10 1
    let allowed : Prop := (fnOf s f).vf = false ∧ servesFn s f g = true ∧ ∀ o, afind s.qidOwner q = some o → servesFn s f o = true
    (4096 ≤ q ∨ 64 ≤ g → Denied s .queueAssign f seq 1)
    ∧ (q < 4096 → g < 64 → ¬ allowed → Denied s .queueAssign f seq 2)
    ∧ (q < 4096 → g < 64 → allowed → (afind s.queues q).isSome = true → Denied s .queueAssign f seq 5)
    ∧ (q < 4096 → g < 64 → allowed → afind s.queues q = none →
        exec .queueAssign s = .next (mailReply { s with focus := .idle, qidOwner := aput s.qidOwner q g } f seq 0 []))

/-- R22, R71: ASID_CREATE takes an empty table from the pool, writes the root and gives the ASID its owner.
Model's choices in it: log 52. -/
def AsidCreates : Prop :=
  ∀ s f seq m, Asked s f seq 4 m →
    let a := lnat m 8 2
    let g := lnat m 10 1
    let allowed : Prop := a ≠ 0 ∧ (fnOf s f).vf = false ∧ servesFn s f g = true
    (4096 ≤ a ∨ 64 ≤ g → Denied s .asidCreate f seq 1)
    ∧ (a < 4096 → g < 64 → ¬ allowed → Denied s .asidCreate f seq 2)
    ∧ (a < 4096 → g < 64 → allowed → (afind s.asidOwner a).isSome = true ∨ s.tablePool = [] → Denied s .asidCreate f seq 5)
    ∧ (a < 4096 → g < 64 → allowed → afind s.asidOwner a = none → ∀ t rest, s.tablePool = t :: rest →
        ∃ s', exec .asidCreate s = .next (mailReply s' f seq 0 []) ∧ s'.tablePool = rest ∧ afind s'.asidOwner a = some g
          ∧ afind s'.roots a = some (BitVec.ofNat 64 (t + 1)) ∧ s'.queues = s.queues ∧ s'.tiles = s.tiles
          ∧ ∀ p, rd8 s'.mem p = if physKey 0 t ≤ p ∧ p < physKey 0 t + 131072 then 0 else rd8 s.mem p)

/-- R22, R69, R73: ASID_DESTROY is refused while a page is leased; otherwise the root and the ownership go and a shootdown of the
whole ASID begins, which answers it. Model's choices in it: log 52. -/
def AsidDestroys : Prop :=
  ∀ s f seq m, Asked s f seq 5 m →
    let s0 := { s with focus := .idle }
    let a := lnat m 8 2
    let begun : Prop := ∃ x ∈ s.shoots, x.reply = some (f, seq)
    let allowed : Prop := a ≠ 0 ∧ (fnOf s f).vf = false ∧ ∃ o, afind s.asidOwner a = some o ∧ servesFn s f o = true
    (begun → exec .asidDestroy s = .next s0)
    ∧ (¬ begun → 4096 ≤ a → Denied s .asidDestroy f seq 1)
    ∧ (¬ begun → a < 4096 → ¬ allowed → Denied s .asidDestroy f seq 2)
    ∧ (¬ begun → a < 4096 → allowed → (∃ p ∈ mappedOf s a, pteLease p.2 ≠ 0) → Denied s .asidDestroy f seq 3)
    ∧ (¬ begun → a < 4096 → allowed → (∀ p ∈ mappedOf s a, pteLease p.2 = 0) →
        ∃ s' x, exec .asidDestroy s = .next s' ∧ afind s'.roots a = none ∧ afind s'.asidOwner a = none
          ∧ s'.shoots = s.shoots ++ [x] ∧ x.asid = BitVec.ofNat 12 a ∧ x.ia = 0 ∧ x.pages = 2 ^ 28 ∧ x.reply = some (f, seq)
          ∧ x.tables = tablesOf s a ∧ x.frames = (mappedOf s a).map (·.2) ∧ s'.mem = s.mem ∧ s'.fns = s.fns)

/-- R22, R69, R71, R73, R80: PTE_WRITE keeps the LEASE field, is refused for a leased page it would unmap or restrict and for one
too many, and else writes the PTE and begins a shootdown of the page, which answers it. Model's choices in it: log 52. -/
def PteWrites : Prop :=
  ∀ s f seq m, Asked s f seq 6 m →
    let s0 := { s with focus := .idle }
    let a := lnat m 8 2
    let ia := lnat m 16 8
    let asid := BitVec.ofNat 12 a
    let begun : Prop := ∃ x ∈ s.shoots, x.reply = some (f, seq)
    let legal : Prop := a < 4096 ∧ ia < 2 ^ 52 ∧ ia % 65536 = 0 ∧ pkgIsLocal s (iaPkg ia) = true
    let mine : Prop := a ≠ 0 ∧ afind s.asidOwner a = some f
    (begun → exec .pteWrite s = .next s0)
    ∧ (¬ begun → ¬ legal → Denied s .pteWrite f seq 1)
    ∧ (¬ begun → legal → ¬ mine → Denied s .pteWrite f seq 2)
    ∧ (¬ begun → legal → mine → reachPte s0 a ia = none → Denied s .pteWrite f seq 5)
    ∧ (¬ begun → legal → mine → ∀ s1 p, reachPte s0 a ia = some (s1, p) →
        let old := rdLE s1.mem p 8
        let new := lnat m 24 8 % 2 ^ 56 + pteLease old * 2 ^ 56
        let leased : Prop := pteLease old ≠ 0 ∧ (pteValid new = false ∨ ptePerm new < ptePerm old)
        (leased → Denied s .pteWrite f seq 3)
        ∧ (¬ leased → overcommits s1 (tcKey asid ia) new = true → Denied s .pteWrite f seq 4)
        ∧ (¬ leased → overcommits s1 (tcKey asid ia) new = false →
            ∃ s' x, exec .pteWrite s = .next s' ∧ s'.mem = wrLE s1.mem p 8 new ∧ afind s'.tcache (tcKey asid ia) = none
              ∧ s'.shoots = s.shoots ++ [x] ∧ x.asid = asid ∧ x.ia = BitVec.ofNat 52 ia ∧ x.pages = 1 ∧ x.reply = some (f, seq)
              ∧ s'.fns = s.fns ∧ s'.tiles = s.tiles ∧ s'.queues = s.queues))

/-- R22: PTE_READ answers with the PTE of a page of an owned ASID, 0 where there is none. -/
def PteReads : Prop :=
  ∀ s f seq m, Asked s f seq 7 m →
    let a := lnat m 8 2
    let ia := lnat m 16 8
    let legal : Prop := a < 4096 ∧ ia < 2 ^ 52 ∧ ia % 65536 = 0 ∧ pkgIsLocal s (iaPkg ia) = true
    let mine : Prop := a ≠ 0 ∧ afind s.asidOwner a = some f
    let answered (w : Nat) : Prop := exec .pteRead s = .next (mailReply { s with focus := .idle } f seq 0 (bytesLE 8 w))
    (¬ legal → Denied s .pteRead f seq 1)
    ∧ (legal → ¬ mine → Denied s .pteRead f seq 2)
    ∧ (legal → mine → pteLoc s (BitVec.ofNat 12 a) ia = none → answered 0)
    ∧ (legal → mine → ∀ r l p, pteLoc s (BitVec.ofNat 12 a) ia = some (r, l, p) → answered (rdLE s.mem p 8))

/-- R17, R20, R22, R23, R388: SET_HOSTBASE, SET_BAR2, SET_EVENTS and BRK_CTL write the registers they name.
Model's choices in it: log 52. -/
def RegisterRequests : Prop :=
  ∀ s f seq m,
    let s0 := { s with focus := .idle }
    let done (i : Instr) (g : Nat) (h : Fn → Fn) : Prop := exec i s = .next (mailReply (modFn s0 g h) f seq 0 [])
    let pf (g : Nat) : Prop := (fnOf s f).vf = false ∧ servesFn s f g = true
    (Asked s f seq 8 m →
      let g := lnat m 8 1
      let legal : Prop := g < 64 ∧ lnat m 16 8 % 4096 = 0
      (¬ legal → Denied s .setHostbase f seq 1)
      ∧ (legal → ¬ pf g → Denied s .setHostbase f seq 2)
      ∧ (legal → pf g → done .setHostbase g (fun x => { x with hostbase := lword m 16 })))
    ∧ (Asked s f seq 9 m →
      let a := lnat m 10 2
      let ia := lnat m 16 8
      let legal : Prop := lnat m 8 1 < 2 ∧ a < 4096 ∧ ia < 2 ^ 52 ∧ ia % 2 ^ 36 = 0 ∧ iaPkg ia = 255
      let mine : Prop := a ≠ 0 ∧ afind s.asidOwner a = some f
      (¬ legal → Denied s .setBar2 f seq 1)
      ∧ (legal → ¬ mine → Denied s .setBar2 f seq 2)
      ∧ (legal → mine → done .setBar2 f (fun x => { x with b2ctl := BitVec.ofNat 64 (lnat m 8 1 + a * 16 + ia / 2 ^ 36 * 2 ^ 36) })))
    ∧ (Asked s f seq 10 m →
      let z := lnat m 24 4
      let legal : Prop := lnat m 16 8 % 4096 = 0 ∧ z ≤ 4096 ∧ ∃ k, z = 2 ^ k
      (¬ legal → Denied s .setEvents f seq 1)
      ∧ (legal → done .setEvents f (fun x => { x with evbase := lword m 16, evsize := z, evhead := 0, evtail := 0 })))
    ∧ (Asked s f seq 11 m →
      let g := lnat m 8 1
      let legal : Prop := g < 64 ∧ lnat m 9 1 < 2
      (¬ legal → Denied s .brkCtl f seq 1)
      ∧ (legal → ¬ pf g → Denied s .brkCtl f seq 2)
      ∧ (legal → pf g → done .brkCtl g (fun x => { x with brk := lnat m 9 1 = 1 })))

/-- R22, R388: BRK_RESUME lets the stopped slot of an owned queue's launch go on with its next word, or end after its last. -/
def BrkResumes : Prop :=
  ∀ s f seq m, Asked s f seq 12 m →
    let s0 := { s with focus := .idle }
    let t := lnat m 10 2
    (launchByHandle s (lnat m 8 2) = none ∨ slotFin (lnat m 13 1) = none → Denied s .brkResume f seq 1)
    ∧ (∀ h k, launchByHandle s (lnat m 8 2) = some h → slotFin (lnat m 13 1) = some k →
        let here : Prop := (tileOf s t).launch = h ∧ (tileOf s t).ctx.toNat = lnat m 12 1 ∧ (slotOf s t k).phase = .stopped
        (ownsQid s f (launchOf s h).qid = false → Denied s .brkResume f seq 2)
        ∧ (ownsQid s f (launchOf s h).qid = true → ¬ here → Denied s .brkResume f seq 1)
        ∧ (ownsQid s f (launchOf s h).qid = true → here →
            let s1 := modSlot s0 t k (fun x => { x with phase := .running })
            ((slotOf s t k).word < (codeOf s1 t k).length → exec .brkResume s = .next (mailReply s1 f seq 0 []))
            ∧ ((codeOf s1 t k).length ≤ (slotOf s t k).word → exec .brkResume s = .next (mailReply (endCodelet s1 t k) f seq 0 []))))

/-! ## Resets and bring-up (R11, R12, R25, R28, R32 to R40, R50, R97, R98, R150, R151) -/

/-- R36, R151: what each reset keeps: power-on nothing but the fuses, BOOTS 1; warm the retention record with BOOTS raised, or a fresh
one where its header is wrong, and the package number written last. Host memory and the checkpoint target are outside the module.
Model's choices in it: log 51. -/
def Resets : Prop :=
  ∀ s, s.focus = .event .none →
    let after (b : Boot) : State := { State.reset with
      time := s.time, agenda := s.agenda, freeCtr := s.freeCtr, nextId := s.nextId, ckptImage := s.ckptImage, hostBusy := s.hostBusy,
      got := s.got, boot := b, mem := s.mem.filter (fun p => hostKey 0 ≤ p.1) }
    let crc (r : Retention) : BitVec 32 :=
      crc32 (bytesLE 4 r.magic.toNat ++ bytesLE 4 r.boots.toNat ++ bytesLE 4 r.next ++ bytesLE 4 r.count.toNat)
    let r := s.boot.ret
    let kept := { r with boots := r.boots + 1 }
    let whole : Prop := r.magic = 0x43520001 ∧ r.hcrc = crc r
    let fresh := { State.reset.boot with fuses := s.boot.fuses, keyFuses := s.boot.keyFuses, revoked := s.boot.revoked }
    exec .powerOnReset s = .next (after { fresh with ret := {} })
    ∧ (whole → exec .warmReset s = .next (after { fresh with ret := { kept with hcrc := crc kept }, pkgWritten := s.boot.pkgWritten }))
    ∧ (¬ whole → exec .warmReset s = .next (after { fresh with ret := {}, pkgWritten := s.boot.pkgWritten }))
    ∧ ({} : Retention).boots = 1 ∧ ({} : Retention).count = 0 ∧ ({} : Retention).entries = []
    ∧ ({} : Retention).hcrc = crc32 (bytesLE 4 0x43520001 ++ bytesLE 4 1 ++ bytesLE 4 0 ++ bytesLE 4 0)

/-- R33, R34, R37, R38, R309: reset released, the boot ROM derives the save key and waits for an image; it accepts one whose magic,
length, signature under a fused key that is not revoked, and version hold, logs itself and the image and makes its attestation key; a
refused image leaves it waiting; without a valid one in 5 s it reports NO_IMAGE. Every change of BOOT is an event.
Model's choices in it: log 7, 51, 60, 71. -/
def ImagePushes : Prop :=
  (∀ s, let s0 := { s with focus := .idle }
    s.focus = .event .none →
    (s.boot.stage = .held → exec .resetRelease s = .next { s0 with freeCtr := s.freeCtr + 1, boot := { s.boot with
        stage := .waitImage, code := .bootWait, released := some s.time, puverUp := true,
        saveKey := Config.saveKey Config.fusedSecret s.freeCtr } })
    ∧ (s.boot.stage ≠ .held → exec .resetRelease s = .next s0)
    ∧ (∀ t0, s.boot.released = some t0 → s.boot.stage = .waitImage → 5000000000 ≤ Passed s t0 →
        exec .noImageTimeout s = .next (setBoot { s0 with boot := { s.boot with stage := .failed } } .noImage))
    ∧ (s.boot.released = none ∨ s.boot.stage ≠ .waitImage ∨ (∃ t0, s.boot.released = some t0 ∧ Passed s t0 < 5000000000) →
        exec .noImageTimeout s = .next s0))
  ∧ (∀ s c, (c = s.boot.code → setBoot s c = s) ∧ (c ≠ s.boot.code → setBoot s c = postStatus { s with boot := { s.boot with code := c } }))
  ∧ ∀ s i,
    let s0 := { s with focus := .idle }
    let late : Prop := ∃ t0, s.boot.released = some t0 ∧ 5000000000 ≤ Passed s t0
    let waits : Prop := s.boot.stage = .waitImage ∧ s.boot.puverUp = true ∧ ¬ late
    let signed : Prop := ∃ d, i.key = some d ∧ ∃ k < 4, s.boot.keyFuses[k]? = some d ∧ s.boot.revoked.getLsbD k = false
    let refuse (e : BootCode) : Prop := exec .firmwareImagePush s = .next (setBoot s0 e)
    s.focus = .event (.image i) →
    (¬ waits → exec .firmwareImagePush s = .next s0)
    ∧ (waits → i.magic ≠ 0x5A500128#32 → refuse .authFail)
    ∧ (waits → i.magic = 0x5A500128#32 → 67108864 < i.length → refuse .lengthFail)
    ∧ (waits → i.magic = 0x5A500128#32 → i.length ≤ 67108864 → ¬ signed → refuse .authFail)
    ∧ (waits → i.magic = 0x5A500128#32 → i.length ≤ 67108864 → signed → 63 < i.secVer ∨ i.secVer < s.boot.fuses →
        refuse .rollbackFail)
    ∧ (waits → i.magic = 0x5A500128#32 → i.length ≤ 67108864 → signed → s.boot.fuses ≤ i.secVer → i.secVer ≤ 63 →
        exec .firmwareImagePush s = .next (setBoot { s0 with
          freeCtr := s.freeCtr + 1
          boot := { attest (attest { s.boot with stage := .firmware, image := some i } 1 Config.romDigest) 2 i.digest with
                    attestation := some (attestationOf i.digest s.freeCtr) } } .bootWait))

/-- R37, R38, R39: appending to the attestation log sets ACC to SHA-512 of ACC and the digest; a log of 64 entries takes none; an
entry's 128 bytes; a quote holds the log, ACC, the nonce and both certificates, signed with the attestation key.
Model's choices in it: log 60. -/
def Attestation : Prop :=
  (∀ (b : Boot) kind (d : BitVec 512),
    (b.log.length < 64 → attest b kind d = { b with
        log := b.log ++ [{ kind := kind, digest := d }]
        acc := BitVec.ofNat 512 (leNat (sha512 (bytesLE 64 b.acc.toNat ++ bytesLE 64 d.toNat))) })
    ∧ (64 ≤ b.log.length → attest b kind d = b))
  ∧ (∀ (e : LogEntry) index, index < 2 ^ 32 → e.kind < 2 ^ 32 →
      (e.image index).length = 128 ∧ lnat (e.image index) 0 4 = index ∧ lnat (e.image index) 4 4 = e.kind
        ∧ lnat (e.image index) 8 64 = e.digest.toNat)
  ∧ ∀ (b : Boot) (a : Machine.Attestation) nonce n,
      let q := quoteReply b a nonce n
      q.log = (b.log.zip (List.range b.log.length)).flatMap (fun x => x.1.image x.2) ∧ q.acc = b.acc ∧ q.nonce = nonce
        ∧ q.identityCert = Config.identityCert ∧ q.attestationCert = a.cert
        ∧ q.signature = pssSign a.key.modulus a.key.secret (Config.salt n)
            (q.log ++ bytesLE 64 b.acc.toNat ++ bytesLE 32 nonce.toNat ++ Config.identityCert ++ a.cert)

/-- R7, R12, R14, R33, R35, R37, R43, R78, R79, R134, R171: bring-up that obeys its rules trains the module, reserved bits of what it
writes ignored, HBM4E's reserves left out of its capacity; a training failure or a die with more than 48 unusable tiles ends it, the
held kicks dropped. Model's choices in it: log 51. -/
def BringUps : Prop :=
  ∀ s r,
    let s0 := { s with focus := .idle }
    let tabs := r.unusable.map (fun bad => (remapTable bad).getD [])
    let pairs := sharedPairs tabs
    let room (i : Nat) : Nat := match i with
      | 0 => (512000000000 - 4 * 1073741824 - pairs * 6291456) / 4096
      | 1 => 1536000000000 / 4096
      | _ => (r.sets.map (·.2.1)).sum
    let fits : Prop := ∀ i < 3, ((r.freeChunks.getD i []).map (·.2)).sum ≤ room i
    s.focus = .event (.bringUp r) →
    (s.boot.stage ≠ .firmware ∨ bringUpOk r = false → exec .firmwareBringUp s = .next s0)
    ∧ (s.boot.stage = .firmware → bringUpOk r = true →
        let failed (c : BootCode) : State := setBoot { s0 with boot := { s.boot with stage := .failed, heldKicks := [] } } c
        (r.trained = false → exec .firmwareBringUp s = .next (failed .trainFail))
        ∧ (r.trained = true → (∃ bad ∈ r.unusable, 48 < bad.length) → exec .firmwareBringUp s = .next (failed .remapFail))
        ∧ (r.trained = true → (∀ bad ∈ r.unusable, bad.length ≤ 48) →
            (¬ fits → exec .firmwareBringUp s = .next s0)
            ∧ (fits → ∃ s', exec .firmwareBringUp s = .next s' ∧ s'.boot.stage = .trained
              ∧ s'.clk.opp = r.opp.map (fun w => w &&& 0x800FFFFF00FFFFFF#64) ∧ s'.clk.pbase = r.pbase
              ∧ s'.clk.limit = r.limits ∧ s'.params.drainmax = r.drainmax ∧ s'.params.ckwait = r.ckwait
              ∧ s'.params.quantum = r.quantum ∧ s'.tablePool = r.tables ∧ s'.boot.unusable = r.unusable
              ∧ s'.boot.remap = tabs ∧ s'.queues = s.queues ∧ s'.mem = s.mem ∧ s'.boot.chans = r.chans
              ∧ s'.boot.qcbbase = some r.qcbbase ∧ s'.boot.log = (attest s.boot 3
                  (configDigest tabs s.boot.pkgWritten r.sets ((List.range 3).map (fun i => (tierOf s' i).cfg)))).log
              ∧ ∀ i < 3, (tierOf s' i).cfg = r.tiercfg.getD i 0 &&& 0x00FFFFFFFFFFFFFF#64 ∧ (tierOf s' i).physical = room i
                ∧ (tierOf s' i).prbase = r.prbase.getD i 0 ∧ (tierOf s' i).area = r.records.getD i 0)))

/-- R11, R12: a die's remap table gives every logical tile a healthy physical tile, none to more than two; with 16 or fewer
unusable tiles each has one of its own, and a die with more than 48 has no table. -/
def RemapTables : Prop :=
  ∀ bad : List Nat, bad.Nodup → (∀ p ∈ bad, p < 336) →
    let phys (w : BitVec 16) : Nat := w.toNat % 512
    (48 < bad.length → remapTable bad = none)
    ∧ (bad.length ≤ 48 → ∃ tab, remapTable bad = some tab ∧ tab.length = 320
        ∧ (∀ w ∈ tab, phys w < 336 ∧ phys w ∉ bad ∧ w.toNat < 2 ^ 11)
        ∧ (∀ p, (tab.filter (fun w => phys w = p)).length ≤ 2)
        ∧ (bad.length ≤ 16 → (tab.map phys).Nodup))

/-- R25, R31, R33, R37: at the furrow step the ports train and the number written comes into force, with a log entry when it
differs from the one logged; without a number the module is standalone. -/
def FurrowSteps : Prop :=
  ∀ s planes cxl,
    let s0 := { s with focus := .idle }
    s.focus = .event (.furrow planes cxl) →
    (s.boot.stage ≠ .trained → exec .furrowStep s = .next s0)
    ∧ (s.boot.stage = .trained → s.boot.pkgWritten = none →
        exec .furrowStep s = .next { s0 with boot := { s.boot with stage := .furrowed, cxl := cxl, planes := 0, pkg := none } })
    ∧ (s.boot.stage = .trained → ∀ n, s.boot.pkgWritten = some n →
        let b := { s.boot with stage := .furrowed, cxl := cxl, planes := planes, pkg := some n }
        (s.boot.cfgPkg = some n → exec .furrowStep s = .next (postStatus { s0 with boot := b }))
        ∧ (s.boot.cfgPkg ≠ some n → exec .furrowStep s = .next (postStatus { s0 with
            boot := attest b 4 (configDigest b.remap (some n) b.sets ((List.range 3).map (fun t => (tierOf s t).cfg))) })))

/-- R33, R35, R20: READY is reported to every function; kicks held are then taken in order of arrival.
Model's choices in it: log 51. -/
def ReadyReports : Prop :=
  ∀ s,
    let s0 := { s with focus := .idle }
    s.focus = .event .none →
    (s.boot.stage ≠ .furrowed → exec .readyReport s = .next s0)
    ∧ (s.boot.stage = .furrowed →
        ∃ s1 : State, s1.boot.stage = .ready ∧ s1.boot.code = .ready ∧ s1.boot.heldKicks = [] ∧ s1.queues = s.queues
          ∧ (∀ f < 64, (fnOf s1 f).fen = true ∧ ((fnOf s1 f).vf = true ↔ 2 ≤ f))
          ∧ exec .readyReport s = .next (s.boot.heldKicks.foldl
              (fun s k => kickPage s k.1 k.2.1 k.2.2.1 (fun s => doorbell s k.2.1 k.2.2.2.toNat)) s1))

/-- R25, R39, R150: the sideband writes a package number of 0 to 191, answers a quote request and clears the crash record. -/
def SidebandRequests : Prop :=
  ∀ s,
    let s0 := { s with focus := .idle }
    (∀ n, s.focus = .event (.pkg n) →
      (n.toNat ≤ 191 → exec .packageNumberWrite s = .next { s0 with boot := { s.boot with pkgWritten := some n } })
      ∧ (191 < n.toNat → exec .packageNumberWrite s = .next s0))
    ∧ (∀ n, s.focus = .event (.nonce n) →
        (s.boot.attestation = none → exec .quoteRequest s = .next s0)
        ∧ ∀ a, s.boot.attestation = some a → exec .quoteRequest s = .next { s0 with
            freeCtr := s.freeCtr + 1, boot := { s.boot with quotes := s.boot.quotes ++ [quoteReply s.boot a n s.freeCtr] } })
    ∧ (s.focus = .event .none → ∃ r : Retention,
        exec .crashRecordClear s = .next { s0 with boot := { s.boot with ret := r } }
        ∧ r.next = 0 ∧ r.count = 0 ∧ r.entries = [] ∧ r.boots = s.boot.ret.boots ∧ r.magic = s.boot.ret.magic)

/-- R33, R40, R43, R79, R151: from BOOT_WAIT on the sideband answers; the items it serves; a crash entry whose check is wrong reads as
corrupt. -/
def SidebandReads : Prop :=
  (∀ s i, (s.boot.stage = .held → moveOther s (.side i) = s)
    ∧ (s.boot.stage ≠ .held → moveOther s (.side i) = gotOut s (.side i (sideData s i))))
  ∧ ∀ s,
    let x := servedNow s
    x.pkg = s.boot.pkg ∧ x.cap = s.clk.cap ∧ x.limits = s.clk.limit ∧ x.sensors = s.sens.served ∧ x.puver = s.boot.puverUp
    ∧ x.furrow = s.boot.planes ∧ x.cxl = s.boot.cxl ∧ x.corrected = s.sens.corrected ∧ x.uncorrectable = s.sens.uncorrectable
    ∧ x.unusable = s.boot.unusable.map List.length ∧ x.boot = s.boot.code
    ∧ sideData s .served = .items x
    ∧ (∀ t, sideData s (.tiercfg t) = .nums [(tierOf s t).cfg.toNat] ∧ sideData s (.tierst t) = .nums [(tierst s t).toNat])
    ∧ (∀ t, (tierOf s t).free.length < 2 ^ 32 →
        (tierst s t).toNat = (tierOf s t).free.length * 2 ^ 32 + min (tierOf s t).held.length 0xFFFF * 2 ^ 16 + (tierOf s t).exh.toNat)
    ∧ (∀ i, sideData s (.opp i) = .nums [(s.clk.opp.getD i 0).toNat])
    ∧ ∀ i b, afind s.boot.ret.entries i = some b → sideData s (.crash i)
        = if lnat b 124 4 = (crc32 (b.take 124)).toNat then .bytes b else .corrupt

/-- R50, R150, R151: a panic, a watchdog, a base-die error and a thermal trip each leave a crash entry of their cause, and the
module resets itself into BOOT_WAIT with BOOTS raised. Model's choices in it: log 50, 71. -/
def Crashes : Prop :=
  ∀ s r, s.boot.ret.magic = 0x43520001#32 →
    let s0 := { s with focus := .idle }
    let resets (i : Instr) (y : State) (cause : Nat) : Prop :=
      ∃ s', exec i s = .next s' ∧ s'.boot.stage = .waitImage ∧ s'.boot.code = .bootWait ∧ s'.boot.fuses = s.boot.fuses
        ∧ s'.boot.pkgWritten = s.boot.pkgWritten ∧ s'.boot.ret.entries = (writeCrash y cause 255 r).boot.ret.entries
        ∧ s'.boot.ret.next = (s.boot.ret.next + 1) % 511 ∧ s'.boot.ret.boots = s.boot.ret.boots + 1
        ∧ s'.tiles = [] ∧ s'.queues = [] ∧ s'.launches = [] ∧ s'.boot.log = [] ∧ s'.boot.acc = 0
        ∧ s'.mem = s.mem.filter (fun p => hostKey 0 ≤ p.1) ∧ s'.boot.keyFuses = s.boot.keyFuses ∧ s'.boot.puverUp = s.boot.puverUp
        ∧ s'.boot.saveKey = Config.saveKey Config.fusedSecret s.freeCtr
    (∀ n, s.focus = .event (.cpu n r) →
      (fwRuns s = true → resets .headlandWatchdog s0 2 ∧ resets .firmwarePanic s0 1)
      ∧ (fwRuns s = false → exec .headlandWatchdog s = .next s0 ∧ exec .firmwarePanic s = .next s0)
      ∧ resets .baseDieUncorrectable s0 4)
    ∧ (∀ temp, s.focus = .event (.temps temp r) →
        let hot : Prop := ∃ p ∈ temp.zip s.clk.limit, p.2 < p.1
        let trip : Prop := (∃ p ∈ temp.zip s.clk.limit, p.2 + 10 ≤ p.1)
          ∨ (hot ∧ ∃ t, s.clk.floorSince = some t ∧ 10000000 ≤ Passed s t)
        (fwRuns s = true → s.boot.stage ≠ .firmware → trip → resets .thermalTrip s0 5)
        ∧ (fwRuns s = false ∨ s.boot.stage = .firmware ∨ ¬ trip → exec .thermalTrip s = .next s0))

/-- R15, R28, R32, R97, R150: the Puver link down leaves a crash entry of cause 6 and no reset; a plane or port that goes down is
clear in its mask, and a checkpoint being copied over the port fails. -/
def LinksDown : Prop :=
  ∀ s,
    let s0 := { s with focus := .idle }
    (∀ n r, s.focus = .event (.cpu n r) →
      (s.boot.puverUp = false → exec .puverLinkDown s = .next s0)
      ∧ (s.boot.puverUp = true → exec .puverLinkDown s = .next (writeCrash { s0 with boot := { s.boot with puverUp := false } } 6 255 r)))
    ∧ (∀ k, s.focus = .event (.n k) →
        (∃ s', exec .planeDown s = .next s' ∧ (∀ i < 24, s'.boot.planes.getLsbD i = (s.boot.planes.getLsbD i && decide (i ≠ k)))
          ∧ s'.boot.cxl = s.boot.cxl ∧ s'.mem = s.mem ∧ s'.tiles = s.tiles)
        ∧ (∃ s', exec .cxlPortDown s = .next s' ∧ (∀ i < 6, s'.boot.cxl.getLsbD i = (s.boot.cxl.getLsbD i && decide (i ≠ k)))
          ∧ s'.mem = s.mem ∧ s'.tiles = s.tiles
          ∧ s'.boot.portNotices = s.boot.portNotices ++ (if s.boot.cxl.getLsbD k = true then [k] else [])
          ∧ ((∃ c, s.ckpt = some c ∧ c.copying = true) → k ∈ s.boot.target →
              s'.ckpt = none ∧ s'.sens.ckptStatus = 2 ∧ ∀ x, s'.ckptImage = some x → x.complete = false)
          ∧ ((s.ckpt = none ∨ (∃ c, s.ckpt = some c ∧ c.copying = false) ∨ k ∉ s.boot.target) →
              s'.ckpt = s.ckpt ∧ s'.ckptImage = s.ckptImage)))

/-- R97: a checkpoint request stops placing and pre-empts by PCLASS; one still blocked after CKWAIT fails; a copy that is done
holds device memory but its free chunks, its tables, tiers and configuration, with its tags, and is COMPLETE. Model's choices in it:
log 51, 61. -/
def Checkpoints : Prop :=
  ∀ s,
    let s0 := { s with focus := .idle }
    s.focus = .event .none →
    (s.boot.stage ≠ .ready ∨ s.ckpt ≠ none → exec .checkpointRequest s = .next s0)
    ∧ (s.boot.stage = .ready → s.ckpt = none →
        exec .checkpointRequest s = .next (ckptPreempt { s0 with ckpt := some { since := s.time } }))
    ∧ (s.ckpt = none → exec .ckwaitExpire s = .next s0 ∧ exec .checkpointComplete s = .next s0)
    ∧ (∀ c, s.ckpt = some c →
        let late : Prop := c.copying = false ∧ s.params.ckwait * 1000000 ≤ Passed s c.since
          ∧ ∃ p ∈ s.launches, holdsTiles p.2 = true ∧ 2 ≤ p.2.pclass
        (late → exec .ckwaitExpire s = .next { s0 with ckpt := none, sens := { s.sens with ckptStatus := 1 } })
        ∧ (¬ late → exec .ckwaitExpire s = .next s0)
        ∧ (c.copying = false → exec .checkpointComplete s = .next s0)
        ∧ (c.copying = true → ∃ x, exec .checkpointComplete s = .next { s0 with
              ckpt := none, sens := { s.sens with ckptStatus := 0 }, ckptImage := some x }
            ∧ x.complete = true ∧ x.roots = s.roots ∧ x.tiers = s.tiers ∧ x.revision = Config.encoderRevision
            ∧ x.mem = (s.mem.filter (fun p => p.1 < hostKey 0)).filter (fun p => !inFree s p.1) ∧ x.tags = imageTags x.mem
            ∧ x.cfgs = [(tierOf s 0).cfg, (tierOf s 1).cfg, (tierOf s 2).cfg]))

/-- R98: a restore takes only a complete image of the same encoder revision and configuration; one that meets an uncorrectable read, a
wrong tag or a port that is down locks device memory until another restores it or firmware clears it. -/
def MemoryRestores : Prop :=
  (∀ s bad,
    let s0 := { s with focus := .idle }
    let host := s.mem.filter (fun p => hostKey 0 ≤ p.1)
    s.focus = .event (.flag bad) →
    (s.ckptImage = none → exec .memoryRestore s = .next s0)
    ∧ (∀ x, s.ckptImage = some x →
        let fits : Prop := x.complete = true ∧ x.revision = Config.encoderRevision
          ∧ x.cfgs = [(tierOf s 0).cfg, (tierOf s 1).cfg, (tierOf s 2).cfg] ∧ ∀ p ∈ s.launches, holdsTiles p.2 = false
        let lost : Prop := bad = true ∨ x.tags ≠ imageTags x.mem ∨ ∃ p ∈ s.boot.target, s.boot.cxl.getLsbD p = false
        (¬ fits → exec .memoryRestore s = .next s0)
        ∧ (fits → lost → exec .memoryRestore s = .next { s0 with boot := { s.boot with memLocked := true } })
        ∧ (fits → ¬ lost → exec .memoryRestore s = .next (keepQcbs { s0 with
            boot := { s.boot with memLocked := false }, roots := x.roots, tiers := x.tiers, tcache := [], near := [], lineRel := [],
            badLines := [], badMem := [], mem := x.mem ++ host }))))
  ∧ ∀ s, (fwRuns s = false ∨ (∃ p ∈ s.launches, holdsTiles p.2 = true) → moveOther s .clearMem = s)
      ∧ (fwRuns s = true → (∀ p ∈ s.launches, holdsTiles p.2 = false) →
          let t := moveOther s .clearMem
          t.boot.memLocked = false ∧ t.roots = [] ∧ (s.queues = [] → t.mem = s.mem.filter (fun p => hostKey 0 ≤ p.1))
            ∧ ∀ tn < 3, (tierOf t tn).used = [] ∧ (tierOf t tn).held = [])


/-! ## What holds of every word, every step and every state -/

/-- The guard of a codelet word (R320). -/
def guardOf (i : Instr) : Option Guard :=
  match i.form with
  | .r _ w => some w.g
  | .i _ _ w => some w.g
  | .v _ w => some w.g
  | .m _ w => some w.g
  | .s _ w => some w.g
  | .e _ w => some w.g
  | .node _ _ => none
  | .event => none

/-- The destinations of a scalar word: temporaries and predicates (R360 to R371). -/
def scalarDests (i : Instr) : Option (List SOp × List (BitVec 2)) :=
  match i with
  | .add w | .sub w | .mul w | .mulh w | .div w | .rem w | .andR w | .orR w | .xor w | .andn w | .notR w | .shl w | .shr w | .sar w
  | .rotl w | .clz w | .ctz w | .popc w | .min w | .max w | .abs w | .neg w | .extR w | .bext w | .bdep w | .mov w | .lea w | .sel w
  | .fadd w | .fsub w | .fmul w | .ffma w | .fdiv w | .fsqrt w | .fmin w | .fmax w | .fabs w | .fneg w | .fcvt w | .fclass w =>
      some ([w.d], [])
  | .movi w | .moviHi w | .addI w | .subI w | .mulI w | .andI w | .orI w | .xorI w | .andnI w | .shlI w | .shrI w | .sarI w
  | .rotlI w | .minI w | .maxI w => some ([w.d], [])
  | .cmp w | .tst w | .pand w | .por w | .pnot w | .fcmp w => some ([], [w.pd])
  | .cmpI w => some ([], [w.pd])
  | _ => none

/-- What the words write to which a marked guard is no fault: temporaries and predicates alone, or nothing but a prefetch (R202, R457,
R468). -/
def markedDests (i : Instr) : Option (List SOp × List (BitVec 2)) :=
  match i with
  | .tagmk w => some ([w.d], [])
  | .pchk w => some ([w.d], [w.pd])
  | .rdsr w => some ([w.d], [])
  | .ld w => some ([w.d], [])
  | .dtget w => some ([opCode (w.vd.toNat % 32)], [])
  | .tlrd w | .tltest w => some ([w.a], [])
  | .pref _ | .epf _ => some ([], [])
  | i => scalarDests i

/-- The words of which no operand value carries an encoding (R330). -/
def plainOperands (i : Instr) : Bool :=
  match i with
  | .send _ | .sendv _ | .sendx _ | .pchk _ | .wrsr _ | .kick _ | .winld _ | .cflush _ | .pgrecode _ | .sopen _ | .srld _ | .mburst _
  | .cpy _ | .cpyf _ | .gath _ | .scat _ | .mcrd _ | .coll _ | .tlwait _ | .bar _ | .csig _ | .mma _ | .mmas _ | .mmag _
  | .vtopk _ | .vld _ | .vldPort _ | .vst _ | .vldx _ | .vstx _
  | .aadd _ | .aaddf _ | .amin _ | .amax _ | .aand _ | .aor _ | .axor _ | .axch _ | .acas _ => false
  | _ => true

/-- R190, R330: a word whose guard is on and false changes nothing and the codelet goes on; only an operand value that breaks an
encoding faults all the same. -/
def FalseGuards : Prop :=
  ∀ i g, guardOf i = some g → ∀ s t k, Live s t k → (slotOf s t k).pend = [] → Sound s t →
    Fails (slotOf s t k) g → guardMark (slotOf s t k) g = false →
    (plainOperands i = true → exec i s = .next (advance s t k))
    ∧ (plainOperands i = false → exec i s = .next (advance s t k) ∨ FaultsWith i s t k 0x13)

/-- R202, R299: a marked guard faults every word but those that write only temporaries and predicates, or only prefetch; under a marked
false guard those mark their destinations, and no value changes. A guard in error faults every word. -/
def MarkedGuards : Prop :=
  ∀ i g, guardOf i = some g → ∀ s t k, Live s t k → (slotOf s t k).pend = [] →
    let sl := slotOf s t k
    (g.ge = true → PredBad s t k g.gp → FaultsWith i s t k 0x12)
    ∧ (Sound s t → guardMark sl g = true → markedDests i = none → FaultsWith i s t k 0x17)
    ∧ (Sound s t → guardMark sl g = true → ∀ ds ps, markedDests i = some (ds, ps) → Fails sl g → plainOperands i = true →
        ∃ tm pm, exec i s = .next (advance (setSlot s t k { sl with tm := tm, pm := pm }) t k)
          ∧ (∀ j, .t j ∈ ds → tm[j] = true) ∧ (∀ p ∈ ps, pm[pIdx p] = true)
          ∧ (∀ j, .t j ∉ ds → tm[j] = sl.tm[j]) ∧ ∀ j, (∀ p ∈ ps, pIdx p ≠ j) → pm[j] = sl.pm[j])

/-- R190: every codelet word waits while a temporary it reads or writes is owed by an earlier word; a slot that is free, stopped or
at its end runs nothing. -/
def WordsWait : Prop :=
  ∀ i g, guardOf i = some g → ∀ s t (k : Fin 4), s.focus = .slot t k →
    ((slotOf s t k).phase = .free ∨ (slotOf s t k).phase = .stopped ∨ (slotOf s t k).phase = .draining → exec i s = .next s)
    ∧ (∀ ds ps, scalarDests i = some (ds, ps) → Live s t k → (∃ d ∈ ds, opPending (slotOf s t k) d = true) → Waits i s t k)

/-- R190, R192: a word that completes moves its codelet one word on; past the last word the codelet ends, and a fault ends it
there with the poison noted, what earlier words did left standing. -/
def CodeletOrder : Prop :=
  ∀ s t (k : Fin 4),
    let sl := slotOf s t k
    (sl.word + 1 < (codeOf s t k).length → advance s t k = setSlot s t k { sl with word := sl.word + 1, phase := .running, due := none })
    ∧ ((codeOf s t k).length ≤ sl.word + 1 →
        advance s t k = endCodelet (setSlot s t k { sl with word := sl.word + 1, phase := .running, due := none }) t k)
    ∧ endCodelet s t k = settle (setSlot s t k { sl with phase := .draining }) t k
    ∧ ∀ p, faultCodelet s t k p = settle (setSlot s t k { sl with phase := .draining, late := sl.late.or (some p) }) t k

/-- R190, R264, R371: what a scalar word leaves alone outside deterministic mode: everything but the temporaries and predicates
it writes, their marks, and STAT, whose sticky bits are only ever set. -/
def ScalarFrames : Prop :=
  ∀ i ds ps, scalarDests i = some (ds, ps) → ∀ s t k s', Live s t k → (slotOf s t k).pend = [] → Sound s t → NotDet s t →
    (slotOf s t k).word + 1 < (codeOf s t k).length → exec i s = .next s' →
    let sl := slotOf s t k
    ∃ x stat, s' = setTile s t { tileOf s t with slots := (tileOf s t).slots.set k x, stat := stat }
      ∧ (∀ b, (tileOf s t).stat.getLsbD b = true → stat.getLsbD b = true)
      ∧ (∀ j, .t j ∉ ds → x.t[j] = sl.t[j] ∧ x.tm[j] = sl.tm[j])
      ∧ (∀ j, (∀ p ∈ ps, pIdx p ≠ j) → x.p[j] = sl.p[j] ∧ x.pm[j] = sl.pm[j])
      ∧ x.word = sl.word + 1 ∧ x.firing = sl.firing ∧ x.inp = sl.inp ∧ x.winsel = sl.winsel ∧ x.seed = sl.seed

/-- R233, R290: no codelet word writes memory when it completes: stores and atomics are performed at the home, later. What a word
leaves running, waiting or stopped has every byte of memory as it was, but that `sclose` appends to the dirty log, that `sopen` and
`coll` set ACCESSED of a page whose header or member list they read (R71), and that `kick` writes the control block of its queue. -/
def WordsKeepMemory : Prop :=
  ∀ i g, guardOf i = some g → ∀ s t k s', Live s t k → exec i s = .next s' →
    ((slotOf s' t k).phase ≠ .free ∧ (slotOf s' t k).phase ≠ .draining) →
    ((∀ w, i ≠ .sclose w ∧ i ≠ .sopen w) → (∀ w, i ≠ .coll w) → (∀ w, i ≠ .kick w) → ∀ a, rd8 s'.mem a = rd8 s.mem a)
    ∧ (∀ w, i = .sopen w → ∀ a, rd8 s'.mem a &&& 0xF3 = rd8 s.mem a &&& 0xF3)
    ∧ (∀ w, i = .coll w → ∀ a, rd8 s'.mem a &&& 0xF3 = rd8 s.mem a &&& 0xF3)
    ∧ ∀ w, i = .kick w → ∀ a,
      (∀ b, s.boot.qcbbase = some b → let q := (opVal (slotOf s t k) w.a).toNat; a < b + q * 256 ∨ b + q * 256 + 256 ≤ a) →
      rd8 s'.mem a = rd8 s.mem a

/-- R395, R398: a vector result changes its destination register and that register's tag alone; every other register, the
scratchpad and the thresholds stay. -/
def VectorFrames : Prop :=
  ∀ (tl : Tile) (w : VWord) rs grp fl tag f,
    let x := (onVd tl w rs grp fl tag f).tl
    (∀ v ≠ w.vd.toNat, regTag x v = regTag tl v ∧ ∀ ty i, i < lanesOf ty → lane x ty v i = lane tl ty v i)
    ∧ regTag x w.vd.toNat = tag
    ∧ (∀ i < lanesOf w.ty, lane x w.ty w.vd.toNat i
        = if on tl w i then (f i).1 % 2 ^ (8 * w.ty.bytes) else lane tl w.ty w.vd.toNat i)
    ∧ x.scratch = tl.scratch ∧ x.slab = tl.slab ∧ x.th = tl.th ∧ x.stat = tl.stat

/-! ## Encodings (R316 to R329) -/

/-- R324, R326, R461: the word of a legal codelet instruction decodes to it, with every field at every value. The slab forms of
`sld` and `sst` share their words with the plain forms; the mode of the stream settles which one runs. -/
def WordsRoundTrip : Prop :=
  (∀ i w, encode i = some w → i.check = none → (∀ x, i ≠ .sstSlab x) → (∀ x, i = .sldSlab x → x.data ≠ .t 0) →
    decodeWord w = .ok i ∧ decodeBytes (bytesLE 8 w.toNat) = .ok i)
  ∧ (∀ x w, encode (.sstSlab x) = some w → Instr.check (.sstSlab x) = none → decodeWord w = .ok (.sst x))
  ∧ (∀ x w, encode (.sldSlab x) = some w → Instr.check (.sldSlab x) = none → x.data = .t 0 → decodeWord w = .ok (.sld x))
  ∧ ∀ s t k x, slabMode (streamOf s t (slotOf s t k).firing.ctx x.strm) = true →
      (Instr.check (.sldSlab x) = none → resolve s t k (.sld x) = .ok (.sldSlab x) ∧ resolve s t k (.sldSlab x) = .ok (.sldSlab x))
      ∧ (Instr.check (.sstSlab x) = none → resolve s t k (.sst x) = .ok (.sstSlab x))

/-- R324, R326: a word has one meaning: what it decodes to encodes to it again, so no bit of it is dropped. -/
def WordsHaveOneMeaning : Prop := ∀ w i, decodeWord w = .ok i → encode i = some w ∧ i.check = none

/-- R316 to R319: the slot of a legal node record decodes to it, and what a slot decodes to encodes to it again. -/
def RecordsRoundTrip : Prop :=
  (∀ i b, encodeNode i = some b → i.check = none → decodeNode b = .ok i ∧ decodeBytes (bytesLE 16 b.toNat) = .ok i)
  ∧ ∀ b i, decodeNode b = .ok i → encodeNode i = some b ∧ i.check = none

/-- R318, R326: reserved major opcodes and node opcodes are no instruction, whatever the other bits. -/
def ReservedCodes : Prop :=
  (∀ w : BitVec 64, fld w 56 8 ∈ [0x00, 0x1D, 0x1E, 0x1F, 0x2E, 0x2F, 0x36, 0x37, 0x45, 0x46, 0x47, 0x57, 0x5C, 0x5D, 0x5E, 0x5F,
      0x9B, 0x9C, 0x9D, 0x9E, 0x9F, 0xB2, 0xB3, 0xB4, 0xB5, 0xB6, 0xB7, 0xC3, 0xC4, 0xC5, 0xC6, 0xC7] ∨ 0xCB ≤ fld w 56 8 →
    decodeWord w = .error .reservedMajor)
  ∧ ∀ b : BitVec 128, b.extractLsb' 96 32 = 0 →
      (b.extractLsb' 88 8).toNat ∈ [0x00, 0x0E, 0x0F, 0x17, 0x18, 0x19, 0x1A, 0x1B, 0x1C, 0x1D, 0x1E, 0x1F, 0x24, 0x25, 0x26, 0x27, 0x2C,
        0x2D, 0x2E, 0x2F, 0x34, 0x35, 0x36, 0x37, 0x3A, 0x3B, 0x3C, 0x3D, 0x3E] ∨ 0x40 ≤ (b.extractLsb' 88 8).toNat →
      decodeNode b = .error .reservedOpcode

/-- R481: the words that the specification writes out decode to the lines it gives them for. -/
def DecodeWords : Prop :=
  let g : Guard := ⟨0, false, false⟩
  let m (ad : BitVec 6) (oa ob : BitVec 8) (shr : BitVec 4) (z dec : Bool) (x : SOp) (tb : BitVec 4) : SWord :=
    ⟨g, .bf16, ad, oa, ob, shr, z, dec, false, x, tb⟩
  decodeWord 0x9008000000116000 = .ok (.mma (m 0 0 0 0 false true (.t 5) 8))
  ∧ decodeWord 0x9508000000000000 = .ok (.macst (m 0 0 0 0 false false (.t 0) 0))
  ∧ decodeWord 0x9608004000000000 = .ok (.mtr (m 0 16 0 0 false false (.t 0) 0))
  ∧ decodeWord 0x9008040040602000 = .ok (.mma (m 1 0 16 1 true false (.t 0) 8))
  ∧ decodeWord 0x950804000001A000 = .ok (.macstSpad (m 1 0 0 0 false false (.t 6) 8))
  ∧ decodeWord 0x2D0502D200000002 = .ok (.cmpI ⟨g, .s64, .t 0, .tg, .lt, 1, 2⟩)
  ∧ decodeWord 0x4B50031600000001 = .ok (.emit ⟨⟨1, false, true⟩, .b64, .t 0, .zero, .tg, 0, 0, 0, .tile, 1⟩)
  ∧ decodeWord 0x4B70031600000002 = .ok (.emit ⟨⟨1, true, true⟩, .b64, .t 0, .zero, .tg, 0, 0, 0, .tile, 2⟩)
  ∧ decodeWord 0xCA70000000000000 = .ok (.stepend ⟨⟨1, true, true⟩, .b64, .t 0, .t 0, .t 0, 0, 0, 0, .tile, 0⟩)

/-! ## Steps -/

/-- R191: a slot's word runs in its turn: each slot between the one that issued last and it has no word to run or has been tried since
and waits; a slot that issues passes the turn on. -/
def SlotTurns : Prop :=
  (∀ s t (k : Fin 4),
    let far (j : Fin 4) : Nat := (j.val + 7 - (tileOf s t).lastSlot % 4) % 4
    hasTurn s t k = true ↔ ∀ j : Fin 4, far j < far k → nextWord s t j = none ∨ j.val ∈ (tileOf s t).blocked)
  ∧ ∀ s t (k : Fin 4),
    let x := tileOf s t
    tookTurn s t k = setTile s t (match x.slots[k].phase with
      | .waiting _ => { x with blocked := k.val :: x.blocked }
      | _ => { x with lastSlot := k.val, blocked := [] })

/-- What a step runs: the record of the firing that was issued, the next word of the slot whose turn it is, the event whose turn
it is; what does not decode faults, and what cannot be read (R10); with no move left time goes on. -/
def StepRunsDecoded : Prop :=
  (∀ s t f b, s.focus = .issue t f → nodeSlot s t f.ctx f.node = some b →
    let bad : Prop := badNodeWord f.ctx.toNat f.node ∈ (tileOf s t).badWords ∨ ∃ p ∈ f.ops, p.2.bad = true
    let faults (c : BitVec 8) : Prop := step s = .next (takeFault { s with focus := .idle } t f (mkPoison s t f c))
    (bad → faults 0x12)
    ∧ (¬ bad → ∀ i, decodeNode b = .ok i → step s = exec i { s with focus := .firing t f })
    ∧ (¬ bad → ∀ e, decodeNode b = .error e → faults 0x13))
  ∧ ∀ s, (∀ t f, s.focus ≠ .issue t f) →
    (s.agenda = [] → step s = .next (passTime { s with focus := .idle } 1))
    ∧ (∀ i a rest, s.agenda = .event i a :: rest → step s = exec i { s with agenda := rest, focus := .event a })
    ∧ (∀ t (k : Fin 4) rest w, s.agenda = .word t k.val :: rest → (∃ n, (slotOf s t k).phase = .running ∨ (slotOf s t k).phase = .waiting n) →
        (tileOf s t).parked = false → standsStill (tileLaunch s t) = false → (codeOf s t k)[(slotOf s t k).word]? = some w →
        let sl := slotOf s t k
        let s1 := { s with agenda := rest }
        let slab (x : MWord) : Bool := slabMode (streamOf s t sl.firing.ctx x.strm)
        let bad : Prop := badCodeWord sl.firing.ctx.toNat sl.code sl.word ∈ (tileOf s t).badWords
        let runs (i : Instr) : Prop := ∀ u, exec i { s1 with focus := .slot t k } = .next u → step s = .next (tookTurn u t k)
        let faults (c : BitVec 8) : Prop :=
          step s = .next (tookTurn (faultCodelet { s1 with focus := .idle } t k (slotPoison s t k c)) t k)
        (hasTurn s1 t k = false → step s = .next { s1 with focus := .idle })
        ∧ (hasTurn s1 t k = true → bad → faults 0x12)
        ∧ (hasTurn s1 t k = true → ¬ bad →
          (∀ i, decodeWord w = .ok i → (∀ x, i ≠ .sld x ∧ i ≠ .sldSlab x ∧ i ≠ .sst x) → runs i)
          ∧ (∀ x, decodeWord w = .ok (.sld x) → slab x = false → runs (.sld x))
          ∧ (∀ x, decodeWord w = .ok (.sst x) → slab x = false → runs (.sst x))
          ∧ (∀ x, decodeWord w = .ok (.sldSlab x) → slab x = true → runs (.sldSlab x))
          ∧ (∀ x, decodeWord w = .ok (.sld x) → slab x = true → Instr.check (.sldSlab x) = none → runs (.sldSlab x))
          ∧ (∀ x, decodeWord w = .ok (.sst x) → slab x = true → Instr.check (.sstSlab x) = none → runs (.sstSlab x))
          ∧ ((∃ e, decodeWord w = .error e) ∨ (∃ x, decodeWord w = .ok (.sldSlab x) ∧ slab x = false)
                ∨ (∃ x, decodeWord w = .ok (.sld x) ∧ slab x = true ∧ Instr.check (.sldSlab x) ≠ none)
                ∨ (∃ x, decodeWord w = .ok (.sst x) ∧ slab x = true ∧ Instr.check (.sstSlab x) ≠ none) → faults 0x13)))
    ∧ ∀ m rest, s.agenda = m :: rest → (∀ i a, m ≠ .event i a) → (∀ t k, m ≠ .word t k) →
        step s = .next (moveOther { s with agenda := rest, focus := .idle } m)

/-- R6, R41: as n ns pass the time base goes on modulo 2^64, and each domain of each die has had n/20 cycles for each unit of its
multiplier; a codelet word whose turn has come is not run by it, and memory stays. -/
def TimePasses : Prop :=
  ∀ s n,
    let s' := passTime s n
    s'.time = (s.time + n) % 2 ^ 64 ∧ s'.mem = s.mem ∧ s'.agenda = s.agenda ∧ s'.launches = s.launches ∧ s'.reqs = s.reqs
    ∧ (∀ die d, die < 4 → d < 4 →
        cycNow s' die d = cycNow s die d + n * ((s.clk.clkg.getD die 0).toNat / 2 ^ (6 * d) % 2 ^ 6))
    ∧ ∀ t, (tileOf s' t).slots = (tileOf s t).slots ∧ (tileOf s' t).store = (tileOf s t).store

/-- R111, R289: every fault of the machine is a poison or a status that it takes itself: no instruction and no step stops. -/
def NothingStops : Prop := (∀ i s, ∃ s', exec i s = .next s') ∧ ∀ s, ∃ s', step s = .next s'

/-- The memory of the machine, and that of the checkpoint at the target, are in canonical form. -/
def MemoryOk (s : State) : Prop :=
  Memory.wf s.mem = true ∧ ∀ x, s.ckptImage = some x → Memory.wf x.mem = true ∧ ∀ p ∈ x.mem, p.1 < hostKey 0

/-- Every step keeps the canonical form of memory. -/
def StepsKeepMemoryOk : Prop := ∀ s s', MemoryOk s → step s = .next s' → MemoryOk s'

/-- Every write of the page tables, of a page, of an extent or of one atomic keeps the canonical form of memory. -/
def AccessesKeepMemoryOk : Prop :=
  (∀ s who w off bs s', Memory.wf s.mem = true → pageWrite s who w off bs = .done s' → Memory.wf s'.mem = true)
  ∧ (∀ s asid ia k z s' r, Memory.wf s.mem = true → Machine.translate s asid ia k z = (s', r) → s'.mem = s.mem)
  ∧ (∀ s asid ia wr, Memory.wf s.mem = true → Memory.wf (touchPte s asid ia wr).mem = true)
  ∧ (∀ s asid ia p old new, Memory.wf s.mem = true → Memory.wf (commitPte s asid ia p old new).mem = true)
  ∧ (∀ s asid z func ia n s' b, Memory.wf s.mem = true → memRead s asid z func ia n = .ok s' b → Memory.wf s'.mem = true)
  ∧ (∀ s asid z func ia bs s' u, Memory.wf s.mem = true → memWrite s asid z func ia bs = .ok s' u → Memory.wf s'.mem = true)
  ∧ (∀ s lp asid z func ia n f s' v, Memory.wf s.mem = true → memAtomic s lp asid z func ia n f = .ok s' v → Memory.wf s'.mem = true)
  ∧ ∀ s s', MemoryOk s → (exec .memoryRestore s = .next s' ∨ exec .checkpointComplete s = .next s' ∨ exec .powerOnReset s = .next s'
      ∨ exec .warmReset s = .next s') → MemoryOk s'

/-- At reset memory is in canonical form, lists nothing and reads as 0. Model's choices in it: log 3. -/
def ResetMemory : Prop := MemoryOk State.reset ∧ State.reset.mem = [] ∧ ∀ a, rd8 State.reset.mem a = 0

/-- R20, R33, R35, R37, R53, R71, R142, R150, R151, R286: what the rules give the machine at power-on: held in reset with no kick,
number or log entry, BOOTS 1, nothing mapped, nothing placed, registers 0. -/
def ResetValues : Prop :=
  let s := State.reset
  s.boot.stage = .held ∧ fstat s 0 = 0xFF * 1024 ∧ s.boot.heldKicks = [] ∧ s.boot.pkgWritten = none ∧ s.boot.pkg = none
  ∧ s.boot.log = [] ∧ s.boot.acc = 0 ∧ s.boot.ret.boots = 1 ∧ s.boot.ret.magic = 0x43520001 ∧ s.boot.ret.next = 0 ∧ s.boot.ret.count = 0
  ∧ (∀ a ia, pteLoc s a ia = none) ∧ (∀ d < 4, s.clk.clkg.getD d 1 = 0)
  ∧ (∀ t, (tileOf s t).launch = 0 ∧ (tileOf s t).stat = 0 ∧ (tileOf s t).thctl = 0 ∧ (tileOf s t).estr = 0 ∧ (tileOf s t).clkev = 0
      ∧ (tileOf s t).partw = 0 ∧ (tileOf s t).dbgctl = false)
  ∧ (∀ q, afind s.queues q = none ∧ s.pending.getLsbD q = false)
  ∧ (∀ f, (fnOf s f).errcnt = 0 ∧ (fnOf s f).hostbase = 0 ∧ (fnOf s f).b2ctl = 0 ∧ (fnOf s f).evbase = 0 ∧ (fnOf s f).inflight = none)
  ∧ (∀ p, (linkOf s p).cmdPermits = 4 ∧ (linkOf s p).evPermits = 8)
  ∧ s.launches = [] ∧ s.net = [] ∧ s.reqs = [] ∧ s.cmds = []

end Sys2Proof.Spec

/-! ## The obligations -/

/-- A step runs the instruction that its word, record or event decodes to; slots take turns; time passes. -/
def Obligations.StepRunsTheDecodedInstruction : Prop :=
  Sys2Proof.Spec.StepRunsDecoded ∧ Sys2Proof.Spec.SlotTurns ∧ Sys2Proof.Spec.TimePasses

/-- The words the manual writes out decode to the lines it gives them for. -/
def Obligations.WrittenWordsDecode : Prop :=
  Sys2Proof.Spec.DecodeWords

/-- The word of every legal codelet instruction decodes to that instruction. -/
def Obligations.WordsSurviveEncoding : Prop :=
  Sys2Proof.Spec.WordsRoundTrip

/-- What a word decodes to encodes to that very word. -/
def Obligations.EachWordHasOneMeaning : Prop :=
  Sys2Proof.Spec.WordsHaveOneMeaning

/-- Node records and their slots decode and encode both ways; reserved codes are refused. -/
def Obligations.RecordsSurviveEncoding : Prop :=
  Sys2Proof.Spec.RecordsRoundTrip ∧ Sys2Proof.Spec.ReservedCodes

/-- What the machine holds right after power-on reset. -/
def Obligations.ResetLeavesTheModule : Prop :=
  Sys2Proof.Spec.ResetValues ∧ Sys2Proof.Spec.ResetMemory

/-- Every step keeps memory, and the checkpoint's copy of it, in canonical form. -/
def Obligations.StepsKeepMemoryCanonical : Prop :=
  Sys2Proof.Spec.StepsKeepMemoryOk

/-- Every memory operation keeps the canonical form of memory. -/
def Obligations.AccessesKeepMemoryCanonical : Prop :=
  Sys2Proof.Spec.AccessesKeepMemoryOk

/-- No instruction and no step ends the machine. -/
def Obligations.NothingEverStops : Prop :=
  Sys2Proof.Spec.NothingStops

/-- False, marked and waiting words, words in error, and the order of a codelet. -/
def Obligations.GuardsAndOrderOfWords : Prop :=
  Sys2Proof.Spec.FalseGuards ∧ Sys2Proof.Spec.MarkedGuards ∧ Sys2Proof.Spec.ParityErrors ∧ Sys2Proof.Spec.WordsWait ∧ Sys2Proof.Spec.CodeletOrder

/-- What scalar words and vector results leave unchanged. -/
def Obligations.FramesOfScalarAndVectorWords : Prop :=
  Sys2Proof.Spec.ScalarFrames ∧ Sys2Proof.Spec.VectorFrames

/-- No codelet word but sclose changes a byte of memory when it completes. -/
def Obligations.WordsLeaveMemoryAlone : Prop :=
  Sys2Proof.Spec.WordsKeepMemory

/-- Results of the scalar integer words, register and immediate forms. -/
def Obligations.ScalarIntegerWords : Prop :=
  Sys2Proof.Spec.IntegerArithmetic ∧ Sys2Proof.Spec.IntegerLogicAndShifts ∧ Sys2Proof.Spec.IntegerImmediates

/-- Division, shaped integer words, compares, selection and predicate logic. -/
def Obligations.DivisionShapedAndCompareWords : Prop :=
  Sys2Proof.Spec.IntegerDivision ∧ Sys2Proof.Spec.ShapedIntegerWords ∧ Sys2Proof.Spec.CompareAndPredicateWords

/-- Results and sticky bits of the scalar float words. -/
def Obligations.ScalarFloatWords : Prop :=
  Sys2Proof.Spec.FloatArithmeticWords ∧ Sys2Proof.Spec.FloatOrderWords ∧ Sys2Proof.Spec.FloatConvertAndClassWords

/-- Float operations are exact before their one rounding, which keeps every encoding. -/
def Obligations.FloatArithmeticIsExact : Prop :=
  Sys2Proof.Spec.FloatExactResults ∧ Sys2Proof.Spec.RoundingKeepsEncodings

/-- Rounding to nearest gives a value none of the format is nearer than. -/
def Obligations.RoundingGivesTheNearest : Prop :=
  Sys2Proof.Spec.RoundingIsNearest

/-- send and emit, the order in which sends leave, and their faults. -/
def Obligations.ScalarSendWords : Prop :=
  Sys2Proof.Spec.SendWord ∧ Sys2Proof.Spec.EmitWord ∧ Sys2Proof.Spec.SendLeavesInOrder ∧ Sys2Proof.Spec.SendFaults

/-- sendv, sendx, tagmk and pchk. -/
def Obligations.BurstTagAndPrefetchCheckWords : Prop :=
  Sys2Proof.Spec.BurstSendWords ∧ Sys2Proof.Spec.TagmkWord ∧ Sys2Proof.Spec.PchkStream ∧ Sys2Proof.Spec.PchkTimeline

/-- done, nop, brk, rdsr, wrsr, trap, halt, clkreq, kick, winld, cflush, pgrecode and poison. -/
def Obligations.SystemWords : Prop :=
  Sys2Proof.Spec.DoneNopBrkWords ∧ Sys2Proof.Spec.RdsrWord ∧ Sys2Proof.Spec.WrsrWord ∧ Sys2Proof.Spec.TrapAndHaltWords ∧ Sys2Proof.Spec.ClockKickWindowWords

/-- Vector arithmetic, order, logic and move words. -/
def Obligations.VectorArithmeticAndMoves : Prop :=
  Sys2Proof.Spec.VectorArithmeticWords ∧ Sys2Proof.Spec.VectorOrderWords ∧ Sys2Proof.Spec.VectorLogicWords ∧ Sys2Proof.Spec.VectorMoveWords

/-- Vector functions, conversion and reductions. -/
def Obligations.VectorFunctionsAndReductions : Prop :=
  Sys2Proof.Spec.VectorFunctionWords ∧ Sys2Proof.Spec.VectorFunctionInputs ∧ Sys2Proof.Spec.VectorConvertWord ∧ Sys2Proof.Spec.VectorReductionWords

/-- vtopk, quantised words, vector loads and stores. -/
def Obligations.VectorQuantAndMemoryWords : Prop :=
  Sys2Proof.Spec.VectorTopkWord ∧ Sys2Proof.Spec.VectorQuantWords ∧ Sys2Proof.Spec.VectorLoadStoreWords ∧ Sys2Proof.Spec.VectorIndexedWords

/-- Wavelet words, domain tags, and the faults of vector words. -/
def Obligations.WaveletWordsAndVectorFaults : Prop :=
  Sys2Proof.Spec.VectorFaults ∧ Sys2Proof.Spec.WaveletGroupWords ∧ Sys2Proof.Spec.WaveletTagWords

/-- The Haar transform of lines and slabs and the survival rule. -/
def Obligations.HaarTransforms : Prop :=
  Sys2Proof.Spec.HaarLines ∧ Sys2Proof.Spec.HaarSlabs ∧ Sys2Proof.Spec.Survival

/-- Matrix words: acceptance, queue, control and faults. -/
def Obligations.MatrixWords : Prop :=
  Sys2Proof.Spec.MatrixQueue ∧ Sys2Proof.Spec.MatrixMoveWords ∧ Sys2Proof.Spec.MatrixMultiplyWord ∧ Sys2Proof.Spec.MatrixSparseWords ∧ Sys2Proof.Spec.MatrixFaults ∧ Sys2Proof.Spec.MatrixControlWords

/-- Shape records, matrix moves and the completion of matrix work. -/
def Obligations.MatrixWorkCompletes : Prop :=
  Sys2Proof.Spec.ShapeRecords ∧ Sys2Proof.Spec.MatrixMoves ∧ Sys2Proof.Spec.MatrixCompletes

/-- Products, intersections and adapters of the matrix engine. -/
def Obligations.MatrixProductsAndAdapters : Prop :=
  Sys2Proof.Spec.MatrixProducts ∧ Sys2Proof.Spec.MatrixIntersections ∧ Sys2Proof.Spec.MatrixAdapters

/-- Loads, stores, atomics, prefetches and fences as they are issued. -/
def Obligations.LoadStoreAtomicAndFenceWords : Prop :=
  Sys2Proof.Spec.LoadStoreWords ∧ Sys2Proof.Spec.AtomicWords ∧ Sys2Proof.Spec.OrderWords ∧ Sys2Proof.Spec.MemoryWordFaults

/-- Extents, windows, the forming of addresses, and the order of translation checks. -/
def Obligations.AddressesAndTranslation : Prop :=
  Sys2Proof.Spec.ExtentsCanonical ∧ Sys2Proof.Spec.WindowSearch ∧ Sys2Proof.Spec.AddressForming ∧ Sys2Proof.Spec.TranslationOrder

/-- What a page write changes, how a page grows, its record, atomic results, ACCESSED and DIRTY. -/
def Obligations.PageWritesAndAtomics : Prop :=
  Sys2Proof.Spec.AtomicResults ∧ Sys2Proof.Spec.PageWriteBytes ∧ Sys2Proof.Spec.PageGrowth ∧ Sys2Proof.Spec.RecordsReadBack ∧ Sys2Proof.Spec.TouchedPages

/-- Requests at their home, those of another package, and the answers that reach temporaries. -/
def Obligations.HomesPerformRequests : Prop :=
  Sys2Proof.Spec.HomeRequests ∧ Sys2Proof.Spec.RemoteAnswers ∧ Sys2Proof.Spec.AnswersReachTemporaries

/-- Stream words in element and slab mode, and their faults. -/
def Obligations.StreamWords : Prop :=
  Sys2Proof.Spec.StreamOpenWord ∧ Sys2Proof.Spec.StreamElementWords ∧ Sys2Proof.Spec.StreamSlabWords ∧ Sys2Proof.Spec.StreamCloseWord ∧ Sys2Proof.Spec.StreamFaults

/-- Slab headers, the image of a slab store, dirty records of a stream. -/
def Obligations.StreamImagesAndRecords : Prop :=
  Sys2Proof.Spec.SlabHeaders ∧ Sys2Proof.Spec.SlabStoreImages ∧ Sys2Proof.Spec.StreamRecords

/-- Copies, gathers, scatters, multicast reads and adapter fetches as they are issued. -/
def Obligations.EngineMoveCommands : Prop :=
  Sys2Proof.Spec.CopyCommandWords ∧ Sys2Proof.Spec.CommandIssueFaults ∧ Sys2Proof.Spec.GatherScatterWords ∧ Sys2Proof.Spec.MulticastReadWord ∧ Sys2Proof.Spec.AdapterFetchWords

/-- Timelines, barriers, combine signals, steps, groups and collectives as they are issued. -/
def Obligations.TimelinesAndCollectiveWords : Prop :=
  Sys2Proof.Spec.TimelineWords ∧ Sys2Proof.Spec.SynchronisationWords ∧ Sys2Proof.Spec.GroupFormWord ∧ Sys2Proof.Spec.CollectiveWord

/-- Row extents, completion of engine commands in order, and the forming of groups. -/
def Obligations.EngineCommandsComplete : Prop :=
  Sys2Proof.Spec.CounterShowsPrefix ∧ Sys2Proof.Spec.RowExtents ∧ Sys2Proof.Spec.CommandCompletes ∧ Sys2Proof.Spec.FormCompletes

/-- Results, reductions, performance and abort of collectives. -/
def Obligations.CollectivesComplete : Prop :=
  Sys2Proof.Spec.CollectiveResults ∧ Sys2Proof.Spec.Reductions ∧ Sys2Proof.Spec.CollectivePerforms ∧ Sys2Proof.Spec.CollectiveAborts

/-- A copy command leaves its destination equal to its source and nothing else changed. -/
def Obligations.CopiesMoveBytes : Prop :=
  Sys2Proof.Spec.CopyMovesBytes

/-- Arithmetic, routing, constant, sink, prefetch check and tag nodes. -/
def Obligations.ArithmeticAndRoutingNodes : Prop :=
  Sys2Proof.Spec.LeadingToken ∧ Sys2Proof.Spec.NodeArithmetic ∧ Sys2Proof.Spec.NodeRouting ∧ Sys2Proof.Spec.NodeConstSinkPchk ∧ Sys2Proof.Spec.NodeTags

/-- count, join, cwait, fire and mctl nodes. -/
def Obligations.CountingAndFiringNodes : Prop :=
  Sys2Proof.Spec.NodeCountRuns ∧ Sys2Proof.Spec.NodeJoinCwait ∧ Sys2Proof.Spec.JoinCounts ∧ Sys2Proof.Spec.NodeFire ∧ Sys2Proof.Spec.NodeMctl

/-- isect, sendx, lds and sts nodes; poison passing through; taking an exception. -/
def Obligations.MemoryNodesAndExceptions : Prop :=
  Sys2Proof.Spec.NodeIsect ∧ Sys2Proof.Spec.NodeSendx ∧ Sys2Proof.Spec.NodeMemory ∧ Sys2Proof.Spec.ValuePorts ∧ Sys2Proof.Spec.PoisonPassesThrough ∧ Sys2Proof.Spec.ExceptionEntry

/-- The issue of firings, the pairing of tokens, bins and the replay of batches. -/
def Obligations.FiringsAndBins : Prop :=
  Sys2Proof.Spec.FiringIssues ∧ Sys2Proof.Spec.TokensPair ∧ Sys2Proof.Spec.NodeBin ∧ Sys2Proof.Spec.BinTokens ∧ Sys2Proof.Spec.BinTimers ∧ Sys2Proof.Spec.BinFires ∧ Sys2Proof.Spec.BatchReplays

/-- Arrival, overflow, reinjection, waiting, acknowledgement and refusal of tokens. -/
def Obligations.TokensArrive : Prop :=
  Sys2Proof.Spec.TokenArrivals ∧ Sys2Proof.Spec.DivertedTokens ∧ Sys2Proof.Spec.Reinjection ∧ Sys2Proof.Spec.DestinationLaunch ∧ Sys2Proof.Spec.WaitingTokens ∧ Sys2Proof.Spec.Acknowledgements ∧ Sys2Proof.Spec.Refusals

/-- Sowers, quotas, group records and combine units. -/
def Obligations.SowersAndCombineUnits : Prop :=
  Sys2Proof.Spec.SowerRows ∧ Sys2Proof.Spec.SowerBuffers ∧ Sys2Proof.Spec.Quotas ∧ Sys2Proof.Spec.GroupRecords ∧ Sys2Proof.Spec.CombineResults ∧ Sys2Proof.Spec.CombinedRows

/-- Barriers, step barriers, notices, the close of sowers, tile timers. -/
def Obligations.StepsAndNotices : Prop :=
  Sys2Proof.Spec.UnreachablePackages ∧ Sys2Proof.Spec.BarrierCompletes ∧ Sys2Proof.Spec.SowerCloses ∧ Sys2Proof.Spec.Notices ∧ Sys2Proof.Spec.StepBarriers ∧ Sys2Proof.Spec.StepsAdvance ∧ Sys2Proof.Spec.TileTimers

/-- Power caps, clock requests, grants and telemetry. -/
def Obligations.ClockGrants : Prop :=
  Sys2Proof.Spec.CapWrites ∧ Sys2Proof.Spec.NearestEntry ∧ Sys2Proof.Spec.GrantsPend ∧ Sys2Proof.Spec.GrantsTakeEffect ∧ Sys2Proof.Spec.CoalesceWindows ∧ Sys2Proof.Spec.ThermalSteps ∧ Sys2Proof.Spec.TelemetryEvents

/-- Kick pages, doorbells, CONTROL words, invalid packets, stores and signals. -/
def Obligations.DoorbellsAndStores : Prop :=
  Sys2Proof.Spec.Doorbells ∧ Sys2Proof.Spec.KickReads ∧ Sys2Proof.Spec.ControlWords ∧ Sys2Proof.Spec.InvalidPackets ∧ Sys2Proof.Spec.StorePackets ∧ Sys2Proof.Spec.WriteSignalSecondStep ∧ Sys2Proof.Spec.SignalValues

/-- Waits, conditions, loops, skips, copies, and the end of packets with its signals. -/
def Obligations.WaitsFlowAndCopies : Prop :=
  Sys2Proof.Spec.WaitPackets ∧ Sys2Proof.Spec.WaitConditions ∧ Sys2Proof.Spec.FlowPackets ∧ Sys2Proof.Spec.LoopsAndSkips ∧ Sys2Proof.Spec.CopyPackets ∧ Sys2Proof.Spec.EndSignals ∧ Sys2Proof.Spec.PacketEnds

/-- Ageing, selection, slots, placement and pre-emption. -/
def Obligations.SchedulerAndPlacement : Prop :=
  Sys2Proof.Spec.QueuesAge ∧ Sys2Proof.Spec.SchedulerPasses ∧ Sys2Proof.Spec.SlotsChange ∧ Sys2Proof.Spec.Placement ∧ Sys2Proof.Spec.PlaceableLaunches ∧ Sys2Proof.Spec.PreemptionMethods

/-- LAUNCH packets, leases, periodic releases, deadlines and the end of a launch. -/
def Obligations.LaunchesAndLeases : Prop :=
  Sys2Proof.Spec.LaunchPackets ∧ Sys2Proof.Spec.LeaseEvents ∧ Sys2Proof.Spec.LeaseCounts ∧ Sys2Proof.Spec.PeriodicEvents ∧ Sys2Proof.Spec.LaunchesEnd

/-- Permits, waiting and order on the command links of the plots. -/
def Obligations.PermitsOnLinks : Prop :=
  Sys2Proof.Spec.LinkPermits

/-- Messages, PLACE, its answers, GO, and what a placed tile holds. -/
def Obligations.PlacementOnPlots : Prop :=
  Sys2Proof.Spec.PlotMessages ∧ Sys2Proof.Spec.PlaceCommands ∧ Sys2Proof.Spec.PlacedTiles ∧ Sys2Proof.Spec.PlacementAnswers ∧ Sys2Proof.Spec.EarliestFailures ∧ Sys2Proof.Spec.GoCommands ∧ Sys2Proof.Spec.InboundOrder

/-- KILL, FREE, SAVE and RESTORE, save images, the reports of plots, and their failure. -/
def Obligations.EndsSavesAndReportsOfPlots : Prop :=
  Sys2Proof.Spec.KillAndFreeCommands ∧ Sys2Proof.Spec.FreedAnswers ∧ Sys2Proof.Spec.SaveCommands ∧ Sys2Proof.Spec.RestoreCommands ∧ Sys2Proof.Spec.SaveTags ∧ Sys2Proof.Spec.SaveAnswers ∧ Sys2Proof.Spec.FaultMessages ∧ Sys2Proof.Spec.EstimateMessages ∧ Sys2Proof.Spec.SinkReports ∧ Sys2Proof.Spec.PlotFailures ∧ Sys2Proof.Spec.CrashEntries

/-- Held writes, compaction, demotion, age scans, shootdowns, recodes, checkpoints and restores. -/
def Obligations.TiersAtWork : Prop :=
  Sys2Proof.Spec.HeldWrites ∧ Sys2Proof.Spec.Compaction ∧ Sys2Proof.Spec.Demotion ∧ Sys2Proof.Spec.AgeScans ∧ Sys2Proof.Spec.Shootdowns ∧ Sys2Proof.Spec.Recodes ∧ Sys2Proof.Spec.Checkpoints ∧ Sys2Proof.Spec.MemoryRestores

/-- Heat, rotation moves, adaptive thresholds and shared tiles. -/
def Obligations.RotationThresholdsAndSharing : Prop :=
  Sys2Proof.Spec.HeatUpdates ∧ Sys2Proof.Spec.RotationPasses ∧ Sys2Proof.Spec.TierMoves ∧ Sys2Proof.Spec.ThresholdAdjusts ∧ Sys2Proof.Spec.TileSwitches

/-- The control page, the event ring, BAR2, how requests are answered, and the sideband. -/
def Obligations.ControlPageAndEvents : Prop :=
  Sys2Proof.Spec.ControlPageWrites ∧ Sys2Proof.Spec.RegisterReads ∧ Sys2Proof.Spec.EventRings ∧ Sys2Proof.Spec.Bar2Accesses ∧ Sys2Proof.Spec.Replies ∧ Sys2Proof.Spec.MalformedRequests ∧ Sys2Proof.Spec.SidebandRequests ∧ Sys2Proof.Spec.SidebandReads

/-- Every mailbox request: its statuses and its effect; what firmware alone does to queues. -/
def Obligations.MailboxRequests : Prop :=
  Sys2Proof.Spec.QueueCreates ∧ Sys2Proof.Spec.QueueDestroys ∧ Sys2Proof.Spec.QueueAssigns ∧ Sys2Proof.Spec.AsidCreates ∧ Sys2Proof.Spec.AsidDestroys ∧ Sys2Proof.Spec.PteWrites ∧ Sys2Proof.Spec.PteReads ∧ Sys2Proof.Spec.RegisterRequests ∧ Sys2Proof.Spec.BrkResumes ∧ Sys2Proof.Spec.FirmwareQueues

/-- Resets, image checks, attestation, bring-up, crashes and links. -/
def Obligations.BringUpAndResets : Prop :=
  Sys2Proof.Spec.Resets ∧ Sys2Proof.Spec.ImagePushes ∧ Sys2Proof.Spec.Attestation ∧ Sys2Proof.Spec.BringUps ∧ Sys2Proof.Spec.FurrowSteps ∧ Sys2Proof.Spec.ReadyReports ∧ Sys2Proof.Spec.Crashes ∧ Sys2Proof.Spec.LinksDown

/-- A die's remap table serves every logical tile from healthy tiles. -/
def Obligations.RemapTablesServeEveryTile : Prop :=
  Sys2Proof.Spec.RemapTables
end

