-- ==== Sys2Proof/Laws/Mem.lean ====
section
/-! SUPPORT. Sparse maps and byte memories: what a read gives after a write, and that every write keeps the canonical form. -/

namespace Sys2Proof.Machine

open Sys2Proof

/-! ## Maps -/

@[simp] theorem afind_aput_same (m : AMap α) (k : Nat) (v : α) : afind (aput m k v) k = some v := by
  induction m with
  | nil => simp [aput, afind]
  | cons p t ih =>
    obtain ⟨j, w⟩ := p
    unfold aput
    split
    · simp [afind]
    · split
      · simp [afind]
      · next _ h => simp [afind, ih, Ne.symm h]

@[simp] theorem afind_aput_ne (m : AMap α) (k j : Nat) (v : α) (h : j ≠ k) : afind (aput m k v) j = afind m j := by
  induction m with
  | nil => simp [aput, afind, Ne.symm h]
  | cons p t ih =>
    obtain ⟨i, w⟩ := p
    unfold aput
    split
    · simp [afind, Ne.symm h]
    · split
      · next h2 => subst h2; simp [afind, Ne.symm h]
      · simp [afind, ih]

@[simp] theorem aget_aput_same (m : AMap α) (k : Nat) (v d : α) : aget (aput m k v) k d = v := by simp [aget]

@[simp] theorem aget_aput_ne (m : AMap α) (k j : Nat) (v d : α) (h : j ≠ k) : aget (aput m k v) j d = aget m j d := by
  simp [aget, h]

@[simp] theorem afind_adel_same (m : AMap α) (k : Nat) : afind (adel m k) k = none := by
  induction m with
  | nil => rfl
  | cons p t ih =>
    obtain ⟨i, w⟩ := p
    by_cases h : i = k <;> simp_all [adel, afind, List.filter]

@[simp] theorem afind_adel_ne (m : AMap α) (k j : Nat) (h : j ≠ k) : afind (adel m k) j = afind m j := by
  induction m with
  | nil => rfl
  | cons p t ih =>
    obtain ⟨i, w⟩ := p
    by_cases hi : i = k
    · subst hi; simp_all [adel, afind, Ne.symm h]
    · simp_all [adel, afind]

/-! ## Bytes -/

@[simp] theorem rd8_wr8_same (m : AMap Byte) (a : Nat) (b : Byte) : rd8 (wr8 m a b) a = b := by
  unfold rd8 wr8 asetd
  split
  · next h => subst h; simp [aget]
  · simp

@[simp] theorem rd8_wr8_ne (m : AMap Byte) (a c : Nat) (b : Byte) (h : c ≠ a) : rd8 (wr8 m a b) c = rd8 m c := by
  unfold rd8 wr8 asetd
  split <;> simp [aget, h]

/-- Bytes below or at the end of a write are unchanged. -/
theorem rd8_wrBytes_out (bs : List Byte) (m : AMap Byte) (a c : Nat) (h : c < a ∨ a + bs.length ≤ c) :
    rd8 (wrBytes m a bs) c = rd8 m c := by
  induction bs generalizing m a with
  | nil => rfl
  | cons b t ih =>
    simp only [List.length_cons] at h
    have hc : c ≠ a := by omega
    rw [wrBytes, ih _ _ (by omega), rd8_wr8_ne _ _ _ _ hc]

/-- A byte of a write reads as written. -/
theorem rd8_wrBytes_in (bs : List Byte) (m : AMap Byte) (a i : Nat) (h : i < bs.length) :
    rd8 (wrBytes m a bs) (a + i) = bs[i] := by
  induction bs generalizing m a i with
  | nil => simp at h
  | cons b t ih =>
    cases i with
    | zero => simp only [wrBytes]; rw [rd8_wrBytes_out _ _ _ _ (by omega)]; simp
    | succ n =>
      simp only [wrBytes, List.getElem_cons_succ]
      have := ih (wr8 m a b) (a + 1) n (by simpa using h)
      rw [← this]; congr 1; omega

theorem rdBytes_length (m : AMap Byte) (a n : Nat) : (rdBytes m a n).length = n := by
  induction n generalizing a with
  | zero => rfl
  | succ n ih => simp [rdBytes, ih]

/-- What was written is read back. -/
theorem rdBytes_wrBytes_same (bs : List Byte) (m : AMap Byte) (a : Nat) : rdBytes (wrBytes m a bs) a bs.length = bs := by
  induction bs generalizing m a with
  | nil => rfl
  | cons b t ih =>
    simp only [wrBytes, List.length_cons, rdBytes]
    rw [ih, rd8_wrBytes_out _ _ _ _ (by omega)]; simp

/-- A read apart from a write is unchanged. -/
theorem rdBytes_wrBytes_out (bs : List Byte) (m : AMap Byte) (a c n : Nat) (h : c + n ≤ a ∨ a + bs.length ≤ c) :
    rdBytes (wrBytes m a bs) c n = rdBytes m c n := by
  induction n generalizing c with
  | zero => rfl
  | succ n ih => simp only [rdBytes]; rw [ih _ (by omega), rd8_wrBytes_out _ _ _ _ (by omega)]

/-! ## The canonical form -/

/-- Every key of a map is at least `n`. -/
def lowKeys (n : Nat) (m : AMap α) : Prop := ∀ p ∈ m, n ≤ p.1

theorem rising_cons (a : Nat) (v : α) (t : AMap α) : rising ((a, v) :: t) = true ↔ lowKeys (a + 1) t ∧ rising t = true := by
  induction t generalizing a v with
  | nil => simp [rising, lowKeys]
  | cons p u ih =>
    obtain ⟨b, w⟩ := p
    simp only [rising, Bool.and_eq_true, decide_eq_true_eq]
    constructor
    · rintro ⟨h1, h2⟩
      refine ⟨?_, h2⟩
      intro q hq
      rcases List.mem_cons.mp hq with h | h
      · subst h; exact h1
      · have := ((ih b w).mp h2).1 q h; omega
    · rintro ⟨h1, h2⟩
      exact ⟨h1 (b, w) (List.mem_cons_self ..), h2⟩

theorem mem_aput {m : AMap α} {k : Nat} {v : α} {p : Nat × α} (h : p ∈ aput m k v) : p = (k, v) ∨ p ∈ m := by
  induction m with
  | nil => simpa [aput] using h
  | cons q t ih =>
    obtain ⟨j, w⟩ := q
    unfold aput at h
    split at h
    · simpa using h
    · split at h
      · rcases List.mem_cons.mp h with h | h
        · exact .inl h
        · exact .inr (List.mem_cons_of_mem _ h)
      · rcases List.mem_cons.mp h with h | h
        · exact .inr (by simp [h])
        · rcases ih h with h | h
          · exact .inl h
          · exact .inr (List.mem_cons_of_mem _ h)

theorem rising_aput (m : AMap α) (k : Nat) (v : α) (h : rising m = true) : rising (aput m k v) = true := by
  induction m with
  | nil => rfl
  | cons q t ih =>
    obtain ⟨j, w⟩ := q
    have hq := (rising_cons j w t).mp h
    unfold aput
    split
    · next hk => exact (rising_cons _ _ _).mpr ⟨fun p hp => by
        rcases List.mem_cons.mp hp with e | e
        · subst e; exact hk
        · have := hq.1 p e; omega, h⟩
    · split
      · next hk => subst hk; exact (rising_cons _ _ _).mpr hq
      · refine (rising_cons _ _ _).mpr ⟨fun p hp => ?_, ih hq.2⟩
        rcases mem_aput hp with e | e
        · subst e; show j + 1 ≤ k; omega
        · exact hq.1 p e

theorem rising_adel (m : AMap α) (k : Nat) (h : rising m = true) : rising (adel m k) = true := by
  induction m with
  | nil => rfl
  | cons q t ih =>
    obtain ⟨j, w⟩ := q
    have hq := (rising_cons j w t).mp h
    by_cases hj : j = k
    · have : adel ((j, w) :: t) k = adel t k := by simp [adel, hj]
      rw [this]; exact ih hq.2
    · have : adel ((j, w) :: t) k = (j, w) :: adel t k := by simp [adel, hj]
      rw [this]
      exact (rising_cons _ _ _).mpr ⟨fun p hp => hq.1 p (List.mem_filter.mp hp).1, ih hq.2⟩

/-- One byte written keeps the canonical form. -/
theorem Memory.wf_wr8 (m : AMap Byte) (a : Nat) (b : Byte) (h : Memory.wf m = true) : Memory.wf (wr8 m a b) = true := by
  simp only [Memory.wf, Bool.and_eq_true, List.all_eq_true] at h ⊢
  unfold wr8 asetd
  split
  · exact ⟨rising_adel _ _ h.1, fun p hp => h.2 p (List.mem_filter.mp hp).1⟩
  · next hb =>
    refine ⟨rising_aput _ _ _ h.1, fun p hp => ?_⟩
    rcases mem_aput hp with e | e
    · subst e; simpa using hb
    · exact h.2 p e

/-- Bytes written keep the canonical form. -/
theorem Memory.wf_wrBytes (bs : List Byte) (m : AMap Byte) (a : Nat) (h : Memory.wf m = true) :
    Memory.wf (wrBytes m a bs) = true := by
  induction bs generalizing m a with
  | nil => exact h
  | cons b t ih => exact ih _ _ (Memory.wf_wr8 m a b h)

/-- A wide store keeps the canonical form. -/
theorem Memory.wf_wrLE (m : AMap Byte) (a n v : Nat) (h : Memory.wf m = true) : Memory.wf (wrLE m a n v) = true :=
  Memory.wf_wrBytes _ _ _ h

theorem rising_filter (f : Nat × α → Bool) (m : AMap α) (h : rising m = true) : rising (m.filter f) = true := by
  induction m with
  | nil => rfl
  | cons q t ih =>
    obtain ⟨j, w⟩ := q
    have hq := (rising_cons j w t).mp h
    rw [List.filter_cons]
    split
    · exact (rising_cons _ _ _).mpr ⟨fun p hp => hq.1 p (List.mem_filter.mp hp).1, ih hq.2⟩
    · exact ih hq.2

/-- A filter of a canonical memory is canonical. -/
theorem Memory.wf_filter (f : Nat × Byte → Bool) (m : AMap Byte) (h : Memory.wf m = true) : Memory.wf (m.filter f) = true := by
  simp only [Memory.wf, Bool.and_eq_true, List.all_eq_true] at h ⊢
  exact ⟨rising_filter f m h.1, fun p hp => h.2 p (List.mem_filter.mp hp).1⟩

theorem rising_append (m n : AMap α) (k : Nat) (hm : rising m = true) (hn : rising n = true)
    (hlo : ∀ p ∈ m, p.1 < k) (hhi : ∀ p ∈ n, k ≤ p.1) : rising (m ++ n) = true := by
  induction m with
  | nil => simpa using hn
  | cons q t ih =>
    obtain ⟨j, w⟩ := q
    have hq := (rising_cons j w t).mp hm
    refine (rising_cons _ _ _).mpr ⟨fun p hp => ?_, ih hq.2 (fun p hp => hlo p (List.mem_cons_of_mem _ hp))⟩
    rcases List.mem_append.mp hp with e | e
    · exact hq.1 p e
    · have a : j < k := hlo (j, w) (List.mem_cons_self ..)
      have b := hhi p e
      omega

/-- Two canonical memories, one below the other, make one. -/
theorem Memory.wf_append (m n : AMap Byte) (k : Nat) (hm : Memory.wf m = true) (hn : Memory.wf n = true)
    (hlo : ∀ p ∈ m, p.1 < k) (hhi : ∀ p ∈ n, k ≤ p.1) : Memory.wf (m ++ n) = true := by
  simp only [Memory.wf, Bool.and_eq_true, List.all_eq_true] at hm hn ⊢
  exact ⟨rising_append m n k hm.1 hn.1 hlo hhi, fun p hp => (List.mem_append.mp hp).elim (hm.2 p) (hn.2 p)⟩

end Sys2Proof.Machine
end

