-- ==== Sys2Proof/Laws/State.lean ====
section
/-! SUPPORT. What each update of the state leaves as it is, field by field, and what it changes. -/

namespace Sys2Proof.Machine

open Sys2Proof

/-! ## `setTile` -/

@[simp] theorem setTile_time (s : State) (t : Nat) (x : Tile) : (setTile s t x).time = s.time := rfl
@[simp] theorem setTile_agenda (s : State) (t : Nat) (x : Tile) : (setTile s t x).agenda = s.agenda := rfl
@[simp] theorem setTile_focus (s : State) (t : Nat) (x : Tile) : (setTile s t x).focus = s.focus := rfl
@[simp] theorem setTile_freeCtr (s : State) (t : Nat) (x : Tile) : (setTile s t x).freeCtr = s.freeCtr := rfl
@[simp] theorem setTile_nextId (s : State) (t : Nat) (x : Tile) : (setTile s t x).nextId = s.nextId := rfl
@[simp] theorem setTile_boot (s : State) (t : Nat) (x : Tile) : (setTile s t x).boot = s.boot := rfl
@[simp] theorem setTile_clk (s : State) (t : Nat) (x : Tile) : (setTile s t x).clk = s.clk := rfl
@[simp] theorem setTile_params (s : State) (t : Nat) (x : Tile) : (setTile s t x).params = s.params := rfl
@[simp] theorem setTile_sens (s : State) (t : Nat) (x : Tile) : (setTile s t x).sens = s.sens := rfl
@[simp] theorem setTile_fns (s : State) (t : Nat) (x : Tile) : (setTile s t x).fns = s.fns := rfl
@[simp] theorem setTile_qidOwner (s : State) (t : Nat) (x : Tile) : (setTile s t x).qidOwner = s.qidOwner := rfl
@[simp] theorem setTile_asidOwner (s : State) (t : Nat) (x : Tile) : (setTile s t x).asidOwner = s.asidOwner := rfl
@[simp] theorem setTile_tablePool (s : State) (t : Nat) (x : Tile) : (setTile s t x).tablePool = s.tablePool := rfl
@[simp] theorem setTile_queues (s : State) (t : Nat) (x : Tile) : (setTile s t x).queues = s.queues := rfl
@[simp] theorem setTile_pending (s : State) (t : Nat) (x : Tile) : (setTile s t x).pending = s.pending := rfl
@[simp] theorem setTile_slotQ (s : State) (t : Nat) (x : Tile) : (setTile s t x).slotQ = s.slotQ := rfl
@[simp] theorem setTile_claims (s : State) (t : Nat) (x : Tile) : (setTile s t x).claims = s.claims := rfl
@[simp] theorem setTile_launches (s : State) (t : Nat) (x : Tile) : (setTile s t x).launches = s.launches := rfl
@[simp] theorem setTile_links (s : State) (t : Nat) (x : Tile) : (setTile s t x).links = s.links := rfl
@[simp] theorem setTile_mem (s : State) (t : Nat) (x : Tile) : (setTile s t x).mem = s.mem := rfl
@[simp] theorem setTile_roots (s : State) (t : Nat) (x : Tile) : (setTile s t x).roots = s.roots := rfl
@[simp] theorem setTile_tcache (s : State) (t : Nat) (x : Tile) : (setTile s t x).tcache = s.tcache := rfl
@[simp] theorem setTile_shoots (s : State) (t : Nat) (x : Tile) : (setTile s t x).shoots = s.shoots := rfl
@[simp] theorem setTile_tiers (s : State) (t : Nat) (x : Tile) : (setTile s t x).tiers = s.tiers := rfl
@[simp] theorem setTile_recodes (s : State) (t : Nat) (x : Tile) : (setTile s t x).recodes = s.recodes := rfl
@[simp] theorem setTile_moves (s : State) (t : Nat) (x : Tile) : (setTile s t x).moves = s.moves := rfl
@[simp] theorem setTile_near (s : State) (t : Nat) (x : Tile) : (setTile s t x).near = s.near := rfl
@[simp] theorem setTile_lineRel (s : State) (t : Nat) (x : Tile) : (setTile s t x).lineRel = s.lineRel := rfl
@[simp] theorem setTile_badLines (s : State) (t : Nat) (x : Tile) : (setTile s t x).badLines = s.badLines := rfl
@[simp] theorem setTile_badMem (s : State) (t : Nat) (x : Tile) : (setTile s t x).badMem = s.badMem := rfl
@[simp] theorem setTile_reqs (s : State) (t : Nat) (x : Tile) : (setTile s t x).reqs = s.reqs := rfl
@[simp] theorem setTile_far (s : State) (t : Nat) (x : Tile) : (setTile s t x).far = s.far := rfl
@[simp] theorem setTile_asker (s : State) (t : Nat) (x : Tile) : (setTile s t x).asker = s.asker := rfl
@[simp] theorem setTile_copyLast (s : State) (t : Nat) (x : Tile) : (setTile s t x).copyLast = s.copyLast := rfl
@[simp] theorem setTile_track (s : State) (t : Nat) (x : Tile) : (setTile s t x).track = s.track := rfl
@[simp] theorem setTile_cmds (s : State) (t : Nat) (x : Tile) : (setTile s t x).cmds = s.cmds := rfl
@[simp] theorem setTile_groups (s : State) (t : Nat) (x : Tile) : (setTile s t x).groups = s.groups := rfl
@[simp] theorem setTile_net (s : State) (t : Nat) (x : Tile) : (setTile s t x).net = s.net := rfl
@[simp] theorem setTile_ovf (s : State) (t : Nat) (x : Tile) : (setTile s t x).ovf = s.ovf := rfl
@[simp] theorem setTile_ovfUsed (s : State) (t : Nat) (x : Tile) : (setTile s t x).ovfUsed = s.ovfUsed := rfl
@[simp] theorem setTile_ovfTurn (s : State) (t : Nat) (x : Tile) : (setTile s t x).ovfTurn = s.ovfTurn := rfl
@[simp] theorem setTile_ovfOn (s : State) (t : Nat) (x : Tile) : (setTile s t x).ovfOn = s.ovfOn := rfl
@[simp] theorem setTile_limbo (s : State) (t : Nat) (x : Tile) : (setTile s t x).limbo = s.limbo := rfl
@[simp] theorem setTile_sowers (s : State) (t : Nat) (x : Tile) : (setTile s t x).sowers = s.sowers := rfl
@[simp] theorem setTile_combs (s : State) (t : Nat) (x : Tile) : (setTile s t x).combs = s.combs := rfl
@[simp] theorem setTile_ckpt (s : State) (t : Nat) (x : Tile) : (setTile s t x).ckpt = s.ckpt := rfl
@[simp] theorem setTile_ckptImage (s : State) (t : Nat) (x : Tile) : (setTile s t x).ckptImage = s.ckptImage := rfl
@[simp] theorem setTile_cyc (s : State) (t : Nat) (x : Tile) : (setTile s t x).cyc = s.cyc := rfl
@[simp] theorem setTile_timers (s : State) (t : Nat) (x : Tile) : (setTile s t x).timers = s.timers := rfl
@[simp] theorem setTile_hostBusy (s : State) (t : Nat) (x : Tile) : (setTile s t x).hostBusy = s.hostBusy := rfl
@[simp] theorem setTile_outClock (s : State) (t : Nat) (x : Tile) : (setTile s t x).outClock = s.outClock := rfl
@[simp] theorem setTile_got (s : State) (t : Nat) (x : Tile) : (setTile s t x).got = s.got := rfl

/-! ## `modTile` -/

@[simp] theorem modTile_time (s : State) (t : Nat) (f : Tile → Tile) : (modTile s t f).time = s.time := rfl
@[simp] theorem modTile_agenda (s : State) (t : Nat) (f : Tile → Tile) : (modTile s t f).agenda = s.agenda := rfl
@[simp] theorem modTile_focus (s : State) (t : Nat) (f : Tile → Tile) : (modTile s t f).focus = s.focus := rfl
@[simp] theorem modTile_freeCtr (s : State) (t : Nat) (f : Tile → Tile) : (modTile s t f).freeCtr = s.freeCtr := rfl
@[simp] theorem modTile_nextId (s : State) (t : Nat) (f : Tile → Tile) : (modTile s t f).nextId = s.nextId := rfl
@[simp] theorem modTile_boot (s : State) (t : Nat) (f : Tile → Tile) : (modTile s t f).boot = s.boot := rfl
@[simp] theorem modTile_clk (s : State) (t : Nat) (f : Tile → Tile) : (modTile s t f).clk = s.clk := rfl
@[simp] theorem modTile_params (s : State) (t : Nat) (f : Tile → Tile) : (modTile s t f).params = s.params := rfl
@[simp] theorem modTile_sens (s : State) (t : Nat) (f : Tile → Tile) : (modTile s t f).sens = s.sens := rfl
@[simp] theorem modTile_fns (s : State) (t : Nat) (f : Tile → Tile) : (modTile s t f).fns = s.fns := rfl
@[simp] theorem modTile_qidOwner (s : State) (t : Nat) (f : Tile → Tile) : (modTile s t f).qidOwner = s.qidOwner := rfl
@[simp] theorem modTile_asidOwner (s : State) (t : Nat) (f : Tile → Tile) : (modTile s t f).asidOwner = s.asidOwner := rfl
@[simp] theorem modTile_tablePool (s : State) (t : Nat) (f : Tile → Tile) : (modTile s t f).tablePool = s.tablePool := rfl
@[simp] theorem modTile_queues (s : State) (t : Nat) (f : Tile → Tile) : (modTile s t f).queues = s.queues := rfl
@[simp] theorem modTile_pending (s : State) (t : Nat) (f : Tile → Tile) : (modTile s t f).pending = s.pending := rfl
@[simp] theorem modTile_slotQ (s : State) (t : Nat) (f : Tile → Tile) : (modTile s t f).slotQ = s.slotQ := rfl
@[simp] theorem modTile_claims (s : State) (t : Nat) (f : Tile → Tile) : (modTile s t f).claims = s.claims := rfl
@[simp] theorem modTile_launches (s : State) (t : Nat) (f : Tile → Tile) : (modTile s t f).launches = s.launches := rfl
@[simp] theorem modTile_links (s : State) (t : Nat) (f : Tile → Tile) : (modTile s t f).links = s.links := rfl
@[simp] theorem modTile_mem (s : State) (t : Nat) (f : Tile → Tile) : (modTile s t f).mem = s.mem := rfl
@[simp] theorem modTile_roots (s : State) (t : Nat) (f : Tile → Tile) : (modTile s t f).roots = s.roots := rfl
@[simp] theorem modTile_tcache (s : State) (t : Nat) (f : Tile → Tile) : (modTile s t f).tcache = s.tcache := rfl
@[simp] theorem modTile_shoots (s : State) (t : Nat) (f : Tile → Tile) : (modTile s t f).shoots = s.shoots := rfl
@[simp] theorem modTile_tiers (s : State) (t : Nat) (f : Tile → Tile) : (modTile s t f).tiers = s.tiers := rfl
@[simp] theorem modTile_recodes (s : State) (t : Nat) (f : Tile → Tile) : (modTile s t f).recodes = s.recodes := rfl
@[simp] theorem modTile_moves (s : State) (t : Nat) (f : Tile → Tile) : (modTile s t f).moves = s.moves := rfl
@[simp] theorem modTile_near (s : State) (t : Nat) (f : Tile → Tile) : (modTile s t f).near = s.near := rfl
@[simp] theorem modTile_lineRel (s : State) (t : Nat) (f : Tile → Tile) : (modTile s t f).lineRel = s.lineRel := rfl
@[simp] theorem modTile_badLines (s : State) (t : Nat) (f : Tile → Tile) : (modTile s t f).badLines = s.badLines := rfl
@[simp] theorem modTile_badMem (s : State) (t : Nat) (f : Tile → Tile) : (modTile s t f).badMem = s.badMem := rfl
@[simp] theorem modTile_reqs (s : State) (t : Nat) (f : Tile → Tile) : (modTile s t f).reqs = s.reqs := rfl
@[simp] theorem modTile_far (s : State) (t : Nat) (f : Tile → Tile) : (modTile s t f).far = s.far := rfl
@[simp] theorem modTile_asker (s : State) (t : Nat) (f : Tile → Tile) : (modTile s t f).asker = s.asker := rfl
@[simp] theorem modTile_copyLast (s : State) (t : Nat) (f : Tile → Tile) : (modTile s t f).copyLast = s.copyLast := rfl
@[simp] theorem modTile_track (s : State) (t : Nat) (f : Tile → Tile) : (modTile s t f).track = s.track := rfl
@[simp] theorem modTile_cmds (s : State) (t : Nat) (f : Tile → Tile) : (modTile s t f).cmds = s.cmds := rfl
@[simp] theorem modTile_groups (s : State) (t : Nat) (f : Tile → Tile) : (modTile s t f).groups = s.groups := rfl
@[simp] theorem modTile_net (s : State) (t : Nat) (f : Tile → Tile) : (modTile s t f).net = s.net := rfl
@[simp] theorem modTile_ovf (s : State) (t : Nat) (f : Tile → Tile) : (modTile s t f).ovf = s.ovf := rfl
@[simp] theorem modTile_ovfUsed (s : State) (t : Nat) (f : Tile → Tile) : (modTile s t f).ovfUsed = s.ovfUsed := rfl
@[simp] theorem modTile_ovfTurn (s : State) (t : Nat) (f : Tile → Tile) : (modTile s t f).ovfTurn = s.ovfTurn := rfl
@[simp] theorem modTile_ovfOn (s : State) (t : Nat) (f : Tile → Tile) : (modTile s t f).ovfOn = s.ovfOn := rfl
@[simp] theorem modTile_limbo (s : State) (t : Nat) (f : Tile → Tile) : (modTile s t f).limbo = s.limbo := rfl
@[simp] theorem modTile_sowers (s : State) (t : Nat) (f : Tile → Tile) : (modTile s t f).sowers = s.sowers := rfl
@[simp] theorem modTile_combs (s : State) (t : Nat) (f : Tile → Tile) : (modTile s t f).combs = s.combs := rfl
@[simp] theorem modTile_ckpt (s : State) (t : Nat) (f : Tile → Tile) : (modTile s t f).ckpt = s.ckpt := rfl
@[simp] theorem modTile_ckptImage (s : State) (t : Nat) (f : Tile → Tile) : (modTile s t f).ckptImage = s.ckptImage := rfl
@[simp] theorem modTile_cyc (s : State) (t : Nat) (f : Tile → Tile) : (modTile s t f).cyc = s.cyc := rfl
@[simp] theorem modTile_timers (s : State) (t : Nat) (f : Tile → Tile) : (modTile s t f).timers = s.timers := rfl
@[simp] theorem modTile_hostBusy (s : State) (t : Nat) (f : Tile → Tile) : (modTile s t f).hostBusy = s.hostBusy := rfl
@[simp] theorem modTile_outClock (s : State) (t : Nat) (f : Tile → Tile) : (modTile s t f).outClock = s.outClock := rfl
@[simp] theorem modTile_got (s : State) (t : Nat) (f : Tile → Tile) : (modTile s t f).got = s.got := rfl

/-! ## `setSlot` -/

@[simp] theorem setSlot_time (s : State) (t : Nat) (k : Fin 4) (x : Slot) : (setSlot s t k x).time = s.time := rfl
@[simp] theorem setSlot_agenda (s : State) (t : Nat) (k : Fin 4) (x : Slot) : (setSlot s t k x).agenda = s.agenda := rfl
@[simp] theorem setSlot_focus (s : State) (t : Nat) (k : Fin 4) (x : Slot) : (setSlot s t k x).focus = s.focus := rfl
@[simp] theorem setSlot_freeCtr (s : State) (t : Nat) (k : Fin 4) (x : Slot) : (setSlot s t k x).freeCtr = s.freeCtr := rfl
@[simp] theorem setSlot_nextId (s : State) (t : Nat) (k : Fin 4) (x : Slot) : (setSlot s t k x).nextId = s.nextId := rfl
@[simp] theorem setSlot_boot (s : State) (t : Nat) (k : Fin 4) (x : Slot) : (setSlot s t k x).boot = s.boot := rfl
@[simp] theorem setSlot_clk (s : State) (t : Nat) (k : Fin 4) (x : Slot) : (setSlot s t k x).clk = s.clk := rfl
@[simp] theorem setSlot_params (s : State) (t : Nat) (k : Fin 4) (x : Slot) : (setSlot s t k x).params = s.params := rfl
@[simp] theorem setSlot_sens (s : State) (t : Nat) (k : Fin 4) (x : Slot) : (setSlot s t k x).sens = s.sens := rfl
@[simp] theorem setSlot_fns (s : State) (t : Nat) (k : Fin 4) (x : Slot) : (setSlot s t k x).fns = s.fns := rfl
@[simp] theorem setSlot_qidOwner (s : State) (t : Nat) (k : Fin 4) (x : Slot) : (setSlot s t k x).qidOwner = s.qidOwner := rfl
@[simp] theorem setSlot_asidOwner (s : State) (t : Nat) (k : Fin 4) (x : Slot) : (setSlot s t k x).asidOwner = s.asidOwner := rfl
@[simp] theorem setSlot_tablePool (s : State) (t : Nat) (k : Fin 4) (x : Slot) : (setSlot s t k x).tablePool = s.tablePool := rfl
@[simp] theorem setSlot_queues (s : State) (t : Nat) (k : Fin 4) (x : Slot) : (setSlot s t k x).queues = s.queues := rfl
@[simp] theorem setSlot_pending (s : State) (t : Nat) (k : Fin 4) (x : Slot) : (setSlot s t k x).pending = s.pending := rfl
@[simp] theorem setSlot_slotQ (s : State) (t : Nat) (k : Fin 4) (x : Slot) : (setSlot s t k x).slotQ = s.slotQ := rfl
@[simp] theorem setSlot_claims (s : State) (t : Nat) (k : Fin 4) (x : Slot) : (setSlot s t k x).claims = s.claims := rfl
@[simp] theorem setSlot_launches (s : State) (t : Nat) (k : Fin 4) (x : Slot) : (setSlot s t k x).launches = s.launches := rfl
@[simp] theorem setSlot_links (s : State) (t : Nat) (k : Fin 4) (x : Slot) : (setSlot s t k x).links = s.links := rfl
@[simp] theorem setSlot_mem (s : State) (t : Nat) (k : Fin 4) (x : Slot) : (setSlot s t k x).mem = s.mem := rfl
@[simp] theorem setSlot_roots (s : State) (t : Nat) (k : Fin 4) (x : Slot) : (setSlot s t k x).roots = s.roots := rfl
@[simp] theorem setSlot_tcache (s : State) (t : Nat) (k : Fin 4) (x : Slot) : (setSlot s t k x).tcache = s.tcache := rfl
@[simp] theorem setSlot_shoots (s : State) (t : Nat) (k : Fin 4) (x : Slot) : (setSlot s t k x).shoots = s.shoots := rfl
@[simp] theorem setSlot_tiers (s : State) (t : Nat) (k : Fin 4) (x : Slot) : (setSlot s t k x).tiers = s.tiers := rfl
@[simp] theorem setSlot_recodes (s : State) (t : Nat) (k : Fin 4) (x : Slot) : (setSlot s t k x).recodes = s.recodes := rfl
@[simp] theorem setSlot_moves (s : State) (t : Nat) (k : Fin 4) (x : Slot) : (setSlot s t k x).moves = s.moves := rfl
@[simp] theorem setSlot_near (s : State) (t : Nat) (k : Fin 4) (x : Slot) : (setSlot s t k x).near = s.near := rfl
@[simp] theorem setSlot_lineRel (s : State) (t : Nat) (k : Fin 4) (x : Slot) : (setSlot s t k x).lineRel = s.lineRel := rfl
@[simp] theorem setSlot_badLines (s : State) (t : Nat) (k : Fin 4) (x : Slot) : (setSlot s t k x).badLines = s.badLines := rfl
@[simp] theorem setSlot_badMem (s : State) (t : Nat) (k : Fin 4) (x : Slot) : (setSlot s t k x).badMem = s.badMem := rfl
@[simp] theorem setSlot_reqs (s : State) (t : Nat) (k : Fin 4) (x : Slot) : (setSlot s t k x).reqs = s.reqs := rfl
@[simp] theorem setSlot_far (s : State) (t : Nat) (k : Fin 4) (x : Slot) : (setSlot s t k x).far = s.far := rfl
@[simp] theorem setSlot_asker (s : State) (t : Nat) (k : Fin 4) (x : Slot) : (setSlot s t k x).asker = s.asker := rfl
@[simp] theorem setSlot_copyLast (s : State) (t : Nat) (k : Fin 4) (x : Slot) : (setSlot s t k x).copyLast = s.copyLast := rfl
@[simp] theorem setSlot_track (s : State) (t : Nat) (k : Fin 4) (x : Slot) : (setSlot s t k x).track = s.track := rfl
@[simp] theorem setSlot_cmds (s : State) (t : Nat) (k : Fin 4) (x : Slot) : (setSlot s t k x).cmds = s.cmds := rfl
@[simp] theorem setSlot_groups (s : State) (t : Nat) (k : Fin 4) (x : Slot) : (setSlot s t k x).groups = s.groups := rfl
@[simp] theorem setSlot_net (s : State) (t : Nat) (k : Fin 4) (x : Slot) : (setSlot s t k x).net = s.net := rfl
@[simp] theorem setSlot_ovf (s : State) (t : Nat) (k : Fin 4) (x : Slot) : (setSlot s t k x).ovf = s.ovf := rfl
@[simp] theorem setSlot_ovfUsed (s : State) (t : Nat) (k : Fin 4) (x : Slot) : (setSlot s t k x).ovfUsed = s.ovfUsed := rfl
@[simp] theorem setSlot_ovfTurn (s : State) (t : Nat) (k : Fin 4) (x : Slot) : (setSlot s t k x).ovfTurn = s.ovfTurn := rfl
@[simp] theorem setSlot_ovfOn (s : State) (t : Nat) (k : Fin 4) (x : Slot) : (setSlot s t k x).ovfOn = s.ovfOn := rfl
@[simp] theorem setSlot_limbo (s : State) (t : Nat) (k : Fin 4) (x : Slot) : (setSlot s t k x).limbo = s.limbo := rfl
@[simp] theorem setSlot_sowers (s : State) (t : Nat) (k : Fin 4) (x : Slot) : (setSlot s t k x).sowers = s.sowers := rfl
@[simp] theorem setSlot_combs (s : State) (t : Nat) (k : Fin 4) (x : Slot) : (setSlot s t k x).combs = s.combs := rfl
@[simp] theorem setSlot_ckpt (s : State) (t : Nat) (k : Fin 4) (x : Slot) : (setSlot s t k x).ckpt = s.ckpt := rfl
@[simp] theorem setSlot_ckptImage (s : State) (t : Nat) (k : Fin 4) (x : Slot) : (setSlot s t k x).ckptImage = s.ckptImage := rfl
@[simp] theorem setSlot_cyc (s : State) (t : Nat) (k : Fin 4) (x : Slot) : (setSlot s t k x).cyc = s.cyc := rfl
@[simp] theorem setSlot_timers (s : State) (t : Nat) (k : Fin 4) (x : Slot) : (setSlot s t k x).timers = s.timers := rfl
@[simp] theorem setSlot_hostBusy (s : State) (t : Nat) (k : Fin 4) (x : Slot) : (setSlot s t k x).hostBusy = s.hostBusy := rfl
@[simp] theorem setSlot_outClock (s : State) (t : Nat) (k : Fin 4) (x : Slot) : (setSlot s t k x).outClock = s.outClock := rfl
@[simp] theorem setSlot_got (s : State) (t : Nat) (k : Fin 4) (x : Slot) : (setSlot s t k x).got = s.got := rfl

/-! ## `modSlot` -/

@[simp] theorem modSlot_time (s : State) (t : Nat) (k : Fin 4) (f : Slot → Slot) : (modSlot s t k f).time = s.time := rfl
@[simp] theorem modSlot_agenda (s : State) (t : Nat) (k : Fin 4) (f : Slot → Slot) : (modSlot s t k f).agenda = s.agenda := rfl
@[simp] theorem modSlot_focus (s : State) (t : Nat) (k : Fin 4) (f : Slot → Slot) : (modSlot s t k f).focus = s.focus := rfl
@[simp] theorem modSlot_freeCtr (s : State) (t : Nat) (k : Fin 4) (f : Slot → Slot) : (modSlot s t k f).freeCtr = s.freeCtr := rfl
@[simp] theorem modSlot_nextId (s : State) (t : Nat) (k : Fin 4) (f : Slot → Slot) : (modSlot s t k f).nextId = s.nextId := rfl
@[simp] theorem modSlot_boot (s : State) (t : Nat) (k : Fin 4) (f : Slot → Slot) : (modSlot s t k f).boot = s.boot := rfl
@[simp] theorem modSlot_clk (s : State) (t : Nat) (k : Fin 4) (f : Slot → Slot) : (modSlot s t k f).clk = s.clk := rfl
@[simp] theorem modSlot_params (s : State) (t : Nat) (k : Fin 4) (f : Slot → Slot) : (modSlot s t k f).params = s.params := rfl
@[simp] theorem modSlot_sens (s : State) (t : Nat) (k : Fin 4) (f : Slot → Slot) : (modSlot s t k f).sens = s.sens := rfl
@[simp] theorem modSlot_fns (s : State) (t : Nat) (k : Fin 4) (f : Slot → Slot) : (modSlot s t k f).fns = s.fns := rfl
@[simp] theorem modSlot_qidOwner (s : State) (t : Nat) (k : Fin 4) (f : Slot → Slot) : (modSlot s t k f).qidOwner = s.qidOwner := rfl
@[simp] theorem modSlot_asidOwner (s : State) (t : Nat) (k : Fin 4) (f : Slot → Slot) : (modSlot s t k f).asidOwner = s.asidOwner := rfl
@[simp] theorem modSlot_tablePool (s : State) (t : Nat) (k : Fin 4) (f : Slot → Slot) : (modSlot s t k f).tablePool = s.tablePool := rfl
@[simp] theorem modSlot_queues (s : State) (t : Nat) (k : Fin 4) (f : Slot → Slot) : (modSlot s t k f).queues = s.queues := rfl
@[simp] theorem modSlot_pending (s : State) (t : Nat) (k : Fin 4) (f : Slot → Slot) : (modSlot s t k f).pending = s.pending := rfl
@[simp] theorem modSlot_slotQ (s : State) (t : Nat) (k : Fin 4) (f : Slot → Slot) : (modSlot s t k f).slotQ = s.slotQ := rfl
@[simp] theorem modSlot_claims (s : State) (t : Nat) (k : Fin 4) (f : Slot → Slot) : (modSlot s t k f).claims = s.claims := rfl
@[simp] theorem modSlot_launches (s : State) (t : Nat) (k : Fin 4) (f : Slot → Slot) : (modSlot s t k f).launches = s.launches := rfl
@[simp] theorem modSlot_links (s : State) (t : Nat) (k : Fin 4) (f : Slot → Slot) : (modSlot s t k f).links = s.links := rfl
@[simp] theorem modSlot_mem (s : State) (t : Nat) (k : Fin 4) (f : Slot → Slot) : (modSlot s t k f).mem = s.mem := rfl
@[simp] theorem modSlot_roots (s : State) (t : Nat) (k : Fin 4) (f : Slot → Slot) : (modSlot s t k f).roots = s.roots := rfl
@[simp] theorem modSlot_tcache (s : State) (t : Nat) (k : Fin 4) (f : Slot → Slot) : (modSlot s t k f).tcache = s.tcache := rfl
@[simp] theorem modSlot_shoots (s : State) (t : Nat) (k : Fin 4) (f : Slot → Slot) : (modSlot s t k f).shoots = s.shoots := rfl
@[simp] theorem modSlot_tiers (s : State) (t : Nat) (k : Fin 4) (f : Slot → Slot) : (modSlot s t k f).tiers = s.tiers := rfl
@[simp] theorem modSlot_recodes (s : State) (t : Nat) (k : Fin 4) (f : Slot → Slot) : (modSlot s t k f).recodes = s.recodes := rfl
@[simp] theorem modSlot_moves (s : State) (t : Nat) (k : Fin 4) (f : Slot → Slot) : (modSlot s t k f).moves = s.moves := rfl
@[simp] theorem modSlot_near (s : State) (t : Nat) (k : Fin 4) (f : Slot → Slot) : (modSlot s t k f).near = s.near := rfl
@[simp] theorem modSlot_lineRel (s : State) (t : Nat) (k : Fin 4) (f : Slot → Slot) : (modSlot s t k f).lineRel = s.lineRel := rfl
@[simp] theorem modSlot_badLines (s : State) (t : Nat) (k : Fin 4) (f : Slot → Slot) : (modSlot s t k f).badLines = s.badLines := rfl
@[simp] theorem modSlot_badMem (s : State) (t : Nat) (k : Fin 4) (f : Slot → Slot) : (modSlot s t k f).badMem = s.badMem := rfl
@[simp] theorem modSlot_reqs (s : State) (t : Nat) (k : Fin 4) (f : Slot → Slot) : (modSlot s t k f).reqs = s.reqs := rfl
@[simp] theorem modSlot_far (s : State) (t : Nat) (k : Fin 4) (f : Slot → Slot) : (modSlot s t k f).far = s.far := rfl
@[simp] theorem modSlot_asker (s : State) (t : Nat) (k : Fin 4) (f : Slot → Slot) : (modSlot s t k f).asker = s.asker := rfl
@[simp] theorem modSlot_copyLast (s : State) (t : Nat) (k : Fin 4) (f : Slot → Slot) : (modSlot s t k f).copyLast = s.copyLast := rfl
@[simp] theorem modSlot_track (s : State) (t : Nat) (k : Fin 4) (f : Slot → Slot) : (modSlot s t k f).track = s.track := rfl
@[simp] theorem modSlot_cmds (s : State) (t : Nat) (k : Fin 4) (f : Slot → Slot) : (modSlot s t k f).cmds = s.cmds := rfl
@[simp] theorem modSlot_groups (s : State) (t : Nat) (k : Fin 4) (f : Slot → Slot) : (modSlot s t k f).groups = s.groups := rfl
@[simp] theorem modSlot_net (s : State) (t : Nat) (k : Fin 4) (f : Slot → Slot) : (modSlot s t k f).net = s.net := rfl
@[simp] theorem modSlot_ovf (s : State) (t : Nat) (k : Fin 4) (f : Slot → Slot) : (modSlot s t k f).ovf = s.ovf := rfl
@[simp] theorem modSlot_ovfUsed (s : State) (t : Nat) (k : Fin 4) (f : Slot → Slot) : (modSlot s t k f).ovfUsed = s.ovfUsed := rfl
@[simp] theorem modSlot_ovfTurn (s : State) (t : Nat) (k : Fin 4) (f : Slot → Slot) : (modSlot s t k f).ovfTurn = s.ovfTurn := rfl
@[simp] theorem modSlot_ovfOn (s : State) (t : Nat) (k : Fin 4) (f : Slot → Slot) : (modSlot s t k f).ovfOn = s.ovfOn := rfl
@[simp] theorem modSlot_limbo (s : State) (t : Nat) (k : Fin 4) (f : Slot → Slot) : (modSlot s t k f).limbo = s.limbo := rfl
@[simp] theorem modSlot_sowers (s : State) (t : Nat) (k : Fin 4) (f : Slot → Slot) : (modSlot s t k f).sowers = s.sowers := rfl
@[simp] theorem modSlot_combs (s : State) (t : Nat) (k : Fin 4) (f : Slot → Slot) : (modSlot s t k f).combs = s.combs := rfl
@[simp] theorem modSlot_ckpt (s : State) (t : Nat) (k : Fin 4) (f : Slot → Slot) : (modSlot s t k f).ckpt = s.ckpt := rfl
@[simp] theorem modSlot_ckptImage (s : State) (t : Nat) (k : Fin 4) (f : Slot → Slot) : (modSlot s t k f).ckptImage = s.ckptImage := rfl
@[simp] theorem modSlot_cyc (s : State) (t : Nat) (k : Fin 4) (f : Slot → Slot) : (modSlot s t k f).cyc = s.cyc := rfl
@[simp] theorem modSlot_timers (s : State) (t : Nat) (k : Fin 4) (f : Slot → Slot) : (modSlot s t k f).timers = s.timers := rfl
@[simp] theorem modSlot_hostBusy (s : State) (t : Nat) (k : Fin 4) (f : Slot → Slot) : (modSlot s t k f).hostBusy = s.hostBusy := rfl
@[simp] theorem modSlot_outClock (s : State) (t : Nat) (k : Fin 4) (f : Slot → Slot) : (modSlot s t k f).outClock = s.outClock := rfl
@[simp] theorem modSlot_got (s : State) (t : Nat) (k : Fin 4) (f : Slot → Slot) : (modSlot s t k f).got = s.got := rfl

/-! ## `setLaunch` -/

@[simp] theorem setLaunch_time (s : State) (h : Nat) (x : Launch) : (setLaunch s h x).time = s.time := rfl
@[simp] theorem setLaunch_agenda (s : State) (h : Nat) (x : Launch) : (setLaunch s h x).agenda = s.agenda := rfl
@[simp] theorem setLaunch_focus (s : State) (h : Nat) (x : Launch) : (setLaunch s h x).focus = s.focus := rfl
@[simp] theorem setLaunch_freeCtr (s : State) (h : Nat) (x : Launch) : (setLaunch s h x).freeCtr = s.freeCtr := rfl
@[simp] theorem setLaunch_nextId (s : State) (h : Nat) (x : Launch) : (setLaunch s h x).nextId = s.nextId := rfl
@[simp] theorem setLaunch_boot (s : State) (h : Nat) (x : Launch) : (setLaunch s h x).boot = s.boot := rfl
@[simp] theorem setLaunch_clk (s : State) (h : Nat) (x : Launch) : (setLaunch s h x).clk = s.clk := rfl
@[simp] theorem setLaunch_params (s : State) (h : Nat) (x : Launch) : (setLaunch s h x).params = s.params := rfl
@[simp] theorem setLaunch_sens (s : State) (h : Nat) (x : Launch) : (setLaunch s h x).sens = s.sens := rfl
@[simp] theorem setLaunch_fns (s : State) (h : Nat) (x : Launch) : (setLaunch s h x).fns = s.fns := rfl
@[simp] theorem setLaunch_qidOwner (s : State) (h : Nat) (x : Launch) : (setLaunch s h x).qidOwner = s.qidOwner := rfl
@[simp] theorem setLaunch_asidOwner (s : State) (h : Nat) (x : Launch) : (setLaunch s h x).asidOwner = s.asidOwner := rfl
@[simp] theorem setLaunch_tablePool (s : State) (h : Nat) (x : Launch) : (setLaunch s h x).tablePool = s.tablePool := rfl
@[simp] theorem setLaunch_queues (s : State) (h : Nat) (x : Launch) : (setLaunch s h x).queues = s.queues := rfl
@[simp] theorem setLaunch_pending (s : State) (h : Nat) (x : Launch) : (setLaunch s h x).pending = s.pending := rfl
@[simp] theorem setLaunch_slotQ (s : State) (h : Nat) (x : Launch) : (setLaunch s h x).slotQ = s.slotQ := rfl
@[simp] theorem setLaunch_claims (s : State) (h : Nat) (x : Launch) : (setLaunch s h x).claims = s.claims := rfl
@[simp] theorem setLaunch_links (s : State) (h : Nat) (x : Launch) : (setLaunch s h x).links = s.links := rfl
@[simp] theorem setLaunch_mem (s : State) (h : Nat) (x : Launch) : (setLaunch s h x).mem = s.mem := rfl
@[simp] theorem setLaunch_roots (s : State) (h : Nat) (x : Launch) : (setLaunch s h x).roots = s.roots := rfl
@[simp] theorem setLaunch_tcache (s : State) (h : Nat) (x : Launch) : (setLaunch s h x).tcache = s.tcache := rfl
@[simp] theorem setLaunch_shoots (s : State) (h : Nat) (x : Launch) : (setLaunch s h x).shoots = s.shoots := rfl
@[simp] theorem setLaunch_tiers (s : State) (h : Nat) (x : Launch) : (setLaunch s h x).tiers = s.tiers := rfl
@[simp] theorem setLaunch_recodes (s : State) (h : Nat) (x : Launch) : (setLaunch s h x).recodes = s.recodes := rfl
@[simp] theorem setLaunch_moves (s : State) (h : Nat) (x : Launch) : (setLaunch s h x).moves = s.moves := rfl
@[simp] theorem setLaunch_near (s : State) (h : Nat) (x : Launch) : (setLaunch s h x).near = s.near := rfl
@[simp] theorem setLaunch_lineRel (s : State) (h : Nat) (x : Launch) : (setLaunch s h x).lineRel = s.lineRel := rfl
@[simp] theorem setLaunch_badLines (s : State) (h : Nat) (x : Launch) : (setLaunch s h x).badLines = s.badLines := rfl
@[simp] theorem setLaunch_badMem (s : State) (h : Nat) (x : Launch) : (setLaunch s h x).badMem = s.badMem := rfl
@[simp] theorem setLaunch_reqs (s : State) (h : Nat) (x : Launch) : (setLaunch s h x).reqs = s.reqs := rfl
@[simp] theorem setLaunch_far (s : State) (h : Nat) (x : Launch) : (setLaunch s h x).far = s.far := rfl
@[simp] theorem setLaunch_asker (s : State) (h : Nat) (x : Launch) : (setLaunch s h x).asker = s.asker := rfl
@[simp] theorem setLaunch_copyLast (s : State) (h : Nat) (x : Launch) : (setLaunch s h x).copyLast = s.copyLast := rfl
@[simp] theorem setLaunch_track (s : State) (h : Nat) (x : Launch) : (setLaunch s h x).track = s.track := rfl
@[simp] theorem setLaunch_cmds (s : State) (h : Nat) (x : Launch) : (setLaunch s h x).cmds = s.cmds := rfl
@[simp] theorem setLaunch_groups (s : State) (h : Nat) (x : Launch) : (setLaunch s h x).groups = s.groups := rfl
@[simp] theorem setLaunch_net (s : State) (h : Nat) (x : Launch) : (setLaunch s h x).net = s.net := rfl
@[simp] theorem setLaunch_ovf (s : State) (h : Nat) (x : Launch) : (setLaunch s h x).ovf = s.ovf := rfl
@[simp] theorem setLaunch_ovfUsed (s : State) (h : Nat) (x : Launch) : (setLaunch s h x).ovfUsed = s.ovfUsed := rfl
@[simp] theorem setLaunch_ovfTurn (s : State) (h : Nat) (x : Launch) : (setLaunch s h x).ovfTurn = s.ovfTurn := rfl
@[simp] theorem setLaunch_ovfOn (s : State) (h : Nat) (x : Launch) : (setLaunch s h x).ovfOn = s.ovfOn := rfl
@[simp] theorem setLaunch_limbo (s : State) (h : Nat) (x : Launch) : (setLaunch s h x).limbo = s.limbo := rfl
@[simp] theorem setLaunch_tiles (s : State) (h : Nat) (x : Launch) : (setLaunch s h x).tiles = s.tiles := rfl
@[simp] theorem setLaunch_sowers (s : State) (h : Nat) (x : Launch) : (setLaunch s h x).sowers = s.sowers := rfl
@[simp] theorem setLaunch_combs (s : State) (h : Nat) (x : Launch) : (setLaunch s h x).combs = s.combs := rfl
@[simp] theorem setLaunch_ckpt (s : State) (h : Nat) (x : Launch) : (setLaunch s h x).ckpt = s.ckpt := rfl
@[simp] theorem setLaunch_ckptImage (s : State) (h : Nat) (x : Launch) : (setLaunch s h x).ckptImage = s.ckptImage := rfl
@[simp] theorem setLaunch_cyc (s : State) (h : Nat) (x : Launch) : (setLaunch s h x).cyc = s.cyc := rfl
@[simp] theorem setLaunch_timers (s : State) (h : Nat) (x : Launch) : (setLaunch s h x).timers = s.timers := rfl
@[simp] theorem setLaunch_hostBusy (s : State) (h : Nat) (x : Launch) : (setLaunch s h x).hostBusy = s.hostBusy := rfl
@[simp] theorem setLaunch_outClock (s : State) (h : Nat) (x : Launch) : (setLaunch s h x).outClock = s.outClock := rfl
@[simp] theorem setLaunch_got (s : State) (h : Nat) (x : Launch) : (setLaunch s h x).got = s.got := rfl

/-! ## `modLaunch` -/

@[simp] theorem modLaunch_time (s : State) (h : Nat) (f : Launch → Launch) : (modLaunch s h f).time = s.time := rfl
@[simp] theorem modLaunch_agenda (s : State) (h : Nat) (f : Launch → Launch) : (modLaunch s h f).agenda = s.agenda := rfl
@[simp] theorem modLaunch_focus (s : State) (h : Nat) (f : Launch → Launch) : (modLaunch s h f).focus = s.focus := rfl
@[simp] theorem modLaunch_freeCtr (s : State) (h : Nat) (f : Launch → Launch) : (modLaunch s h f).freeCtr = s.freeCtr := rfl
@[simp] theorem modLaunch_nextId (s : State) (h : Nat) (f : Launch → Launch) : (modLaunch s h f).nextId = s.nextId := rfl
@[simp] theorem modLaunch_boot (s : State) (h : Nat) (f : Launch → Launch) : (modLaunch s h f).boot = s.boot := rfl
@[simp] theorem modLaunch_clk (s : State) (h : Nat) (f : Launch → Launch) : (modLaunch s h f).clk = s.clk := rfl
@[simp] theorem modLaunch_params (s : State) (h : Nat) (f : Launch → Launch) : (modLaunch s h f).params = s.params := rfl
@[simp] theorem modLaunch_sens (s : State) (h : Nat) (f : Launch → Launch) : (modLaunch s h f).sens = s.sens := rfl
@[simp] theorem modLaunch_fns (s : State) (h : Nat) (f : Launch → Launch) : (modLaunch s h f).fns = s.fns := rfl
@[simp] theorem modLaunch_qidOwner (s : State) (h : Nat) (f : Launch → Launch) : (modLaunch s h f).qidOwner = s.qidOwner := rfl
@[simp] theorem modLaunch_asidOwner (s : State) (h : Nat) (f : Launch → Launch) : (modLaunch s h f).asidOwner = s.asidOwner := rfl
@[simp] theorem modLaunch_tablePool (s : State) (h : Nat) (f : Launch → Launch) : (modLaunch s h f).tablePool = s.tablePool := rfl
@[simp] theorem modLaunch_queues (s : State) (h : Nat) (f : Launch → Launch) : (modLaunch s h f).queues = s.queues := rfl
@[simp] theorem modLaunch_pending (s : State) (h : Nat) (f : Launch → Launch) : (modLaunch s h f).pending = s.pending := rfl
@[simp] theorem modLaunch_slotQ (s : State) (h : Nat) (f : Launch → Launch) : (modLaunch s h f).slotQ = s.slotQ := rfl
@[simp] theorem modLaunch_claims (s : State) (h : Nat) (f : Launch → Launch) : (modLaunch s h f).claims = s.claims := rfl
@[simp] theorem modLaunch_links (s : State) (h : Nat) (f : Launch → Launch) : (modLaunch s h f).links = s.links := rfl
@[simp] theorem modLaunch_mem (s : State) (h : Nat) (f : Launch → Launch) : (modLaunch s h f).mem = s.mem := rfl
@[simp] theorem modLaunch_roots (s : State) (h : Nat) (f : Launch → Launch) : (modLaunch s h f).roots = s.roots := rfl
@[simp] theorem modLaunch_tcache (s : State) (h : Nat) (f : Launch → Launch) : (modLaunch s h f).tcache = s.tcache := rfl
@[simp] theorem modLaunch_shoots (s : State) (h : Nat) (f : Launch → Launch) : (modLaunch s h f).shoots = s.shoots := rfl
@[simp] theorem modLaunch_tiers (s : State) (h : Nat) (f : Launch → Launch) : (modLaunch s h f).tiers = s.tiers := rfl
@[simp] theorem modLaunch_recodes (s : State) (h : Nat) (f : Launch → Launch) : (modLaunch s h f).recodes = s.recodes := rfl
@[simp] theorem modLaunch_moves (s : State) (h : Nat) (f : Launch → Launch) : (modLaunch s h f).moves = s.moves := rfl
@[simp] theorem modLaunch_near (s : State) (h : Nat) (f : Launch → Launch) : (modLaunch s h f).near = s.near := rfl
@[simp] theorem modLaunch_lineRel (s : State) (h : Nat) (f : Launch → Launch) : (modLaunch s h f).lineRel = s.lineRel := rfl
@[simp] theorem modLaunch_badLines (s : State) (h : Nat) (f : Launch → Launch) : (modLaunch s h f).badLines = s.badLines := rfl
@[simp] theorem modLaunch_badMem (s : State) (h : Nat) (f : Launch → Launch) : (modLaunch s h f).badMem = s.badMem := rfl
@[simp] theorem modLaunch_reqs (s : State) (h : Nat) (f : Launch → Launch) : (modLaunch s h f).reqs = s.reqs := rfl
@[simp] theorem modLaunch_far (s : State) (h : Nat) (f : Launch → Launch) : (modLaunch s h f).far = s.far := rfl
@[simp] theorem modLaunch_asker (s : State) (h : Nat) (f : Launch → Launch) : (modLaunch s h f).asker = s.asker := rfl
@[simp] theorem modLaunch_copyLast (s : State) (h : Nat) (f : Launch → Launch) : (modLaunch s h f).copyLast = s.copyLast := rfl
@[simp] theorem modLaunch_track (s : State) (h : Nat) (f : Launch → Launch) : (modLaunch s h f).track = s.track := rfl
@[simp] theorem modLaunch_cmds (s : State) (h : Nat) (f : Launch → Launch) : (modLaunch s h f).cmds = s.cmds := rfl
@[simp] theorem modLaunch_groups (s : State) (h : Nat) (f : Launch → Launch) : (modLaunch s h f).groups = s.groups := rfl
@[simp] theorem modLaunch_net (s : State) (h : Nat) (f : Launch → Launch) : (modLaunch s h f).net = s.net := rfl
@[simp] theorem modLaunch_ovf (s : State) (h : Nat) (f : Launch → Launch) : (modLaunch s h f).ovf = s.ovf := rfl
@[simp] theorem modLaunch_ovfUsed (s : State) (h : Nat) (f : Launch → Launch) : (modLaunch s h f).ovfUsed = s.ovfUsed := rfl
@[simp] theorem modLaunch_ovfTurn (s : State) (h : Nat) (f : Launch → Launch) : (modLaunch s h f).ovfTurn = s.ovfTurn := rfl
@[simp] theorem modLaunch_ovfOn (s : State) (h : Nat) (f : Launch → Launch) : (modLaunch s h f).ovfOn = s.ovfOn := rfl
@[simp] theorem modLaunch_limbo (s : State) (h : Nat) (f : Launch → Launch) : (modLaunch s h f).limbo = s.limbo := rfl
@[simp] theorem modLaunch_tiles (s : State) (h : Nat) (f : Launch → Launch) : (modLaunch s h f).tiles = s.tiles := rfl
@[simp] theorem modLaunch_sowers (s : State) (h : Nat) (f : Launch → Launch) : (modLaunch s h f).sowers = s.sowers := rfl
@[simp] theorem modLaunch_combs (s : State) (h : Nat) (f : Launch → Launch) : (modLaunch s h f).combs = s.combs := rfl
@[simp] theorem modLaunch_ckpt (s : State) (h : Nat) (f : Launch → Launch) : (modLaunch s h f).ckpt = s.ckpt := rfl
@[simp] theorem modLaunch_ckptImage (s : State) (h : Nat) (f : Launch → Launch) : (modLaunch s h f).ckptImage = s.ckptImage := rfl
@[simp] theorem modLaunch_cyc (s : State) (h : Nat) (f : Launch → Launch) : (modLaunch s h f).cyc = s.cyc := rfl
@[simp] theorem modLaunch_timers (s : State) (h : Nat) (f : Launch → Launch) : (modLaunch s h f).timers = s.timers := rfl
@[simp] theorem modLaunch_hostBusy (s : State) (h : Nat) (f : Launch → Launch) : (modLaunch s h f).hostBusy = s.hostBusy := rfl
@[simp] theorem modLaunch_outClock (s : State) (h : Nat) (f : Launch → Launch) : (modLaunch s h f).outClock = s.outClock := rfl
@[simp] theorem modLaunch_got (s : State) (h : Nat) (f : Launch → Launch) : (modLaunch s h f).got = s.got := rfl

/-! ## `setQueue` -/

@[simp] theorem setQueue_queues (s : State) (q : Nat) (x : Queue) : (setQueue s q x).queues = aput s.queues q x := rfl
@[simp] theorem setQueue_time (s : State) (q : Nat) (x : Queue) : (setQueue s q x).time = s.time := rfl
@[simp] theorem setQueue_agenda (s : State) (q : Nat) (x : Queue) : (setQueue s q x).agenda = s.agenda := rfl
@[simp] theorem setQueue_focus (s : State) (q : Nat) (x : Queue) : (setQueue s q x).focus = s.focus := rfl
@[simp] theorem setQueue_freeCtr (s : State) (q : Nat) (x : Queue) : (setQueue s q x).freeCtr = s.freeCtr := rfl
@[simp] theorem setQueue_nextId (s : State) (q : Nat) (x : Queue) : (setQueue s q x).nextId = s.nextId := rfl
@[simp] theorem setQueue_boot (s : State) (q : Nat) (x : Queue) : (setQueue s q x).boot = s.boot := rfl
@[simp] theorem setQueue_clk (s : State) (q : Nat) (x : Queue) : (setQueue s q x).clk = s.clk := rfl
@[simp] theorem setQueue_params (s : State) (q : Nat) (x : Queue) : (setQueue s q x).params = s.params := rfl
@[simp] theorem setQueue_sens (s : State) (q : Nat) (x : Queue) : (setQueue s q x).sens = s.sens := rfl
@[simp] theorem setQueue_fns (s : State) (q : Nat) (x : Queue) : (setQueue s q x).fns = s.fns := rfl
@[simp] theorem setQueue_qidOwner (s : State) (q : Nat) (x : Queue) : (setQueue s q x).qidOwner = s.qidOwner := rfl
@[simp] theorem setQueue_asidOwner (s : State) (q : Nat) (x : Queue) : (setQueue s q x).asidOwner = s.asidOwner := rfl
@[simp] theorem setQueue_tablePool (s : State) (q : Nat) (x : Queue) : (setQueue s q x).tablePool = s.tablePool := rfl
@[simp] theorem setQueue_pending (s : State) (q : Nat) (x : Queue) : (setQueue s q x).pending = s.pending := rfl
@[simp] theorem setQueue_slotQ (s : State) (q : Nat) (x : Queue) : (setQueue s q x).slotQ = s.slotQ := rfl
@[simp] theorem setQueue_claims (s : State) (q : Nat) (x : Queue) : (setQueue s q x).claims = s.claims := rfl
@[simp] theorem setQueue_launches (s : State) (q : Nat) (x : Queue) : (setQueue s q x).launches = s.launches := rfl
@[simp] theorem setQueue_links (s : State) (q : Nat) (x : Queue) : (setQueue s q x).links = s.links := rfl
@[simp] theorem setQueue_mem (s : State) (q : Nat) (x : Queue) (h : x.slot.isSome) : (setQueue s q x).mem = s.mem := by
  cases e : x.slot <;> simp_all [setQueue, qcbMem]
@[simp] theorem setQueue_roots (s : State) (q : Nat) (x : Queue) : (setQueue s q x).roots = s.roots := rfl
@[simp] theorem setQueue_tcache (s : State) (q : Nat) (x : Queue) : (setQueue s q x).tcache = s.tcache := rfl
@[simp] theorem setQueue_shoots (s : State) (q : Nat) (x : Queue) : (setQueue s q x).shoots = s.shoots := rfl
@[simp] theorem setQueue_tiers (s : State) (q : Nat) (x : Queue) : (setQueue s q x).tiers = s.tiers := rfl
@[simp] theorem setQueue_recodes (s : State) (q : Nat) (x : Queue) : (setQueue s q x).recodes = s.recodes := rfl
@[simp] theorem setQueue_moves (s : State) (q : Nat) (x : Queue) : (setQueue s q x).moves = s.moves := rfl
@[simp] theorem setQueue_near (s : State) (q : Nat) (x : Queue) : (setQueue s q x).near = s.near := rfl
@[simp] theorem setQueue_lineRel (s : State) (q : Nat) (x : Queue) : (setQueue s q x).lineRel = s.lineRel := rfl
@[simp] theorem setQueue_badLines (s : State) (q : Nat) (x : Queue) : (setQueue s q x).badLines = s.badLines := rfl
@[simp] theorem setQueue_badMem (s : State) (q : Nat) (x : Queue) : (setQueue s q x).badMem = s.badMem := rfl
@[simp] theorem setQueue_reqs (s : State) (q : Nat) (x : Queue) : (setQueue s q x).reqs = s.reqs := rfl
@[simp] theorem setQueue_far (s : State) (q : Nat) (x : Queue) : (setQueue s q x).far = s.far := rfl
@[simp] theorem setQueue_asker (s : State) (q : Nat) (x : Queue) : (setQueue s q x).asker = s.asker := rfl
@[simp] theorem setQueue_copyLast (s : State) (q : Nat) (x : Queue) : (setQueue s q x).copyLast = s.copyLast := rfl
@[simp] theorem setQueue_track (s : State) (q : Nat) (x : Queue) : (setQueue s q x).track = s.track := rfl
@[simp] theorem setQueue_cmds (s : State) (q : Nat) (x : Queue) : (setQueue s q x).cmds = s.cmds := rfl
@[simp] theorem setQueue_groups (s : State) (q : Nat) (x : Queue) : (setQueue s q x).groups = s.groups := rfl
@[simp] theorem setQueue_net (s : State) (q : Nat) (x : Queue) : (setQueue s q x).net = s.net := rfl
@[simp] theorem setQueue_ovf (s : State) (q : Nat) (x : Queue) : (setQueue s q x).ovf = s.ovf := rfl
@[simp] theorem setQueue_ovfUsed (s : State) (q : Nat) (x : Queue) : (setQueue s q x).ovfUsed = s.ovfUsed := rfl
@[simp] theorem setQueue_ovfTurn (s : State) (q : Nat) (x : Queue) : (setQueue s q x).ovfTurn = s.ovfTurn := rfl
@[simp] theorem setQueue_ovfOn (s : State) (q : Nat) (x : Queue) : (setQueue s q x).ovfOn = s.ovfOn := rfl
@[simp] theorem setQueue_limbo (s : State) (q : Nat) (x : Queue) : (setQueue s q x).limbo = s.limbo := rfl
@[simp] theorem setQueue_tiles (s : State) (q : Nat) (x : Queue) : (setQueue s q x).tiles = s.tiles := rfl
@[simp] theorem setQueue_sowers (s : State) (q : Nat) (x : Queue) : (setQueue s q x).sowers = s.sowers := rfl
@[simp] theorem setQueue_combs (s : State) (q : Nat) (x : Queue) : (setQueue s q x).combs = s.combs := rfl
@[simp] theorem setQueue_ckpt (s : State) (q : Nat) (x : Queue) : (setQueue s q x).ckpt = s.ckpt := rfl
@[simp] theorem setQueue_ckptImage (s : State) (q : Nat) (x : Queue) : (setQueue s q x).ckptImage = s.ckptImage := rfl
@[simp] theorem setQueue_cyc (s : State) (q : Nat) (x : Queue) : (setQueue s q x).cyc = s.cyc := rfl
@[simp] theorem setQueue_timers (s : State) (q : Nat) (x : Queue) : (setQueue s q x).timers = s.timers := rfl
@[simp] theorem setQueue_hostBusy (s : State) (q : Nat) (x : Queue) : (setQueue s q x).hostBusy = s.hostBusy := rfl
@[simp] theorem setQueue_outClock (s : State) (q : Nat) (x : Queue) : (setQueue s q x).outClock = s.outClock := rfl
@[simp] theorem setQueue_got (s : State) (q : Nat) (x : Queue) : (setQueue s q x).got = s.got := rfl

/-! ## `modQueue` -/

@[simp] theorem modQueue_time (s : State) (q : Nat) (f : Queue → Queue) : (modQueue s q f).time = s.time := by unfold modQueue; split <;> simp
@[simp] theorem modQueue_agenda (s : State) (q : Nat) (f : Queue → Queue) : (modQueue s q f).agenda = s.agenda := by unfold modQueue; split <;> simp
@[simp] theorem modQueue_focus (s : State) (q : Nat) (f : Queue → Queue) : (modQueue s q f).focus = s.focus := by unfold modQueue; split <;> simp
@[simp] theorem modQueue_freeCtr (s : State) (q : Nat) (f : Queue → Queue) : (modQueue s q f).freeCtr = s.freeCtr := by unfold modQueue; split <;> simp
@[simp] theorem modQueue_nextId (s : State) (q : Nat) (f : Queue → Queue) : (modQueue s q f).nextId = s.nextId := by unfold modQueue; split <;> simp
@[simp] theorem modQueue_boot (s : State) (q : Nat) (f : Queue → Queue) : (modQueue s q f).boot = s.boot := by unfold modQueue; split <;> simp
@[simp] theorem modQueue_clk (s : State) (q : Nat) (f : Queue → Queue) : (modQueue s q f).clk = s.clk := by unfold modQueue; split <;> simp
@[simp] theorem modQueue_params (s : State) (q : Nat) (f : Queue → Queue) : (modQueue s q f).params = s.params := by unfold modQueue; split <;> simp
@[simp] theorem modQueue_sens (s : State) (q : Nat) (f : Queue → Queue) : (modQueue s q f).sens = s.sens := by unfold modQueue; split <;> simp
@[simp] theorem modQueue_fns (s : State) (q : Nat) (f : Queue → Queue) : (modQueue s q f).fns = s.fns := by unfold modQueue; split <;> simp
@[simp] theorem modQueue_qidOwner (s : State) (q : Nat) (f : Queue → Queue) : (modQueue s q f).qidOwner = s.qidOwner := by unfold modQueue; split <;> simp
@[simp] theorem modQueue_asidOwner (s : State) (q : Nat) (f : Queue → Queue) : (modQueue s q f).asidOwner = s.asidOwner := by unfold modQueue; split <;> simp
@[simp] theorem modQueue_tablePool (s : State) (q : Nat) (f : Queue → Queue) : (modQueue s q f).tablePool = s.tablePool := by unfold modQueue; split <;> simp
@[simp] theorem modQueue_pending (s : State) (q : Nat) (f : Queue → Queue) : (modQueue s q f).pending = s.pending := by unfold modQueue; split <;> simp
@[simp] theorem modQueue_slotQ (s : State) (q : Nat) (f : Queue → Queue) : (modQueue s q f).slotQ = s.slotQ := by unfold modQueue; split <;> simp
@[simp] theorem modQueue_claims (s : State) (q : Nat) (f : Queue → Queue) : (modQueue s q f).claims = s.claims := by unfold modQueue; split <;> simp
@[simp] theorem modQueue_launches (s : State) (q : Nat) (f : Queue → Queue) : (modQueue s q f).launches = s.launches := by unfold modQueue; split <;> simp
@[simp] theorem modQueue_links (s : State) (q : Nat) (f : Queue → Queue) : (modQueue s q f).links = s.links := by unfold modQueue; split <;> simp
@[simp] theorem modQueue_roots (s : State) (q : Nat) (f : Queue → Queue) : (modQueue s q f).roots = s.roots := by unfold modQueue; split <;> simp
@[simp] theorem modQueue_tcache (s : State) (q : Nat) (f : Queue → Queue) : (modQueue s q f).tcache = s.tcache := by unfold modQueue; split <;> simp
@[simp] theorem modQueue_shoots (s : State) (q : Nat) (f : Queue → Queue) : (modQueue s q f).shoots = s.shoots := by unfold modQueue; split <;> simp
@[simp] theorem modQueue_tiers (s : State) (q : Nat) (f : Queue → Queue) : (modQueue s q f).tiers = s.tiers := by unfold modQueue; split <;> simp
@[simp] theorem modQueue_recodes (s : State) (q : Nat) (f : Queue → Queue) : (modQueue s q f).recodes = s.recodes := by unfold modQueue; split <;> simp
@[simp] theorem modQueue_moves (s : State) (q : Nat) (f : Queue → Queue) : (modQueue s q f).moves = s.moves := by unfold modQueue; split <;> simp
@[simp] theorem modQueue_near (s : State) (q : Nat) (f : Queue → Queue) : (modQueue s q f).near = s.near := by unfold modQueue; split <;> simp
@[simp] theorem modQueue_lineRel (s : State) (q : Nat) (f : Queue → Queue) : (modQueue s q f).lineRel = s.lineRel := by unfold modQueue; split <;> simp
@[simp] theorem modQueue_badLines (s : State) (q : Nat) (f : Queue → Queue) : (modQueue s q f).badLines = s.badLines := by unfold modQueue; split <;> simp
@[simp] theorem modQueue_badMem (s : State) (q : Nat) (f : Queue → Queue) : (modQueue s q f).badMem = s.badMem := by unfold modQueue; split <;> simp
@[simp] theorem modQueue_reqs (s : State) (q : Nat) (f : Queue → Queue) : (modQueue s q f).reqs = s.reqs := by unfold modQueue; split <;> simp
@[simp] theorem modQueue_far (s : State) (q : Nat) (f : Queue → Queue) : (modQueue s q f).far = s.far := by unfold modQueue; split <;> simp
@[simp] theorem modQueue_asker (s : State) (q : Nat) (f : Queue → Queue) : (modQueue s q f).asker = s.asker := by unfold modQueue; split <;> simp
@[simp] theorem modQueue_copyLast (s : State) (q : Nat) (f : Queue → Queue) : (modQueue s q f).copyLast = s.copyLast := by unfold modQueue; split <;> simp
@[simp] theorem modQueue_track (s : State) (q : Nat) (f : Queue → Queue) : (modQueue s q f).track = s.track := by unfold modQueue; split <;> simp
@[simp] theorem modQueue_cmds (s : State) (q : Nat) (f : Queue → Queue) : (modQueue s q f).cmds = s.cmds := by unfold modQueue; split <;> simp
@[simp] theorem modQueue_groups (s : State) (q : Nat) (f : Queue → Queue) : (modQueue s q f).groups = s.groups := by unfold modQueue; split <;> simp
@[simp] theorem modQueue_net (s : State) (q : Nat) (f : Queue → Queue) : (modQueue s q f).net = s.net := by unfold modQueue; split <;> simp
@[simp] theorem modQueue_ovf (s : State) (q : Nat) (f : Queue → Queue) : (modQueue s q f).ovf = s.ovf := by unfold modQueue; split <;> simp
@[simp] theorem modQueue_ovfUsed (s : State) (q : Nat) (f : Queue → Queue) : (modQueue s q f).ovfUsed = s.ovfUsed := by unfold modQueue; split <;> simp
@[simp] theorem modQueue_ovfTurn (s : State) (q : Nat) (f : Queue → Queue) : (modQueue s q f).ovfTurn = s.ovfTurn := by unfold modQueue; split <;> simp
@[simp] theorem modQueue_ovfOn (s : State) (q : Nat) (f : Queue → Queue) : (modQueue s q f).ovfOn = s.ovfOn := by unfold modQueue; split <;> simp
@[simp] theorem modQueue_limbo (s : State) (q : Nat) (f : Queue → Queue) : (modQueue s q f).limbo = s.limbo := by unfold modQueue; split <;> simp
@[simp] theorem modQueue_tiles (s : State) (q : Nat) (f : Queue → Queue) : (modQueue s q f).tiles = s.tiles := by unfold modQueue; split <;> simp
@[simp] theorem modQueue_sowers (s : State) (q : Nat) (f : Queue → Queue) : (modQueue s q f).sowers = s.sowers := by unfold modQueue; split <;> simp
@[simp] theorem modQueue_combs (s : State) (q : Nat) (f : Queue → Queue) : (modQueue s q f).combs = s.combs := by unfold modQueue; split <;> simp
@[simp] theorem modQueue_ckpt (s : State) (q : Nat) (f : Queue → Queue) : (modQueue s q f).ckpt = s.ckpt := by unfold modQueue; split <;> simp
@[simp] theorem modQueue_ckptImage (s : State) (q : Nat) (f : Queue → Queue) : (modQueue s q f).ckptImage = s.ckptImage := by unfold modQueue; split <;> simp
@[simp] theorem modQueue_cyc (s : State) (q : Nat) (f : Queue → Queue) : (modQueue s q f).cyc = s.cyc := by unfold modQueue; split <;> simp
@[simp] theorem modQueue_timers (s : State) (q : Nat) (f : Queue → Queue) : (modQueue s q f).timers = s.timers := by unfold modQueue; split <;> simp
@[simp] theorem modQueue_hostBusy (s : State) (q : Nat) (f : Queue → Queue) : (modQueue s q f).hostBusy = s.hostBusy := by unfold modQueue; split <;> simp
@[simp] theorem modQueue_outClock (s : State) (q : Nat) (f : Queue → Queue) : (modQueue s q f).outClock = s.outClock := by unfold modQueue; split <;> simp
@[simp] theorem modQueue_got (s : State) (q : Nat) (f : Queue → Queue) : (modQueue s q f).got = s.got := by unfold modQueue; split <;> simp

/-! ## `modFn` -/

@[simp] theorem modFn_time (s : State) (f : Nat) (g : Fn → Fn) : (modFn s f g).time = s.time := rfl
@[simp] theorem modFn_agenda (s : State) (f : Nat) (g : Fn → Fn) : (modFn s f g).agenda = s.agenda := rfl
@[simp] theorem modFn_focus (s : State) (f : Nat) (g : Fn → Fn) : (modFn s f g).focus = s.focus := rfl
@[simp] theorem modFn_freeCtr (s : State) (f : Nat) (g : Fn → Fn) : (modFn s f g).freeCtr = s.freeCtr := rfl
@[simp] theorem modFn_nextId (s : State) (f : Nat) (g : Fn → Fn) : (modFn s f g).nextId = s.nextId := rfl
@[simp] theorem modFn_boot (s : State) (f : Nat) (g : Fn → Fn) : (modFn s f g).boot = s.boot := rfl
@[simp] theorem modFn_clk (s : State) (f : Nat) (g : Fn → Fn) : (modFn s f g).clk = s.clk := rfl
@[simp] theorem modFn_params (s : State) (f : Nat) (g : Fn → Fn) : (modFn s f g).params = s.params := rfl
@[simp] theorem modFn_sens (s : State) (f : Nat) (g : Fn → Fn) : (modFn s f g).sens = s.sens := rfl
@[simp] theorem modFn_qidOwner (s : State) (f : Nat) (g : Fn → Fn) : (modFn s f g).qidOwner = s.qidOwner := rfl
@[simp] theorem modFn_asidOwner (s : State) (f : Nat) (g : Fn → Fn) : (modFn s f g).asidOwner = s.asidOwner := rfl
@[simp] theorem modFn_tablePool (s : State) (f : Nat) (g : Fn → Fn) : (modFn s f g).tablePool = s.tablePool := rfl
@[simp] theorem modFn_queues (s : State) (f : Nat) (g : Fn → Fn) : (modFn s f g).queues = s.queues := rfl
@[simp] theorem modFn_pending (s : State) (f : Nat) (g : Fn → Fn) : (modFn s f g).pending = s.pending := rfl
@[simp] theorem modFn_slotQ (s : State) (f : Nat) (g : Fn → Fn) : (modFn s f g).slotQ = s.slotQ := rfl
@[simp] theorem modFn_claims (s : State) (f : Nat) (g : Fn → Fn) : (modFn s f g).claims = s.claims := rfl
@[simp] theorem modFn_launches (s : State) (f : Nat) (g : Fn → Fn) : (modFn s f g).launches = s.launches := rfl
@[simp] theorem modFn_links (s : State) (f : Nat) (g : Fn → Fn) : (modFn s f g).links = s.links := rfl
@[simp] theorem modFn_mem (s : State) (f : Nat) (g : Fn → Fn) : (modFn s f g).mem = s.mem := rfl
@[simp] theorem modFn_roots (s : State) (f : Nat) (g : Fn → Fn) : (modFn s f g).roots = s.roots := rfl
@[simp] theorem modFn_tcache (s : State) (f : Nat) (g : Fn → Fn) : (modFn s f g).tcache = s.tcache := rfl
@[simp] theorem modFn_shoots (s : State) (f : Nat) (g : Fn → Fn) : (modFn s f g).shoots = s.shoots := rfl
@[simp] theorem modFn_tiers (s : State) (f : Nat) (g : Fn → Fn) : (modFn s f g).tiers = s.tiers := rfl
@[simp] theorem modFn_recodes (s : State) (f : Nat) (g : Fn → Fn) : (modFn s f g).recodes = s.recodes := rfl
@[simp] theorem modFn_moves (s : State) (f : Nat) (g : Fn → Fn) : (modFn s f g).moves = s.moves := rfl
@[simp] theorem modFn_near (s : State) (f : Nat) (g : Fn → Fn) : (modFn s f g).near = s.near := rfl
@[simp] theorem modFn_lineRel (s : State) (f : Nat) (g : Fn → Fn) : (modFn s f g).lineRel = s.lineRel := rfl
@[simp] theorem modFn_badLines (s : State) (f : Nat) (g : Fn → Fn) : (modFn s f g).badLines = s.badLines := rfl
@[simp] theorem modFn_badMem (s : State) (f : Nat) (g : Fn → Fn) : (modFn s f g).badMem = s.badMem := rfl
@[simp] theorem modFn_reqs (s : State) (f : Nat) (g : Fn → Fn) : (modFn s f g).reqs = s.reqs := rfl
@[simp] theorem modFn_far (s : State) (f : Nat) (g : Fn → Fn) : (modFn s f g).far = s.far := rfl
@[simp] theorem modFn_asker (s : State) (f : Nat) (g : Fn → Fn) : (modFn s f g).asker = s.asker := rfl
@[simp] theorem modFn_copyLast (s : State) (f : Nat) (g : Fn → Fn) : (modFn s f g).copyLast = s.copyLast := rfl
@[simp] theorem modFn_track (s : State) (f : Nat) (g : Fn → Fn) : (modFn s f g).track = s.track := rfl
@[simp] theorem modFn_cmds (s : State) (f : Nat) (g : Fn → Fn) : (modFn s f g).cmds = s.cmds := rfl
@[simp] theorem modFn_groups (s : State) (f : Nat) (g : Fn → Fn) : (modFn s f g).groups = s.groups := rfl
@[simp] theorem modFn_net (s : State) (f : Nat) (g : Fn → Fn) : (modFn s f g).net = s.net := rfl
@[simp] theorem modFn_ovf (s : State) (f : Nat) (g : Fn → Fn) : (modFn s f g).ovf = s.ovf := rfl
@[simp] theorem modFn_ovfUsed (s : State) (f : Nat) (g : Fn → Fn) : (modFn s f g).ovfUsed = s.ovfUsed := rfl
@[simp] theorem modFn_ovfTurn (s : State) (f : Nat) (g : Fn → Fn) : (modFn s f g).ovfTurn = s.ovfTurn := rfl
@[simp] theorem modFn_ovfOn (s : State) (f : Nat) (g : Fn → Fn) : (modFn s f g).ovfOn = s.ovfOn := rfl
@[simp] theorem modFn_limbo (s : State) (f : Nat) (g : Fn → Fn) : (modFn s f g).limbo = s.limbo := rfl
@[simp] theorem modFn_tiles (s : State) (f : Nat) (g : Fn → Fn) : (modFn s f g).tiles = s.tiles := rfl
@[simp] theorem modFn_sowers (s : State) (f : Nat) (g : Fn → Fn) : (modFn s f g).sowers = s.sowers := rfl
@[simp] theorem modFn_combs (s : State) (f : Nat) (g : Fn → Fn) : (modFn s f g).combs = s.combs := rfl
@[simp] theorem modFn_ckpt (s : State) (f : Nat) (g : Fn → Fn) : (modFn s f g).ckpt = s.ckpt := rfl
@[simp] theorem modFn_ckptImage (s : State) (f : Nat) (g : Fn → Fn) : (modFn s f g).ckptImage = s.ckptImage := rfl
@[simp] theorem modFn_cyc (s : State) (f : Nat) (g : Fn → Fn) : (modFn s f g).cyc = s.cyc := rfl
@[simp] theorem modFn_timers (s : State) (f : Nat) (g : Fn → Fn) : (modFn s f g).timers = s.timers := rfl
@[simp] theorem modFn_hostBusy (s : State) (f : Nat) (g : Fn → Fn) : (modFn s f g).hostBusy = s.hostBusy := rfl
@[simp] theorem modFn_outClock (s : State) (f : Nat) (g : Fn → Fn) : (modFn s f g).outClock = s.outClock := rfl
@[simp] theorem modFn_got (s : State) (f : Nat) (g : Fn → Fn) : (modFn s f g).got = s.got := rfl

/-! ## `modTier` -/

@[simp] theorem modTier_time (s : State) (n : Nat) (g : Tier → Tier) : (modTier s n g).time = s.time := rfl
@[simp] theorem modTier_agenda (s : State) (n : Nat) (g : Tier → Tier) : (modTier s n g).agenda = s.agenda := rfl
@[simp] theorem modTier_focus (s : State) (n : Nat) (g : Tier → Tier) : (modTier s n g).focus = s.focus := rfl
@[simp] theorem modTier_freeCtr (s : State) (n : Nat) (g : Tier → Tier) : (modTier s n g).freeCtr = s.freeCtr := rfl
@[simp] theorem modTier_nextId (s : State) (n : Nat) (g : Tier → Tier) : (modTier s n g).nextId = s.nextId := rfl
@[simp] theorem modTier_boot (s : State) (n : Nat) (g : Tier → Tier) : (modTier s n g).boot = s.boot := rfl
@[simp] theorem modTier_clk (s : State) (n : Nat) (g : Tier → Tier) : (modTier s n g).clk = s.clk := rfl
@[simp] theorem modTier_params (s : State) (n : Nat) (g : Tier → Tier) : (modTier s n g).params = s.params := rfl
@[simp] theorem modTier_sens (s : State) (n : Nat) (g : Tier → Tier) : (modTier s n g).sens = s.sens := rfl
@[simp] theorem modTier_fns (s : State) (n : Nat) (g : Tier → Tier) : (modTier s n g).fns = s.fns := rfl
@[simp] theorem modTier_qidOwner (s : State) (n : Nat) (g : Tier → Tier) : (modTier s n g).qidOwner = s.qidOwner := rfl
@[simp] theorem modTier_asidOwner (s : State) (n : Nat) (g : Tier → Tier) : (modTier s n g).asidOwner = s.asidOwner := rfl
@[simp] theorem modTier_tablePool (s : State) (n : Nat) (g : Tier → Tier) : (modTier s n g).tablePool = s.tablePool := rfl
@[simp] theorem modTier_queues (s : State) (n : Nat) (g : Tier → Tier) : (modTier s n g).queues = s.queues := rfl
@[simp] theorem modTier_pending (s : State) (n : Nat) (g : Tier → Tier) : (modTier s n g).pending = s.pending := rfl
@[simp] theorem modTier_slotQ (s : State) (n : Nat) (g : Tier → Tier) : (modTier s n g).slotQ = s.slotQ := rfl
@[simp] theorem modTier_claims (s : State) (n : Nat) (g : Tier → Tier) : (modTier s n g).claims = s.claims := rfl
@[simp] theorem modTier_launches (s : State) (n : Nat) (g : Tier → Tier) : (modTier s n g).launches = s.launches := rfl
@[simp] theorem modTier_links (s : State) (n : Nat) (g : Tier → Tier) : (modTier s n g).links = s.links := rfl
@[simp] theorem modTier_mem (s : State) (n : Nat) (g : Tier → Tier) : (modTier s n g).mem = s.mem := rfl
@[simp] theorem modTier_roots (s : State) (n : Nat) (g : Tier → Tier) : (modTier s n g).roots = s.roots := rfl
@[simp] theorem modTier_tcache (s : State) (n : Nat) (g : Tier → Tier) : (modTier s n g).tcache = s.tcache := rfl
@[simp] theorem modTier_shoots (s : State) (n : Nat) (g : Tier → Tier) : (modTier s n g).shoots = s.shoots := rfl
@[simp] theorem modTier_recodes (s : State) (n : Nat) (g : Tier → Tier) : (modTier s n g).recodes = s.recodes := rfl
@[simp] theorem modTier_moves (s : State) (n : Nat) (g : Tier → Tier) : (modTier s n g).moves = s.moves := rfl
@[simp] theorem modTier_near (s : State) (n : Nat) (g : Tier → Tier) : (modTier s n g).near = s.near := rfl
@[simp] theorem modTier_lineRel (s : State) (n : Nat) (g : Tier → Tier) : (modTier s n g).lineRel = s.lineRel := rfl
@[simp] theorem modTier_badLines (s : State) (n : Nat) (g : Tier → Tier) : (modTier s n g).badLines = s.badLines := rfl
@[simp] theorem modTier_badMem (s : State) (n : Nat) (g : Tier → Tier) : (modTier s n g).badMem = s.badMem := rfl
@[simp] theorem modTier_reqs (s : State) (n : Nat) (g : Tier → Tier) : (modTier s n g).reqs = s.reqs := rfl
@[simp] theorem modTier_far (s : State) (n : Nat) (g : Tier → Tier) : (modTier s n g).far = s.far := rfl
@[simp] theorem modTier_asker (s : State) (n : Nat) (g : Tier → Tier) : (modTier s n g).asker = s.asker := rfl
@[simp] theorem modTier_copyLast (s : State) (n : Nat) (g : Tier → Tier) : (modTier s n g).copyLast = s.copyLast := rfl
@[simp] theorem modTier_track (s : State) (n : Nat) (g : Tier → Tier) : (modTier s n g).track = s.track := rfl
@[simp] theorem modTier_cmds (s : State) (n : Nat) (g : Tier → Tier) : (modTier s n g).cmds = s.cmds := rfl
@[simp] theorem modTier_groups (s : State) (n : Nat) (g : Tier → Tier) : (modTier s n g).groups = s.groups := rfl
@[simp] theorem modTier_net (s : State) (n : Nat) (g : Tier → Tier) : (modTier s n g).net = s.net := rfl
@[simp] theorem modTier_ovf (s : State) (n : Nat) (g : Tier → Tier) : (modTier s n g).ovf = s.ovf := rfl
@[simp] theorem modTier_ovfUsed (s : State) (n : Nat) (g : Tier → Tier) : (modTier s n g).ovfUsed = s.ovfUsed := rfl
@[simp] theorem modTier_ovfTurn (s : State) (n : Nat) (g : Tier → Tier) : (modTier s n g).ovfTurn = s.ovfTurn := rfl
@[simp] theorem modTier_ovfOn (s : State) (n : Nat) (g : Tier → Tier) : (modTier s n g).ovfOn = s.ovfOn := rfl
@[simp] theorem modTier_limbo (s : State) (n : Nat) (g : Tier → Tier) : (modTier s n g).limbo = s.limbo := rfl
@[simp] theorem modTier_tiles (s : State) (n : Nat) (g : Tier → Tier) : (modTier s n g).tiles = s.tiles := rfl
@[simp] theorem modTier_sowers (s : State) (n : Nat) (g : Tier → Tier) : (modTier s n g).sowers = s.sowers := rfl
@[simp] theorem modTier_combs (s : State) (n : Nat) (g : Tier → Tier) : (modTier s n g).combs = s.combs := rfl
@[simp] theorem modTier_ckpt (s : State) (n : Nat) (g : Tier → Tier) : (modTier s n g).ckpt = s.ckpt := rfl
@[simp] theorem modTier_ckptImage (s : State) (n : Nat) (g : Tier → Tier) : (modTier s n g).ckptImage = s.ckptImage := rfl
@[simp] theorem modTier_cyc (s : State) (n : Nat) (g : Tier → Tier) : (modTier s n g).cyc = s.cyc := rfl
@[simp] theorem modTier_timers (s : State) (n : Nat) (g : Tier → Tier) : (modTier s n g).timers = s.timers := rfl
@[simp] theorem modTier_hostBusy (s : State) (n : Nat) (g : Tier → Tier) : (modTier s n g).hostBusy = s.hostBusy := rfl
@[simp] theorem modTier_outClock (s : State) (n : Nat) (g : Tier → Tier) : (modTier s n g).outClock = s.outClock := rfl
@[simp] theorem modTier_got (s : State) (n : Nat) (g : Tier → Tier) : (modTier s n g).got = s.got := rfl

/-! ## `modLink` -/

@[simp] theorem modLink_time (s : State) (p : Nat) (g : Link → Link) : (modLink s p g).time = s.time := rfl
@[simp] theorem modLink_agenda (s : State) (p : Nat) (g : Link → Link) : (modLink s p g).agenda = s.agenda := rfl
@[simp] theorem modLink_focus (s : State) (p : Nat) (g : Link → Link) : (modLink s p g).focus = s.focus := rfl
@[simp] theorem modLink_freeCtr (s : State) (p : Nat) (g : Link → Link) : (modLink s p g).freeCtr = s.freeCtr := rfl
@[simp] theorem modLink_nextId (s : State) (p : Nat) (g : Link → Link) : (modLink s p g).nextId = s.nextId := rfl
@[simp] theorem modLink_boot (s : State) (p : Nat) (g : Link → Link) : (modLink s p g).boot = s.boot := rfl
@[simp] theorem modLink_clk (s : State) (p : Nat) (g : Link → Link) : (modLink s p g).clk = s.clk := rfl
@[simp] theorem modLink_params (s : State) (p : Nat) (g : Link → Link) : (modLink s p g).params = s.params := rfl
@[simp] theorem modLink_sens (s : State) (p : Nat) (g : Link → Link) : (modLink s p g).sens = s.sens := rfl
@[simp] theorem modLink_fns (s : State) (p : Nat) (g : Link → Link) : (modLink s p g).fns = s.fns := rfl
@[simp] theorem modLink_qidOwner (s : State) (p : Nat) (g : Link → Link) : (modLink s p g).qidOwner = s.qidOwner := rfl
@[simp] theorem modLink_asidOwner (s : State) (p : Nat) (g : Link → Link) : (modLink s p g).asidOwner = s.asidOwner := rfl
@[simp] theorem modLink_tablePool (s : State) (p : Nat) (g : Link → Link) : (modLink s p g).tablePool = s.tablePool := rfl
@[simp] theorem modLink_queues (s : State) (p : Nat) (g : Link → Link) : (modLink s p g).queues = s.queues := rfl
@[simp] theorem modLink_pending (s : State) (p : Nat) (g : Link → Link) : (modLink s p g).pending = s.pending := rfl
@[simp] theorem modLink_slotQ (s : State) (p : Nat) (g : Link → Link) : (modLink s p g).slotQ = s.slotQ := rfl
@[simp] theorem modLink_claims (s : State) (p : Nat) (g : Link → Link) : (modLink s p g).claims = s.claims := rfl
@[simp] theorem modLink_launches (s : State) (p : Nat) (g : Link → Link) : (modLink s p g).launches = s.launches := rfl
@[simp] theorem modLink_mem (s : State) (p : Nat) (g : Link → Link) : (modLink s p g).mem = s.mem := rfl
@[simp] theorem modLink_roots (s : State) (p : Nat) (g : Link → Link) : (modLink s p g).roots = s.roots := rfl
@[simp] theorem modLink_tcache (s : State) (p : Nat) (g : Link → Link) : (modLink s p g).tcache = s.tcache := rfl
@[simp] theorem modLink_shoots (s : State) (p : Nat) (g : Link → Link) : (modLink s p g).shoots = s.shoots := rfl
@[simp] theorem modLink_tiers (s : State) (p : Nat) (g : Link → Link) : (modLink s p g).tiers = s.tiers := rfl
@[simp] theorem modLink_recodes (s : State) (p : Nat) (g : Link → Link) : (modLink s p g).recodes = s.recodes := rfl
@[simp] theorem modLink_moves (s : State) (p : Nat) (g : Link → Link) : (modLink s p g).moves = s.moves := rfl
@[simp] theorem modLink_near (s : State) (p : Nat) (g : Link → Link) : (modLink s p g).near = s.near := rfl
@[simp] theorem modLink_lineRel (s : State) (p : Nat) (g : Link → Link) : (modLink s p g).lineRel = s.lineRel := rfl
@[simp] theorem modLink_badLines (s : State) (p : Nat) (g : Link → Link) : (modLink s p g).badLines = s.badLines := rfl
@[simp] theorem modLink_badMem (s : State) (p : Nat) (g : Link → Link) : (modLink s p g).badMem = s.badMem := rfl
@[simp] theorem modLink_reqs (s : State) (p : Nat) (g : Link → Link) : (modLink s p g).reqs = s.reqs := rfl
@[simp] theorem modLink_far (s : State) (p : Nat) (g : Link → Link) : (modLink s p g).far = s.far := rfl
@[simp] theorem modLink_asker (s : State) (p : Nat) (g : Link → Link) : (modLink s p g).asker = s.asker := rfl
@[simp] theorem modLink_copyLast (s : State) (p : Nat) (g : Link → Link) : (modLink s p g).copyLast = s.copyLast := rfl
@[simp] theorem modLink_track (s : State) (p : Nat) (g : Link → Link) : (modLink s p g).track = s.track := rfl
@[simp] theorem modLink_cmds (s : State) (p : Nat) (g : Link → Link) : (modLink s p g).cmds = s.cmds := rfl
@[simp] theorem modLink_groups (s : State) (p : Nat) (g : Link → Link) : (modLink s p g).groups = s.groups := rfl
@[simp] theorem modLink_net (s : State) (p : Nat) (g : Link → Link) : (modLink s p g).net = s.net := rfl
@[simp] theorem modLink_ovf (s : State) (p : Nat) (g : Link → Link) : (modLink s p g).ovf = s.ovf := rfl
@[simp] theorem modLink_ovfUsed (s : State) (p : Nat) (g : Link → Link) : (modLink s p g).ovfUsed = s.ovfUsed := rfl
@[simp] theorem modLink_ovfTurn (s : State) (p : Nat) (g : Link → Link) : (modLink s p g).ovfTurn = s.ovfTurn := rfl
@[simp] theorem modLink_ovfOn (s : State) (p : Nat) (g : Link → Link) : (modLink s p g).ovfOn = s.ovfOn := rfl
@[simp] theorem modLink_limbo (s : State) (p : Nat) (g : Link → Link) : (modLink s p g).limbo = s.limbo := rfl
@[simp] theorem modLink_tiles (s : State) (p : Nat) (g : Link → Link) : (modLink s p g).tiles = s.tiles := rfl
@[simp] theorem modLink_sowers (s : State) (p : Nat) (g : Link → Link) : (modLink s p g).sowers = s.sowers := rfl
@[simp] theorem modLink_combs (s : State) (p : Nat) (g : Link → Link) : (modLink s p g).combs = s.combs := rfl
@[simp] theorem modLink_ckpt (s : State) (p : Nat) (g : Link → Link) : (modLink s p g).ckpt = s.ckpt := rfl
@[simp] theorem modLink_ckptImage (s : State) (p : Nat) (g : Link → Link) : (modLink s p g).ckptImage = s.ckptImage := rfl
@[simp] theorem modLink_cyc (s : State) (p : Nat) (g : Link → Link) : (modLink s p g).cyc = s.cyc := rfl
@[simp] theorem modLink_timers (s : State) (p : Nat) (g : Link → Link) : (modLink s p g).timers = s.timers := rfl
@[simp] theorem modLink_hostBusy (s : State) (p : Nat) (g : Link → Link) : (modLink s p g).hostBusy = s.hostBusy := rfl
@[simp] theorem modLink_outClock (s : State) (p : Nat) (g : Link → Link) : (modLink s p g).outClock = s.outClock := rfl
@[simp] theorem modLink_got (s : State) (p : Nat) (g : Link → Link) : (modLink s p g).got = s.got := rfl

/-! ## `modSower` -/

@[simp] theorem modSower_time (s : State) (u : Nat) (g : Sower → Sower) : (modSower s u g).time = s.time := rfl
@[simp] theorem modSower_agenda (s : State) (u : Nat) (g : Sower → Sower) : (modSower s u g).agenda = s.agenda := rfl
@[simp] theorem modSower_focus (s : State) (u : Nat) (g : Sower → Sower) : (modSower s u g).focus = s.focus := rfl
@[simp] theorem modSower_freeCtr (s : State) (u : Nat) (g : Sower → Sower) : (modSower s u g).freeCtr = s.freeCtr := rfl
@[simp] theorem modSower_nextId (s : State) (u : Nat) (g : Sower → Sower) : (modSower s u g).nextId = s.nextId := rfl
@[simp] theorem modSower_boot (s : State) (u : Nat) (g : Sower → Sower) : (modSower s u g).boot = s.boot := rfl
@[simp] theorem modSower_clk (s : State) (u : Nat) (g : Sower → Sower) : (modSower s u g).clk = s.clk := rfl
@[simp] theorem modSower_params (s : State) (u : Nat) (g : Sower → Sower) : (modSower s u g).params = s.params := rfl
@[simp] theorem modSower_sens (s : State) (u : Nat) (g : Sower → Sower) : (modSower s u g).sens = s.sens := rfl
@[simp] theorem modSower_fns (s : State) (u : Nat) (g : Sower → Sower) : (modSower s u g).fns = s.fns := rfl
@[simp] theorem modSower_qidOwner (s : State) (u : Nat) (g : Sower → Sower) : (modSower s u g).qidOwner = s.qidOwner := rfl
@[simp] theorem modSower_asidOwner (s : State) (u : Nat) (g : Sower → Sower) : (modSower s u g).asidOwner = s.asidOwner := rfl
@[simp] theorem modSower_tablePool (s : State) (u : Nat) (g : Sower → Sower) : (modSower s u g).tablePool = s.tablePool := rfl
@[simp] theorem modSower_queues (s : State) (u : Nat) (g : Sower → Sower) : (modSower s u g).queues = s.queues := rfl
@[simp] theorem modSower_pending (s : State) (u : Nat) (g : Sower → Sower) : (modSower s u g).pending = s.pending := rfl
@[simp] theorem modSower_slotQ (s : State) (u : Nat) (g : Sower → Sower) : (modSower s u g).slotQ = s.slotQ := rfl
@[simp] theorem modSower_claims (s : State) (u : Nat) (g : Sower → Sower) : (modSower s u g).claims = s.claims := rfl
@[simp] theorem modSower_launches (s : State) (u : Nat) (g : Sower → Sower) : (modSower s u g).launches = s.launches := rfl
@[simp] theorem modSower_links (s : State) (u : Nat) (g : Sower → Sower) : (modSower s u g).links = s.links := rfl
@[simp] theorem modSower_mem (s : State) (u : Nat) (g : Sower → Sower) : (modSower s u g).mem = s.mem := rfl
@[simp] theorem modSower_roots (s : State) (u : Nat) (g : Sower → Sower) : (modSower s u g).roots = s.roots := rfl
@[simp] theorem modSower_tcache (s : State) (u : Nat) (g : Sower → Sower) : (modSower s u g).tcache = s.tcache := rfl
@[simp] theorem modSower_shoots (s : State) (u : Nat) (g : Sower → Sower) : (modSower s u g).shoots = s.shoots := rfl
@[simp] theorem modSower_tiers (s : State) (u : Nat) (g : Sower → Sower) : (modSower s u g).tiers = s.tiers := rfl
@[simp] theorem modSower_recodes (s : State) (u : Nat) (g : Sower → Sower) : (modSower s u g).recodes = s.recodes := rfl
@[simp] theorem modSower_moves (s : State) (u : Nat) (g : Sower → Sower) : (modSower s u g).moves = s.moves := rfl
@[simp] theorem modSower_near (s : State) (u : Nat) (g : Sower → Sower) : (modSower s u g).near = s.near := rfl
@[simp] theorem modSower_lineRel (s : State) (u : Nat) (g : Sower → Sower) : (modSower s u g).lineRel = s.lineRel := rfl
@[simp] theorem modSower_badLines (s : State) (u : Nat) (g : Sower → Sower) : (modSower s u g).badLines = s.badLines := rfl
@[simp] theorem modSower_badMem (s : State) (u : Nat) (g : Sower → Sower) : (modSower s u g).badMem = s.badMem := rfl
@[simp] theorem modSower_reqs (s : State) (u : Nat) (g : Sower → Sower) : (modSower s u g).reqs = s.reqs := rfl
@[simp] theorem modSower_far (s : State) (u : Nat) (g : Sower → Sower) : (modSower s u g).far = s.far := rfl
@[simp] theorem modSower_asker (s : State) (u : Nat) (g : Sower → Sower) : (modSower s u g).asker = s.asker := rfl
@[simp] theorem modSower_copyLast (s : State) (u : Nat) (g : Sower → Sower) : (modSower s u g).copyLast = s.copyLast := rfl
@[simp] theorem modSower_track (s : State) (u : Nat) (g : Sower → Sower) : (modSower s u g).track = s.track := rfl
@[simp] theorem modSower_cmds (s : State) (u : Nat) (g : Sower → Sower) : (modSower s u g).cmds = s.cmds := rfl
@[simp] theorem modSower_groups (s : State) (u : Nat) (g : Sower → Sower) : (modSower s u g).groups = s.groups := rfl
@[simp] theorem modSower_net (s : State) (u : Nat) (g : Sower → Sower) : (modSower s u g).net = s.net := rfl
@[simp] theorem modSower_ovf (s : State) (u : Nat) (g : Sower → Sower) : (modSower s u g).ovf = s.ovf := rfl
@[simp] theorem modSower_ovfUsed (s : State) (u : Nat) (g : Sower → Sower) : (modSower s u g).ovfUsed = s.ovfUsed := rfl
@[simp] theorem modSower_ovfTurn (s : State) (u : Nat) (g : Sower → Sower) : (modSower s u g).ovfTurn = s.ovfTurn := rfl
@[simp] theorem modSower_ovfOn (s : State) (u : Nat) (g : Sower → Sower) : (modSower s u g).ovfOn = s.ovfOn := rfl
@[simp] theorem modSower_limbo (s : State) (u : Nat) (g : Sower → Sower) : (modSower s u g).limbo = s.limbo := rfl
@[simp] theorem modSower_tiles (s : State) (u : Nat) (g : Sower → Sower) : (modSower s u g).tiles = s.tiles := rfl
@[simp] theorem modSower_combs (s : State) (u : Nat) (g : Sower → Sower) : (modSower s u g).combs = s.combs := rfl
@[simp] theorem modSower_ckpt (s : State) (u : Nat) (g : Sower → Sower) : (modSower s u g).ckpt = s.ckpt := rfl
@[simp] theorem modSower_ckptImage (s : State) (u : Nat) (g : Sower → Sower) : (modSower s u g).ckptImage = s.ckptImage := rfl
@[simp] theorem modSower_cyc (s : State) (u : Nat) (g : Sower → Sower) : (modSower s u g).cyc = s.cyc := rfl
@[simp] theorem modSower_timers (s : State) (u : Nat) (g : Sower → Sower) : (modSower s u g).timers = s.timers := rfl
@[simp] theorem modSower_hostBusy (s : State) (u : Nat) (g : Sower → Sower) : (modSower s u g).hostBusy = s.hostBusy := rfl
@[simp] theorem modSower_outClock (s : State) (u : Nat) (g : Sower → Sower) : (modSower s u g).outClock = s.outClock := rfl
@[simp] theorem modSower_got (s : State) (u : Nat) (g : Sower → Sower) : (modSower s u g).got = s.got := rfl

/-! ## `modComb` -/

@[simp] theorem modComb_time (s : State) (u : Nat) (g : Combine → Combine) : (modComb s u g).time = s.time := rfl
@[simp] theorem modComb_agenda (s : State) (u : Nat) (g : Combine → Combine) : (modComb s u g).agenda = s.agenda := rfl
@[simp] theorem modComb_focus (s : State) (u : Nat) (g : Combine → Combine) : (modComb s u g).focus = s.focus := rfl
@[simp] theorem modComb_freeCtr (s : State) (u : Nat) (g : Combine → Combine) : (modComb s u g).freeCtr = s.freeCtr := rfl
@[simp] theorem modComb_nextId (s : State) (u : Nat) (g : Combine → Combine) : (modComb s u g).nextId = s.nextId := rfl
@[simp] theorem modComb_boot (s : State) (u : Nat) (g : Combine → Combine) : (modComb s u g).boot = s.boot := rfl
@[simp] theorem modComb_clk (s : State) (u : Nat) (g : Combine → Combine) : (modComb s u g).clk = s.clk := rfl
@[simp] theorem modComb_params (s : State) (u : Nat) (g : Combine → Combine) : (modComb s u g).params = s.params := rfl
@[simp] theorem modComb_sens (s : State) (u : Nat) (g : Combine → Combine) : (modComb s u g).sens = s.sens := rfl
@[simp] theorem modComb_fns (s : State) (u : Nat) (g : Combine → Combine) : (modComb s u g).fns = s.fns := rfl
@[simp] theorem modComb_qidOwner (s : State) (u : Nat) (g : Combine → Combine) : (modComb s u g).qidOwner = s.qidOwner := rfl
@[simp] theorem modComb_asidOwner (s : State) (u : Nat) (g : Combine → Combine) : (modComb s u g).asidOwner = s.asidOwner := rfl
@[simp] theorem modComb_tablePool (s : State) (u : Nat) (g : Combine → Combine) : (modComb s u g).tablePool = s.tablePool := rfl
@[simp] theorem modComb_queues (s : State) (u : Nat) (g : Combine → Combine) : (modComb s u g).queues = s.queues := rfl
@[simp] theorem modComb_pending (s : State) (u : Nat) (g : Combine → Combine) : (modComb s u g).pending = s.pending := rfl
@[simp] theorem modComb_slotQ (s : State) (u : Nat) (g : Combine → Combine) : (modComb s u g).slotQ = s.slotQ := rfl
@[simp] theorem modComb_claims (s : State) (u : Nat) (g : Combine → Combine) : (modComb s u g).claims = s.claims := rfl
@[simp] theorem modComb_launches (s : State) (u : Nat) (g : Combine → Combine) : (modComb s u g).launches = s.launches := rfl
@[simp] theorem modComb_links (s : State) (u : Nat) (g : Combine → Combine) : (modComb s u g).links = s.links := rfl
@[simp] theorem modComb_mem (s : State) (u : Nat) (g : Combine → Combine) : (modComb s u g).mem = s.mem := rfl
@[simp] theorem modComb_roots (s : State) (u : Nat) (g : Combine → Combine) : (modComb s u g).roots = s.roots := rfl
@[simp] theorem modComb_tcache (s : State) (u : Nat) (g : Combine → Combine) : (modComb s u g).tcache = s.tcache := rfl
@[simp] theorem modComb_shoots (s : State) (u : Nat) (g : Combine → Combine) : (modComb s u g).shoots = s.shoots := rfl
@[simp] theorem modComb_tiers (s : State) (u : Nat) (g : Combine → Combine) : (modComb s u g).tiers = s.tiers := rfl
@[simp] theorem modComb_recodes (s : State) (u : Nat) (g : Combine → Combine) : (modComb s u g).recodes = s.recodes := rfl
@[simp] theorem modComb_moves (s : State) (u : Nat) (g : Combine → Combine) : (modComb s u g).moves = s.moves := rfl
@[simp] theorem modComb_near (s : State) (u : Nat) (g : Combine → Combine) : (modComb s u g).near = s.near := rfl
@[simp] theorem modComb_lineRel (s : State) (u : Nat) (g : Combine → Combine) : (modComb s u g).lineRel = s.lineRel := rfl
@[simp] theorem modComb_badLines (s : State) (u : Nat) (g : Combine → Combine) : (modComb s u g).badLines = s.badLines := rfl
@[simp] theorem modComb_badMem (s : State) (u : Nat) (g : Combine → Combine) : (modComb s u g).badMem = s.badMem := rfl
@[simp] theorem modComb_reqs (s : State) (u : Nat) (g : Combine → Combine) : (modComb s u g).reqs = s.reqs := rfl
@[simp] theorem modComb_far (s : State) (u : Nat) (g : Combine → Combine) : (modComb s u g).far = s.far := rfl
@[simp] theorem modComb_asker (s : State) (u : Nat) (g : Combine → Combine) : (modComb s u g).asker = s.asker := rfl
@[simp] theorem modComb_copyLast (s : State) (u : Nat) (g : Combine → Combine) : (modComb s u g).copyLast = s.copyLast := rfl
@[simp] theorem modComb_track (s : State) (u : Nat) (g : Combine → Combine) : (modComb s u g).track = s.track := rfl
@[simp] theorem modComb_cmds (s : State) (u : Nat) (g : Combine → Combine) : (modComb s u g).cmds = s.cmds := rfl
@[simp] theorem modComb_groups (s : State) (u : Nat) (g : Combine → Combine) : (modComb s u g).groups = s.groups := rfl
@[simp] theorem modComb_net (s : State) (u : Nat) (g : Combine → Combine) : (modComb s u g).net = s.net := rfl
@[simp] theorem modComb_ovf (s : State) (u : Nat) (g : Combine → Combine) : (modComb s u g).ovf = s.ovf := rfl
@[simp] theorem modComb_ovfUsed (s : State) (u : Nat) (g : Combine → Combine) : (modComb s u g).ovfUsed = s.ovfUsed := rfl
@[simp] theorem modComb_ovfTurn (s : State) (u : Nat) (g : Combine → Combine) : (modComb s u g).ovfTurn = s.ovfTurn := rfl
@[simp] theorem modComb_ovfOn (s : State) (u : Nat) (g : Combine → Combine) : (modComb s u g).ovfOn = s.ovfOn := rfl
@[simp] theorem modComb_limbo (s : State) (u : Nat) (g : Combine → Combine) : (modComb s u g).limbo = s.limbo := rfl
@[simp] theorem modComb_tiles (s : State) (u : Nat) (g : Combine → Combine) : (modComb s u g).tiles = s.tiles := rfl
@[simp] theorem modComb_sowers (s : State) (u : Nat) (g : Combine → Combine) : (modComb s u g).sowers = s.sowers := rfl
@[simp] theorem modComb_ckpt (s : State) (u : Nat) (g : Combine → Combine) : (modComb s u g).ckpt = s.ckpt := rfl
@[simp] theorem modComb_ckptImage (s : State) (u : Nat) (g : Combine → Combine) : (modComb s u g).ckptImage = s.ckptImage := rfl
@[simp] theorem modComb_cyc (s : State) (u : Nat) (g : Combine → Combine) : (modComb s u g).cyc = s.cyc := rfl
@[simp] theorem modComb_timers (s : State) (u : Nat) (g : Combine → Combine) : (modComb s u g).timers = s.timers := rfl
@[simp] theorem modComb_hostBusy (s : State) (u : Nat) (g : Combine → Combine) : (modComb s u g).hostBusy = s.hostBusy := rfl
@[simp] theorem modComb_outClock (s : State) (u : Nat) (g : Combine → Combine) : (modComb s u g).outClock = s.outClock := rfl
@[simp] theorem modComb_got (s : State) (u : Nat) (g : Combine → Combine) : (modComb s u g).got = s.got := rfl

/-! ## `inject` -/

@[simp] theorem inject_time (s : State) (f : Flight) : (inject s f).time = s.time := rfl
@[simp] theorem inject_agenda (s : State) (f : Flight) : (inject s f).agenda = s.agenda := rfl
@[simp] theorem inject_focus (s : State) (f : Flight) : (inject s f).focus = s.focus := rfl
@[simp] theorem inject_freeCtr (s : State) (f : Flight) : (inject s f).freeCtr = s.freeCtr := rfl
@[simp] theorem inject_nextId (s : State) (f : Flight) : (inject s f).nextId = s.nextId := rfl
@[simp] theorem inject_boot (s : State) (f : Flight) : (inject s f).boot = s.boot := rfl
@[simp] theorem inject_clk (s : State) (f : Flight) : (inject s f).clk = s.clk := rfl
@[simp] theorem inject_params (s : State) (f : Flight) : (inject s f).params = s.params := rfl
@[simp] theorem inject_sens (s : State) (f : Flight) : (inject s f).sens = s.sens := rfl
@[simp] theorem inject_fns (s : State) (f : Flight) : (inject s f).fns = s.fns := rfl
@[simp] theorem inject_qidOwner (s : State) (f : Flight) : (inject s f).qidOwner = s.qidOwner := rfl
@[simp] theorem inject_asidOwner (s : State) (f : Flight) : (inject s f).asidOwner = s.asidOwner := rfl
@[simp] theorem inject_tablePool (s : State) (f : Flight) : (inject s f).tablePool = s.tablePool := rfl
@[simp] theorem inject_queues (s : State) (f : Flight) : (inject s f).queues = s.queues := rfl
@[simp] theorem inject_pending (s : State) (f : Flight) : (inject s f).pending = s.pending := rfl
@[simp] theorem inject_slotQ (s : State) (f : Flight) : (inject s f).slotQ = s.slotQ := rfl
@[simp] theorem inject_claims (s : State) (f : Flight) : (inject s f).claims = s.claims := rfl
@[simp] theorem inject_launches (s : State) (f : Flight) : (inject s f).launches = s.launches := rfl
@[simp] theorem inject_links (s : State) (f : Flight) : (inject s f).links = s.links := rfl
@[simp] theorem inject_mem (s : State) (f : Flight) : (inject s f).mem = s.mem := rfl
@[simp] theorem inject_roots (s : State) (f : Flight) : (inject s f).roots = s.roots := rfl
@[simp] theorem inject_tcache (s : State) (f : Flight) : (inject s f).tcache = s.tcache := rfl
@[simp] theorem inject_shoots (s : State) (f : Flight) : (inject s f).shoots = s.shoots := rfl
@[simp] theorem inject_tiers (s : State) (f : Flight) : (inject s f).tiers = s.tiers := rfl
@[simp] theorem inject_recodes (s : State) (f : Flight) : (inject s f).recodes = s.recodes := rfl
@[simp] theorem inject_moves (s : State) (f : Flight) : (inject s f).moves = s.moves := rfl
@[simp] theorem inject_near (s : State) (f : Flight) : (inject s f).near = s.near := rfl
@[simp] theorem inject_lineRel (s : State) (f : Flight) : (inject s f).lineRel = s.lineRel := rfl
@[simp] theorem inject_badLines (s : State) (f : Flight) : (inject s f).badLines = s.badLines := rfl
@[simp] theorem inject_badMem (s : State) (f : Flight) : (inject s f).badMem = s.badMem := rfl
@[simp] theorem inject_reqs (s : State) (f : Flight) : (inject s f).reqs = s.reqs := rfl
@[simp] theorem inject_far (s : State) (f : Flight) : (inject s f).far = s.far := rfl
@[simp] theorem inject_asker (s : State) (f : Flight) : (inject s f).asker = s.asker := rfl
@[simp] theorem inject_copyLast (s : State) (f : Flight) : (inject s f).copyLast = s.copyLast := rfl
@[simp] theorem inject_track (s : State) (f : Flight) : (inject s f).track = s.track := rfl
@[simp] theorem inject_cmds (s : State) (f : Flight) : (inject s f).cmds = s.cmds := rfl
@[simp] theorem inject_groups (s : State) (f : Flight) : (inject s f).groups = s.groups := rfl
@[simp] theorem inject_ovf (s : State) (f : Flight) : (inject s f).ovf = s.ovf := rfl
@[simp] theorem inject_ovfUsed (s : State) (f : Flight) : (inject s f).ovfUsed = s.ovfUsed := rfl
@[simp] theorem inject_ovfTurn (s : State) (f : Flight) : (inject s f).ovfTurn = s.ovfTurn := rfl
@[simp] theorem inject_ovfOn (s : State) (f : Flight) : (inject s f).ovfOn = s.ovfOn := rfl
@[simp] theorem inject_limbo (s : State) (f : Flight) : (inject s f).limbo = s.limbo := rfl
@[simp] theorem inject_tiles (s : State) (f : Flight) : (inject s f).tiles = s.tiles := rfl
@[simp] theorem inject_sowers (s : State) (f : Flight) : (inject s f).sowers = s.sowers := rfl
@[simp] theorem inject_combs (s : State) (f : Flight) : (inject s f).combs = s.combs := rfl
@[simp] theorem inject_ckpt (s : State) (f : Flight) : (inject s f).ckpt = s.ckpt := rfl
@[simp] theorem inject_ckptImage (s : State) (f : Flight) : (inject s f).ckptImage = s.ckptImage := rfl
@[simp] theorem inject_cyc (s : State) (f : Flight) : (inject s f).cyc = s.cyc := rfl
@[simp] theorem inject_timers (s : State) (f : Flight) : (inject s f).timers = s.timers := rfl
@[simp] theorem inject_hostBusy (s : State) (f : Flight) : (inject s f).hostBusy = s.hostBusy := rfl
@[simp] theorem inject_outClock (s : State) (f : Flight) : (inject s f).outClock = s.outClock := rfl
@[simp] theorem inject_got (s : State) (f : Flight) : (inject s f).got = s.got := rfl

/-! ## `setTimeline` -/

@[simp] theorem setTimeline_time (s : State) (t : Nat) (c : BitVec 3) (n : BitVec 2) (x : Timeline) : (setTimeline s t c n x).time = s.time := rfl
@[simp] theorem setTimeline_agenda (s : State) (t : Nat) (c : BitVec 3) (n : BitVec 2) (x : Timeline) : (setTimeline s t c n x).agenda = s.agenda := rfl
@[simp] theorem setTimeline_focus (s : State) (t : Nat) (c : BitVec 3) (n : BitVec 2) (x : Timeline) : (setTimeline s t c n x).focus = s.focus := rfl
@[simp] theorem setTimeline_freeCtr (s : State) (t : Nat) (c : BitVec 3) (n : BitVec 2) (x : Timeline) : (setTimeline s t c n x).freeCtr = s.freeCtr := rfl
@[simp] theorem setTimeline_nextId (s : State) (t : Nat) (c : BitVec 3) (n : BitVec 2) (x : Timeline) : (setTimeline s t c n x).nextId = s.nextId := rfl
@[simp] theorem setTimeline_boot (s : State) (t : Nat) (c : BitVec 3) (n : BitVec 2) (x : Timeline) : (setTimeline s t c n x).boot = s.boot := rfl
@[simp] theorem setTimeline_clk (s : State) (t : Nat) (c : BitVec 3) (n : BitVec 2) (x : Timeline) : (setTimeline s t c n x).clk = s.clk := rfl
@[simp] theorem setTimeline_params (s : State) (t : Nat) (c : BitVec 3) (n : BitVec 2) (x : Timeline) : (setTimeline s t c n x).params = s.params := rfl
@[simp] theorem setTimeline_sens (s : State) (t : Nat) (c : BitVec 3) (n : BitVec 2) (x : Timeline) : (setTimeline s t c n x).sens = s.sens := rfl
@[simp] theorem setTimeline_fns (s : State) (t : Nat) (c : BitVec 3) (n : BitVec 2) (x : Timeline) : (setTimeline s t c n x).fns = s.fns := rfl
@[simp] theorem setTimeline_qidOwner (s : State) (t : Nat) (c : BitVec 3) (n : BitVec 2) (x : Timeline) : (setTimeline s t c n x).qidOwner = s.qidOwner := rfl
@[simp] theorem setTimeline_asidOwner (s : State) (t : Nat) (c : BitVec 3) (n : BitVec 2) (x : Timeline) : (setTimeline s t c n x).asidOwner = s.asidOwner := rfl
@[simp] theorem setTimeline_tablePool (s : State) (t : Nat) (c : BitVec 3) (n : BitVec 2) (x : Timeline) : (setTimeline s t c n x).tablePool = s.tablePool := rfl
@[simp] theorem setTimeline_queues (s : State) (t : Nat) (c : BitVec 3) (n : BitVec 2) (x : Timeline) : (setTimeline s t c n x).queues = s.queues := rfl
@[simp] theorem setTimeline_pending (s : State) (t : Nat) (c : BitVec 3) (n : BitVec 2) (x : Timeline) : (setTimeline s t c n x).pending = s.pending := rfl
@[simp] theorem setTimeline_slotQ (s : State) (t : Nat) (c : BitVec 3) (n : BitVec 2) (x : Timeline) : (setTimeline s t c n x).slotQ = s.slotQ := rfl
@[simp] theorem setTimeline_claims (s : State) (t : Nat) (c : BitVec 3) (n : BitVec 2) (x : Timeline) : (setTimeline s t c n x).claims = s.claims := rfl
@[simp] theorem setTimeline_launches (s : State) (t : Nat) (c : BitVec 3) (n : BitVec 2) (x : Timeline) : (setTimeline s t c n x).launches = s.launches := rfl
@[simp] theorem setTimeline_links (s : State) (t : Nat) (c : BitVec 3) (n : BitVec 2) (x : Timeline) : (setTimeline s t c n x).links = s.links := rfl
@[simp] theorem setTimeline_mem (s : State) (t : Nat) (c : BitVec 3) (n : BitVec 2) (x : Timeline) : (setTimeline s t c n x).mem = s.mem := rfl
@[simp] theorem setTimeline_roots (s : State) (t : Nat) (c : BitVec 3) (n : BitVec 2) (x : Timeline) : (setTimeline s t c n x).roots = s.roots := rfl
@[simp] theorem setTimeline_tcache (s : State) (t : Nat) (c : BitVec 3) (n : BitVec 2) (x : Timeline) : (setTimeline s t c n x).tcache = s.tcache := rfl
@[simp] theorem setTimeline_shoots (s : State) (t : Nat) (c : BitVec 3) (n : BitVec 2) (x : Timeline) : (setTimeline s t c n x).shoots = s.shoots := rfl
@[simp] theorem setTimeline_tiers (s : State) (t : Nat) (c : BitVec 3) (n : BitVec 2) (x : Timeline) : (setTimeline s t c n x).tiers = s.tiers := rfl
@[simp] theorem setTimeline_recodes (s : State) (t : Nat) (c : BitVec 3) (n : BitVec 2) (x : Timeline) : (setTimeline s t c n x).recodes = s.recodes := rfl
@[simp] theorem setTimeline_moves (s : State) (t : Nat) (c : BitVec 3) (n : BitVec 2) (x : Timeline) : (setTimeline s t c n x).moves = s.moves := rfl
@[simp] theorem setTimeline_near (s : State) (t : Nat) (c : BitVec 3) (n : BitVec 2) (x : Timeline) : (setTimeline s t c n x).near = s.near := rfl
@[simp] theorem setTimeline_lineRel (s : State) (t : Nat) (c : BitVec 3) (n : BitVec 2) (x : Timeline) : (setTimeline s t c n x).lineRel = s.lineRel := rfl
@[simp] theorem setTimeline_badLines (s : State) (t : Nat) (c : BitVec 3) (n : BitVec 2) (x : Timeline) : (setTimeline s t c n x).badLines = s.badLines := rfl
@[simp] theorem setTimeline_badMem (s : State) (t : Nat) (c : BitVec 3) (n : BitVec 2) (x : Timeline) : (setTimeline s t c n x).badMem = s.badMem := rfl
@[simp] theorem setTimeline_reqs (s : State) (t : Nat) (c : BitVec 3) (n : BitVec 2) (x : Timeline) : (setTimeline s t c n x).reqs = s.reqs := rfl
@[simp] theorem setTimeline_far (s : State) (t : Nat) (c : BitVec 3) (n : BitVec 2) (x : Timeline) : (setTimeline s t c n x).far = s.far := rfl
@[simp] theorem setTimeline_asker (s : State) (t : Nat) (c : BitVec 3) (n : BitVec 2) (x : Timeline) : (setTimeline s t c n x).asker = s.asker := rfl
@[simp] theorem setTimeline_copyLast (s : State) (t : Nat) (c : BitVec 3) (n : BitVec 2) (x : Timeline) : (setTimeline s t c n x).copyLast = s.copyLast := rfl
@[simp] theorem setTimeline_track (s : State) (t : Nat) (c : BitVec 3) (n : BitVec 2) (x : Timeline) : (setTimeline s t c n x).track = s.track := rfl
@[simp] theorem setTimeline_cmds (s : State) (t : Nat) (c : BitVec 3) (n : BitVec 2) (x : Timeline) : (setTimeline s t c n x).cmds = s.cmds := rfl
@[simp] theorem setTimeline_groups (s : State) (t : Nat) (c : BitVec 3) (n : BitVec 2) (x : Timeline) : (setTimeline s t c n x).groups = s.groups := rfl
@[simp] theorem setTimeline_net (s : State) (t : Nat) (c : BitVec 3) (n : BitVec 2) (x : Timeline) : (setTimeline s t c n x).net = s.net := rfl
@[simp] theorem setTimeline_ovf (s : State) (t : Nat) (c : BitVec 3) (n : BitVec 2) (x : Timeline) : (setTimeline s t c n x).ovf = s.ovf := rfl
@[simp] theorem setTimeline_ovfUsed (s : State) (t : Nat) (c : BitVec 3) (n : BitVec 2) (x : Timeline) : (setTimeline s t c n x).ovfUsed = s.ovfUsed := rfl
@[simp] theorem setTimeline_ovfTurn (s : State) (t : Nat) (c : BitVec 3) (n : BitVec 2) (x : Timeline) : (setTimeline s t c n x).ovfTurn = s.ovfTurn := rfl
@[simp] theorem setTimeline_ovfOn (s : State) (t : Nat) (c : BitVec 3) (n : BitVec 2) (x : Timeline) : (setTimeline s t c n x).ovfOn = s.ovfOn := rfl
@[simp] theorem setTimeline_limbo (s : State) (t : Nat) (c : BitVec 3) (n : BitVec 2) (x : Timeline) : (setTimeline s t c n x).limbo = s.limbo := rfl
@[simp] theorem setTimeline_sowers (s : State) (t : Nat) (c : BitVec 3) (n : BitVec 2) (x : Timeline) : (setTimeline s t c n x).sowers = s.sowers := rfl
@[simp] theorem setTimeline_combs (s : State) (t : Nat) (c : BitVec 3) (n : BitVec 2) (x : Timeline) : (setTimeline s t c n x).combs = s.combs := rfl
@[simp] theorem setTimeline_ckpt (s : State) (t : Nat) (c : BitVec 3) (n : BitVec 2) (x : Timeline) : (setTimeline s t c n x).ckpt = s.ckpt := rfl
@[simp] theorem setTimeline_ckptImage (s : State) (t : Nat) (c : BitVec 3) (n : BitVec 2) (x : Timeline) : (setTimeline s t c n x).ckptImage = s.ckptImage := rfl
@[simp] theorem setTimeline_cyc (s : State) (t : Nat) (c : BitVec 3) (n : BitVec 2) (x : Timeline) : (setTimeline s t c n x).cyc = s.cyc := rfl
@[simp] theorem setTimeline_timers (s : State) (t : Nat) (c : BitVec 3) (n : BitVec 2) (x : Timeline) : (setTimeline s t c n x).timers = s.timers := rfl
@[simp] theorem setTimeline_hostBusy (s : State) (t : Nat) (c : BitVec 3) (n : BitVec 2) (x : Timeline) : (setTimeline s t c n x).hostBusy = s.hostBusy := rfl
@[simp] theorem setTimeline_outClock (s : State) (t : Nat) (c : BitVec 3) (n : BitVec 2) (x : Timeline) : (setTimeline s t c n x).outClock = s.outClock := rfl
@[simp] theorem setTimeline_got (s : State) (t : Nat) (c : BitVec 3) (n : BitVec 2) (x : Timeline) : (setTimeline s t c n x).got = s.got := rfl

/-! ## `setStream` -/

@[simp] theorem setStream_time (s : State) (t : Nat) (c : BitVec 3) (n : BitVec 4) (x : Stream) : (setStream s t c n x).time = s.time := rfl
@[simp] theorem setStream_agenda (s : State) (t : Nat) (c : BitVec 3) (n : BitVec 4) (x : Stream) : (setStream s t c n x).agenda = s.agenda := rfl
@[simp] theorem setStream_focus (s : State) (t : Nat) (c : BitVec 3) (n : BitVec 4) (x : Stream) : (setStream s t c n x).focus = s.focus := rfl
@[simp] theorem setStream_freeCtr (s : State) (t : Nat) (c : BitVec 3) (n : BitVec 4) (x : Stream) : (setStream s t c n x).freeCtr = s.freeCtr := rfl
@[simp] theorem setStream_nextId (s : State) (t : Nat) (c : BitVec 3) (n : BitVec 4) (x : Stream) : (setStream s t c n x).nextId = s.nextId := rfl
@[simp] theorem setStream_boot (s : State) (t : Nat) (c : BitVec 3) (n : BitVec 4) (x : Stream) : (setStream s t c n x).boot = s.boot := rfl
@[simp] theorem setStream_clk (s : State) (t : Nat) (c : BitVec 3) (n : BitVec 4) (x : Stream) : (setStream s t c n x).clk = s.clk := rfl
@[simp] theorem setStream_params (s : State) (t : Nat) (c : BitVec 3) (n : BitVec 4) (x : Stream) : (setStream s t c n x).params = s.params := rfl
@[simp] theorem setStream_sens (s : State) (t : Nat) (c : BitVec 3) (n : BitVec 4) (x : Stream) : (setStream s t c n x).sens = s.sens := rfl
@[simp] theorem setStream_fns (s : State) (t : Nat) (c : BitVec 3) (n : BitVec 4) (x : Stream) : (setStream s t c n x).fns = s.fns := rfl
@[simp] theorem setStream_qidOwner (s : State) (t : Nat) (c : BitVec 3) (n : BitVec 4) (x : Stream) : (setStream s t c n x).qidOwner = s.qidOwner := rfl
@[simp] theorem setStream_asidOwner (s : State) (t : Nat) (c : BitVec 3) (n : BitVec 4) (x : Stream) : (setStream s t c n x).asidOwner = s.asidOwner := rfl
@[simp] theorem setStream_tablePool (s : State) (t : Nat) (c : BitVec 3) (n : BitVec 4) (x : Stream) : (setStream s t c n x).tablePool = s.tablePool := rfl
@[simp] theorem setStream_queues (s : State) (t : Nat) (c : BitVec 3) (n : BitVec 4) (x : Stream) : (setStream s t c n x).queues = s.queues := rfl
@[simp] theorem setStream_pending (s : State) (t : Nat) (c : BitVec 3) (n : BitVec 4) (x : Stream) : (setStream s t c n x).pending = s.pending := rfl
@[simp] theorem setStream_slotQ (s : State) (t : Nat) (c : BitVec 3) (n : BitVec 4) (x : Stream) : (setStream s t c n x).slotQ = s.slotQ := rfl
@[simp] theorem setStream_claims (s : State) (t : Nat) (c : BitVec 3) (n : BitVec 4) (x : Stream) : (setStream s t c n x).claims = s.claims := rfl
@[simp] theorem setStream_launches (s : State) (t : Nat) (c : BitVec 3) (n : BitVec 4) (x : Stream) : (setStream s t c n x).launches = s.launches := rfl
@[simp] theorem setStream_links (s : State) (t : Nat) (c : BitVec 3) (n : BitVec 4) (x : Stream) : (setStream s t c n x).links = s.links := rfl
@[simp] theorem setStream_mem (s : State) (t : Nat) (c : BitVec 3) (n : BitVec 4) (x : Stream) : (setStream s t c n x).mem = s.mem := rfl
@[simp] theorem setStream_roots (s : State) (t : Nat) (c : BitVec 3) (n : BitVec 4) (x : Stream) : (setStream s t c n x).roots = s.roots := rfl
@[simp] theorem setStream_tcache (s : State) (t : Nat) (c : BitVec 3) (n : BitVec 4) (x : Stream) : (setStream s t c n x).tcache = s.tcache := rfl
@[simp] theorem setStream_shoots (s : State) (t : Nat) (c : BitVec 3) (n : BitVec 4) (x : Stream) : (setStream s t c n x).shoots = s.shoots := rfl
@[simp] theorem setStream_tiers (s : State) (t : Nat) (c : BitVec 3) (n : BitVec 4) (x : Stream) : (setStream s t c n x).tiers = s.tiers := rfl
@[simp] theorem setStream_recodes (s : State) (t : Nat) (c : BitVec 3) (n : BitVec 4) (x : Stream) : (setStream s t c n x).recodes = s.recodes := rfl
@[simp] theorem setStream_moves (s : State) (t : Nat) (c : BitVec 3) (n : BitVec 4) (x : Stream) : (setStream s t c n x).moves = s.moves := rfl
@[simp] theorem setStream_near (s : State) (t : Nat) (c : BitVec 3) (n : BitVec 4) (x : Stream) : (setStream s t c n x).near = s.near := rfl
@[simp] theorem setStream_lineRel (s : State) (t : Nat) (c : BitVec 3) (n : BitVec 4) (x : Stream) : (setStream s t c n x).lineRel = s.lineRel := rfl
@[simp] theorem setStream_badLines (s : State) (t : Nat) (c : BitVec 3) (n : BitVec 4) (x : Stream) : (setStream s t c n x).badLines = s.badLines := rfl
@[simp] theorem setStream_badMem (s : State) (t : Nat) (c : BitVec 3) (n : BitVec 4) (x : Stream) : (setStream s t c n x).badMem = s.badMem := rfl
@[simp] theorem setStream_reqs (s : State) (t : Nat) (c : BitVec 3) (n : BitVec 4) (x : Stream) : (setStream s t c n x).reqs = s.reqs := rfl
@[simp] theorem setStream_far (s : State) (t : Nat) (c : BitVec 3) (n : BitVec 4) (x : Stream) : (setStream s t c n x).far = s.far := rfl
@[simp] theorem setStream_asker (s : State) (t : Nat) (c : BitVec 3) (n : BitVec 4) (x : Stream) : (setStream s t c n x).asker = s.asker := rfl
@[simp] theorem setStream_copyLast (s : State) (t : Nat) (c : BitVec 3) (n : BitVec 4) (x : Stream) : (setStream s t c n x).copyLast = s.copyLast := rfl
@[simp] theorem setStream_track (s : State) (t : Nat) (c : BitVec 3) (n : BitVec 4) (x : Stream) : (setStream s t c n x).track = s.track := rfl
@[simp] theorem setStream_cmds (s : State) (t : Nat) (c : BitVec 3) (n : BitVec 4) (x : Stream) : (setStream s t c n x).cmds = s.cmds := rfl
@[simp] theorem setStream_groups (s : State) (t : Nat) (c : BitVec 3) (n : BitVec 4) (x : Stream) : (setStream s t c n x).groups = s.groups := rfl
@[simp] theorem setStream_net (s : State) (t : Nat) (c : BitVec 3) (n : BitVec 4) (x : Stream) : (setStream s t c n x).net = s.net := rfl
@[simp] theorem setStream_ovf (s : State) (t : Nat) (c : BitVec 3) (n : BitVec 4) (x : Stream) : (setStream s t c n x).ovf = s.ovf := rfl
@[simp] theorem setStream_ovfUsed (s : State) (t : Nat) (c : BitVec 3) (n : BitVec 4) (x : Stream) : (setStream s t c n x).ovfUsed = s.ovfUsed := rfl
@[simp] theorem setStream_ovfTurn (s : State) (t : Nat) (c : BitVec 3) (n : BitVec 4) (x : Stream) : (setStream s t c n x).ovfTurn = s.ovfTurn := rfl
@[simp] theorem setStream_ovfOn (s : State) (t : Nat) (c : BitVec 3) (n : BitVec 4) (x : Stream) : (setStream s t c n x).ovfOn = s.ovfOn := rfl
@[simp] theorem setStream_limbo (s : State) (t : Nat) (c : BitVec 3) (n : BitVec 4) (x : Stream) : (setStream s t c n x).limbo = s.limbo := rfl
@[simp] theorem setStream_sowers (s : State) (t : Nat) (c : BitVec 3) (n : BitVec 4) (x : Stream) : (setStream s t c n x).sowers = s.sowers := rfl
@[simp] theorem setStream_combs (s : State) (t : Nat) (c : BitVec 3) (n : BitVec 4) (x : Stream) : (setStream s t c n x).combs = s.combs := rfl
@[simp] theorem setStream_ckpt (s : State) (t : Nat) (c : BitVec 3) (n : BitVec 4) (x : Stream) : (setStream s t c n x).ckpt = s.ckpt := rfl
@[simp] theorem setStream_ckptImage (s : State) (t : Nat) (c : BitVec 3) (n : BitVec 4) (x : Stream) : (setStream s t c n x).ckptImage = s.ckptImage := rfl
@[simp] theorem setStream_cyc (s : State) (t : Nat) (c : BitVec 3) (n : BitVec 4) (x : Stream) : (setStream s t c n x).cyc = s.cyc := rfl
@[simp] theorem setStream_timers (s : State) (t : Nat) (c : BitVec 3) (n : BitVec 4) (x : Stream) : (setStream s t c n x).timers = s.timers := rfl
@[simp] theorem setStream_hostBusy (s : State) (t : Nat) (c : BitVec 3) (n : BitVec 4) (x : Stream) : (setStream s t c n x).hostBusy = s.hostBusy := rfl
@[simp] theorem setStream_outClock (s : State) (t : Nat) (c : BitVec 3) (n : BitVec 4) (x : Stream) : (setStream s t c n x).outClock = s.outClock := rfl
@[simp] theorem setStream_got (s : State) (t : Nat) (c : BitVec 3) (n : BitVec 4) (x : Stream) : (setStream s t c n x).got = s.got := rfl

/-! ## `waitWord` -/

@[simp] theorem waitWord_time (s : State) (t : Nat) (k : Fin 4) : (waitWord s t k).time = s.time := rfl
@[simp] theorem waitWord_agenda (s : State) (t : Nat) (k : Fin 4) : (waitWord s t k).agenda = s.agenda := rfl
@[simp] theorem waitWord_focus (s : State) (t : Nat) (k : Fin 4) : (waitWord s t k).focus = s.focus := rfl
@[simp] theorem waitWord_freeCtr (s : State) (t : Nat) (k : Fin 4) : (waitWord s t k).freeCtr = s.freeCtr := rfl
@[simp] theorem waitWord_nextId (s : State) (t : Nat) (k : Fin 4) : (waitWord s t k).nextId = s.nextId := rfl
@[simp] theorem waitWord_boot (s : State) (t : Nat) (k : Fin 4) : (waitWord s t k).boot = s.boot := rfl
@[simp] theorem waitWord_clk (s : State) (t : Nat) (k : Fin 4) : (waitWord s t k).clk = s.clk := rfl
@[simp] theorem waitWord_params (s : State) (t : Nat) (k : Fin 4) : (waitWord s t k).params = s.params := rfl
@[simp] theorem waitWord_sens (s : State) (t : Nat) (k : Fin 4) : (waitWord s t k).sens = s.sens := rfl
@[simp] theorem waitWord_fns (s : State) (t : Nat) (k : Fin 4) : (waitWord s t k).fns = s.fns := rfl
@[simp] theorem waitWord_qidOwner (s : State) (t : Nat) (k : Fin 4) : (waitWord s t k).qidOwner = s.qidOwner := rfl
@[simp] theorem waitWord_asidOwner (s : State) (t : Nat) (k : Fin 4) : (waitWord s t k).asidOwner = s.asidOwner := rfl
@[simp] theorem waitWord_tablePool (s : State) (t : Nat) (k : Fin 4) : (waitWord s t k).tablePool = s.tablePool := rfl
@[simp] theorem waitWord_queues (s : State) (t : Nat) (k : Fin 4) : (waitWord s t k).queues = s.queues := rfl
@[simp] theorem waitWord_pending (s : State) (t : Nat) (k : Fin 4) : (waitWord s t k).pending = s.pending := rfl
@[simp] theorem waitWord_slotQ (s : State) (t : Nat) (k : Fin 4) : (waitWord s t k).slotQ = s.slotQ := rfl
@[simp] theorem waitWord_claims (s : State) (t : Nat) (k : Fin 4) : (waitWord s t k).claims = s.claims := rfl
@[simp] theorem waitWord_launches (s : State) (t : Nat) (k : Fin 4) : (waitWord s t k).launches = s.launches := rfl
@[simp] theorem waitWord_links (s : State) (t : Nat) (k : Fin 4) : (waitWord s t k).links = s.links := rfl
@[simp] theorem waitWord_mem (s : State) (t : Nat) (k : Fin 4) : (waitWord s t k).mem = s.mem := rfl
@[simp] theorem waitWord_roots (s : State) (t : Nat) (k : Fin 4) : (waitWord s t k).roots = s.roots := rfl
@[simp] theorem waitWord_tcache (s : State) (t : Nat) (k : Fin 4) : (waitWord s t k).tcache = s.tcache := rfl
@[simp] theorem waitWord_shoots (s : State) (t : Nat) (k : Fin 4) : (waitWord s t k).shoots = s.shoots := rfl
@[simp] theorem waitWord_tiers (s : State) (t : Nat) (k : Fin 4) : (waitWord s t k).tiers = s.tiers := rfl
@[simp] theorem waitWord_recodes (s : State) (t : Nat) (k : Fin 4) : (waitWord s t k).recodes = s.recodes := rfl
@[simp] theorem waitWord_moves (s : State) (t : Nat) (k : Fin 4) : (waitWord s t k).moves = s.moves := rfl
@[simp] theorem waitWord_near (s : State) (t : Nat) (k : Fin 4) : (waitWord s t k).near = s.near := rfl
@[simp] theorem waitWord_lineRel (s : State) (t : Nat) (k : Fin 4) : (waitWord s t k).lineRel = s.lineRel := rfl
@[simp] theorem waitWord_badLines (s : State) (t : Nat) (k : Fin 4) : (waitWord s t k).badLines = s.badLines := rfl
@[simp] theorem waitWord_badMem (s : State) (t : Nat) (k : Fin 4) : (waitWord s t k).badMem = s.badMem := rfl
@[simp] theorem waitWord_reqs (s : State) (t : Nat) (k : Fin 4) : (waitWord s t k).reqs = s.reqs := rfl
@[simp] theorem waitWord_far (s : State) (t : Nat) (k : Fin 4) : (waitWord s t k).far = s.far := rfl
@[simp] theorem waitWord_asker (s : State) (t : Nat) (k : Fin 4) : (waitWord s t k).asker = s.asker := rfl
@[simp] theorem waitWord_copyLast (s : State) (t : Nat) (k : Fin 4) : (waitWord s t k).copyLast = s.copyLast := rfl
@[simp] theorem waitWord_track (s : State) (t : Nat) (k : Fin 4) : (waitWord s t k).track = s.track := rfl
@[simp] theorem waitWord_cmds (s : State) (t : Nat) (k : Fin 4) : (waitWord s t k).cmds = s.cmds := rfl
@[simp] theorem waitWord_groups (s : State) (t : Nat) (k : Fin 4) : (waitWord s t k).groups = s.groups := rfl
@[simp] theorem waitWord_net (s : State) (t : Nat) (k : Fin 4) : (waitWord s t k).net = s.net := rfl
@[simp] theorem waitWord_ovf (s : State) (t : Nat) (k : Fin 4) : (waitWord s t k).ovf = s.ovf := rfl
@[simp] theorem waitWord_ovfUsed (s : State) (t : Nat) (k : Fin 4) : (waitWord s t k).ovfUsed = s.ovfUsed := rfl
@[simp] theorem waitWord_ovfTurn (s : State) (t : Nat) (k : Fin 4) : (waitWord s t k).ovfTurn = s.ovfTurn := rfl
@[simp] theorem waitWord_ovfOn (s : State) (t : Nat) (k : Fin 4) : (waitWord s t k).ovfOn = s.ovfOn := rfl
@[simp] theorem waitWord_limbo (s : State) (t : Nat) (k : Fin 4) : (waitWord s t k).limbo = s.limbo := rfl
@[simp] theorem waitWord_sowers (s : State) (t : Nat) (k : Fin 4) : (waitWord s t k).sowers = s.sowers := rfl
@[simp] theorem waitWord_combs (s : State) (t : Nat) (k : Fin 4) : (waitWord s t k).combs = s.combs := rfl
@[simp] theorem waitWord_ckpt (s : State) (t : Nat) (k : Fin 4) : (waitWord s t k).ckpt = s.ckpt := rfl
@[simp] theorem waitWord_ckptImage (s : State) (t : Nat) (k : Fin 4) : (waitWord s t k).ckptImage = s.ckptImage := rfl
@[simp] theorem waitWord_cyc (s : State) (t : Nat) (k : Fin 4) : (waitWord s t k).cyc = s.cyc := rfl
@[simp] theorem waitWord_timers (s : State) (t : Nat) (k : Fin 4) : (waitWord s t k).timers = s.timers := rfl
@[simp] theorem waitWord_hostBusy (s : State) (t : Nat) (k : Fin 4) : (waitWord s t k).hostBusy = s.hostBusy := rfl
@[simp] theorem waitWord_outClock (s : State) (t : Nat) (k : Fin 4) : (waitWord s t k).outClock = s.outClock := rfl
@[simp] theorem waitWord_got (s : State) (t : Nat) (k : Fin 4) : (waitWord s t k).got = s.got := rfl

/-! ## `doneFiring` -/

@[simp] theorem doneFiring_time (s : State) (t p : Nat) : (doneFiring s t p).time = s.time := rfl
@[simp] theorem doneFiring_agenda (s : State) (t p : Nat) : (doneFiring s t p).agenda = s.agenda := rfl
@[simp] theorem doneFiring_focus (s : State) (t p : Nat) : (doneFiring s t p).focus = s.focus := rfl
@[simp] theorem doneFiring_freeCtr (s : State) (t p : Nat) : (doneFiring s t p).freeCtr = s.freeCtr := rfl
@[simp] theorem doneFiring_nextId (s : State) (t p : Nat) : (doneFiring s t p).nextId = s.nextId := rfl
@[simp] theorem doneFiring_boot (s : State) (t p : Nat) : (doneFiring s t p).boot = s.boot := rfl
@[simp] theorem doneFiring_clk (s : State) (t p : Nat) : (doneFiring s t p).clk = s.clk := rfl
@[simp] theorem doneFiring_params (s : State) (t p : Nat) : (doneFiring s t p).params = s.params := rfl
@[simp] theorem doneFiring_sens (s : State) (t p : Nat) : (doneFiring s t p).sens = s.sens := rfl
@[simp] theorem doneFiring_fns (s : State) (t p : Nat) : (doneFiring s t p).fns = s.fns := rfl
@[simp] theorem doneFiring_qidOwner (s : State) (t p : Nat) : (doneFiring s t p).qidOwner = s.qidOwner := rfl
@[simp] theorem doneFiring_asidOwner (s : State) (t p : Nat) : (doneFiring s t p).asidOwner = s.asidOwner := rfl
@[simp] theorem doneFiring_tablePool (s : State) (t p : Nat) : (doneFiring s t p).tablePool = s.tablePool := rfl
@[simp] theorem doneFiring_queues (s : State) (t p : Nat) : (doneFiring s t p).queues = s.queues := rfl
@[simp] theorem doneFiring_pending (s : State) (t p : Nat) : (doneFiring s t p).pending = s.pending := rfl
@[simp] theorem doneFiring_slotQ (s : State) (t p : Nat) : (doneFiring s t p).slotQ = s.slotQ := rfl
@[simp] theorem doneFiring_claims (s : State) (t p : Nat) : (doneFiring s t p).claims = s.claims := rfl
@[simp] theorem doneFiring_launches (s : State) (t p : Nat) : (doneFiring s t p).launches = s.launches := rfl
@[simp] theorem doneFiring_links (s : State) (t p : Nat) : (doneFiring s t p).links = s.links := rfl
@[simp] theorem doneFiring_mem (s : State) (t p : Nat) : (doneFiring s t p).mem = s.mem := rfl
@[simp] theorem doneFiring_roots (s : State) (t p : Nat) : (doneFiring s t p).roots = s.roots := rfl
@[simp] theorem doneFiring_tcache (s : State) (t p : Nat) : (doneFiring s t p).tcache = s.tcache := rfl
@[simp] theorem doneFiring_shoots (s : State) (t p : Nat) : (doneFiring s t p).shoots = s.shoots := rfl
@[simp] theorem doneFiring_tiers (s : State) (t p : Nat) : (doneFiring s t p).tiers = s.tiers := rfl
@[simp] theorem doneFiring_recodes (s : State) (t p : Nat) : (doneFiring s t p).recodes = s.recodes := rfl
@[simp] theorem doneFiring_moves (s : State) (t p : Nat) : (doneFiring s t p).moves = s.moves := rfl
@[simp] theorem doneFiring_near (s : State) (t p : Nat) : (doneFiring s t p).near = s.near := rfl
@[simp] theorem doneFiring_lineRel (s : State) (t p : Nat) : (doneFiring s t p).lineRel = s.lineRel := rfl
@[simp] theorem doneFiring_badLines (s : State) (t p : Nat) : (doneFiring s t p).badLines = s.badLines := rfl
@[simp] theorem doneFiring_badMem (s : State) (t p : Nat) : (doneFiring s t p).badMem = s.badMem := rfl
@[simp] theorem doneFiring_reqs (s : State) (t p : Nat) : (doneFiring s t p).reqs = s.reqs := rfl
@[simp] theorem doneFiring_far (s : State) (t p : Nat) : (doneFiring s t p).far = s.far := rfl
@[simp] theorem doneFiring_asker (s : State) (t p : Nat) : (doneFiring s t p).asker = s.asker := rfl
@[simp] theorem doneFiring_copyLast (s : State) (t p : Nat) : (doneFiring s t p).copyLast = s.copyLast := rfl
@[simp] theorem doneFiring_track (s : State) (t p : Nat) : (doneFiring s t p).track = s.track := rfl
@[simp] theorem doneFiring_cmds (s : State) (t p : Nat) : (doneFiring s t p).cmds = s.cmds := rfl
@[simp] theorem doneFiring_groups (s : State) (t p : Nat) : (doneFiring s t p).groups = s.groups := rfl
@[simp] theorem doneFiring_net (s : State) (t p : Nat) : (doneFiring s t p).net = s.net := rfl
@[simp] theorem doneFiring_ovf (s : State) (t p : Nat) : (doneFiring s t p).ovf = s.ovf := rfl
@[simp] theorem doneFiring_ovfUsed (s : State) (t p : Nat) : (doneFiring s t p).ovfUsed = s.ovfUsed := rfl
@[simp] theorem doneFiring_ovfTurn (s : State) (t p : Nat) : (doneFiring s t p).ovfTurn = s.ovfTurn := rfl
@[simp] theorem doneFiring_ovfOn (s : State) (t p : Nat) : (doneFiring s t p).ovfOn = s.ovfOn := rfl
@[simp] theorem doneFiring_limbo (s : State) (t p : Nat) : (doneFiring s t p).limbo = s.limbo := rfl
@[simp] theorem doneFiring_sowers (s : State) (t p : Nat) : (doneFiring s t p).sowers = s.sowers := rfl
@[simp] theorem doneFiring_combs (s : State) (t p : Nat) : (doneFiring s t p).combs = s.combs := rfl
@[simp] theorem doneFiring_ckpt (s : State) (t p : Nat) : (doneFiring s t p).ckpt = s.ckpt := rfl
@[simp] theorem doneFiring_ckptImage (s : State) (t p : Nat) : (doneFiring s t p).ckptImage = s.ckptImage := rfl
@[simp] theorem doneFiring_cyc (s : State) (t p : Nat) : (doneFiring s t p).cyc = s.cyc := rfl
@[simp] theorem doneFiring_timers (s : State) (t p : Nat) : (doneFiring s t p).timers = s.timers := rfl
@[simp] theorem doneFiring_hostBusy (s : State) (t p : Nat) : (doneFiring s t p).hostBusy = s.hostBusy := rfl
@[simp] theorem doneFiring_outClock (s : State) (t p : Nat) : (doneFiring s t p).outClock = s.outClock := rfl
@[simp] theorem doneFiring_got (s : State) (t p : Nat) : (doneFiring s t p).got = s.got := rfl

/-! ## `discardNear` -/

@[simp] theorem discardNear_time (s : State) (p : Nat) : (discardNear s p).time = s.time := rfl
@[simp] theorem discardNear_agenda (s : State) (p : Nat) : (discardNear s p).agenda = s.agenda := rfl
@[simp] theorem discardNear_focus (s : State) (p : Nat) : (discardNear s p).focus = s.focus := rfl
@[simp] theorem discardNear_freeCtr (s : State) (p : Nat) : (discardNear s p).freeCtr = s.freeCtr := rfl
@[simp] theorem discardNear_nextId (s : State) (p : Nat) : (discardNear s p).nextId = s.nextId := rfl
@[simp] theorem discardNear_boot (s : State) (p : Nat) : (discardNear s p).boot = s.boot := rfl
@[simp] theorem discardNear_clk (s : State) (p : Nat) : (discardNear s p).clk = s.clk := rfl
@[simp] theorem discardNear_params (s : State) (p : Nat) : (discardNear s p).params = s.params := rfl
@[simp] theorem discardNear_sens (s : State) (p : Nat) : (discardNear s p).sens = s.sens := rfl
@[simp] theorem discardNear_fns (s : State) (p : Nat) : (discardNear s p).fns = s.fns := rfl
@[simp] theorem discardNear_qidOwner (s : State) (p : Nat) : (discardNear s p).qidOwner = s.qidOwner := rfl
@[simp] theorem discardNear_asidOwner (s : State) (p : Nat) : (discardNear s p).asidOwner = s.asidOwner := rfl
@[simp] theorem discardNear_tablePool (s : State) (p : Nat) : (discardNear s p).tablePool = s.tablePool := rfl
@[simp] theorem discardNear_queues (s : State) (p : Nat) : (discardNear s p).queues = s.queues := rfl
@[simp] theorem discardNear_pending (s : State) (p : Nat) : (discardNear s p).pending = s.pending := rfl
@[simp] theorem discardNear_slotQ (s : State) (p : Nat) : (discardNear s p).slotQ = s.slotQ := rfl
@[simp] theorem discardNear_claims (s : State) (p : Nat) : (discardNear s p).claims = s.claims := rfl
@[simp] theorem discardNear_launches (s : State) (p : Nat) : (discardNear s p).launches = s.launches := rfl
@[simp] theorem discardNear_links (s : State) (p : Nat) : (discardNear s p).links = s.links := rfl
@[simp] theorem discardNear_mem (s : State) (p : Nat) : (discardNear s p).mem = s.mem := rfl
@[simp] theorem discardNear_roots (s : State) (p : Nat) : (discardNear s p).roots = s.roots := rfl
@[simp] theorem discardNear_tcache (s : State) (p : Nat) : (discardNear s p).tcache = s.tcache := rfl
@[simp] theorem discardNear_shoots (s : State) (p : Nat) : (discardNear s p).shoots = s.shoots := rfl
@[simp] theorem discardNear_tiers (s : State) (p : Nat) : (discardNear s p).tiers = s.tiers := rfl
@[simp] theorem discardNear_recodes (s : State) (p : Nat) : (discardNear s p).recodes = s.recodes := rfl
@[simp] theorem discardNear_moves (s : State) (p : Nat) : (discardNear s p).moves = s.moves := rfl
@[simp] theorem discardNear_lineRel (s : State) (p : Nat) : (discardNear s p).lineRel = s.lineRel := rfl
@[simp] theorem discardNear_badLines (s : State) (p : Nat) : (discardNear s p).badLines = s.badLines := rfl
@[simp] theorem discardNear_badMem (s : State) (p : Nat) : (discardNear s p).badMem = s.badMem := rfl
@[simp] theorem discardNear_reqs (s : State) (p : Nat) : (discardNear s p).reqs = s.reqs := rfl
@[simp] theorem discardNear_far (s : State) (p : Nat) : (discardNear s p).far = s.far := rfl
@[simp] theorem discardNear_asker (s : State) (p : Nat) : (discardNear s p).asker = s.asker := rfl
@[simp] theorem discardNear_copyLast (s : State) (p : Nat) : (discardNear s p).copyLast = s.copyLast := rfl
@[simp] theorem discardNear_track (s : State) (p : Nat) : (discardNear s p).track = s.track := rfl
@[simp] theorem discardNear_cmds (s : State) (p : Nat) : (discardNear s p).cmds = s.cmds := rfl
@[simp] theorem discardNear_groups (s : State) (p : Nat) : (discardNear s p).groups = s.groups := rfl
@[simp] theorem discardNear_net (s : State) (p : Nat) : (discardNear s p).net = s.net := rfl
@[simp] theorem discardNear_ovf (s : State) (p : Nat) : (discardNear s p).ovf = s.ovf := rfl
@[simp] theorem discardNear_ovfUsed (s : State) (p : Nat) : (discardNear s p).ovfUsed = s.ovfUsed := rfl
@[simp] theorem discardNear_ovfTurn (s : State) (p : Nat) : (discardNear s p).ovfTurn = s.ovfTurn := rfl
@[simp] theorem discardNear_ovfOn (s : State) (p : Nat) : (discardNear s p).ovfOn = s.ovfOn := rfl
@[simp] theorem discardNear_limbo (s : State) (p : Nat) : (discardNear s p).limbo = s.limbo := rfl
@[simp] theorem discardNear_tiles (s : State) (p : Nat) : (discardNear s p).tiles = s.tiles := rfl
@[simp] theorem discardNear_sowers (s : State) (p : Nat) : (discardNear s p).sowers = s.sowers := rfl
@[simp] theorem discardNear_combs (s : State) (p : Nat) : (discardNear s p).combs = s.combs := rfl
@[simp] theorem discardNear_ckpt (s : State) (p : Nat) : (discardNear s p).ckpt = s.ckpt := rfl
@[simp] theorem discardNear_ckptImage (s : State) (p : Nat) : (discardNear s p).ckptImage = s.ckptImage := rfl
@[simp] theorem discardNear_cyc (s : State) (p : Nat) : (discardNear s p).cyc = s.cyc := rfl
@[simp] theorem discardNear_timers (s : State) (p : Nat) : (discardNear s p).timers = s.timers := rfl
@[simp] theorem discardNear_hostBusy (s : State) (p : Nat) : (discardNear s p).hostBusy = s.hostBusy := rfl
@[simp] theorem discardNear_outClock (s : State) (p : Nat) : (discardNear s p).outClock = s.outClock := rfl
@[simp] theorem discardNear_got (s : State) (p : Nat) : (discardNear s p).got = s.got := rfl

/-! ## What was set is read back -/

@[simp] theorem tileOf_setTile (s : State) (t : Nat) (x : Tile) : tileOf (setTile s t x) t = x := by simp [tileOf, setTile]
@[simp] theorem tileOf_setTile_ne (s : State) (t u : Nat) (x : Tile) (h : u ≠ t) : tileOf (setTile s t x) u = tileOf s u := by
  simp [tileOf, setTile, h]
@[simp] theorem tileOf_modTile (s : State) (t : Nat) (f : Tile → Tile) : tileOf (modTile s t f) t = f (tileOf s t) := by simp [modTile]
@[simp] theorem tileOf_modTile_ne (s : State) (t u : Nat) (f : Tile → Tile) (h : u ≠ t) : tileOf (modTile s t f) u = tileOf s u := by
  simp [modTile, h]
@[simp] theorem tileOf_setSlot (s : State) (t : Nat) (k : Fin 4) (x : Slot) :
    tileOf (setSlot s t k x) t = { tileOf s t with slots := (tileOf s t).slots.set k x } := by simp [setSlot]
@[simp] theorem tileOf_setSlot_ne (s : State) (t u : Nat) (k : Fin 4) (x : Slot) (h : u ≠ t) :
    tileOf (setSlot s t k x) u = tileOf s u := by simp [setSlot, h]
@[simp] theorem slotOf_setSlot (s : State) (t : Nat) (k : Fin 4) (x : Slot) : slotOf (setSlot s t k x) t k = x := by simp [slotOf]
@[simp] theorem slotOf_setSlot_ne (s : State) (t : Nat) (k j : Fin 4) (x : Slot) (h : j ≠ k) :
    slotOf (setSlot s t k x) t j = slotOf s t j := by
  simp only [slotOf, tileOf_setSlot]
  exact Vector.getElem_set_ne _ _ (fun e => h (Fin.ext e.symm))
@[simp] theorem slotOf_modSlot (s : State) (t : Nat) (k : Fin 4) (f : Slot → Slot) :
    slotOf (modSlot s t k f) t k = f (slotOf s t k) := by simp [modSlot]
@[simp] theorem launchOf_setLaunch (s : State) (h : Nat) (x : Launch) : launchOf (setLaunch s h x) h = x := by simp [launchOf, setLaunch]
@[simp] theorem launchOf_setLaunch_ne (s : State) (h j : Nat) (x : Launch) (e : j ≠ h) : launchOf (setLaunch s h x) j = launchOf s j := by
  simp [launchOf, setLaunch, e]
@[simp] theorem launchOf_modLaunch (s : State) (h : Nat) (f : Launch → Launch) : launchOf (modLaunch s h f) h = f (launchOf s h) := by
  simp [modLaunch]
@[simp] theorem queueOf_setQueue (s : State) (q : Nat) (x : Queue) : queueOf (setQueue s q x) q = x := by simp [queueOf]
@[simp] theorem queueOf_setQueue_ne (s : State) (q j : Nat) (x : Queue) (e : j ≠ q) : queueOf (setQueue s q x) j = queueOf s j := by
  simp [queueOf, e]
@[simp] theorem queueOf_modQueue (s : State) (q : Nat) (f : Queue → Queue) : queueOf (modQueue s q f) q = if (afind s.queues q).isSome then f (queueOf s q) else queueOf s q := by
  cases e : afind s.queues q <;> simp [modQueue, queueOf, aget, e]
@[simp] theorem fnOf_modFn (s : State) (f : Nat) (g : Fn → Fn) : fnOf (modFn s f g) f = g (fnOf s f) := aget_aput_same _ _ _ _
@[simp] theorem fnOf_modFn_ne (s : State) (f j : Nat) (g : Fn → Fn) (e : j ≠ f) : fnOf (modFn s f g) j = fnOf s j := aget_aput_ne _ _ _ _ _ e
@[simp] theorem tierOf_modTier (s : State) (n : Nat) (g : Tier → Tier) : tierOf (modTier s n g) n = g (tierOf s n) := by simp [tierOf, modTier]
@[simp] theorem linkOf_modLink (s : State) (p : Nat) (g : Link → Link) : linkOf (modLink s p g) p = g (linkOf s p) := by simp [linkOf, modLink]
@[simp] theorem linkOf_modLink_ne (s : State) (p j : Nat) (g : Link → Link) (e : j ≠ p) : linkOf (modLink s p g) j = linkOf s j := by
  simp [linkOf, modLink, e]
@[simp] theorem sowerOf_modSower (s : State) (u : Nat) (g : Sower → Sower) : sowerOf (modSower s u g) u = g (sowerOf s u) := by
  simp [sowerOf, modSower]
@[simp] theorem combOf_modComb (s : State) (u : Nat) (g : Combine → Combine) : combOf (modComb s u g) u = g (combOf s u) := by
  simp [combOf, modComb]

/-- Reset's memory is canonical. -/
theorem Memory.wf_reset : Memory.wf State.reset.mem = true := rfl

end Sys2Proof.Machine
end

