-- ==== Sys2Proof/Laws/Events.lean ====
section
/-! SUPPORT. What the shared frames of events do: `onEvent`, the commands and events of a plot's link, and the requests of a
mailbox. -/

namespace Sys2Proof.Laws

open Sys2Proof Sys2Proof.Machine

variable {α : Type} {s : State} {a : EvArgs}

theorem onEvent_fits {pick : EvArgs → Option α} {f : α → State → State} {x : α} (h : s.focus = .event a) (hp : pick a = some x) :
    onEvent pick f s = .next (f x { s with focus := .idle }) := by
  simp only [onEvent, h, hp]

theorem onEvent_unfit {pick : EvArgs → Option α} {f : α → State → State} (h : s.focus = .event a) (hp : pick a = none) :
    onEvent pick f s = .next { s with focus := .idle } := by
  simp only [onEvent, h, hp]

theorem onEvent_other {pick : EvArgs → Option α} {f : α → State → State} (h : ∀ a, s.focus ≠ .event a) :
    onEvent pick f s = .next s := by
  unfold onEvent; split
  · exact absurd ‹_› (h _)
  · rfl

/-- An event always answers a next state. -/
theorem onEvent_next (pick : EvArgs → Option α) (f : α → State → State) (s : State) : ∃ s', onEvent pick f s = .next s' := by
  unfold onEvent; split
  · split <;> exact ⟨_, rfl⟩
  · exact ⟨_, rfl⟩

theorem cmdEvent_takes {pick : Msg → Option Nat} {f : State → State → Nat → Nat → State} {p h : Nat} {m : Msg} {s1 : State}
    (hf : s.focus = .event (.n p)) (ht : takeCmd { s with focus := .idle } p = some (m, s1)) (hp : pick m = some h) :
    cmdEvent pick f s = .next (f { s with focus := .idle } s1 p h) := by
  simp only [cmdEvent, onEvent, hf, argN, ht, hp]

theorem cmdEvent_none {pick : Msg → Option Nat} {f : State → State → Nat → Nat → State} {p : Nat}
    (hf : s.focus = .event (.n p)) (ht : takeCmd { s with focus := .idle } p = none) :
    cmdEvent pick f s = .next { s with focus := .idle } := by
  simp only [cmdEvent, onEvent, hf, argN, ht]

theorem evEvent_takes {pick : Msg → Option α} {f : State → Nat → α → State} {p : Nat} {x : α} {m : Msg} {s1 : State}
    (hf : s.focus = .event (.n p)) (ht : takeEv { s with focus := .idle } p = some (m, s1)) (hp : pick m = some x) :
    evEvent pick f s = .next (f s1 p x) := by
  simp only [evEvent, onEvent, hf, argN, ht, hp]

theorem mailEvent_performs {code f : Nat} {seq : Word} {go : State → Nat → Word → List Byte → Answer}
    (hf : s.focus = .event (.mailbox f seq)) (hr : s.boot.stage = .ready) (hu : s.boot.puverUp = true) (hi : (fnOf s f).inflight = some seq)
    (hc : lnat (fnOf s f).req 0 2 = code) (hn : reqNamed (fnOf s f).req (reqFields code) = true) :
    mailEvent code go s = .next (match go { s with focus := .idle } f seq (fnOf s f).req with
      | .now s1 st body => mailReply s1 f seq st body
      | .later s1 => s1) := by
  have e : fnOf { s with focus := .idle } f = fnOf s f := rfl
  simp only [mailEvent, onEvent, hf, e, hr, hu, Bool.not_true, hi, hc, hn, ne_eq, not_true_eq_false, decide_false, Bool.or_self, Bool.false_eq_true,
    if_false, if_true] <;> rfl

theorem mailEvent_malformed {code f : Nat} {seq : Word} {go : State → Nat → Word → List Byte → Answer}
    (hf : s.focus = .event (.mailbox f seq)) (hr : s.boot.stage = .ready) (hu : s.boot.puverUp = true) (hi : (fnOf s f).inflight = some seq)
    (hc : lnat (fnOf s f).req 0 2 = code) (hn : reqNamed (fnOf s f).req (reqFields code) = false) :
    mailEvent code go s = .next (mailReply { s with focus := .idle } f seq 1 []) := by
  have e : fnOf { s with focus := .idle } f = fnOf s f := rfl
  simp only [mailEvent, onEvent, hf, e, hr, hu, Bool.not_true, hi, hc, hn, ne_eq, not_true_eq_false, decide_false, Bool.or_self, Bool.false_eq_true,
    if_false, deny]

/-- A plot takes its headmost command. -/
theorem takeCmd_head {p : Nat} {m : Sent} {t : List Sent} (hf : (linkOf s p).failed = false) (hc : (linkOf s p).cmds = m :: t) :
    takeCmd s p = some (m.msg, modLink s p (fun k => match k.cmdWait with
      | [] => { k with cmds := t, cmdPermits := k.cmdPermits + 1, stuckSince := s.time }
      | w :: ws => { k with cmds := t ++ [{ seq := k.cmdSeq, msg := w }], cmdWait := ws, cmdSeq := k.cmdSeq + 1, stuckSince := s.time })) := by
  simp only [takeCmd, hf, hc, Bool.false_eq_true, if_false] <;> rfl

end Sys2Proof.Laws
end

