-- ==== Sys2Proof/Laws/PerInstr.lean ====
section
/-! SUPPORT. Per instruction: what kind of thing it is (R316, R318, R324). An event has no encoding; a node record has a
slot and no word; a codelet instruction has a word and no slot. -/

namespace Sys2Proof.Laws

open Sys2Proof

/-- An instruction has exactly the encoding of its kind. -/
def Kind.Statement (i : Instr) : Prop :=
  match i.form with
  | .event => encode i = none ∧ encodeNode i = none
  | .node op r => encode i = none ∧ encodeNode i = some (encNode op r)
  | _ => (encode i).isSome = true ∧ encodeNode i = none

theorem Kind.powerOnReset : Kind.Statement .powerOnReset := ⟨rfl, rfl⟩
theorem Kind.warmReset : Kind.Statement .warmReset := ⟨rfl, rfl⟩
theorem Kind.resetRelease : Kind.Statement .resetRelease := ⟨rfl, rfl⟩
theorem Kind.firmwareImagePush : Kind.Statement .firmwareImagePush := ⟨rfl, rfl⟩
theorem Kind.noImageTimeout : Kind.Statement .noImageTimeout := ⟨rfl, rfl⟩
theorem Kind.firmwareBringUp : Kind.Statement .firmwareBringUp := ⟨rfl, rfl⟩
theorem Kind.furrowStep : Kind.Statement .furrowStep := ⟨rfl, rfl⟩
theorem Kind.readyReport : Kind.Statement .readyReport := ⟨rfl, rfl⟩
theorem Kind.packageNumberWrite : Kind.Statement .packageNumberWrite := ⟨rfl, rfl⟩
theorem Kind.capWrite : Kind.Statement .capWrite := ⟨rfl, rfl⟩
theorem Kind.quoteRequest : Kind.Statement .quoteRequest := ⟨rfl, rfl⟩
theorem Kind.crashRecordClear : Kind.Statement .crashRecordClear := ⟨rfl, rfl⟩
theorem Kind.checkpointRequest : Kind.Statement .checkpointRequest := ⟨rfl, rfl⟩
theorem Kind.ckwaitExpire : Kind.Statement .ckwaitExpire := ⟨rfl, rfl⟩
theorem Kind.checkpointComplete : Kind.Statement .checkpointComplete := ⟨rfl, rfl⟩
theorem Kind.memoryRestore : Kind.Statement .memoryRestore := ⟨rfl, rfl⟩
theorem Kind.puverLinkDown : Kind.Statement .puverLinkDown := ⟨rfl, rfl⟩
theorem Kind.planeDown : Kind.Statement .planeDown := ⟨rfl, rfl⟩
theorem Kind.cxlPortDown : Kind.Statement .cxlPortDown := ⟨rfl, rfl⟩
theorem Kind.packageUnreachableTimeout : Kind.Statement .packageUnreachableTimeout := ⟨rfl, rfl⟩
theorem Kind.hostBar2Access : Kind.Statement .hostBar2Access := ⟨rfl, rfl⟩
theorem Kind.doorbell : Kind.Statement .doorbell := ⟨rfl, rfl⟩
theorem Kind.resume : Kind.Statement .resume := ⟨rfl, rfl⟩
theorem Kind.resetQueue : Kind.Statement .resetQueue := ⟨rfl, rfl⟩
theorem Kind.disable : Kind.Statement .disable := ⟨rfl, rfl⟩
theorem Kind.enable : Kind.Statement .enable := ⟨rfl, rfl⟩
theorem Kind.registerWrite : Kind.Statement .registerWrite := ⟨rfl, rfl⟩
theorem Kind.evtailWrite : Kind.Statement .evtailWrite := ⟨rfl, rfl⟩
theorem Kind.eventWrite : Kind.Statement .eventWrite := ⟨rfl, rfl⟩
theorem Kind.queueCreate : Kind.Statement .queueCreate := ⟨rfl, rfl⟩
theorem Kind.queueDestroy : Kind.Statement .queueDestroy := ⟨rfl, rfl⟩
theorem Kind.queueAssign : Kind.Statement .queueAssign := ⟨rfl, rfl⟩
theorem Kind.asidCreate : Kind.Statement .asidCreate := ⟨rfl, rfl⟩
theorem Kind.asidDestroy : Kind.Statement .asidDestroy := ⟨rfl, rfl⟩
theorem Kind.pteWrite : Kind.Statement .pteWrite := ⟨rfl, rfl⟩
theorem Kind.pteRead : Kind.Statement .pteRead := ⟨rfl, rfl⟩
theorem Kind.setHostbase : Kind.Statement .setHostbase := ⟨rfl, rfl⟩
theorem Kind.setBar2 : Kind.Statement .setBar2 := ⟨rfl, rfl⟩
theorem Kind.setEvents : Kind.Statement .setEvents := ⟨rfl, rfl⟩
theorem Kind.brkCtl : Kind.Statement .brkCtl := ⟨rfl, rfl⟩
theorem Kind.brkResume : Kind.Statement .brkResume := ⟨rfl, rfl⟩
theorem Kind.mailboxInvalidRequest : Kind.Statement .mailboxInvalidRequest := ⟨rfl, rfl⟩
theorem Kind.launch : Kind.Statement .launch := ⟨rfl, rfl⟩
theorem Kind.copy : Kind.Statement .copy := ⟨rfl, rfl⟩
theorem Kind.copyComplete : Kind.Statement .copyComplete := ⟨rfl, rfl⟩
theorem Kind.packetNop : Kind.Statement .packetNop := ⟨rfl, rfl⟩
theorem Kind.signal : Kind.Statement .signal := ⟨rfl, rfl⟩
theorem Kind.wait : Kind.Statement .wait := ⟨rfl, rfl⟩
theorem Kind.waitEvaluate : Kind.Statement .waitEvaluate := ⟨rfl, rfl⟩
theorem Kind.waitTimeoutExpire : Kind.Statement .waitTimeoutExpire := ⟨rfl, rfl⟩
theorem Kind.write : Kind.Statement .write := ⟨rfl, rfl⟩
theorem Kind.writeSignal : Kind.Statement .writeSignal := ⟨rfl, rfl⟩
theorem Kind.cond : Kind.Statement .cond := ⟨rfl, rfl⟩
theorem Kind.loopPacket : Kind.Statement .loopPacket := ⟨rfl, rfl⟩
theorem Kind.switchPacket : Kind.Statement .switchPacket := ⟨rfl, rfl⟩
theorem Kind.timestamp : Kind.Statement .timestamp := ⟨rfl, rfl⟩
theorem Kind.schedulerTick : Kind.Statement .schedulerTick := ⟨rfl, rfl⟩
theorem Kind.ageStep : Kind.Statement .ageStep := ⟨rfl, rfl⟩
theorem Kind.queueUnbind : Kind.Statement .queueUnbind := ⟨rfl, rfl⟩
theorem Kind.queueBind : Kind.Statement .queueBind := ⟨rfl, rfl⟩
theorem Kind.periodicPending : Kind.Statement .periodicPending := ⟨rfl, rfl⟩
theorem Kind.periodicRelease : Kind.Statement .periodicRelease := ⟨rfl, rfl⟩
theorem Kind.deadlineExpire : Kind.Statement .deadlineExpire := ⟨rfl, rfl⟩
theorem Kind.leaseResidency : Kind.Statement .leaseResidency := ⟨rfl, rfl⟩
theorem Kind.leaseTimeout : Kind.Statement .leaseTimeout := ⟨rfl, rfl⟩
theorem Kind.placement : Kind.Statement .placement := ⟨rfl, rfl⟩
theorem Kind.place : Kind.Statement .place := ⟨rfl, rfl⟩
theorem Kind.go : Kind.Statement .go := ⟨rfl, rfl⟩
theorem Kind.save : Kind.Statement .save := ⟨rfl, rfl⟩
theorem Kind.restore : Kind.Statement .restore := ⟨rfl, rfl⟩
theorem Kind.kill : Kind.Statement .kill := ⟨rfl, rfl⟩
theorem Kind.freeTiles : Kind.Statement .freeTiles := ⟨rfl, rfl⟩
theorem Kind.placed : Kind.Statement .placed := ⟨rfl, rfl⟩
theorem Kind.fault : Kind.Statement .fault := ⟨rfl, rfl⟩
theorem Kind.saved : Kind.Statement .saved := ⟨rfl, rfl⟩
theorem Kind.estimate : Kind.Statement .estimate := ⟨rfl, rfl⟩
theorem Kind.sinks : Kind.Statement .sinks := ⟨rfl, rfl⟩
theorem Kind.freed : Kind.Statement .freed := ⟨rfl, rfl⟩
theorem Kind.plotControllerFailed : Kind.Statement .plotControllerFailed := ⟨rfl, rfl⟩
theorem Kind.plotFail : Kind.Statement .plotFail := ⟨rfl, rfl⟩
theorem Kind.headlandWatchdog : Kind.Statement .headlandWatchdog := ⟨rfl, rfl⟩
theorem Kind.firmwarePanic : Kind.Statement .firmwarePanic := ⟨rfl, rfl⟩
theorem Kind.baseDieUncorrectable : Kind.Statement .baseDieUncorrectable := ⟨rfl, rfl⟩
theorem Kind.arbiterReevaluate : Kind.Statement .arbiterReevaluate := ⟨rfl, rfl⟩
theorem Kind.coalesceWindowClose : Kind.Statement .coalesceWindowClose := ⟨rfl, rfl⟩
theorem Kind.grantTakeEffect : Kind.Statement .grantTakeEffect := ⟨rfl, rfl⟩
theorem Kind.thermalCapStep : Kind.Statement .thermalCapStep := ⟨rfl, rfl⟩
theorem Kind.thermalTrip : Kind.Statement .thermalTrip := ⟨rfl, rfl⟩
theorem Kind.droopStretch : Kind.Statement .droopStretch := ⟨rfl, rfl⟩
theorem Kind.tileSwitch : Kind.Statement .tileSwitch := ⟨rfl, rfl⟩
theorem Kind.homeRequest : Kind.Statement .homeRequest := ⟨rfl, rfl⟩
theorem Kind.chunkGrant : Kind.Statement .chunkGrant := ⟨rfl, rfl⟩
theorem Kind.firmwareSpaceNotice : Kind.Statement .firmwareSpaceNotice := ⟨rfl, rfl⟩
theorem Kind.tierExhausted : Kind.Statement .tierExhausted := ⟨rfl, rfl⟩
theorem Kind.compactionPage : Kind.Statement .compactionPage := ⟨rfl, rfl⟩
theorem Kind.demotionComplete : Kind.Statement .demotionComplete := ⟨rfl, rfl⟩
theorem Kind.ageScan : Kind.Statement .ageScan := ⟨rfl, rfl⟩
theorem Kind.shootdownComplete : Kind.Statement .shootdownComplete := ⟨rfl, rfl⟩
theorem Kind.recode : Kind.Statement .recode := ⟨rfl, rfl⟩
theorem Kind.heatUpdate : Kind.Statement .heatUpdate := ⟨rfl, rfl⟩
theorem Kind.rotationMove : Kind.Statement .rotationMove := ⟨rfl, rfl⟩
theorem Kind.thresholdAdjust : Kind.Statement .thresholdAdjust := ⟨rfl, rfl⟩
theorem Kind.tokenArrive : Kind.Statement .tokenArrive := ⟨rfl, rfl⟩
theorem Kind.overflowReinject : Kind.Statement .overflowReinject := ⟨rfl, rfl⟩
theorem Kind.overflowExhausted : Kind.Statement .overflowExhausted := ⟨rfl, rfl⟩
theorem Kind.ptimeoutExpire : Kind.Statement .ptimeoutExpire := ⟨rfl, rfl⟩
theorem Kind.acknowledgement : Kind.Statement .acknowledgement := ⟨rfl, rfl⟩
theorem Kind.unitClockGate : Kind.Statement .unitClockGate := ⟨rfl, rfl⟩
theorem Kind.firingIssue : Kind.Statement .firingIssue := ⟨rfl, rfl⟩
theorem Kind.codeletWaitTimeout : Kind.Statement .codeletWaitTimeout := ⟨rfl, rfl⟩
theorem Kind.barrierComplete : Kind.Statement .barrierComplete := ⟨rfl, rfl⟩
theorem Kind.sowerClose : Kind.Statement .sowerClose := ⟨rfl, rfl⟩
theorem Kind.stepBarrier : Kind.Statement .stepBarrier := ⟨rfl, rfl⟩
theorem Kind.sowerRowToken : Kind.Statement .sowerRowToken := ⟨rfl, rfl⟩
theorem Kind.sowerBufferToken : Kind.Statement .sowerBufferToken := ⟨rfl, rfl⟩
theorem Kind.groupRecord : Kind.Statement .groupRecord := ⟨rfl, rfl⟩
theorem Kind.binTokenArrive : Kind.Statement .binTokenArrive := ⟨rfl, rfl⟩
theorem Kind.binTimerExpire : Kind.Statement .binTimerExpire := ⟨rfl, rfl⟩
theorem Kind.binNotice : Kind.Statement .binNotice := ⟨rfl, rfl⟩
theorem Kind.binStepEndFiring : Kind.Statement .binStepEndFiring := ⟨rfl, rfl⟩
theorem Kind.combineResult : Kind.Statement .combineResult := ⟨rfl, rfl⟩
theorem Kind.batchReplay : Kind.Statement .batchReplay := ⟨rfl, rfl⟩
theorem Kind.collectiveAbort : Kind.Statement .collectiveAbort := ⟨rfl, rfl⟩
theorem Kind.matrixComplete : Kind.Statement .matrixComplete := ⟨rfl, rfl⟩
theorem Kind.engineCommandComplete : Kind.Statement .engineCommandComplete := ⟨rfl, rfl⟩
theorem Kind.nodeAdd (r : NodeRec) : Kind.Statement (.nodeAdd r) := ⟨rfl, rfl⟩
theorem Kind.nodeSub (r : NodeRec) : Kind.Statement (.nodeSub r) := ⟨rfl, rfl⟩
theorem Kind.nodeMul (r : NodeRec) : Kind.Statement (.nodeMul r) := ⟨rfl, rfl⟩
theorem Kind.nodeAnd (r : NodeRec) : Kind.Statement (.nodeAnd r) := ⟨rfl, rfl⟩
theorem Kind.nodeOr (r : NodeRec) : Kind.Statement (.nodeOr r) := ⟨rfl, rfl⟩
theorem Kind.nodeXor (r : NodeRec) : Kind.Statement (.nodeXor r) := ⟨rfl, rfl⟩
theorem Kind.nodeShl (r : NodeRec) : Kind.Statement (.nodeShl r) := ⟨rfl, rfl⟩
theorem Kind.nodeShr (r : NodeRec) : Kind.Statement (.nodeShr r) := ⟨rfl, rfl⟩
theorem Kind.nodeSar (r : NodeRec) : Kind.Statement (.nodeSar r) := ⟨rfl, rfl⟩
theorem Kind.nodeMin (r : NodeRec) : Kind.Statement (.nodeMin r) := ⟨rfl, rfl⟩
theorem Kind.nodeMax (r : NodeRec) : Kind.Statement (.nodeMax r) := ⟨rfl, rfl⟩
theorem Kind.nodeCmp (r : NodeRec) : Kind.Statement (.nodeCmp r) := ⟨rfl, rfl⟩
theorem Kind.nodeSel (r : NodeRec) : Kind.Statement (.nodeSel r) := ⟨rfl, rfl⟩
theorem Kind.nodeDup (r : NodeRec) : Kind.Statement (.nodeDup r) := ⟨rfl, rfl⟩
theorem Kind.nodeSteer (r : NodeRec) : Kind.Statement (.nodeSteer r) := ⟨rfl, rfl⟩
theorem Kind.nodeMerge (r : NodeRec) : Kind.Statement (.nodeMerge r) := ⟨rfl, rfl⟩
theorem Kind.nodeSwitch (r : NodeRec) : Kind.Statement (.nodeSwitch r) := ⟨rfl, rfl⟩
theorem Kind.nodeGate (r : NodeRec) : Kind.Statement (.nodeGate r) := ⟨rfl, rfl⟩
theorem Kind.nodeSink (r : NodeRec) : Kind.Statement (.nodeSink r) := ⟨rfl, rfl⟩
theorem Kind.nodeConst (r : NodeRec) : Kind.Statement (.nodeConst r) := ⟨rfl, rfl⟩
theorem Kind.nodeTagin (r : NodeRec) : Kind.Statement (.nodeTagin r) := ⟨rfl, rfl⟩
theorem Kind.nodeTagnext (r : NodeRec) : Kind.Statement (.nodeTagnext r) := ⟨rfl, rfl⟩
theorem Kind.nodeTagout (r : NodeRec) : Kind.Statement (.nodeTagout r) := ⟨rfl, rfl⟩
theorem Kind.nodeTagset (r : NodeRec) : Kind.Statement (.nodeTagset r) := ⟨rfl, rfl⟩
theorem Kind.nodeCount (r : NodeRec) : Kind.Statement (.nodeCount r) := ⟨rfl, rfl⟩
theorem Kind.nodeBin (r : NodeRec) : Kind.Statement (.nodeBin r) := ⟨rfl, rfl⟩
theorem Kind.nodeJoin (r : NodeRec) : Kind.Statement (.nodeJoin r) := ⟨rfl, rfl⟩
theorem Kind.nodeCwait (r : NodeRec) : Kind.Statement (.nodeCwait r) := ⟨rfl, rfl⟩
theorem Kind.nodeFire (r : NodeRec) : Kind.Statement (.nodeFire r) := ⟨rfl, rfl⟩
theorem Kind.nodeMctl (r : NodeRec) : Kind.Statement (.nodeMctl r) := ⟨rfl, rfl⟩
theorem Kind.nodeIsect (r : NodeRec) : Kind.Statement (.nodeIsect r) := ⟨rfl, rfl⟩
theorem Kind.nodeSendx (r : NodeRec) : Kind.Statement (.nodeSendx r) := ⟨rfl, rfl⟩
theorem Kind.nodeLds (r : NodeRec) : Kind.Statement (.nodeLds r) := ⟨rfl, rfl⟩
theorem Kind.nodeSts (r : NodeRec) : Kind.Statement (.nodeSts r) := ⟨rfl, rfl⟩
theorem Kind.nodePchk (r : NodeRec) : Kind.Statement (.nodePchk r) := ⟨rfl, rfl⟩
theorem Kind.add (w : RWord) : Kind.Statement (.add w) := ⟨rfl, rfl⟩
theorem Kind.sub (w : RWord) : Kind.Statement (.sub w) := ⟨rfl, rfl⟩
theorem Kind.mul (w : RWord) : Kind.Statement (.mul w) := ⟨rfl, rfl⟩
theorem Kind.mulh (w : RWord) : Kind.Statement (.mulh w) := ⟨rfl, rfl⟩
theorem Kind.div (w : RWord) : Kind.Statement (.div w) := ⟨rfl, rfl⟩
theorem Kind.rem (w : RWord) : Kind.Statement (.rem w) := ⟨rfl, rfl⟩
theorem Kind.andR (w : RWord) : Kind.Statement (.andR w) := ⟨rfl, rfl⟩
theorem Kind.orR (w : RWord) : Kind.Statement (.orR w) := ⟨rfl, rfl⟩
theorem Kind.xor (w : RWord) : Kind.Statement (.xor w) := ⟨rfl, rfl⟩
theorem Kind.andn (w : RWord) : Kind.Statement (.andn w) := ⟨rfl, rfl⟩
theorem Kind.notR (w : RWord) : Kind.Statement (.notR w) := ⟨rfl, rfl⟩
theorem Kind.shl (w : RWord) : Kind.Statement (.shl w) := ⟨rfl, rfl⟩
theorem Kind.shr (w : RWord) : Kind.Statement (.shr w) := ⟨rfl, rfl⟩
theorem Kind.sar (w : RWord) : Kind.Statement (.sar w) := ⟨rfl, rfl⟩
theorem Kind.rotl (w : RWord) : Kind.Statement (.rotl w) := ⟨rfl, rfl⟩
theorem Kind.clz (w : RWord) : Kind.Statement (.clz w) := ⟨rfl, rfl⟩
theorem Kind.ctz (w : RWord) : Kind.Statement (.ctz w) := ⟨rfl, rfl⟩
theorem Kind.popc (w : RWord) : Kind.Statement (.popc w) := ⟨rfl, rfl⟩
theorem Kind.min (w : RWord) : Kind.Statement (.min w) := ⟨rfl, rfl⟩
theorem Kind.max (w : RWord) : Kind.Statement (.max w) := ⟨rfl, rfl⟩
theorem Kind.abs (w : RWord) : Kind.Statement (.abs w) := ⟨rfl, rfl⟩
theorem Kind.neg (w : RWord) : Kind.Statement (.neg w) := ⟨rfl, rfl⟩
theorem Kind.extR (w : RWord) : Kind.Statement (.extR w) := ⟨rfl, rfl⟩
theorem Kind.bext (w : RWord) : Kind.Statement (.bext w) := ⟨rfl, rfl⟩
theorem Kind.bdep (w : RWord) : Kind.Statement (.bdep w) := ⟨rfl, rfl⟩
theorem Kind.mov (w : RWord) : Kind.Statement (.mov w) := ⟨rfl, rfl⟩
theorem Kind.movi (w : IWord) : Kind.Statement (.movi w) := ⟨rfl, rfl⟩
theorem Kind.moviHi (w : IWord) : Kind.Statement (.moviHi w) := ⟨rfl, rfl⟩
theorem Kind.lea (w : RWord) : Kind.Statement (.lea w) := ⟨rfl, rfl⟩
theorem Kind.addI (w : IWord) : Kind.Statement (.addI w) := ⟨rfl, rfl⟩
theorem Kind.subI (w : IWord) : Kind.Statement (.subI w) := ⟨rfl, rfl⟩
theorem Kind.mulI (w : IWord) : Kind.Statement (.mulI w) := ⟨rfl, rfl⟩
theorem Kind.andI (w : IWord) : Kind.Statement (.andI w) := ⟨rfl, rfl⟩
theorem Kind.orI (w : IWord) : Kind.Statement (.orI w) := ⟨rfl, rfl⟩
theorem Kind.xorI (w : IWord) : Kind.Statement (.xorI w) := ⟨rfl, rfl⟩
theorem Kind.andnI (w : IWord) : Kind.Statement (.andnI w) := ⟨rfl, rfl⟩
theorem Kind.shlI (w : IWord) : Kind.Statement (.shlI w) := ⟨rfl, rfl⟩
theorem Kind.shrI (w : IWord) : Kind.Statement (.shrI w) := ⟨rfl, rfl⟩
theorem Kind.sarI (w : IWord) : Kind.Statement (.sarI w) := ⟨rfl, rfl⟩
theorem Kind.rotlI (w : IWord) : Kind.Statement (.rotlI w) := ⟨rfl, rfl⟩
theorem Kind.minI (w : IWord) : Kind.Statement (.minI w) := ⟨rfl, rfl⟩
theorem Kind.maxI (w : IWord) : Kind.Statement (.maxI w) := ⟨rfl, rfl⟩
theorem Kind.cmpI (w : IWord) : Kind.Statement (.cmpI w) := ⟨rfl, rfl⟩
theorem Kind.cmp (w : RWord) : Kind.Statement (.cmp w) := ⟨rfl, rfl⟩
theorem Kind.tst (w : RWord) : Kind.Statement (.tst w) := ⟨rfl, rfl⟩
theorem Kind.sel (w : RWord) : Kind.Statement (.sel w) := ⟨rfl, rfl⟩
theorem Kind.pand (w : RWord) : Kind.Statement (.pand w) := ⟨rfl, rfl⟩
theorem Kind.por (w : RWord) : Kind.Statement (.por w) := ⟨rfl, rfl⟩
theorem Kind.pnot (w : RWord) : Kind.Statement (.pnot w) := ⟨rfl, rfl⟩
theorem Kind.fadd (w : RWord) : Kind.Statement (.fadd w) := ⟨rfl, rfl⟩
theorem Kind.fsub (w : RWord) : Kind.Statement (.fsub w) := ⟨rfl, rfl⟩
theorem Kind.fmul (w : RWord) : Kind.Statement (.fmul w) := ⟨rfl, rfl⟩
theorem Kind.ffma (w : RWord) : Kind.Statement (.ffma w) := ⟨rfl, rfl⟩
theorem Kind.fdiv (w : RWord) : Kind.Statement (.fdiv w) := ⟨rfl, rfl⟩
theorem Kind.fsqrt (w : RWord) : Kind.Statement (.fsqrt w) := ⟨rfl, rfl⟩
theorem Kind.fmin (w : RWord) : Kind.Statement (.fmin w) := ⟨rfl, rfl⟩
theorem Kind.fmax (w : RWord) : Kind.Statement (.fmax w) := ⟨rfl, rfl⟩
theorem Kind.fabs (w : RWord) : Kind.Statement (.fabs w) := ⟨rfl, rfl⟩
theorem Kind.fneg (w : RWord) : Kind.Statement (.fneg w) := ⟨rfl, rfl⟩
theorem Kind.fcmp (w : RWord) : Kind.Statement (.fcmp w) := ⟨rfl, rfl⟩
theorem Kind.fcvt (w : RWord) : Kind.Statement (.fcvt w) := ⟨rfl, rfl⟩
theorem Kind.fclass (w : RWord) : Kind.Statement (.fclass w) := ⟨rfl, rfl⟩
theorem Kind.send (w : EWord) : Kind.Statement (.send w) := ⟨rfl, rfl⟩
theorem Kind.sendv (w : EWord) : Kind.Statement (.sendv w) := ⟨rfl, rfl⟩
theorem Kind.sendx (w : EWord) : Kind.Statement (.sendx w) := ⟨rfl, rfl⟩
theorem Kind.emit (w : EWord) : Kind.Statement (.emit w) := ⟨rfl, rfl⟩
theorem Kind.tagmk (w : RWord) : Kind.Statement (.tagmk w) := ⟨rfl, rfl⟩
theorem Kind.pchk (w : RWord) : Kind.Statement (.pchk w) := ⟨rfl, rfl⟩
theorem Kind.poison (w : RWord) : Kind.Statement (.poison w) := ⟨rfl, rfl⟩
theorem Kind.done (w : RWord) : Kind.Statement (.done w) := ⟨rfl, rfl⟩
theorem Kind.rdsr (w : IWord) : Kind.Statement (.rdsr w) := ⟨rfl, rfl⟩
theorem Kind.wrsr (w : IWord) : Kind.Statement (.wrsr w) := ⟨rfl, rfl⟩
theorem Kind.trap (w : IWord) : Kind.Statement (.trap w) := ⟨rfl, rfl⟩
theorem Kind.brk (w : IWord) : Kind.Statement (.brk w) := ⟨rfl, rfl⟩
theorem Kind.nop (w : RWord) : Kind.Statement (.nop w) := ⟨rfl, rfl⟩
theorem Kind.clkreq (w : RWord) : Kind.Statement (.clkreq w) := ⟨rfl, rfl⟩
theorem Kind.kick (w : RWord) : Kind.Statement (.kick w) := ⟨rfl, rfl⟩
theorem Kind.winld (w : RWord) : Kind.Statement (.winld w) := ⟨rfl, rfl⟩
theorem Kind.cflush (w : RWord) : Kind.Statement (.cflush w) := ⟨rfl, rfl⟩
theorem Kind.halt (w : RWord) : Kind.Statement (.halt w) := ⟨rfl, rfl⟩
theorem Kind.pgrecode (w : RWord) : Kind.Statement (.pgrecode w) := ⟨rfl, rfl⟩
theorem Kind.vadd (w : VWord) : Kind.Statement (.vadd w) := ⟨rfl, rfl⟩
theorem Kind.vsub (w : VWord) : Kind.Statement (.vsub w) := ⟨rfl, rfl⟩
theorem Kind.vmul (w : VWord) : Kind.Statement (.vmul w) := ⟨rfl, rfl⟩
theorem Kind.vfma (w : VWord) : Kind.Statement (.vfma w) := ⟨rfl, rfl⟩
theorem Kind.vmin (w : VWord) : Kind.Statement (.vmin w) := ⟨rfl, rfl⟩
theorem Kind.vmax (w : VWord) : Kind.Statement (.vmax w) := ⟨rfl, rfl⟩
theorem Kind.vabs (w : VWord) : Kind.Statement (.vabs w) := ⟨rfl, rfl⟩
theorem Kind.vneg (w : VWord) : Kind.Statement (.vneg w) := ⟨rfl, rfl⟩
theorem Kind.vand (w : VWord) : Kind.Statement (.vand w) := ⟨rfl, rfl⟩
theorem Kind.vor (w : VWord) : Kind.Statement (.vor w) := ⟨rfl, rfl⟩
theorem Kind.vxor (w : VWord) : Kind.Statement (.vxor w) := ⟨rfl, rfl⟩
theorem Kind.vshl (w : VWord) : Kind.Statement (.vshl w) := ⟨rfl, rfl⟩
theorem Kind.vshr (w : VWord) : Kind.Statement (.vshr w) := ⟨rfl, rfl⟩
theorem Kind.vsar (w : VWord) : Kind.Statement (.vsar w) := ⟨rfl, rfl⟩
theorem Kind.vexp2 (w : VWord) : Kind.Statement (.vexp2 w) := ⟨rfl, rfl⟩
theorem Kind.vlog2 (w : VWord) : Kind.Statement (.vlog2 w) := ⟨rfl, rfl⟩
theorem Kind.vrcp (w : VWord) : Kind.Statement (.vrcp w) := ⟨rfl, rfl⟩
theorem Kind.vrsq (w : VWord) : Kind.Statement (.vrsq w) := ⟨rfl, rfl⟩
theorem Kind.vtanh (w : VWord) : Kind.Statement (.vtanh w) := ⟨rfl, rfl⟩
theorem Kind.vsigm (w : VWord) : Kind.Statement (.vsigm w) := ⟨rfl, rfl⟩
theorem Kind.vgelu (w : VWord) : Kind.Statement (.vgelu w) := ⟨rfl, rfl⟩
theorem Kind.vsilu (w : VWord) : Kind.Statement (.vsilu w) := ⟨rfl, rfl⟩
theorem Kind.vcvt (w : VWord) : Kind.Statement (.vcvt w) := ⟨rfl, rfl⟩
theorem Kind.vcmp (w : VWord) : Kind.Statement (.vcmp w) := ⟨rfl, rfl⟩
theorem Kind.vsel (w : VWord) : Kind.Statement (.vsel w) := ⟨rfl, rfl⟩
theorem Kind.vbcast (w : VWord) : Kind.Statement (.vbcast w) := ⟨rfl, rfl⟩
theorem Kind.vmov (w : VWord) : Kind.Statement (.vmov w) := ⟨rfl, rfl⟩
theorem Kind.vperm (w : VWord) : Kind.Statement (.vperm w) := ⟨rfl, rfl⟩
theorem Kind.vrot (w : VWord) : Kind.Statement (.vrot w) := ⟨rfl, rfl⟩
theorem Kind.vredsum (w : VWord) : Kind.Statement (.vredsum w) := ⟨rfl, rfl⟩
theorem Kind.vredmax (w : VWord) : Kind.Statement (.vredmax w) := ⟨rfl, rfl⟩
theorem Kind.vredmin (w : VWord) : Kind.Statement (.vredmin w) := ⟨rfl, rfl⟩
theorem Kind.vscan (w : VWord) : Kind.Statement (.vscan w) := ⟨rfl, rfl⟩
theorem Kind.vtopk (w : VWord) : Kind.Statement (.vtopk w) := ⟨rfl, rfl⟩
theorem Kind.vquant (w : VWord) : Kind.Statement (.vquant w) := ⟨rfl, rfl⟩
theorem Kind.vdequant (w : VWord) : Kind.Statement (.vdequant w) := ⟨rfl, rfl⟩
theorem Kind.vld (w : VWord) : Kind.Statement (.vld w) := ⟨rfl, rfl⟩
theorem Kind.vldPort (w : VWord) : Kind.Statement (.vldPort w) := ⟨rfl, rfl⟩
theorem Kind.vst (w : VWord) : Kind.Statement (.vst w) := ⟨rfl, rfl⟩
theorem Kind.vldx (w : VWord) : Kind.Statement (.vldx w) := ⟨rfl, rfl⟩
theorem Kind.vstx (w : VWord) : Kind.Statement (.vstx w) := ⟨rfl, rfl⟩
theorem Kind.hfwd (w : VWord) : Kind.Statement (.hfwd w) := ⟨rfl, rfl⟩
theorem Kind.hinv (w : VWord) : Kind.Statement (.hinv w) := ⟨rfl, rfl⟩
theorem Kind.hthr (w : VWord) : Kind.Statement (.hthr w) := ⟨rfl, rfl⟩
theorem Kind.hexp (w : VWord) : Kind.Statement (.hexp w) := ⟨rfl, rfl⟩
theorem Kind.hbias (w : VWord) : Kind.Statement (.hbias w) := ⟨rfl, rfl⟩
theorem Kind.dtag (w : VWord) : Kind.Statement (.dtag w) := ⟨rfl, rfl⟩
theorem Kind.dtget (w : VWord) : Kind.Statement (.dtget w) := ⟨rfl, rfl⟩
theorem Kind.thset (w : VWord) : Kind.Statement (.thset w) := ⟨rfl, rfl⟩
theorem Kind.mma (w : SWord) : Kind.Statement (.mma w) := ⟨rfl, rfl⟩
theorem Kind.mmag (w : SWord) : Kind.Statement (.mmag w) := ⟨rfl, rfl⟩
theorem Kind.mmas (w : SWord) : Kind.Statement (.mmas w) := ⟨rfl, rfl⟩
theorem Kind.macz (w : SWord) : Kind.Statement (.macz w) := ⟨rfl, rfl⟩
theorem Kind.macld (w : SWord) : Kind.Statement (.macld w) := ⟨rfl, rfl⟩
theorem Kind.macldSpad (w : SWord) : Kind.Statement (.macldSpad w) := ⟨rfl, rfl⟩
theorem Kind.macst (w : SWord) : Kind.Statement (.macst w) := ⟨rfl, rfl⟩
theorem Kind.macstSpad (w : SWord) : Kind.Statement (.macstSpad w) := ⟨rfl, rfl⟩
theorem Kind.mtr (w : SWord) : Kind.Statement (.mtr w) := ⟨rfl, rfl⟩
theorem Kind.mburst (w : SWord) : Kind.Statement (.mburst w) := ⟨rfl, rfl⟩
theorem Kind.srld (w : SWord) : Kind.Statement (.srld w) := ⟨rfl, rfl⟩
theorem Kind.srfence (w : SWord) : Kind.Statement (.srfence w) := ⟨rfl, rfl⟩
theorem Kind.mwait (w : SWord) : Kind.Statement (.mwait w) := ⟨rfl, rfl⟩
theorem Kind.ld (w : MWord) : Kind.Statement (.ld w) := ⟨rfl, rfl⟩
theorem Kind.st (w : MWord) : Kind.Statement (.st w) := ⟨rfl, rfl⟩
theorem Kind.sopen (w : MWord) : Kind.Statement (.sopen w) := ⟨rfl, rfl⟩
theorem Kind.sclose (w : MWord) : Kind.Statement (.sclose w) := ⟨rfl, rfl⟩
theorem Kind.sld (w : MWord) : Kind.Statement (.sld w) := ⟨rfl, rfl⟩
theorem Kind.sst (w : MWord) : Kind.Statement (.sst w) := ⟨rfl, rfl⟩
theorem Kind.sldSlab (w : MWord) : Kind.Statement (.sldSlab w) := ⟨rfl, rfl⟩
theorem Kind.sstSlab (w : MWord) : Kind.Statement (.sstSlab w) := ⟨rfl, rfl⟩
theorem Kind.sbar (w : MWord) : Kind.Statement (.sbar w) := ⟨rfl, rfl⟩
theorem Kind.pref (w : MWord) : Kind.Statement (.pref w) := ⟨rfl, rfl⟩
theorem Kind.fence (w : MWord) : Kind.Statement (.fence w) := ⟨rfl, rfl⟩
theorem Kind.aadd (w : MWord) : Kind.Statement (.aadd w) := ⟨rfl, rfl⟩
theorem Kind.aaddf (w : MWord) : Kind.Statement (.aaddf w) := ⟨rfl, rfl⟩
theorem Kind.amin (w : MWord) : Kind.Statement (.amin w) := ⟨rfl, rfl⟩
theorem Kind.amax (w : MWord) : Kind.Statement (.amax w) := ⟨rfl, rfl⟩
theorem Kind.aand (w : MWord) : Kind.Statement (.aand w) := ⟨rfl, rfl⟩
theorem Kind.aor (w : MWord) : Kind.Statement (.aor w) := ⟨rfl, rfl⟩
theorem Kind.axor (w : MWord) : Kind.Statement (.axor w) := ⟨rfl, rfl⟩
theorem Kind.axch (w : MWord) : Kind.Statement (.axch w) := ⟨rfl, rfl⟩
theorem Kind.acas (w : MWord) : Kind.Statement (.acas w) := ⟨rfl, rfl⟩
theorem Kind.cpy (w : EWord) : Kind.Statement (.cpy w) := ⟨rfl, rfl⟩
theorem Kind.cpyf (w : EWord) : Kind.Statement (.cpyf w) := ⟨rfl, rfl⟩
theorem Kind.gath (w : EWord) : Kind.Statement (.gath w) := ⟨rfl, rfl⟩
theorem Kind.scat (w : EWord) : Kind.Statement (.scat w) := ⟨rfl, rfl⟩
theorem Kind.coll (w : EWord) : Kind.Statement (.coll w) := ⟨rfl, rfl⟩
theorem Kind.mcrd (w : EWord) : Kind.Statement (.mcrd w) := ⟨rfl, rfl⟩
theorem Kind.tlrd (w : EWord) : Kind.Statement (.tlrd w) := ⟨rfl, rfl⟩
theorem Kind.tlwait (w : EWord) : Kind.Statement (.tlwait w) := ⟨rfl, rfl⟩
theorem Kind.tltest (w : EWord) : Kind.Statement (.tltest w) := ⟨rfl, rfl⟩
theorem Kind.epf (w : EWord) : Kind.Statement (.epf w) := ⟨rfl, rfl⟩
theorem Kind.apf (w : EWord) : Kind.Statement (.apf w) := ⟨rfl, rfl⟩
theorem Kind.bar (w : EWord) : Kind.Statement (.bar w) := ⟨rfl, rfl⟩
theorem Kind.csig (w : EWord) : Kind.Statement (.csig w) := ⟨rfl, rfl⟩
theorem Kind.stepend (w : EWord) : Kind.Statement (.stepend w) := ⟨rfl, rfl⟩
theorem Kind.sensorRefresh : Kind.Statement .sensorRefresh := ⟨rfl, rfl⟩
theorem Kind.tierMoveCommit : Kind.Statement .tierMoveCommit := ⟨rfl, rfl⟩
theorem Kind.collectiveSaveExpire : Kind.Statement .collectiveSaveExpire := ⟨rfl, rfl⟩

end Sys2Proof.Laws
end

