-- ==== Sys2Proof/Laws/Words.lean ====
section
/-! SUPPORT. What the shared frames of codelet words and firings do: every case of `runWordE`, `WRes.mend`, `finishWord`, `locked`,
`advance`, `vecWord`, `matWord`, `scalarWord` and `runNode`, said once. -/

namespace Sys2Proof.Laws

open Sys2Proof Sys2Proof.Machine

/-- The slot runs words: it is neither free, stopped nor at its end. -/
def Runnable (sl : Slot) : Prop := sl.phase = .running ∨ ∃ n, sl.phase = .waiting n

theorem Runnable.dead {sl : Slot} (h : Runnable sl) : (sl.phase = .free || sl.phase = .stopped || sl.phase = .draining) = false := by
  rcases h with h | ⟨n, h⟩ <;> simp [h]

/-- A tile with no word in error meets no parity error. -/
theorem parityBad_sound {tl : Tile} (h : tl.badWords = []) (ks : List Nat) : parityBad tl ks = false := by simp [parityBad, h]

theorem mendTile_sound {s : State} {t : Nat} (h : (tileOf s t).badWords = []) (ks : List Nat) : mendTile s t ks = s := by
  simp [mendTile, parityBad_sound h]

/-- What a word that completes leaves of the words in error. -/
@[simp] theorem mend_go (t : Nat) (ks : List Nat) (s : State) : WRes.mend t ks (.go s) = .go (mendTile s t ks) := rfl
@[simp] theorem mend_fin (t : Nat) (ks : List Nat) (s : State) : WRes.mend t ks (.fin s) = .fin s := rfl
@[simp] theorem mend_fault (t : Nat) (ks : List Nat) (s : State) (p : Poison) : WRes.mend t ks (.fault s p) = .fault s p := rfl
@[simp] theorem mend_wait (t : Nat) (ks : List Nat) (s : State) : WRes.mend t ks (.wait s) = .wait s := rfl
@[simp] theorem mend_stop (t : Nat) (ks : List Nat) (s : State) : WRes.mend t ks (.stop s) = .stop s := rfl

section Frame

variable {g : Guard} {enc : State → Nat → Slot → Bool} {sc : Bool} {srcs ds : List SOp} {ps : List (BitVec 2)}
  {f : Nat → Fin 4 → Slot → Bool → State → WRes} {s : State} {t : Nat} {k : Fin 4}

theorem runWordE_other (h : ∀ t k, s.focus ≠ .slot t k) : runWordE g enc sc srcs ds ps f s = .next s := by
  unfold runWordE; split
  · exact absurd ‹_› (h _ _)
  · rfl

theorem runWordE_dead (h : s.focus = .slot t k)
    (hd : (slotOf s t k).phase = .free ∨ (slotOf s t k).phase = .stopped ∨ (slotOf s t k).phase = .draining) :
    runWordE g enc sc srcs ds ps f s = .next s := by
  rw [runWordE, h]; rcases hd with h | h | h <;> simp [h]

theorem runWordE_waits (h : s.focus = .slot t k) (hr : Runnable (slotOf s t k))
    (hp : (srcs ++ ds).any (opPending (slotOf s t k)) = true) :
    runWordE g enc sc srcs ds ps f s = .next (waitWord s t k) := by
  have := hr.dead
  simp only [runWordE, h, this, hp, if_true, Bool.false_eq_true, if_false]

/-- A guard in error delivers its poison (R299). -/
theorem runWordE_guard_bad (h : s.focus = .slot t k) (hr : Runnable (slotOf s t k))
    (hp : (srcs ++ ds).any (opPending (slotOf s t k)) = false) (hg : g.ge = true)
    (hb : parityBad (tileOf s t) [badPred k g.gp] = true) :
    runWordE g enc sc srcs ds ps f s = .next (faultCodelet s t k (slotPoison s t k cUncorrectable)) := by
  have := hr.dead
  simp only [runWordE, h, this, hp, hg, hb, Bool.false_eq_true, if_false, Bool.and_self, if_true] <;> rfl

theorem runWordE_marked (h : s.focus = .slot t k) (hr : Runnable (slotOf s t k))
    (hp : (srcs ++ ds).any (opPending (slotOf s t k)) = false) (hb : parityBad (tileOf s t) [badPred k g.gp] = false)
    (hg : g.ge = true) (hm : (slotOf s t k).pm[pIdx g.gp] = true) (hs : sc = false) :
    runWordE g enc sc srcs ds ps f s = .next (faultCodelet s t k (slotPoison s t k cNondet)) := by
  have := hr.dead
  simp only [runWordE, h, this, hp, hb, hg, hm, hs, Bool.and_false, Bool.false_eq_true, if_false, Bool.not_false, Bool.and_self,
    if_true] <;> rfl

theorem runWordE_false (h : s.focus = .slot t k) (hr : Runnable (slotOf s t k))
    (hp : (srcs ++ ds).any (opPending (slotOf s t k)) = false) (hb : parityBad (tileOf s t) [badPred k g.gp] = false)
    (hg : g.ge = true) (hf : (slotOf s t k).p[pIdx g.gp] = g.gn) (hm : ((slotOf s t k).pm[pIdx g.gp] && !sc) = false) :
    runWordE g enc sc srcs ds ps f s = .next (if enc s t (slotOf s t k) then faultCodelet s t k (slotPoison s t k cIllegal)
      else advance (if (slotOf s t k).pm[pIdx g.gp] then setSlot s t k (markDests (slotOf s t k) ds ps) else s) t k) := by
  have := hr.dead
  simp only [runWordE, h, this, hp, hb, hg, hf, hm, Bool.and_false, Bool.false_eq_true, if_false, Bool.true_and, decide_true, if_true]
  by_cases he : enc s t (slotOf s t k) = true
  · simp only [he, if_true]; rfl
  · simp only [he, if_false, Bool.false_eq_true]; rfl

/-- The word is performed when its guard is off or holds, no marked guard stands against it and it reads nothing in error. -/
theorem runWordE_runs (h : s.focus = .slot t k) (hr : Runnable (slotOf s t k))
    (hp : (srcs ++ ds).any (opPending (slotOf s t k)) = false)
    (hb : (g.ge && parityBad (tileOf s t) [badPred k g.gp]) = false) (hf : g.ge = true → (slotOf s t k).p[pIdx g.gp] = !g.gn)
    (hm : (g.ge && (slotOf s t k).pm[pIdx g.gp] && !sc) = false) (ht : parityBad (tileOf s t) (tempKeys k srcs) = false) :
    runWordE g enc sc srcs ds ps f s = .next (finishWord t k
      ((f t k (slotOf s t k) (g.ge && (slotOf s t k).pm[pIdx g.gp]) s).mend t (tempKeys k ds ++ ps.map (badPred k)))) := by
  have := hr.dead
  have hg : (g.ge && decide ((slotOf s t k).p[pIdx g.gp] = g.gn)) = false := by
    cases hge : g.ge
    · rfl
    · rw [hf hge]; cases g.gn <;> rfl
  simp only [runWordE, h, this, hp, hb, hm, hg, ht, Bool.false_eq_true, if_false]

/-- A temporary it reads is in error: its poison is delivered (R299). -/
theorem runWordE_temp_bad (h : s.focus = .slot t k) (hr : Runnable (slotOf s t k))
    (hp : (srcs ++ ds).any (opPending (slotOf s t k)) = false)
    (hb : (g.ge && parityBad (tileOf s t) [badPred k g.gp]) = false) (hf : g.ge = true → (slotOf s t k).p[pIdx g.gp] = !g.gn)
    (hm : (g.ge && (slotOf s t k).pm[pIdx g.gp] && !sc) = false) (ht : parityBad (tileOf s t) (tempKeys k srcs) = true) :
    runWordE g enc sc srcs ds ps f s = .next (faultCodelet s t k (slotPoison s t k cUncorrectable)) := by
  have := hr.dead
  have hg : (g.ge && decide ((slotOf s t k).p[pIdx g.gp] = g.gn)) = false := by
    cases hge : g.ge
    · rfl
    · rw [hf hge]; cases g.gn <;> rfl
  simp only [runWordE, h, this, hp, hb, hm, hg, ht, Bool.false_eq_true, if_false, if_true] <;> rfl

/-- Everything a word's frame can do in a slot that runs: wait, fault, pass over, or perform. -/
theorem runWordE_cases (h : s.focus = .slot t k) (hr : Runnable (slotOf s t k)) :
    runWordE g enc sc srcs ds ps f s = .next (waitWord s t k)
    ∨ (∃ c, (c = cNondet ∨ c = cIllegal ∨ c = cUncorrectable)
        ∧ runWordE g enc sc srcs ds ps f s = .next (faultCodelet s t k (slotPoison s t k c)))
    ∨ runWordE g enc sc srcs ds ps f s = .next (advance s t k)
    ∨ runWordE g enc sc srcs ds ps f s = .next (advance (setSlot s t k (markDests (slotOf s t k) ds ps)) t k)
    ∨ ∃ gm, runWordE g enc sc srcs ds ps f s
        = .next (finishWord t k ((f t k (slotOf s t k) gm s).mend t (tempKeys k ds ++ ps.map (badPred k)))) := by
  by_cases hp : (srcs ++ ds).any (opPending (slotOf s t k)) = true
  · exact .inl (runWordE_waits h hr hp)
  have hp : (srcs ++ ds).any (opPending (slotOf s t k)) = false := by simpa using hp
  by_cases hb : (g.ge && parityBad (tileOf s t) [badPred k g.gp]) = true
  · simp only [Bool.and_eq_true] at hb
    exact .inr (.inl ⟨_, .inr (.inr rfl), runWordE_guard_bad h hr hp hb.1 hb.2⟩)
  have hb : (g.ge && parityBad (tileOf s t) [badPred k g.gp]) = false := by simpa using hb
  by_cases hm : (g.ge && (slotOf s t k).pm[pIdx g.gp] && !sc) = true
  · simp only [Bool.and_eq_true, Bool.not_eq_true'] at hm
    exact .inr (.inl ⟨_, .inl rfl, runWordE_marked h hr hp (by simpa [hm.1.1] using hb) hm.1.1 hm.1.2 hm.2⟩)
  have hm : (g.ge && (slotOf s t k).pm[pIdx g.gp] && !sc) = false := by simpa using hm
  by_cases hg : g.ge = true ∧ (slotOf s t k).p[pIdx g.gp] = g.gn
  · have e := runWordE_false (enc := enc) (f := f) (ps := ps) h hr hp (by simpa [hg.1] using hb) hg.1 hg.2 (by simpa [hg.1] using hm)
    by_cases he : enc s t (slotOf s t k) = true
    · exact .inr (.inl ⟨_, .inr (.inl rfl), by rw [e, if_pos he]⟩)
    · rw [if_neg he] at e
      by_cases hq : (slotOf s t k).pm[pIdx g.gp] = true
      · rw [if_pos hq] at e; exact .inr (.inr (.inr (.inl e)))
      · rw [if_neg hq] at e; exact .inr (.inr (.inl e))
  · have hf : g.ge = true → (slotOf s t k).p[pIdx g.gp] = !g.gn := fun a => by
      have : ¬ (slotOf s t k).p[pIdx g.gp] = g.gn := fun b => hg ⟨a, b⟩
      cases hx : (slotOf s t k).p[pIdx g.gp] <;> cases hy : g.gn <;> simp_all
    by_cases ht : parityBad (tileOf s t) (tempKeys k srcs) = true
    · exact .inr (.inl ⟨_, .inr (.inr rfl), runWordE_temp_bad h hr hp hb hf hm ht⟩)
    · exact .inr (.inr (.inr (.inr ⟨_, runWordE_runs h hr hp hb hf hm (by simpa using ht)⟩)))

end Frame

/-- A word that touches nothing still owed is performed. -/
theorem locked_free {s : State} {t : Nat} {k : Fin 4} {fo : Foot} {f : State → WRes}
    (h1 : ∀ m ∈ (tileOf s t).mat, m.id ∈ (slotOf s t k).mats → m.foot.meets fo = false) (h2 : groupPending s t k fo = false)
    (h3 : ∀ m ∈ (slotOf s t k).mfault, m.1.meets fo = false) : locked s t k fo f = f s := by
  have a : (tileOf s t).mat.any (fun m => (slotOf s t k).mats.contains m.id && m.foot.meets fo) = false := by
    rw [List.any_eq_false]; intro m hm; simp only [Bool.and_eq_true, List.contains_iff_mem]; intro ⟨a, b⟩; simp [h1 m hm a] at b
  have b : (slotOf s t k).mfault.find? (fun m => m.1.meets fo) = none := by
    rw [List.find?_eq_none]; intro m hm; simp [h3 m hm]
  simp only [locked, a, h2, b, Bool.or_self, Bool.false_eq_true, if_false]

/-- Everything `locked` can do: wait, meet a fault of matrix work, or perform. -/
theorem locked_cases (s : State) (t : Nat) (k : Fin 4) (fo : Foot) (f : State → WRes) :
    locked s t k fo f = .wait s ∨ (∃ s' p, locked s t k fo f = .fault s' p) ∨ locked s t k fo f = f s := by
  simp only [locked]
  split
  · exact .inl rfl
  · split
    · exact .inr (.inl ⟨_, _, rfl⟩)
    · exact .inr (.inr rfl)

/-- A firing in focus with no poison is performed. -/
theorem runNode_clean {own stays : Bool} {work : State → Nat → Firing → State} {s : State} {t : Nat} {f : Firing}
    (h : s.focus = .firing t f) (hp : poisonOp f = none) (he : f.err = none) :
    runNode own stays work s = .next (if stays then work { s with focus := .idle } t f
      else doneFiring (work { s with focus := .idle } t f) t f.party) := by
  simp only [runNode, h, hp, he]

/-- A firing with a poison operand sends it on, one hop further, unless its kind takes poison itself. -/
theorem runNode_poison {stays : Bool} {work : State → Nat → Firing → State} {s : State} {t : Nat} {f : Firing} {p : Poison}
    (h : s.focus = .firing t f) (hp : poisonOp f = some p) :
    runNode false stays work s = .next (doneFiring (raiseFiring { s with focus := .idle } t f (hop p)) t f.party) := by
  cases he : f.err <;> simp [runNode, h, hp, he]

/-- A firing whose matching failed faults. -/
theorem runNode_err {own stays : Bool} {work : State → Nat → Firing → State} {s : State} {t : Nat} {f : Firing} {p : Poison}
    (h : s.focus = .firing t f) (hp : poisonOp f = none) (he : f.err = some p) :
    runNode own stays work s = .next (doneFiring (takeFault { s with focus := .idle } t f p) t f.party) := by
  simp only [runNode, h, hp, he]

end Sys2Proof.Laws
end

