-- ==== Sys2Proof/Safety.lean ====
section
/-! DEFINITION. A safe run: a state from which the machine takes its next step. No meaning of this model faults or
refuses; the faults of the manual are poison tokens and statuses, which are next states (R289, R111). -/

namespace Sys2Proof.Machine

open Sys2Proof

/-- The next step is taken. -/
def Safe (s : State) : Prop := ∃ s', step s = .next s'

end Sys2Proof.Machine
end

