-- ==== Sys2Proof/Tests/Slice0.lean ====
section
/-! SUPPORT. Tests of one step or one word each, and for every statement a state and operands that meet its hypotheses.
Expected values come from the tables and examples of the manual or are worked out by hand from its rules. -/

namespace Sys2Proof.Tests

open Sys2Proof Sys2Proof.Machine Sys2Proof.Spec

set_option Elab.async false

/-! ## Decoding: a word of each instruction, its bits laid out from R316 to R326 -/

/-- The guard of the words below: GP 2, GN, GE. -/
def gOn : Guard := ⟨2, true, true⟩

def R0 : RWord := ⟨gOn, .b64, .t 0, .t 0, .t 0, .t 0, .rne, .eq, 0, 0, 0, 0⟩
def I0 : IWord := ⟨gOn, .b64, .t 0, .t 0, .eq, 0, 0⟩
def V0 : VWord := ⟨gOn, .b64, 0, 0, 0, 0, .rne, .eq, false, false, 0⟩
def M0 : MWord := ⟨gOn, .b64, .t 0, .t 0, .t 0, .t 0, .tile, .rlx, 0, 0⟩
def S0 : SWord := ⟨gOn, .b64, 0, 0, 0, 0, false, false, false, .t 0, 0⟩
def E0 : EWord := ⟨gOn, .b64, .t 0, .t 0, .t 0, 0, 0, 0, .tile, 0⟩
def d0 : Dest := ⟨false, 0, 0, 0⟩
def dA : Dest := ⟨true, 0x5A3, 0x9C7, 2⟩
def dB : Dest := ⟨true, 0x2D1, 0x38E, 1⟩

def wordsScalarInteger : List (BitVec 64 × Instr) := [
  (0x01B42A5600000000, .add { R0 with ty := .z32, d := .t 5, a := .inp 1, b := .tg }),
  (0x02B42A5600000000, .sub { R0 with ty := .z32, d := .t 5, a := .inp 1, b := .tg }),
  (0x03B42A5600000000, .mul { R0 with ty := .z32, d := .t 5, a := .inp 1, b := .tg }),
  (0x04B42A5600000000, .mulh { R0 with ty := .z32, d := .t 5, a := .inp 1, b := .tg }),
  (0x05B42A5600000000, .div { R0 with ty := .z32, d := .t 5, a := .inp 1, b := .tg }),
  (0x06B42A5600000000, .rem { R0 with ty := .z32, d := .t 5, a := .inp 1, b := .tg }),
  (0x0CB42A5600000000, .shl { R0 with ty := .z32, d := .t 5, a := .inp 1, b := .tg }),
  (0x0DB42A5600000000, .shr { R0 with ty := .z32, d := .t 5, a := .inp 1, b := .tg }),
  (0x0EB42A5600000000, .sar { R0 with ty := .z32, d := .t 5, a := .inp 1, b := .tg }),
  (0x0FB42A5600000000, .rotl { R0 with ty := .z32, d := .t 5, a := .inp 1, b := .tg }),
  (0x13B42A5600000000, .min { R0 with ty := .z32, d := .t 5, a := .inp 1, b := .tg }),
  (0x14B42A5600000000, .max { R0 with ty := .z32, d := .t 5, a := .inp 1, b := .tg }),
  (0x0AB42A5600000000, .andn { R0 with ty := .z32, d := .t 5, a := .inp 1, b := .tg }),
  (0x07B12A5600000000, .andR { R0 with ty := .s8, d := .t 5, a := .inp 1, b := .tg }),
  (0x08B12A5600000000, .orR { R0 with ty := .s8, d := .t 5, a := .inp 1, b := .tg }),
  (0x09B12A5600000000, .xor { R0 with ty := .s8, d := .t 5, a := .inp 1, b := .tg }),
  (0x0BB5628000000000, .notR { R0 with ty := .s64, d := .zero, a := .inp 2 }),
  (0x10B5628000000000, .clz { R0 with ty := .s64, d := .zero, a := .inp 2 }),
  (0x11B5628000000000, .ctz { R0 with ty := .s64, d := .zero, a := .inp 2 }),
  (0x12B5628000000000, .popc { R0 with ty := .s64, d := .zero, a := .inp 2 }),
  (0x15B5628000000000, .abs { R0 with ty := .s64, d := .zero, a := .inp 2 }),
  (0x16B5628000000000, .neg { R0 with ty := .s64, d := .zero, a := .inp 2 }),
  (0x1AB5628000000000, .mov { R0 with ty := .s64, d := .zero, a := .inp 2 }),
  (0x17B6088600009400, .extR { R0 with ty := .z64, d := .t 1, a := .t 2, b := .t 3, sh := 37 }),
  (0x18B0088600000000, .bext { R0 with ty := .b64, d := .t 1, a := .t 2, b := .t 3 }),
  (0x19B0088600000000, .bdep { R0 with ty := .b64, d := .t 1, a := .t 2, b := .t 3 }),
  (0x1CB0088600001800, .lea { R0 with ty := .b64, d := .t 1, a := .t 2, b := .t 3, sh := 6 })]

theorem test_decode_scalarInteger : ∀ p ∈ wordsScalarInteger, decodeWord p.1 = .ok p.2 := by decide

def wordsImmediate : List (BitVec 64 × Instr) := [
  (0x20B23A0089ABCDEF, .addI { I0 with ty := .z8, d := .t 7, a := .inp 0, imm := 2309737967 }),
  (0x21B23A0089ABCDEF, .subI { I0 with ty := .z8, d := .t 7, a := .inp 0, imm := 2309737967 }),
  (0x22B23A0089ABCDEF, .mulI { I0 with ty := .z8, d := .t 7, a := .inp 0, imm := 2309737967 }),
  (0x23B23A0089ABCDEF, .andI { I0 with ty := .z8, d := .t 7, a := .inp 0, imm := 2309737967 }),
  (0x24B23A0089ABCDEF, .orI { I0 with ty := .z8, d := .t 7, a := .inp 0, imm := 2309737967 }),
  (0x25B23A0089ABCDEF, .xorI { I0 with ty := .z8, d := .t 7, a := .inp 0, imm := 2309737967 }),
  (0x26B23A0089ABCDEF, .andnI { I0 with ty := .z8, d := .t 7, a := .inp 0, imm := 2309737967 }),
  (0x27B23A0089ABCDEF, .shlI { I0 with ty := .z8, d := .t 7, a := .inp 0, imm := 2309737967 }),
  (0x28B23A0089ABCDEF, .shrI { I0 with ty := .z8, d := .t 7, a := .inp 0, imm := 2309737967 }),
  (0x29B23A0089ABCDEF, .sarI { I0 with ty := .z8, d := .t 7, a := .inp 0, imm := 2309737967 }),
  (0x2AB23A0089ABCDEF, .rotlI { I0 with ty := .z8, d := .t 7, a := .inp 0, imm := 2309737967 }),
  (0x2BB23A0089ABCDEF, .minI { I0 with ty := .z8, d := .t 7, a := .inp 0, imm := 2309737967 }),
  (0x2CB23A0089ABCDEF, .maxI { I0 with ty := .z8, d := .t 7, a := .inp 0, imm := 2309737967 }),
  (0x2DB3022E89ABCDEF, .cmpI { I0 with ty := .s32, a := .inp 0, cc := .ge, pd := 3, imm := 2309737967 }),
  (0x1BB5300089ABCDEF, .movi { I0 with ty := .s64, d := .t 6, imm := 2309737967 }),
  (0x1BB0300189ABCDEF, .moviHi { I0 with ty := .b64, d := .t 6, imm := 2309737967 })]

theorem test_decode_immediate : ∀ p ∈ wordsImmediate, decodeWord p.1 = .ok p.2 := by decide

def wordsCompareAndPredicate : List (BitVec 64 × Instr) := [
  (0x30B3004400D00000, .cmp { R0 with ty := .s32, a := .t 1, b := .t 2, cc := .le, pd := 1 }),
  (0x31B6004400100000, .tst { R0 with ty := .z64, a := .t 1, b := .t 2, pd := 1 }),
  (0x32B1204400080000, .sel { R0 with ty := .s8, d := .t 4, a := .t 1, b := .t 2, pa := 2 }),
  (0x33B00000001B0000, .pand { R0 with ty := .b64, pd := 1, pa := 2, pb := 3 }),
  (0x34B00000001B0000, .por { R0 with ty := .b64, pd := 1, pa := 2, pb := 3 }),
  (0x35B0000000180000, .pnot { R0 with ty := .b64, pd := 1, pa := 2 })]

theorem test_decode_compareAndPredicate : ∀ p ∈ wordsCompareAndPredicate, decodeWord p.1 = .ok p.2 := by decide

def wordsScalarFloat : List (BitVec 64 × Instr) := [
  (0x38B8204408000000, .fadd { R0 with ty := .bf16, d := .t 4, a := .t 1, b := .t 2, rm := .sr }),
  (0x39B8204408000000, .fsub { R0 with ty := .bf16, d := .t 4, a := .t 1, b := .t 2, rm := .sr }),
  (0x3AB8204408000000, .fmul { R0 with ty := .bf16, d := .t 4, a := .t 1, b := .t 2, rm := .sr }),
  (0x3CB8204408000000, .fdiv { R0 with ty := .bf16, d := .t 4, a := .t 1, b := .t 2, rm := .sr }),
  (0x3BBC2044A6000000, .ffma { R0 with ty := .f32, d := .t 4, a := .t 1, b := .t 2, c := .inp 2, rm := .rup }),
  (0x3DB7204002000000, .fsqrt { R0 with ty := .f16, d := .t 4, a := .t 1, rm := .rtz }),
  (0x3EBC204400000000, .fmin { R0 with ty := .f32, d := .t 4, a := .t 1, b := .t 2 }),
  (0x3FBC204400000000, .fmax { R0 with ty := .f32, d := .t 4, a := .t 1, b := .t 2 }),
  (0x40BC204000000000, .fabs { R0 with ty := .f32, d := .t 4, a := .t 1 }),
  (0x41BC204000000000, .fneg { R0 with ty := .f32, d := .t 4, a := .t 1 }),
  (0x44BC204000000000, .fclass { R0 with ty := .f32, d := .t 4, a := .t 1 }),
  (0x42BC004401A00000, .fcmp { R0 with ty := .f32, a := .t 1, b := .t 2, cc := .uo, pd := 2 }),
  (0x43BA204008003000, .fcvt { R0 with ty := .e5m2, d := .t 4, a := .t 1, rm := .sr, sh := 12 })]

theorem test_decode_scalarFloat : ∀ p ∈ wordsScalarFloat, decodeWord p.1 = .ok p.2 := by decide

def wordsToken : List (BitVec 64 × Instr) := [
  (0x48B00887F0004005, .send { E0 with ty := .b64, a := .t 1, b := .t 2, c := .t 3, ch := 31, imm := 16389 }),
  (0x49BB08871A500000, .sendv { E0 with ty := .q4, a := .t 1, b := .t 2, c := .t 3, ch := 17, v := 165 }),
  (0x4ABC08811A500000, .sendx { E0 with ty := .f32, a := .t 1, b := .t 2, ch := 17, v := 165 }),
  (0x4BB0008690000007, .emit { E0 with ty := .b64, b := .t 2, c := .t 3, ch := 9, imm := 7 }),
  (0x4CB00AC400004C00, .tagmk { R0 with ty := .b64, d := .t 1, a := .tg, b := .t 2, sh := 19 }),
  (0x4DB00A4400300000, .pchk { R0 with ty := .b64, d := .t 1, a := .inp 1, b := .t 2, pd := 3 }),
  (0x4EB002400000A800, .poison { R0 with ty := .b64, a := .inp 1, sh := 42 }),
  (0x4FB0000000000000, .done { R0 with ty := .b64 })]

theorem test_decode_token : ∀ p ∈ wordsToken, decodeWord p.1 = .ok p.2 := by decide

def wordsSystem : List (BitVec 64 × Instr) := [
  (0x50B0100000000011, .rdsr { I0 with ty := .b64, d := .t 2, imm := 17 }),
  (0x51B000800000005F, .wrsr { I0 with ty := .b64, a := .t 2, imm := 95 }),
  (0x52B00080000000C7, .trap { I0 with ty := .b64, a := .t 2, imm := 199 }),
  (0x53B00000FFFFFFFF, .brk { I0 with ty := .b64, imm := 4294967295 }),
  (0x54B0000000000000, .nop { R0 with ty := .b64 }),
  (0x55B000C000000000, .clkreq { R0 with ty := .b64, a := .t 3 }),
  (0x56B000C800000000, .kick { R0 with ty := .b64, a := .t 3, b := .t 4 }),
  (0x58B000C800000000, .winld { R0 with ty := .b64, a := .t 3, b := .t 4 }),
  (0x5BB000C800000000, .pgrecode { R0 with ty := .b64, a := .t 3, b := .t 4 }),
  (0x59B000C800000400, .cflush { R0 with ty := .b64, a := .t 3, b := .t 4, sh := 1 }),
  (0x5AB0000000000000, .halt { R0 with ty := .b64 })]

theorem test_decode_system : ∀ p ∈ wordsSystem, decodeWord p.1 = .ok p.2 := by decide

def wordsVectorArithmetic : List (BitVec 64 × Instr) := [
  (0x60BCD35A0B008381, .vadd { V0 with ty := .f32, vb := 11, rm := .sr, sb := true, me := true, vm := 129, vd := 211, va := 90 }),
  (0x61BCD35A0B008381, .vsub { V0 with ty := .f32, vb := 11, rm := .sr, sb := true, me := true, vm := 129, vd := 211, va := 90 }),
  (0x62BCD35A0B008381, .vmul { V0 with ty := .f32, vb := 11, rm := .sr, sb := true, me := true, vm := 129, vd := 211, va := 90 }),
  (0x63B7D35A77C44181, .vfma { V0 with ty := .f16, vb := 119, vc := 196, rm := .rdn, me := true, vm := 129, vd := 211, va := 90 }),
  (0x64B8D35A77000181, .vmin { V0 with ty := .bf16, vb := 119, me := true, vm := 129, vd := 211, va := 90 }),
  (0x65B8D35A77000181, .vmax { V0 with ty := .bf16, vb := 119, me := true, vm := 129, vd := 211, va := 90 }),
  (0x66B1D35A00000181, .vabs { V0 with ty := .s8, me := true, vm := 129, vd := 211, va := 90 }),
  (0x67B1D35A00000181, .vneg { V0 with ty := .s8, me := true, vm := 129, vd := 211, va := 90 }),
  (0x68BBD35A77000181, .vand { V0 with ty := .q4, vb := 119, me := true, vm := 129, vd := 211, va := 90 }),
  (0x69BBD35A77000181, .vor { V0 with ty := .q4, vb := 119, me := true, vm := 129, vd := 211, va := 90 }),
  (0x6ABBD35A77000181, .vxor { V0 with ty := .q4, vb := 119, me := true, vm := 129, vd := 211, va := 90 }),
  (0x6BB4D35A0B000381, .vshl { V0 with ty := .z32, vb := 11, sb := true, me := true, vm := 129, vd := 211, va := 90 }),
  (0x6CB4D35A0B000381, .vshr { V0 with ty := .z32, vb := 11, sb := true, me := true, vm := 129, vd := 211, va := 90 }),
  (0x6DB4D35A0B000381, .vsar { V0 with ty := .z32, vb := 11, sb := true, me := true, vm := 129, vd := 211, va := 90 }),
  (0x6EB7D35A00006181, .vexp2 { V0 with ty := .f16, rm := .rup, me := true, vm := 129, vd := 211, va := 90 }),
  (0x6FB7D35A00006181, .vlog2 { V0 with ty := .f16, rm := .rup, me := true, vm := 129, vd := 211, va := 90 }),
  (0x70B7D35A00006181, .vrcp { V0 with ty := .f16, rm := .rup, me := true, vm := 129, vd := 211, va := 90 }),
  (0x71B7D35A00006181, .vrsq { V0 with ty := .f16, rm := .rup, me := true, vm := 129, vd := 211, va := 90 }),
  (0x72B7D35A00006181, .vtanh { V0 with ty := .f16, rm := .rup, me := true, vm := 129, vd := 211, va := 90 }),
  (0x73B7D35A00006181, .vsigm { V0 with ty := .f16, rm := .rup, me := true, vm := 129, vd := 211, va := 90 }),
  (0x74B7D35A00006181, .vgelu { V0 with ty := .f16, rm := .rup, me := true, vm := 129, vd := 211, va := 90 }),
  (0x75B7D35A00006181, .vsilu { V0 with ty := .f16, rm := .rup, me := true, vm := 129, vd := 211, va := 90 })]

theorem test_decode_vectorArithmetic : ∀ p ∈ wordsVectorArithmetic, decodeWord p.1 = .ok p.2 := by decide

def wordsVectorOther : List (BitVec 64 × Instr) := [
  (0x76BCD35A03012181, .vcvt { V0 with ty := .f32, vb := 3, vc := 1, rm := .rtz, me := true, vm := 129, vd := 211, va := 90 }),
  (0x77BCD35A77001981, .vcmp { V0 with ty := .f32, vb := 119, cc := .uo, me := true, vm := 129, vd := 211, va := 90 }),
  (0x78B9D35A0BC40381, .vsel { V0 with ty := .e4m3, vb := 11, vc := 196, sb := true, me := true, vm := 129, vd := 211, va := 90 }),
  (0x79B5D3000B000381, .vbcast { V0 with ty := .s64, vd := 211, vb := 11, sb := true, me := true, vm := 129 }),
  (0x7AB3D35A00000181, .vmov { V0 with ty := .s32, me := true, vm := 129, vd := 211, va := 90 }),
  (0x7BB2D35A77000181, .vperm { V0 with ty := .z8, vb := 119, me := true, vm := 129, vd := 211, va := 90 }),
  (0x7CB6D35A0B000381, .vrot { V0 with ty := .z64, vb := 11, sb := true, me := true, vm := 129, vd := 211, va := 90 }),
  (0x7DBCD35A00070181, .vredsum { V0 with ty := .f32, vc := 7, me := true, vm := 129, vd := 211, va := 90 }),
  (0x7EBCD35A00070181, .vredmax { V0 with ty := .f32, vc := 7, me := true, vm := 129, vd := 211, va := 90 }),
  (0x7FBCD35A00070181, .vredmin { V0 with ty := .f32, vc := 7, me := true, vm := 129, vd := 211, va := 90 }),
  (0x80BCD35A00070181, .vscan { V0 with ty := .f32, vc := 7, me := true, vm := 129, vd := 211, va := 90 }),
  (0x81BCD35A40C40181, .vtopk { V0 with ty := .f32, vb := 64, vc := 196, me := true, vm := 129, vd := 211, va := 90 }),
  (0x82BBD35A1F088000, .vquant { V0 with ty := .q4, vb := 31, vc := 8, rm := .sr, vd := 211, va := 90 }),
  (0x83B7D35A030A4000, .vdequant { V0 with ty := .f16, vb := 3, vc := 10, rm := .rdn, vd := 211, va := 90 }),
  (0x84BCD30B0C000200, .vld { V0 with ty := .f32, vd := 211, va := 11, vb := 12, sb := true }),
  (0x84BCD30A77010181, .vldPort { V0 with ty := .f32, vd := 211, va := 10, vb := 119, vc := 1, me := true, vm := 129 }),
  (0x85BCD30B77000181, .vst { V0 with ty := .f32, vd := 211, va := 11, vb := 119, me := true, vm := 129 }),
  (0x86BCD30B77000181, .vldx { V0 with ty := .f32, vd := 211, va := 11, vb := 119, me := true, vm := 129 }),
  (0x87BCD30B77000181, .vstx { V0 with ty := .f32, vd := 211, va := 11, vb := 119, me := true, vm := 129 })]

theorem test_decode_vectorOther : ∀ p ∈ wordsVectorOther, decodeWord p.1 = .ok p.2 := by decide

def wordsWavelet : List (BitVec 64 × Instr) := [
  (0x88BC20E003000000, .hfwd { V0 with ty := .f32, vd := 32, va := 224, vb := 3 }),
  (0x89B730F000000000, .hinv { V0 with ty := .f16, vd := 48, va := 240 }),
  (0x8AB830F0000C0000, .hthr { V0 with ty := .bf16, vd := 48, va := 240, vc := 12 }),
  (0x8BBC201303000000, .hexp { V0 with ty := .f32, vd := 32, va := 19, vb := 3 }),
  (0x8CB730F00C000200, .hbias { V0 with ty := .f16, vd := 48, va := 240, vb := 12, sb := true }),
  (0x8DB0D30002000000, .dtag { V0 with ty := .b64, vd := 211, vb := 2 }),
  (0x8EB0075A00000000, .dtget { V0 with ty := .b64, vd := 7, va := 90 }),
  (0x8FBC070005000200, .thset { V0 with ty := .f32, vd := 7, vb := 5, sb := true })]

theorem test_decode_wavelet : ∀ p ∈ wordsWavelet, decodeWord p.1 = .ok p.2 := by decide

def wordsMatrix : List (BitVec 64 × Instr) := [
  (0x90BBFD6B125A4400, .mma { S0 with ty := .q4, ad := 63, oa := 90, ob := 196, shr := 9, dec := true, hold := true, x := .inp 1, tb := 1 }),
  (0x91B8FD68026A6C00, .mmag { S0 with ty := .bf16, ad := 63, oa := 90, shr := 9, z := true, hold := true, x := .inp 1, tb := 11 }),
  (0x92B1FD6B125A6800, .mmas { S0 with ty := .s8, ad := 63, oa := 90, ob := 196, shr := 9, dec := true, hold := true, x := .inp 1, tb := 10 }),
  (0x93B0AC0000000000, .macz { S0 with ty := .b64, ad := 43 }),
  (0x94B1AD6800000000, .macld { S0 with ty := .s8, ad := 43, oa := 90 }),
  (0x94BCAC000001AC00, .macldSpad { S0 with ty := .f32, ad := 43, x := .t 6, tb := 11 }),
  (0x95B1AD6800001000, .macst { S0 with ty := .s8, ad := 43, oa := 90, tb := 4 }),
  (0x95BCAC000001B000, .macstSpad { S0 with ty := .f32, ad := 43, x := .t 6, tb := 12 }),
  (0x96B7016B10000000, .mtr { S0 with ty := .f16, oa := 90, ob := 196 }),
  (0x97B000000002C000, .mburst { S0 with ty := .b64, x := .tg }),
  (0x98B000000342C000, .srld { S0 with ty := .b64, shr := 13, x := .tg }),
  (0x99B0016B10000000, .srfence { S0 with ty := .b64, oa := 90, ob := 196 }),
  (0x9AB0AC0400000000, .mwait { S0 with ty := .b64, ad := 43, oa := 1 })]

theorem test_decode_matrix : ∀ p ∈ wordsMatrix, decodeWord p.1 = .ok p.2 := by decide

def wordsMemory : List (BitVec 64 × Instr) := [
  (0xA0B91A8000808123, .ld { M0 with ty := .e4m3, d := .t 3, base := .inp 2, ord := .acq, off := 33059 }),
  (0xA1B4029601008123, .st { M0 with ty := .z32, base := .inp 2, data := .tg, ord := .rel, off := 33059 }),
  (0xA2B0029660688123, .sopen { M0 with ty := .b64, base := .inp 2, data := .tg, data2 := .t 6, strm := 13, off := 33059 }),
  (0xA3B0180000680000, .sclose { M0 with ty := .b64, d := .t 3, strm := 13 }),
  (0xA4B3180000680000, .sld { M0 with ty := .s32, d := .t 3, strm := 13 }),
  (0xA4BC000800680000, .sldSlab { M0 with ty := .f32, data := .t 4, strm := 13 }),
  (0xA5B3000800680000, .sst { M0 with ty := .s32, data := .t 4, strm := 13 }),
  (0xA6B000000000A55A, .sbar { M0 with ty := .b64, off := 42330 }),
  (0xA7B0029600008123, .pref { M0 with ty := .b64, base := .inp 2, data := .tg, off := 33059 }),
  (0xA8B000000A00A55A, .fence { M0 with ty := .b64, scope := .sys, off := 42330 }),
  (0xA9B41A9601808123, .aadd { M0 with ty := .z32, d := .t 3, base := .inp 2, data := .tg, ord := .ar, off := 33059 }),
  (0xABB41A9601808123, .amin { M0 with ty := .z32, d := .t 3, base := .inp 2, data := .tg, ord := .ar, off := 33059 }),
  (0xACB41A9601808123, .amax { M0 with ty := .z32, d := .t 3, base := .inp 2, data := .tg, ord := .ar, off := 33059 }),
  (0xADB41A9601808123, .aand { M0 with ty := .z32, d := .t 3, base := .inp 2, data := .tg, ord := .ar, off := 33059 }),
  (0xAEB41A9601808123, .aor { M0 with ty := .z32, d := .t 3, base := .inp 2, data := .tg, ord := .ar, off := 33059 }),
  (0xAFB41A9601808123, .axor { M0 with ty := .z32, d := .t 3, base := .inp 2, data := .tg, ord := .ar, off := 33059 }),
  (0xB0B41A9601808123, .axch { M0 with ty := .z32, d := .t 3, base := .inp 2, data := .tg, ord := .ar, off := 33059 }),
  (0xAAB81A9601008123, .aaddf { M0 with ty := .bf16, d := .t 3, base := .inp 2, data := .tg, ord := .rel, off := 33059 }),
  (0xB1B51A9660808123, .acas { M0 with ty := .s64, d := .t 3, base := .inp 2, data := .tg, data2 := .t 6, ord := .acq, off := 33059 })]

theorem test_decode_memory : ∀ p ∈ wordsMemory, decodeWord p.1 = .ok p.2 := by decide

def wordsEngine : List (BitVec 64 × Instr) := [
  (0xB8B0088600080002, .cpy { E0 with ty := .b64, a := .t 1, b := .t 2, c := .t 3, tl := 2, imm := 2 }),
  (0xB9B8088600081032, .cpyf { E0 with ty := .bf16, a := .t 1, b := .t 2, c := .t 3, tl := 2, imm := 4146 }),
  (0xBAB00800000C0000, .gath { E0 with ty := .b64, a := .t 1, tl := 3 }),
  (0xBBB00800000C0000, .scat { E0 with ty := .b64, a := .t 1, tl := 3 }),
  (0xBCBC080000080005, .coll { E0 with ty := .f32, a := .t 1, tl := 2, imm := 5 }),
  (0xBDB0088600080000, .mcrd { E0 with ty := .b64, a := .t 1, b := .t 2, c := .t 3, tl := 2 }),
  (0xBEB0080000080000, .tlrd { E0 with ty := .b64, a := .t 1, tl := 2 }),
  (0xC0B0080000080000, .tltest { E0 with ty := .b64, a := .t 1, tl := 2 }),
  (0xBFB0008000080000, .tlwait { E0 with ty := .b64, b := .t 2, tl := 2 }),
  (0xC1B0080000000000, .epf { E0 with ty := .b64, a := .t 1 }),
  (0xC2B0088000040000, .apf { E0 with ty := .b64, a := .t 1, b := .t 2, tl := 1 }),
  (0xC8B008800002000F, .bar { E0 with ty := .b64, a := .t 1, b := .t 2, scope := .dom, imm := 15 }),
  (0xC9B0088150018000, .csig { E0 with ty := .b64, a := .t 1, b := .t 2, ch := 21, scope := .pkg }),
  (0xCAB0000000000000, .stepend { E0 with ty := .b64 })]

theorem test_decode_engine : ∀ p ∈ wordsEngine, decodeWord p.1 = .ok p.2 := by decide

def recordsAll : List (BitVec 128 × Instr) := [
  (0x00000000016DA39C7AB44E39FEDCBA98, .nodeAdd ⟨false, true, 2, dA, dB, 0xFEDCBA98⟩),
  (0x00000000026DA39C7AB44E39FEDCBA98, .nodeSub ⟨false, true, 2, dA, dB, 0xFEDCBA98⟩),
  (0x00000000036DA39C7AB44E39FEDCBA98, .nodeMul ⟨false, true, 2, dA, dB, 0xFEDCBA98⟩),
  (0x00000000046DA39C7AB44E39FEDCBA98, .nodeAnd ⟨false, true, 2, dA, dB, 0xFEDCBA98⟩),
  (0x00000000056DA39C7AB44E39FEDCBA98, .nodeOr ⟨false, true, 2, dA, dB, 0xFEDCBA98⟩),
  (0x00000000066DA39C7AB44E39FEDCBA98, .nodeXor ⟨false, true, 2, dA, dB, 0xFEDCBA98⟩),
  (0x00000000076DA39C7AB44E39FEDCBA98, .nodeShl ⟨false, true, 2, dA, dB, 0xFEDCBA98⟩),
  (0x00000000086DA39C7AB44E39FEDCBA98, .nodeShr ⟨false, true, 2, dA, dB, 0xFEDCBA98⟩),
  (0x00000000096DA39C7AB44E39FEDCBA98, .nodeSar ⟨false, true, 2, dA, dB, 0xFEDCBA98⟩),
  (0x000000000A6DA39C7AB44E39FEDCBA98, .nodeMin ⟨false, true, 2, dA, dB, 0xFEDCBA98⟩),
  (0x000000000B6DA39C7AB44E39FEDCBA98, .nodeMax ⟨false, true, 2, dA, dB, 0xFEDCBA98⟩),
  (0x000000000C2DA39C7AB44E3900000009, .nodeCmp ⟨false, false, 2, dA, dB, 0x9⟩),
  (0x000000000DBDA39C7AB44E3900000000, .nodeSel ⟨true, false, 3, dA, dB, 0x0⟩),
  (0x00000000101DA39C7AB44E3900000000, .nodeDup ⟨false, false, 1, dA, dB, 0x0⟩),
  (0x00000000116DA39C7AB44E3900000001, .nodeSteer ⟨false, true, 2, dA, dB, 0x1⟩),
  (0x00000000122DA39C7AB44E3900000000, .nodeMerge ⟨false, false, 2, dA, dB, 0x0⟩),
  (0x00000000132DA39C7AB44E3900000FFF, .nodeSwitch ⟨false, false, 2, dA, dB, 0xFFF⟩),
  (0x0000000014BDA39C7AB44E3900000000, .nodeGate ⟨true, false, 3, dA, dB, 0x0⟩),
  (0x00000000153000000000000000000001, .nodeSink ⟨false, false, 3, d0, d0, 0x1⟩),
  (0x00000000161DA39C7AB44E39FEDCBA98, .nodeConst ⟨false, false, 1, dA, dB, 0xFEDCBA98⟩),
  (0x00000000201DA39C7AB44E3900000013, .nodeTagin ⟨false, false, 1, dA, dB, 0x13⟩),
  (0x00000000211DA39C7AB44E3900000013, .nodeTagnext ⟨false, false, 1, dA, dB, 0x13⟩),
  (0x00000000221DA39C7AB44E3900000013, .nodeTagout ⟨false, false, 1, dA, dB, 0x13⟩),
  (0x00000000236DA39C7AB44E39000FFFFF, .nodeTagset ⟨false, true, 2, dA, dB, 0xFFFFF⟩),
  (0x00000000281DA39C7AB44E3900100000, .nodeCount ⟨false, false, 1, dA, dB, 0x100000⟩),
  (0x00000000291DA39C7AB44E3912345678, .nodeBin ⟨false, false, 1, dA, dB, 0x12345678⟩),
  (0x000000002A1DA39C7AB44E390000FFFF, .nodeJoin ⟨false, false, 1, dA, dB, 0xFFFF⟩),
  (0x000000002B1DA39C7AB44E39FEDCBA98, .nodeCwait ⟨false, false, 1, dA, dB, 0xFEDCBA98⟩),
  (0x0000000030BDA39C7AB44E39000003FF, .nodeFire ⟨true, false, 3, dA, dB, 0x3FF⟩),
  (0x00000000311DA39C7AB44E3900001FFF, .nodeMctl ⟨false, false, 1, dA, dB, 0x1FFF⟩),
  (0x00000000322DA39C7AB44E3900000000, .nodeIsect ⟨false, false, 2, dA, dB, 0x0⟩),
  (0x0000000033100000000000000000001F, .nodeSendx ⟨false, false, 1, d0, d0, 0x1F⟩),
  (0x00000000381DA39C7AB44E390000000E, .nodeLds ⟨false, false, 1, dA, dB, 0xE⟩),
  (0x00000000392DA39C7AB44E390000000B, .nodeSts ⟨false, false, 2, dA, dB, 0xB⟩),
  (0x000000003F1DA39C7AB44E3900000001, .nodePchk ⟨false, false, 1, dA, dB, 0x1⟩)]

theorem test_decode_records : ∀ p ∈ recordsAll, decodeNode p.1 = .ok p.2 := by decide

/-! ## Witnesses: a world in which words run -/

/-- Window 0 of the world: addresses 0x10000 to 0x4FFFF of ASID 5 at local offset 0x100000, all accesses. -/
def win0 : Win := { base := 0x8000000000010005, limit := 0x40007, offset := 0xFF00000100000 }

/-- A running launch of ASID 5 with two codelets and one node on tile 0. -/
def launch1 : Launch :=
  { handle := 1, asid := 5, phase := .running, tileset := [0], wins := [win0],
    leases := [{ start := 0xFF00000100000, pages := 64, access := 7 }],
    images := [{ vregs := 256, aslabs := 64, bars := 4, scratch := 4096, maxtok := 100, sinks := 1, codes := [[0, 0], [0]],
                 nodes := [(0, [0x00000000301800005000000000000000])] }] }

/-- Tile 0: channel 5 valid, channel 6 valid at package scope, others not. -/
def tile0 : Tile :=
  { wins := [(0, [win0])], winsel := [(0, 1)],
    chan := List.replicate 5 0 ++ [0x8000000000000000, 0x8000000000000003] ++ List.replicate 25 0,
    graph := [(0, { nodes := [0x00000000301800005000000000000000], codes := [[0, 0], [0]] })] }

def slotT (l : List Word) : Slot := { winsel := 1, firing := { party := 7 }, t := Vector.ofFn (fun i => l.getD i 0) }

/-- The module past bring-up with nothing in it. -/
def world : State := { State.reset with nextId := 100, boot := { stage := .ready, code := .ready, pkg := some 0 } }

/-- Slot 0 of tile 0 of the world runs its next word. -/
def wordAt (sl : Slot) (tl : Tile := tile0) (l : Launch := launch1) (s : State := world) : State :=
  { s with focus := .slot 0 0, launches := [(1, l)],
           tiles := [(0, { tl with launch := 1, slots := tl.slots.set 0 { sl with phase := .running } })] }

theorem ok_of {ε α : Type} {x : Except ε α} {a : α} (h : x.toOption = some a) : x = .ok a := by
  cases x <;> simp_all [Except.toOption]

theorem some_ok {ε α : Type} {x : Except ε α} (h : x.toBool = true) : ∃ a, x = .ok a := by
  cases x
  · simp [Except.toBool] at h
  · exact ⟨_, rfl⟩

theorem slot_wordAt (sl : Slot) (tl : Tile) (l : Launch) (s : State) :
    slotOf (wordAt sl tl l s) 0 0 = { sl with phase := .running } := by
  simp [wordAt, slotOf, tileOf, aget, afind]

/-- Nothing is owed to a slot there. -/
theorem unheld_at {sl : Slot} (h : sl.mats = [] ∧ sl.mfault = []) {tl l} {s : State} (hr : s.reqs = []) (fo : Foot) :
    Unheld (wordAt sl tl l s) 0 0 fo := by
  refine ⟨?_, ?_, ?_⟩
  · intro m _ hm; rw [slot_wordAt] at hm; simp [h.1] at hm
  · simp [groupPending, wordAt, hr]
  · intro m hm; rw [slot_wordAt] at hm; simp [h.2] at hm

/-- No operand is awaited or marked. -/
def quiet (sl : Slot) : Bool := sl.pend.isEmpty && decide (sl.tm = Vector.replicate 8 false)

theorem quiet_settled {sl : Slot} (h : quiet sl = true) (os : List SOp) : Settled { sl with phase := .running } os := by
  intro o _
  simp only [quiet, Bool.and_eq_true, List.isEmpty_iff] at h
  cases o <;> simp [opPending, h.1]

theorem quiet_unmarked {sl : Slot} (h : quiet sl = true) (os : List SOp) : Unmarked { sl with phase := .running } os := by
  intro o _
  simp only [quiet, Bool.and_eq_true, decide_eq_true_eq] at h
  cases o <;> simp [opMark, h.2]

theorem sound_wordAt {sl : Slot} {tl : Tile} (hb : tl.badWords = []) {l s} : Sound (wordAt sl tl l s) 0 := by
  simp [Sound, wordAt, tileOf, aget, afind, hb]

/-- A word with its guard off runs on any operands there. -/
theorem runs_at {sl : Slot} (h : quiet sl = true) {tl : Tile} {l s} {g : Guard} (hg : g.ge = false) (srcs ds : List SOp)
    (hb : tl.badWords = [] := by rfl) : Runs (wordAt sl tl l s) 0 0 g srcs ds := by
  refine ⟨⟨rfl, .inl (by rw [slot_wordAt])⟩, ?_, ?_, by simp [guardMark, hg], ?_, sound_wordAt hb⟩
  · rw [slot_wordAt]; exact quiet_settled h _
  · intro h; simp [hg] at h
  · rw [slot_wordAt]; exact quiet_unmarked h _

/-- So does every scalar word. -/
theorem scalar_runs_at {sl : Slot} (h : quiet sl = true) {tl : Tile} {l s} (c : Sc) (hg : c.g.ge = false)
    (hb : tl.badWords = [] := by rfl) : c.Runs (wordAt sl tl l s) 0 0 := by
  refine ⟨⟨rfl, .inl (by rw [slot_wordAt])⟩, ?_, ?_, sound_wordAt hb⟩
  · rw [slot_wordAt]; exact quiet_settled h _
  · intro h; simp [hg] at h

/-- A guard that is on runs the word where its predicate holds. -/
theorem witness_guard_on : Runs (wordAt { slotT [] with p := #v[false, true, false, false] }) 0 0 ⟨1, false, true⟩ [.t 0] [.t 1] := by
  refine ⟨⟨rfl, .inl rfl⟩, by unfold Settled; decide, by unfold Pass; decide, by decide, by unfold Unmarked; decide, rfl⟩

/-- Scalar words of every operand and type run, and their sticky bits can be set (`Sc.Effect` of every scalar word). -/
theorem witness_ScalarWords :
    (∀ c : Sc, c.g.ge = false → c.Runs (wordAt (slotT [3, 4])) 0 0)
    ∧ ∀ (fi : Firing) (b : Word), ∃ r, setSticky (wordAt (slotT [3, 4])) 0 fi b = .ok r := by
  refine ⟨fun c h => scalar_runs_at (by decide) c h, fun fi b => ?_⟩
  by_cases hb : b = 0
  · exact ⟨_, by rw [setSticky, if_pos hb]⟩
  · exact ⟨(_, fi), by rw [setSticky, if_neg hb]; rfl⟩

/-- A marked operand marks the result and sets no sticky bit: such a state exists too. -/
theorem witness_ScalarMarked :
    let c : Sc := { g := ⟨0, false, false⟩, srcs := [.t 0, .t 1], d := some (.t 2) }
    let s := wordAt { slotT [3, 4] with tm := #v[true, false, false, false, false, false, false, false] }
    c.Runs s 0 0 ∧ c.mark (slotOf s 0 0) = true := by
  refine ⟨⟨⟨rfl, .inl rfl⟩, by unfold Settled; decide, by unfold Pass; decide, rfl⟩, by decide⟩

theorem witness_ShapedIntegerWords : 8 ≤ ({ R0 with sh := 8 } : RWord).sh.toNat ∧ ({ I0 with ty := .s8 } : IWord).ty ≠ .b64
    ∧ ({ R0 with cc := .uo } : RWord).cc = .uo := by decide

theorem witness_FloatExactResults : ∃ a b c : Val, (∃ n m e, a = .fin n m e) ∧ (∃ n m e, b = .fin n m e) ∧ ∃ n m e, c = .fin n m e :=
  ⟨.fin false 3 0, .fin true 5 (-1), .fin false 0 0, ⟨_, _, _, rfl⟩, ⟨_, _, _, rfl⟩, ⟨_, _, _, rfl⟩⟩

/-- 2^11 + 1 rounds in FP16 to nearest without overflow; the clause's inner case has the encoding 0x6800. -/
theorem witness_RoundingIsNearest : FFmt.f16 ∈ floats ∧ (FFmt.f16.round .rne 0 (.fin false 2049 0)).2.ovf = false
    ∧ (FFmt.f16.round .rne 0 (.fin false 2049 0)).2.sat = false
    ∧ 0x6800 < 2 ^ FFmt.f16.width ∧ ∃ n m e, FFmt.f16.decode 0x6800 = .fin n m e := by
  refine ⟨by decide, by decide, by decide, by decide, false, 1024, 1, by decide⟩

theorem witness_RoundingKeepsEncodings : FFmt.f16 ∈ floats ∧ 0x3C00 < 2 ^ FFmt.f16.width ∧ (FFmt.f16.decode 0x3C00).isNan = false
    ∧ (FFmt.f16.decode 0x7E00).isNan = true := by decide

theorem witness_FloatOrderWords : ({ R0 with ty := .f16 } : RWord).ty = .f16 := rfl

/-! ### Token and system words -/

def gOff : Guard := ⟨0, false, false⟩
def r0 : RWord := { R0 with g := gOff }
def i0 : IWord := { I0 with g := gOff }
def v0 : VWord := { V0 with g := gOff }
def m0 : MWord := { M0 with g := gOff }
def s0 : SWord := { S0 with g := gOff }
def e0 : EWord := { E0 with g := gOff }

/-- t0 names node 3 port 1 of tile 0; t1 is data; t2 the greatest tag. -/
def sendSlot : Slot := slotT [0x200000D, 77, 0xFFFFF, 0]

theorem witness_SendWord :
    let s := wordAt sendSlot
    let w : EWord := { e0 with a := .t 0, b := .t 1, c := .t 2, ch := 5 }
    Runs s 0 0 w.g [w.a, w.b, w.c] [] ∧ isDest (opVal (slotOf s 0 0) w.a) ∧ (opVal (slotOf s 0 0) w.c).toNat ≤ 0xFFFFF
      ∧ Usable s 0 w.ch := by
  refine ⟨runs_at (by decide) rfl _ _, ?_, by decide, ?_⟩
  · unfold isDest; decide
  · unfold Usable; decide

theorem witness_EmitWord :
    let s := wordAt sendSlot
    let w : EWord := { e0 with b := .t 1, c := .t 2, ch := 5, imm := 7 }
    Runs s 0 0 w.g [w.b, w.c] [] ∧ (opVal (slotOf s 0 0) w.c).toNat ≤ 0xFFFFF ∧ Usable s 0 5
      ∧ (nodeRec s 0 0 0).destA.v = true := by
  refine ⟨runs_at (by decide) rfl _ _, by decide, ?_, by decide⟩
  unfold Usable; decide

/-- A request of the firing that has not passed translation, and one that has. -/
def reqA : Req := { id := 9, tile := 0, ctx := 0, party := .firing 7, pnum := 7, addr := { ia := 0xFF00000100000, asid := 5 }, op := .load 8 }

theorem witness_SendLeavesInOrder :
    (let sl := slotT []
     sl.late = none ∧ sl.held = [] ∧ ∀ r ∈ sl.reqs, standsBefore world .tile r = false)
    ∧ (let sl := { slotT [] with reqs := [9] }
       sl.late = none ∧ sl.held = [] ∧ ∃ r ∈ sl.reqs, standsBefore { world with reqs := [reqA] } .tile r = true)
    ∧ ({ slotT [] with late := some {} } : Slot).late ≠ none := by decide

theorem witness_SendFaults :
    (let s := wordAt (slotT [0x20000000])
     Runs s 0 0 gOff [.t 0, .t 1, .t 2] [] ∧ ¬ isDest (opVal (slotOf s 0 0) (.t 0)))
    ∧ (let s := wordAt (slotT [0x200000D, 0, 0x100000])
       Runs s 0 0 gOff [.t 0, .t 1, .t 2] [] ∧ isDest (opVal (slotOf s 0 0) (.t 0)) ∧ 0xFFFFF < (opVal (slotOf s 0 0) (.t 2)).toNat)
    ∧ (let s := wordAt sendSlot
       Runs s 0 0 gOff [.t 0, .t 1, .t 2] [] ∧ isDest (opVal (slotOf s 0 0) (.t 0)) ∧ (opVal (slotOf s 0 0) (.t 2)).toNat ≤ 0xFFFFF
       ∧ (3 : BitVec 5).toNat < 4 ∧ 4 ≤ (7 : BitVec 5).toNat ∧ (chanOf (tileOf s 0) 7).getLsbD 63 = false) := by
  refine ⟨⟨runs_at (by decide) rfl _ _, ?_⟩, ⟨runs_at (by decide) rfl _ _, ?_, by decide⟩,
    runs_at (by decide) rfl _ _, ?_, by decide, by decide, by decide, by decide⟩ <;> unfold isDest <;> decide

theorem witness_BurstSendWords :
    let s := wordAt (slotT [0x200000D, 2, 0xFFFFF, 0xFFFFFFFFFFFFF])
    let e := chanOf (tileOf s 0) 5
    Usable s 0 5 ∧ Unheld s 0 0 { regs := sendRegs e .s8 2 3 }
    ∧ (∃ fmt data dtag body fl r1 r2, sendData s 0 (slotOf s 0 0) e .s8 2 3 = .ok (fmt, data, dtag)
        ∧ routeFilter e fmt 2 dtag (slotOf s 0 0).seed data = .ok (body, fl)
        ∧ trackMany 0 false ((sendRegs e .s8 2 3).map vregUnit) s (slotOf s 0 0).firing = .ok r1
        ∧ setSticky r1.1 0 r1.2 fl.stat = .ok r2)
    ∧ Runs s 0 0 gOff [.t 0, .t 1, .t 2] [] ∧ isDest (opVal (slotOf s 0 0) (.t 0)) ∧ (opVal (slotOf s 0 0) (.t 2)).toNat ≤ 0xFFFFF
    ∧ Runs s 0 0 gOff [.t 3, .t 1] [] ∧ (opVal (slotOf s 0 0) (.t 3)).toNat < 2 ^ 52 := by
  refine ⟨?_, unheld_at (by decide) rfl _, ⟨6, [0, 0], 0, .burst { nelem := 2, fmt := 6, bytes := List.replicate 64 0 }, {}, (_, _), (_, _), ok_of (by decide), ok_of (by decide), rfl, rfl⟩, runs_at (by decide) rfl _ _, ?_, by decide,
    runs_at (by decide) rfl _ _, by decide⟩
  · unfold Usable; decide
  · unfold isDest; decide

theorem witness_TagmkWord :
    let c : Sc := { g := gOff, srcs := [.t 0, .t 1], d := some (.t 2) }
    c.Runs (wordAt (slotT [1, 2])) 0 0
    ∧ (opVal (slotT [0xFFFFF, 1]) (.t 0)).toNat * 2 ^ 0 + (opVal (slotT [0xFFFFF, 1]) (.t 1)).toNat % 2 ^ 0 ≤ 0xFFFFF
    ∧ 0xFFFFF < (opVal (slotT [0x80000, 0]) (.t 0)).toNat * 2 ^ 1 + (opVal (slotT [0x80000, 0]) (.t 1)).toNat % 2 ^ 1 :=
  ⟨scalar_runs_at (by decide) _ rfl, by decide, by decide⟩
/-- Stream 3 of tile 0 open with nothing outstanding, stream 4 failed, timeline 1 with a faulted command 2. -/
def tileS : Tile :=
  { tile0 with streams := [(3, { isOpen := true }), (4, { isOpen := true, failed := some { code := 0x21 } })],
               timelines := [(1, { issued := 3, counter := 2, faulted := [(2, { code := 0x24 })] })] }

theorem witness_PchkStream :
    let s := wordAt (slotT [3, 0]) tileS
    Runs s 0 0 gOff [.t 0, .t 1] [.t 2] ∧ opVal (slotOf s 0 0) (.t 0) = (3 : BitVec 4).setWidth 64 ∧ opVal (slotOf s 0 0) (.t 1) = 0
    ∧ (streamOf s 0 0 5).isOpen = false
    ∧ (streamOf s 0 0 3).isOpen = true ∧ (∀ r ∈ s.reqs, r.party ≠ .stream 0 0 3) ∧ (streamOf s 0 0 3).failed = none
    ∧ (streamOf s 0 0 4).isOpen = true ∧ (streamOf s 0 0 4).failed = some { code := 0x21 }
    ∧ ∃ r ∈ (wordAt (slotT [3, 0]) tileS launch1 { world with reqs := [{ reqA with party := .stream 0 0 3 }] }).reqs,
        r.party = .stream 0 0 3 := by
  refine ⟨runs_at (by decide) rfl _ _, by decide, by decide, by decide, by decide, by decide, by decide, by decide, by decide, ?_⟩
  exact ⟨_, .head _, rfl⟩

theorem witness_PchkTimeline :
    let s := wordAt (slotT [17, 2, 3, 1]) tileS
    let tm := timelineOf s 0 0 1
    Runs s 0 0 gOff [.t 0, .t 1] [.t 2] ∧ opVal (slotOf s 0 0) (.t 0) = 16 + (1 : BitVec 2).setWidth 64
    ∧ (opVal (slotOf s 0 0) (.t 2)).toNat ≤ tm.issued ∧ tm.counter < (opVal (slotOf s 0 0) (.t 2)).toNat
    ∧ (opVal (slotOf s 0 0) (.t 3)).toNat ≤ tm.counter ∧ (∀ p ∈ tm.faulted, (opVal (slotOf s 0 0) (.t 3)).toNat < p.1)
    ∧ (opVal (slotOf s 0 0) (.t 1)).toNat ≤ tm.counter ∧ tm.faulted = [] ++ (2, { code := 0x24 }) :: []
    ∧ 2 ≤ (opVal (slotOf s 0 0) (.t 1)).toNat :=
  ⟨runs_at (by decide) rfl _ _, by decide, by decide, by decide, by decide, by decide, by decide, by decide, by decide⟩

theorem witness_DoneNopBrkWords :
    Runs (wordAt (slotT [])) 0 0 gOff [] [] ∧ (tileOf (wordAt (slotT [])) 0).dbgctl = false
    ∧ (tileOf (wordAt (slotT []) { tile0 with dbgctl := true }) 0).dbgctl = true :=
  ⟨runs_at (by decide) rfl _ _, by decide, by decide⟩

/-- Every numbered register of `rdsr` at the edges of its range, and a tracked read that succeeds. -/
theorem witness_RdsrWord :
    let s := wordAt (slotT [])
    let c : Sc := { g := gOff, d := some (.t 0) }
    c.Runs s 0 0 ∧ (∀ n ∈ [0x000, 0x00B, 0x010, 0x012, 0x018, 0x01F, 0x020, 0x05F], (trackSr s 0 (slotOf s 0 0).firing false n).toBool = true)
    ∧ (0x01F = 0x018 + (7 : Fin 8).val) ∧ (0x05F = 0x021 + 2 * 31) := by
  refine ⟨scalar_runs_at (by decide) _ rfl, by decide, by decide, by decide⟩

theorem witness_WrsrWord :
    let s := wordAt (slotT [0x0000002000000001, 0x3F800000, 0x7F800001])
    Runs s 0 0 gOff [.t 0] [] ∧ NotDet s 0 ∧ (∃ s1, clkRequest s (tileOf s 0).launch (opVal (slotOf s 0 0) .zero) = some s1)
    ∧ thValue ((opVal (slotOf s 0 0) (.t 1)).setWidth 32) = some 0x3F800000
    ∧ thValue ((opVal (slotOf s 0 0) (.t 2)).setWidth 32) = none
    ∧ (0x008 ∈ [0x000, 0x001, 0x002, 0x003, 0x007, 0x008, 0x00B, 0x010]) := by
  refine ⟨runs_at (by decide) rfl _ _, ?_, ⟨_, rfl⟩, by decide, by decide, by decide⟩
  unfold NotDet; decide

theorem witness_TrapAndHaltWords :
    let s := wordAt (slotT [1])
    Runs s 0 0 gOff [.t 0] [] ∧ Runs s 0 0 gOff [] [] ∧ ∀ r ∈ s.reqs, (tileOf s r.tile).launch ≠ (tileOf s 0).launch :=
  ⟨runs_at (by decide) rfl _ _, runs_at (by decide) rfl _ _, by decide⟩

/-- Queue 4095 takes device kicks of ASID 5; t1 is a value it takes, t0 the queue, t2 a window number, t3 an address. -/
def kickWorld : State := { world with queues := [(4095, { en := true, dkick := true, asid := 5, logsz := 4 })] }

theorem witness_ClockKickWindowWords :
    let s := wordAt (slotT [4095, 16, 7, 0x10000, 4072, 0x100000000, 4096, 2]) tile0 launch1 kickWorld
    let sl := slotOf s 0 0
    Runs s 0 0 gOff [.t 0, .t 1] [] ∧ (opVal sl (.t 0)).toNat < 4096 ∧ (∀ r ∈ sl.reqs, standsBefore s .dom r = false)
    ∧ kickOk s (opVal sl (.t 0)).toNat (opVal sl (.t 1)).toNat (tileLaunch s 0).asid = true ∧ 4096 ≤ (opVal sl (.t 6)).toNat
    ∧ (∃ s1, clkRequest s (tileOf s 0).launch (opVal sl .zero) = some s1)
    ∧ clkRequest s (tileOf s 0).launch 0xFF = none
    ∧ (opVal sl (.t 2)).toNat < 8 ∧ (opVal sl (.t 4)).toNat % 8 = 0 ∧ (opVal sl (.t 4)).toNat + 24 ≤ (imageOf s 0 0).scratch
    ∧ Unheld s 0 0 { spad := [((opVal sl (.t 4)).toNat, 24)] } ∧ Sound s 0 ∧ NotDet s 0
    ∧ (winOf (rdBytes (tileOf s 0).scratch (opVal sl (.t 4)).toNat 24)).ok (tileLaunch s 0).asid = true
    ∧ 0 < (opVal sl (.t 5)).toNat ∧ (opVal sl (.t 5)).toNat ≤ 2 ^ 32
    ∧ (∃ f, slotAddr s 0 sl .load (opVal sl (.t 3)) 16 = .ok f ∧ reqOverlaps s sl f 16 = false)
    ∧ (opVal sl (.t 3)).toNat % 65536 = 0 ∧ kindWordOk (opVal sl (.t 7)) = true ∧ (∀ r ∈ s.recodes, r.issuer ≠ some (0, 0))
    ∧ ∃ f, slotAddr s 0 sl .store (opVal sl (.t 3)) 65536 = .ok f ∧ isHostIA f.ia.toNat = false ∧ pkgIsLocal s (iaPkg f.ia.toNat) = true := by
  refine ⟨runs_at (by decide) rfl _ _, by decide, by decide, by decide, by decide, ⟨_, rfl⟩, by decide, by decide, by decide, by decide,
    unheld_at (by decide) rfl _, ?_, ?_, by decide, by decide, by decide,
    ⟨{ ia := 0xFF00000100000, asid := 5, va := 0x10000 }, by decide, by decide⟩, by decide, by decide, by decide,
    ⟨{ ia := 0xFF00000100000, asid := 5, va := 0x10000 }, by decide, by decide, by decide⟩⟩
  · unfold Sound; decide
  · unfold NotDet; decide
/-! ### Vector and wavelet words -/

/-- A world whose v0 to v15 hold a slab of domain tag 2 (a 16-bit type), v30 a mask of lanes 0 and 5. -/
def tileV : Tile :=
  { tile0 with vtag := (List.range 16).map (fun r => (r, 2)), vreg := [(512 * 30, 0x21)] }

def vecW : State := wordAt (slotT [0, 0x3F800000, 64, 131073]) tileV

theorem trackMany_ok (t : Nat) (b : Bool) : ∀ (l : List (Nat × Nat)) (s : State) (f : Firing), (tileLaunch s t).det = false →
    trackMany t b l s f = .ok (s, f)
  | [], _, _, _ => rfl
  | (a, n) :: l, s, f, h => by
    simp only [trackMany, trackTile, h, Bool.not_false, Bool.true_or, if_true]
    exact trackMany_ok t b l s f h

/-- What `Lands` asks beside the clauses of each statement holds there for every word, whatever it reads and writes. -/
theorem witness_Lands (g : Guard) (hg : g.ge = false) (srcs ds : List SOp) (named : List Nat) (o : VOut) :
    Runs vecW 0 0 g srcs ds ∧ Unheld vecW 0 0 { regs := named } ∧ Unheld vecW 0 0 o.foot ∧ Sound vecW 0
      ∧ (∃ r, trackOut vecW 0 (slotOf vecW 0 0).firing o = .ok r)
      ∧ ∀ (b : Word) (f : Firing), ∃ r, setSticky vecW 0 f b = .ok r := by
  refine ⟨runs_at (by decide) hg _ _, unheld_at (by decide) rfl _, unheld_at (by decide) rfl _, ?_, ?_, ?_⟩
  · unfold Sound; decide
  · have hd : (tileLaunch vecW 0).det = false := by decide
    exact ⟨(vecW, (slotOf vecW 0 0).firing), by simp only [trackOut, trackMany_ok 0 _ _ _ _ hd]⟩
  · intro b f
    by_cases hb : b = 0
    · exact ⟨_, by rw [setSticky, if_pos hb]⟩
    · exact ⟨(_, f), by rw [setSticky, if_neg hb]; rfl⟩

/-- Unmasked words, and a masked one on v30. -/
def vA : VWord := { v0 with ty := .f16, vd := 200, va := 16, vb := 32 }
def vM : VWord := { vA with me := true, vm := 30 }

theorem keeps_off {tl : Tile} {w : VWord} (h : w.me = false) (tag : BitVec 3) : Keeps tl w tag := by
  intro h2; simp [h] at h2

theorem witness_VectorArithmeticWords :
    (∀ w ∈ [vA, vM], Below vecW 0 0 (w.va.toNat :: bReg w ++ mReg w ++ [w.vd.toNat]) ∧ Slabs w.ty
      ∧ regTag (tileOf vecW 0) w.va.toNat = bTag (tileOf vecW 0) w ∧ Keeps (tileOf vecW 0) w 0 ∧ Keeps (tileOf vecW 0) w (0 ||| 0)
      ∧ w.vc.toNat < (imageOf vecW 0 (slotOf vecW 0 0).firing.ctx).vregs)
    ∧ regTag (tileOf vecW 0) ({ vA with vc := 17 } : VWord).vc.toNat = 0 ||| 0
    ∧ (let w := { vA with va := 0, vb := 15, vc := 1 }
       regTag (tileOf vecW 0) w.va.toNat = bTag (tileOf vecW 0) w ∧ regTag (tileOf vecW 0) w.va.toNat = 2)
    ∧ (let w := { vA with va := 0, vc := 15 }
       (regTag (tileOf vecW 0) w.va.toNat = 0 ∨ bTag (tileOf vecW 0) w = 0)
       ∧ regTag (tileOf vecW 0) w.vc.toNat = regTag (tileOf vecW 0) w.va.toNat ||| bTag (tileOf vecW 0) w) := by
  unfold Below Slabs Keeps; decide

/-- Words of the reconstructing class, with untagged and with tagged sources. -/
theorem witness_CanRec :
    (∀ w ∈ [vA, vM, { vA with ty := .z64 }, { vA with ty := .f32 }],
      CanRec vecW 0 0 w.ty (w.va.toNat :: bReg w) (w.va.toNat :: bReg w ++ [w.vc.toNat] ++ mReg w ++ [w.vd.toNat]))
    ∧ (∀ w ∈ [vA, vM], CanRec vecW 0 0 w.ty [w.va.toNat] ([w.va.toNat] ++ mReg w ++ [w.vd.toNat, w.vc.toNat]))
    ∧ CanRec vecW 0 0 .f16 [15] [15, 200] ∧ groups (tileOf vecW 0) .f16 [15] = [0]
    ∧ CanRec vecW 0 0 .f16 [16] [16, 200, 201] := by
  unfold CanRec Below Slabs; decide

theorem witness_VectorOrderWords :
    (∀ ty ∈ [Ty.s8, .z8, .s32, .z32, .s64, .z64, .f16, .bf16, .f32], arithTy ty)
    ∧ CanRec vecW 0 0 vA.ty (vA.va.toNat :: bReg vA) (vA.va.toNat :: bReg vA ++ mReg vA ++ [vA.vd.toNat])
    ∧ (∀ tl tag, Keeps tl vA tag) ∧ CanRec vecW 0 0 vA.ty [vA.va.toNat] ([vA.va.toNat] ++ mReg vA ++ [vA.vd.toNat])
    ∧ Below vecW 0 0 ([0] ++ mReg vA ++ [vA.vd.toNat]) ∧ (Slabs .f16 ∨ regTag (tileOf vecW 0) 0 = 0)
    ∧ Keeps (tileOf vecW 0) vM (regTag (tileOf vecW 0) 16) := by
  refine ⟨by unfold arithTy; decide, by unfold CanRec Below Slabs; decide, fun tl tag => keeps_off rfl tag,
    by unfold CanRec Below Slabs; decide, by unfold Below; decide, by unfold Slabs; decide, by unfold Keeps; decide⟩

theorem witness_VectorLogicWords : ∀ w ∈ [{ vA with ty := .z8 }, { vM with ty := .q4 }],
    Below vecW 0 0 (w.va.toNat :: bReg w ++ mReg w ++ [w.vd.toNat]) ∧ regTag (tileOf vecW 0) w.va.toNat = 0
      ∧ bTag (tileOf vecW 0) w = 0 ∧ Keeps (tileOf vecW 0) w 0 := by
  unfold Below Keeps; decide

theorem witness_VectorFunctionWords : Slabs vA.ty ∧ CanRec vecW 0 0 vA.ty [vA.va.toNat] ([vA.va.toNat] ++ mReg vA ++ [vA.vd.toNat])
    ∧ ∀ tl, Keeps tl vA 0 := by
  refine ⟨by unfold Slabs; decide, by unfold CanRec Below Slabs; decide, fun tl => keeps_off rfl 0⟩

theorem witness_VectorFunctionInputs : ∃ m : Nat, 0 < m := ⟨1, by decide⟩

/-- Widening from the last PART, and narrowing into VD of the same tag. -/
theorem witness_VectorConvertWord :
    ∀ w ∈ [{ vA with ty := .f32, vb := 1, vc := 7 }, { vM with ty := .s8, vb := 3, vc := 12 }, { vA with ty := .f16, va := 0, vc := 8 }],
    ∃ st, Ty.ofCode w.vc.toNat = some st ∧ st ≠ .b64 ∧ w.ty ≠ .b64 ∧ Below vecW 0 0 ([w.va.toNat] ++ mReg w ++ [w.vd.toNat])
      ∧ w.vb.toNat < max w.ty.bytes st.bytes / min w.ty.bytes st.bytes + (if w.ty.bytes = st.bytes then 32 else 0)
      ∧ (regTag (tileOf vecW 0) w.va.toNat = 0 ∨ ((tyF w.ty).isSome = true ∧ Slabs st))
      ∧ (w.me = true ∨ w.ty.bytes < st.bytes → regTag (tileOf vecW 0) w.vd.toNat = regTag (tileOf vecW 0) w.va.toNat) := by
  intro w hw
  simp only [List.mem_cons, List.not_mem_nil, or_false] at hw
  rcases hw with rfl | rfl | rfl
  · refine ⟨.f16, ?_⟩; unfold Below Slabs; decide
  · refine ⟨.f32, ?_⟩; unfold Below Slabs; decide
  · refine ⟨.bf16, ?_⟩; unfold Below Slabs; decide

theorem witness_VectorMoveWords :
    CanRec vecW 0 0 vA.ty (vA.va.toNat :: bReg vA) (vA.va.toNat :: bReg vA ++ [vA.vc.toNat] ++ mReg vA ++ [vA.vd.toNat])
    ∧ (∀ tl tag, Keeps tl vA tag) ∧ vA.ty ≠ .b64 ∧ vA.sb = false
    ∧ (let w := { vA with sb := true, vb := 12 }
       w.sb = true ∧ Below vecW 0 0 (mReg w ++ [w.vd.toNat]) ∧ Keeps (tileOf vecW 0) w 0)
    ∧ Below vecW 0 0 ([vA.va.toNat] ++ mReg vA ++ [vA.vd.toNat])
    ∧ CanRec vecW 0 0 vA.ty (vA.va.toNat :: bReg vA) (vA.va.toNat :: bReg vA ++ mReg vA ++ [vA.vd.toNat])
    ∧ CanRec vecW 0 0 vA.ty [vA.va.toNat] ([vA.va.toNat] ++ mReg vA ++ [vA.vd.toNat]) := by
  refine ⟨?_, fun tl tag => keeps_off rfl tag, by decide, by decide, ?_, ?_, ?_, ?_⟩ <;> (try unfold CanRec) <;> unfold Below <;>
    (try unfold Slabs) <;> (try unfold Keeps) <;> decide

theorem witness_VectorReductionWords : ∀ vc ∈ [(0 : BitVec 8), 8],
    let w := { vA with vc := vc }
    arithTy w.ty ∧ w.vc.toNat ≤ Nat.log2 (lanesOf w.ty) ∧ CanRec vecW 0 0 w.ty [w.va.toNat] ([w.va.toNat] ++ mReg w ++ [w.vd.toNat])
      ∧ w.me = false := by
  unfold arithTy CanRec Below Slabs; decide

/-- Two enabled lanes of equal value, lanes 0 and 5, and the greatest k. -/
theorem witness_VectorTopkWord :
    let w := { vM with ty := .z32, vb := 64, vc := 201 }
    let R := rebuilt vecW 0 w.ty [w.va.toNat]
    let rank : List Nat := [0, 5]
    w.ty ∈ [Ty.s32, .z32, .f16, .bf16, .f32] ∧ 1 ≤ w.vb.toNat ∧ w.vb.toNat ≤ min 64 (lanesOf w.ty)
      ∧ CanRec vecW 0 0 w.ty [w.va.toNat] ([w.va.toNat] ++ mReg w ++ [w.vd.toNat, w.vc.toNat])
      ∧ rank.Perm ((List.range (lanesOf w.ty)).filter (on R.1 w))
      ∧ rank.Pairwise (fun i j => before w.ty (lane R.1 w.ty w.va.toNat) i j = true) := by
  refine ⟨by decide, by decide, by decide, by unfold CanRec Below Slabs; decide, ?_, by decide⟩
  have : (List.range (lanesOf .z32)).filter (on (rebuilt vecW 0 .z32 [16]).1 { vM with ty := .z32, vb := 64, vc := 201 }) = [0, 5] := by
    decide
  exact List.Perm.of_eq this.symm

theorem witness_VectorQuantWords :
    (let w := { vA with ty := .q4, vb := 0x1F, vc := 12 }
     Ty.ofCode w.vc.toNat = some .f32 ∧ w.ty ∈ [Ty.s8, .e4m3, .e5m2, .q4] ∧ Slabs .f32
      ∧ CanRec vecW 0 0 .f32 [w.va.toNat] [w.va.toNat, w.vd.toNat, w.vd.toNat + 1])
    ∧ (let w := { vA with vb := 3, vc := 11 }
       Ty.ofCode w.vc.toNat = some .q4 ∧ Slabs w.ty ∧ Ty.q4 ∈ [Ty.s8, .e4m3, .e5m2, .q4]
        ∧ Below vecW 0 0 [w.va.toNat, w.va.toNat + 1, w.vd.toNat] ∧ regTag (tileOf vecW 0) w.va.toNat = 0
        ∧ regTag (tileOf vecW 0) (w.va.toNat + 1) = 0) := by
  unfold CanRec Below Slabs; decide

/-- A firing that holds a burst of two bytes on port 0. -/
def portW : State :=
  wordAt { slotT [0, 0, 131072] with firing := { party := 7, ops := [(0, { body := .burst { nelem := 2, fmt := 6, bytes := List.replicate 64 0 } })] } } tileV

/-- `vld` and `vst` of length 0, of 512 bytes at 0 and at the last address they fit; the port form. -/
theorem witness_VectorLoadStoreWords :
    (let w : VWord := { v0 with ty := .z8, vd := 200, va := 0, vb := 12, sb := true }
     w.ty ≠ .b64 ∧ runLen (slotOf vecW 0 0) w = 0)
    ∧ (let w : VWord := { v0 with ty := .z8, vd := 200, va := 0, vb := 0 }
       w.ty ≠ .b64 ∧ 0 < runLen (slotOf vecW 0 0) w ∧ runLen (slotOf vecW 0 0) w ≤ 131072
        ∧ Below vecW 0 0 (mReg w ++ runRegs w (runLen (slotOf vecW 0 0) w))
        ∧ (opVal (slotOf vecW 0 0) (vAddr w)).toNat + runLen (slotOf vecW 0 0) w ≤ (imageOf vecW 0 0).scratch ∧ w.me = false)
    ∧ (let w : VWord := { v0 with ty := .z8, vd := 200, va := 8, vb := 0, vc := 1 }
       8 ≤ w.va.toNat ∧ (∃ tok img tag, afind (slotOf portW 0 0).firing.ops (w.va.toNat - 8) = some tok ∧ payloadImage tok = some (img, tag))
        ∧ 0 < runLen (slotOf portW 0 0) w ∧ Below portW 0 0 (mReg w ++ runRegs w (runLen (slotOf portW 0 0) w)) ∧ w.me = false
        ∧ runLen (slotOf portW 0 0) { w with vb := 12, sb := true } = 0) := by
  refine ⟨by decide, ?_, by decide, ⟨_, _, _, rfl, rfl⟩, by decide, ?_, by decide, by decide⟩ <;> unfold Below <;> decide

theorem witness_VectorIndexedWords :
    let w : VWord := { v0 with ty := .f32, vd := 200, va := 0, vb := 16, me := true, vm := 30 }
    let tl := tileOf vecW 0
    let ix := (List.range ((lanesOf w.ty + 127) / 128)).map (w.vb.toNat + ·)
    let addr (i : Nat) : Nat := ((opVal (slotOf vecW 0 0) (vAddr w)).toNat + lane tl .z32 (w.vb.toNat + i / 128) (i % 128)) % 2 ^ 64
    w.ty ≠ .b64 ∧ Below vecW 0 0 (ix ++ mReg w ++ [w.vd.toNat])
      ∧ (∀ i ∈ (List.range (lanesOf w.ty)).filter (on tl w), addr i % w.ty.bytes = 0 ∧ addr i + w.ty.bytes ≤ (imageOf vecW 0 0).scratch)
      ∧ (∀ r ∈ ix, regTag tl r = 0) ∧ Keeps tl w 0 := by
  refine ⟨by decide, by unfold Below; decide, ?_, by decide, by unfold Keeps; decide⟩
  decide

/-- 256 VREGS leave no register out; a context of 16 does. Tags 2 and 2, 2 and 0, 0 and 2. -/
theorem witness_VectorFaults :
    Runs vecW 0 0 gOff (vSrc vA) [] ∧ Unheld vecW 0 0 { regs := [16, 32, 200] }
    ∧ ¬ Below (wordAt (slotT []) tileV { launch1 with images := [{ vregs := 16 }] }) 0 0 (vA.va.toNat :: bReg vA ++ mReg vA ++ [vA.vd.toNat])
    ∧ (let w := { vA with va := 0 }
       Below vecW 0 0 (w.va.toNat :: bReg w ++ mReg w ++ [w.vd.toNat]) ∧ regTag (tileOf vecW 0) w.va.toNat ≠ bTag (tileOf vecW 0) w)
    ∧ (let w := { vA with va := 0, vb := 15 }
       regTag (tileOf vecW 0) w.va.toNat ≠ 0 ∧ bTag (tileOf vecW 0) w ≠ 0)
    ∧ (let w := { vA with vb := 3, sb := true }
       Runs vecW 0 0 gOff (vAddr w :: vSrc w) [] ∧ 131072 < (opVal (slotOf vecW 0 0) (vScalar w)).toNat
        ∧ Unheld vecW 0 0 { regs := mReg w ++ runRegs w (runLen (slotOf vecW 0 0) w) }) := by
  refine ⟨runs_at (by decide) rfl _ _, unheld_at (by decide) rfl _, ?_, ⟨?_, ?_⟩, ?_, runs_at (by decide) rfl _ _, by decide,
    unheld_at (by decide) rfl _⟩ <;> (try unfold Below) <;> decide

theorem witness_HaarLines : ∃ c : List Nat, c.length = 64 := ⟨List.replicate 64 0, List.length_replicate⟩
theorem witness_HaarSlabs : ∃ c : List Nat, c.length = 4096 := ⟨List.replicate 4096 0, List.length_replicate⟩

/-- A tagged group as source, an untagged one; `hbias` with a scalar and with a register. -/
theorem witness_WaveletGroupWords :
    (let w := { vA with va := 0, vd := 16, vb := 1 }
     Slabs w.ty ∧ GroupOk vecW 0 0 w [] ∧ regTag (tileOf vecW 0) w.va.toNat &&& w.vb.setWidth 3 = 0)
    ∧ (let w := { vA with va := 16, vd := 16, vb := 3 }
       GroupOk vecW 0 0 w [] ∧ regTag (tileOf vecW 0) w.va.toNat &&& w.vb.setWidth 3 = 0
       ∧ ((regTag (tileOf vecW 0) w.va.toNat).getLsbD 1 = false ∨ (w.vb.setWidth 3).getLsbD 0 = false))
    ∧ (let w := { vA with va := 0, vd := 16, vb := 2 }
       regTag (tileOf vecW 0) w.va.toNat = 2)
    ∧ (let w := { vA with va := 0, vd := 16, vb := 30 }
       GroupOk vecW 0 0 w (bReg w) ∧ ∀ r ∈ bReg w, regTag (tileOf vecW 0) r = 0) := by
  refine ⟨⟨?_, ?_, ?_⟩, ⟨?_, ?_, ?_⟩, ?_, ?_, ?_⟩ <;> (try unfold Slabs) <;> (try unfold GroupOk) <;> (try unfold Below) <;> decide

theorem witness_Survival : (0x7FC00000 < 2 ^ 32) ∧ 0x7F800000 ≤ 0x7F800000 := by decide

/-- `hexp` of a bitmap with nothing kept, `dtag` of a register and a group, `dtget`, `thset` of 1.0 and of a NaN. -/
theorem witness_WaveletTagWords :
    (let w := { vA with va := 16, vd := 32 }
     Slabs w.ty ∧ (List.range 4096).countP (vbit (tileOf vecW 0) w.va.toNat) = 0
       ∧ Below vecW 0 0 ((List.range (1 + (0 * w.ty.bytes + 511) / 512)).map (w.va.toNat + ·) ++ members w.ty w.vd.toNat)
       ∧ ∀ r ∈ (List.range (1 + (0 * w.ty.bytes + 511) / 512)).map (w.va.toNat + ·), regTag (tileOf vecW 0) r = 0)
    ∧ Below vecW 0 0 [255] ∧ Below vecW 0 0 (members .f16 32)
    ∧ (let w := { vA with ty := .f32, vd := 7, vb := 1, sb := true }
       Slabs w.ty ∧ w.vd.toNat < 8
       ∧ (FFmt.f32.round .rne 0 (tyVal w.ty (scal (slotOf vecW 0 0) w))).1 ≤ 0x7F800000
       ∧ ¬ (let x := (FFmt.f32.round .rne 0 (tyVal w.ty (scal (slotT [0, 0x7FC00000]) w))).1; x = 0x80000000 ∨ x ≤ 0x7F800000)
       ∧ Runs vecW 0 0 gOff [vScalar w] [] ∧ Unheld vecW 0 0 { regs := [] }) := by
  have hz : ∀ j < 512, rd8 (tileOf vecW 0).vreg (512 * 16 + j) = 0 := by set_option maxRecDepth 8000 in decide
  refine ⟨⟨by unfold Slabs; decide, ?_, by unfold Below; decide, by decide⟩, by unfold Below; decide, by unfold Below; decide,
    by unfold Slabs; decide, by decide, by decide, by decide, runs_at (by decide) rfl _ _, unheld_at (by decide) rfl _⟩
  rw [List.countP_eq_zero]
  intro e he
  have h : e / 8 < 512 := by rw [List.mem_range] at he; omega
  simp [vbit, hz _ h]
/-! ### Matrix engine -/

/-- A shape record of M = 8, N = 1, K = 8 with strides of 16 bytes, and one with K = 12, which no record has. -/
def shapeB : List Byte := [8, 0, 1, 0, 8, 0, 0, 0, 0, 0, 0, 0, 0, 0, 0, 0, 16, 0, 0, 0, 0, 0, 0, 0, 16, 0, 0, 0, 0, 0, 0, 0] ++ List.replicate 160 0

/-- Record 9 holds the shape; the scratchpad holds at 64 an entry of rank 8 with weights at 128, at 1024 the record;
v100 carries a tag of its own. -/
def tileM : Tile :=
  { tile0 with shapes := [(9, { valid := true, bytes := shapeB })], scratch := wrBytes (wrBytes [] 64 [128]) 1024 shapeB,
               vtag := [(100, 3)] }

def matW : State := wordAt (slotT [0, 0x3F800000, 64, 1024, 1025, 65536, 3920, 65535]) tileM
def sA : SWord := { s0 with ty := .bf16, tb := 8, shr := 9, oa := 16, ob := 32 }

theorem trackWeights_nil (s : State) (t : Nat) (f : Firing) : trackWeights s t f [] = .ok (s, f) := rfl

/-- What `Accepts` asks beside the clauses of each statement holds there for every word and plan without weights in memory. -/
theorem witness_Accepts (i : Instr) (g : Guard) (hg : g.ge = false) (srcs : List SOp) (named : Foot) (x : Word) (p : MatPlan) :
    Runs matW 0 0 g srcs [] ∧ Unheld matW 0 0 named ∧ Unheld matW 0 0 p.foot ∧ (tileOf matW 0).mat.length < 8
      ∧ ∃ r, queueMat matW 0 (slotOf matW 0 0).firing (some (0 : Fin 4).val) (slotOf matW 0 0).seed i x p [] = .ok r := by
  refine ⟨runs_at (by decide) hg _ _, unheld_at (by decide) rfl _, unheld_at (by decide) rfl _, by decide, ?_⟩
  have hd : (tileLaunch matW 0).det = false := by decide
  exact ⟨(_, _, _), by simp only [queueMat, trackMany_ok 0 _ _ _ _ hd, trackWeights_nil]; rfl⟩

theorem witness_MatrixQueue : NotDet matW 0 := by unfold NotDet; decide

theorem witness_MatrixMoveWords :
    (∀ r ∈ members sA.ty sA.oa.toNat, r < (imageOf matW 0 0).vregs) ∧ sA.ty ≠ .q4
    ∧ (∀ r ∈ members sA.ty sA.oa.toNat, regTag (tileOf matW 0) r = regTag (tileOf matW 0) sA.oa.toNat)
    ∧ (∀ r ∈ members sA.ty sA.ob.toNat ++ members sA.ty sA.oa.toNat, r < (imageOf matW 0 0).vregs)
    ∧ (∀ r ∈ members sA.ty sA.ob.toNat, regTag (tileOf matW 0) r = regTag (tileOf matW 0) sA.ob.toNat)
    ∧ (opVal (slotOf matW 0 0) (.t 0)).toNat + 4096 * Ty.s8.bytes ≤ (imageOf matW 0 0).scratch := by decide

/-- Untagged images of registers with Z, and of the scratchpad without; DEC with a scale of 1.0. -/
theorem witness_MatrixMultiplyWord : ∀ w ∈ [{ sA with z := true }, { sA with dec := true, x := .t 1 }],
    let e := matEnv matW 0 0
    let r := shapeOf shapeB
    let oa := (mmaOpnds w r).1
    let ob := (mmaOpnds w r).2
    shapeAt (tileOf matW 0) w.shr.toNat = some shapeB
      ∧ (if w.dec then opVal (slotOf matW 0 0) w.x else 0).extractLsb' 32 32 = 0
      ∧ oa.rowSize ≤ oa.rowb ∧ ob.rowSize ≤ ob.rowb ∧ oa.inRange (tileOf matW 0) e.vregs e.scratch = true
      ∧ ob.inRange (tileOf matW 0) e.vregs e.scratch = true
      ∧ (opTag oa (tileOf matW 0) r.af (oa.foot (tileOf matW 0) w.oa.toNat)).toOption = some 0
      ∧ (opTag ob (tileOf matW 0) r.bf (ob.foot (tileOf matW 0) w.ob.toNat)).toOption = some 0
      ∧ TagsFit 0 0 r.m r.n ∧ (w.z = true ∨ slabTagDue (tileOf matW 0) w.ad.toNat = tagOf 0 0) := by
  unfold TagsFit; set_option maxRecDepth 4000 in decide

/-- Weights of rank 8 in the scratchpad: the down step (X [0] = 0) of one block. -/
theorem witness_MatrixSparseWords :
    (∃ p, mmasPlan (matEnv matW 0 0) sA 0 = .ok p)
    ∧ ∃ r, magPlan { sA with x := .t 3 } matW 0 (slotOf matW 0 0) = .ok r := by
  exact ⟨some_ok (by set_option maxRecDepth 8000 in decide), some_ok (by set_option maxRecDepth 8000 in decide)⟩

theorem witness_MatrixFaults :
    Runs matW 0 0 gOff [] [] ∧ shapeAt (tileOf matW 0) ({ sA with shr := 8 } : SWord).shr.toNat = none
    ∧ Unheld matW 0 0 { slabs := [0], recs := [8] }
    ∧ (∃ r ∈ members .bf16 241, (imageOf matW 0 0).vregs ≤ r) ∧ Unheld matW 0 0 { regs := members .bf16 241, slabs := [0] } ∧ Unheld matW 0 0 {}
    ∧ (∀ r ∈ members .bf16 96, r < (imageOf matW 0 0).vregs)
    ∧ (∃ r ∈ members .bf16 96, regTag (tileOf matW 0) r ≠ regTag (tileOf matW 0) 96) :=
  ⟨runs_at (by decide) rfl _ _, by decide, unheld_at (by decide) rfl _, by decide, unheld_at (by decide) rfl _,
    unheld_at (by decide) rfl _, by decide, by decide⟩

/-- An instruction of slot 0 that writes slab 0. -/
def matOp0 : MatOp := { id := 40, instr := .macz { s0 with ad := 0 }, slot := some 0, dst := some 0 }

theorem witness_MatrixControlWords :
    (∃ m ∈ (tileOf (wordAt { slotT [] with mats := [40] } { tileM with mat := [matOp0] }) 0).mat,
      m.id ∈ (slotOf (wordAt { slotT [] with mats := [40] } { tileM with mat := [matOp0] }) 0 0).mats ∧ m.dst = some (0 : BitVec 6).toNat)
    ∧ Runs (wordAt { slotT [] with mats := [40] } { tileM with mat := [matOp0] }) 0 0 gOff [] []
    ∧ (∀ m ∈ (tileOf matW 0).mat, ¬ m.id ∈ (slotOf matW 0 0).mats) ∧ (∀ p ∈ (slotOf matW 0 0).mfault, p.1.slabs.contains 0 = false)
    ∧ (let s := wordAt { slotT [] with mfault := [({ slabs := [0] }, { code := 0x41 })] } tileM
       Runs s 0 0 gOff [] [] ∧ (slotOf s 0 0).mfault = ({ slabs := [0] }, { code := 0x41 }) :: [])
    ∧ Runs matW 0 0 gOff [.t 7] [] ∧ (opVal (slotOf matW 0 0) (.t 7)).toNat ≤ 65535 ∧ 65535 < (opVal (slotOf matW 0 0) (.t 5)).toNat
    ∧ (opVal (slotOf matW 0 0) (.t 3)).toNat % 16 = 0 ∧ (opVal (slotOf matW 0 0) (.t 3)).toNat + 192 ≤ (imageOf matW 0 0).scratch
    ∧ Unheld matW 0 0 { spad := [(1024, 192)], recs := [9] } ∧ Sound matW 0 ∧ NotDet matW 0
    ∧ shapeOk (rdBytes (tileOf matW 0).scratch (opVal (slotOf matW 0 0) (.t 3)).toNat 192) = true
    ∧ shapeOk (rdBytes (tileOf matW 0).scratch (opVal (slotOf matW 0 0) (.t 0)).toNat 192) = false
    ∧ (opVal (slotOf matW 0 0) (.t 4)).toNat % 16 ≠ 0
    ∧ (opVal (slotOf matW 0 0) (.t 6)).toNat % 16 = 0 ∧ (imageOf matW 0 0).scratch < (opVal (slotOf matW 0 0) (.t 6)).toNat + 192 := by
  refine ⟨⟨matOp0, .head _, by decide, by decide⟩, runs_at (by decide) rfl _ _, by decide, by decide, ⟨runs_at (by decide) rfl _ _, by decide⟩,
    runs_at (by decide) rfl _ _, by decide, by decide, by decide, by decide, unheld_at (by decide) rfl _, ?_, ?_,
    by set_option maxRecDepth 4000 in decide, by set_option maxRecDepth 4000 in decide, by decide, by decide, by decide⟩
  · unfold Sound; decide
  · unfold NotDet; decide

theorem witness_ShapeRecords : shapeB.length = 192 ∧ shapeOk shapeB = true ∧ shapeOk (List.replicate 192 0) = false := by set_option maxRecDepth 4000 in decide

def matOpA (i : Instr) : MatOp := { id := 40, instr := i, slot := some 0, dst := some 0, shape := shapeB }

/-- `mma`, `mmas` and `mmag` on the shape above; `mmag` with one block of rank 8. -/
theorem witness_MatrixProducts :
    (matOpA (.mma sA)).instr = .mma sA ∧ Sound matW 0 ∧ shapeOk (matOpA (.mma sA)).shape = true ∧ matTy sA.ty = true
    ∧ matTy (tbTy sA) = true ∧ sA.ty ≠ .q4 ∧ tbTy sA ≠ .q4 := by
  unfold Sound; decide

theorem witness_MatrixIntersections :
    (matOpA (.mmas sA)).instr = .mmas sA ∧ Sound matW 0 ∧ shapeOk (matOpA (.mmas sA)).shape = true
    ∧ (mmaOpnds sA (shapeOf shapeB)).1.cmp = false ∧ (mmaOpnds sA (shapeOf shapeB)).2.cmp = false
    ∧ sA.ty ∈ [Ty.s8, .f16, .bf16, .e4m3, .e5m2] ∧ tbTy sA ∈ [Ty.s8, .f16, .bf16, .e4m3, .e5m2] := by
  unfold Sound; decide

theorem witness_MatrixAdapters :
    let m := { matOpA (.mmag sA) with blocks := [(.spad 128, 8)] }
    m.instr = .mmag sA ∧ Sound matW 0 ∧ shapeOk m.shape = true ∧ matTy sA.ty = true ∧ matTy (tbTy sA) = true ∧ sA.dec = false
    ∧ sA.ty ≠ .q4 ∧ m.blocks = (List.range ((shapeOf m.shape).m / 8)).map (fun j => (.spad ((fun _ => 128) j), (fun _ => 8) j))
    ∧ (shapeOf m.shape).m % 8 = 0 ∧ ∀ j < (shapeOf m.shape).m / 8, (fun _ : Nat => 8) j ∈ [8, 16, 24, 32, 40, 48, 56, 64] := by
  unfold Sound; decide

theorem witness_MatrixMoves : Sound matW 0 ∧ sA.ty ∈ [Ty.s8, .f16, .bf16, .e4m3, .e5m2, .f32]
    ∧ ∀ i ∈ [Instr.macz sA, .macld sA, .macldSpad sA, .macst sA, .macstSpad sA, .mtr sA], (matOpA i).instr = i := by
  unfold Sound; decide

/-- The head of tile 0's queue, of slot 0 and of an `mctl` firing. -/
def matDone (m : MatOp) : State := { wordAt { slotT [] with mats := [40] } { tileM with mat := [m] } with focus := .event (.n 0) }

/-- `mburst` alone among them changes no slab, so its outcome is the tile itself. -/
theorem witness_MatrixCompletes : ∀ sl ∈ [some 0, none],
    let m : MatOp := { matOp0 with slot := sl, instr := .mburst s0 }
    (matDone m).focus = .event (.n 0) ∧ (tileOf (matDone m) 0).mat = m :: []
    ∧ doMat { matDone m with focus := .idle } 0 m = .done { matDone m with focus := .idle } (tileOf (matDone m) 0) {} none
    ∧ NotDet (matDone m) 0 ∧ m.slot = sl := by
  intro sl _
  refine ⟨rfl, rfl, rfl, ?_, rfl⟩
  unfold NotDet; rfl

/-- A fault: `macz` of a bad word is none, so a load from an uncorrectable register gives one. -/
theorem witness_MatrixCompletes_fault :
    let m : MatOp := { matOp0 with slot := none, instr := .macld { s0 with ty := .s8, oa := 16 }, foot := { regs := [16] } }
    let s := { wordAt (slotT []) { tileM with mat := [m], badWords := [badReg 16 0] } with focus := .idle }
    ∃ tl fl c, doMat s 0 m = .done s tl fl (some c) :=
  ⟨_, _, _, rfl⟩
/-! ### Memory words, translation, pages -/

theorem err_of {ε α : Type} {x : Except ε α} (h : x.toOption = none) : ∃ e, x = .error e := by
  cases x
  · exact ⟨_, rfl⟩
  · simp [Except.toOption] at h

theorem pair_ok {σ ε α : Type} {x : σ × Except ε α} {P : σ → α → Prop} {a : α} (h : x.2.toOption = some a) (hp : P x.1 a) :
    ∃ s b, x = (s, .ok b) ∧ P s b := by
  obtain ⟨s, y⟩ := x
  cases y with
  | error e => simp [Except.toOption] at h
  | ok v =>
    simp only [Except.toOption, Option.some.injEq] at h
    subst h
    exact ⟨s, v, rfl, hp⟩

theorem pair_err {σ ε α : Type} {x : σ × Except ε α} (h : x.2.toOption = none) : ∃ s e, x = (s, .error e) := by
  obtain ⟨s, y⟩ := x
  cases y <;> simp_all [Except.toOption]

theorem witness_ExtentsCanonical : 0 < 1 ∧ (2 ^ 56 - 1) < 2 ^ 64 ∧ extentOk (2 ^ 56 - 1) 1 = true ∧ extentOk (2 ^ 56) 1 = false
    ∧ extentOk (2 ^ 64 - 1) 1 = true ∧ extentOk (2 ^ 64 - 1) 2 = false := by decide

/-- No window matches address 0; window 0 matches its last byte; an extent past its end; a load-only window. -/
theorem witness_WindowSearch :
    (∀ i, ¬ matchesAt [win0] 1 0 i) ∧ matchesAt [win0] 1 0x4FFFF 0 ∧ [win0][0]? = some win0 ∧ win0.hi < vaInt (0x4FFFF + 2 - 1)
    ∧ vaInt (0x4FFFF + 1 - 1) ≤ win0.hi ∧ win0.perm .atomic = true ∧ ({ win0 with limit := 0x40001 } : Win).perm .store = false := by
  refine ⟨?_, ?_, by decide, by decide, by decide, by decide, by decide⟩
  · rintro i ⟨w, hw, _, _, h, _⟩
    cases i with
    | zero => simp at hw; subst hw; exact absurd h (by decide)
    | succ n => simp at hw
  · exact ⟨win0, by decide, by decide, by decide, by decide, by decide⟩

theorem witness_AddressForming :
    extentOk (2 ^ 56) 8 = false ∧ extentOk 0 8 = true ∧ (∃ c, findWin [win0] 1 .load 0 8 0 = .error c)
    ∧ extentOk 0x10000 8 = true ∧ findWin [win0] 1 .load 0x10000 8 0 = .ok (0xFF00000100000, 5)
    ∧ (∀ d ∈ ([] : List Lease), d.covers world .load 0xFF00000100000 8 = false)
    ∧ (∃ d ∈ launch1.leases, d.covers world .load 0xFF00000100000 8 = true)
    ∧ iaPkg 0xFF00000100000 = 255
    ∧ (192 ≤ iaPkg 0xC000000000000 ∧ iaPkg 0xC000000000000 ≤ 254
        ∧ ({ start := 0xC000000000000, pages := 1, access := 1 } : Lease).covers world .load 0xC000000000000 8 = true)
    ∧ (iaPkg 0x01F0000000000 < 192 ∧ 0xF0000000000 ≤ iaLocal 0x1F0000000000 ∧ world.boot.pkg ≠ some (BitVec.ofNat 8 (iaPkg 0x1F0000000000)))
    ∧ (iaPkg 0xF0000000000 < 192 ∧ world.boot.pkg = some (BitVec.ofNat 8 (iaPkg 0xF0000000000))) := by
  refine ⟨by decide, by decide, err_of (by decide), by decide, by decide, by decide, by decide, by decide, by decide, by decide, by decide⟩

/-- t0 a good address, t1 data, t2 a misaligned one, t3 one in no window. -/
def memW : State := wordAt (slotT [0x10008, 0xFFFFFFFF, 0x10001, 0, 1048576, 1048577])
def mA : MWord := { m0 with ty := .s64, base := .t 0, data := .t 1 }
def addrA : Formed := { ia := 0xFF00000100008, asid := 5, va := 0x10008 }

theorem witness_LoadStoreWords :
    (slotOf memW 0 0).fence = [] ∧ Unheld memW 0 0 { mem := [memExt addrA 8] } ∧ Runs memW 0 0 gOff [.t 0] [.t 7]
    ∧ slotAddr memW 0 (slotOf memW 0 0) .load (eaOf (slotOf memW 0 0) mA) 8 = .ok addrA
    ∧ Runs memW 0 0 gOff [.t 0, .t 1] [] ∧ slotAddr memW 0 (slotOf memW 0 0) .store (eaOf (slotOf memW 0 0) mA) 8 = .ok addrA :=
  ⟨by decide, unheld_at (by decide) rfl _, runs_at (by decide) rfl _ _, ok_of (by decide), runs_at (by decide) rfl _ _, ok_of (by decide)⟩

theorem witness_AtomicWords :
    (eaOf (slotOf memW 0 0) mA).toNat % 8 = 0 ∧ slotAddr memW 0 (slotOf memW 0 0) .atomic (eaOf (slotOf memW 0 0) mA) 8 = .ok addrA
    ∧ Runs memW 0 0 gOff [.t 0, .t 1] [.zero] ∧ Runs memW 0 0 gOff [.t 0, .t 1, .t 2] [.zero]
    ∧ (slotOf memW 0 0).fence = [] ∧ Unheld memW 0 0 { mem := [memExt addrA 8] } :=
  ⟨by decide, ok_of (by decide), runs_at (by decide) rfl _ _, runs_at (by decide) rfl _ _, by decide, unheld_at (by decide) rfl _⟩

theorem witness_MemoryWordFaults :
    Runs memW 0 0 gOff [.t 3, .t 1] [.t 7] ∧ (slotOf (wordAt { slotT [] with fence := [9] }) 0 0).fence ≠ []
    ∧ Runs (wordAt { slotT [] with fence := [9] }) 0 0 gOff [.t 3, .t 1] [.t 7]
    ∧ (slotOf memW 0 0).fence = [] ∧ (∃ c, slotAddr memW 0 (slotOf memW 0 0) .load (eaOf (slotOf memW 0 0) { mA with base := .t 3 }) 8 = .error c)
    ∧ (eaOf (slotOf memW 0 0) { mA with base := .t 3 }).toNat % 8 = 0
    ∧ (∃ c, slotAddr memW 0 (slotOf memW 0 0) .atomic (eaOf (slotOf memW 0 0) { mA with base := .t 3 }) 8 = .error c)
    ∧ (eaOf (slotOf memW 0 0) { mA with base := .t 2 }).toNat % 8 ≠ 0
    ∧ Runs memW 0 0 gOff [.t 3, .t 1] [] ∧ (∃ c, slotAddr memW 0 (slotOf memW 0 0) .store (eaOf (slotOf memW 0 0) { mA with base := .t 3 }) 8 = .error c) :=
  ⟨runs_at (by decide) rfl _ _, by decide, runs_at (by decide) rfl _ _, by decide, err_of (by decide), by decide, err_of (by decide), by decide,
    runs_at (by decide) rfl _ _, err_of (by decide)⟩

theorem witness_AtomicResults : (2 ^ 64 - 1) < 2 ^ (8 * Ty.s64.bytes) ∧ Ty.s64 ∈ [Ty.b64, .s32, .z32, .s64, .z64] ∧ ∃ f, tyF .bf16 = some f := by
  refine ⟨by decide, by decide, ⟨_, rfl⟩⟩

theorem witness_OrderWords :
    (let s := wordAt { slotT [] with reqs := [9] } tile0 launch1 { world with reqs := [reqA] }
     Runs s 0 0 gOff [] [] ∧ ∃ r ∈ s.reqs, r.id ∈ (slotOf s 0 0).reqs ∧ standsBefore s .tile r.id = true)
    ∧ Runs memW 0 0 gOff [] [] ∧ (∀ r ∈ memW.reqs, standsBefore memW .sys r.id = false)
    ∧ Live memW 0 0 ∧ Settled (slotOf memW 0 0) [.t 0, .t 4] ∧ Pass (slotOf memW 0 0) gOff
    ∧ (opVal (slotOf memW 0 0) (.t 4)).toNat ≤ 1048576 ∧ 1048576 < (opVal (slotOf memW 0 0) (.t 5)).toNat
    ∧ (∃ e, slotAddr memW 0 (slotOf memW 0 0) .load (eaOf (slotOf memW 0 0) { mA with base := .t 3 }) 1048576 = .error e)
    ∧ slotAddr memW 0 (slotOf memW 0 0) .load (eaOf (slotOf memW 0 0) mA) 1 = .ok addrA ∧ iaLocal addrA.ia.toNat < 0xF0000000000
    ∧ pkgIsLocal memW (iaPkg addrA.ia.toNat) = true := by
  refine ⟨⟨runs_at (by decide) rfl _ _, reqA, .head _, by decide, by decide⟩, runs_at (by decide) rfl _ _, by decide, ⟨rfl, .inl rfl⟩, ?_, ?_,
    by decide, by decide, err_of (by decide), ok_of (by decide), by decide, by decide⟩
  · unfold Settled; decide
  · unfold Pass; decide

/-- Tables of ASID 5 that map local offset 0x100000 by `pte`, tier 0 enabled; tier 1 is not. -/
def mapped (pte : Nat) : State :=
  { world with
    roots := [(5, 0x40001)], tiers := [(0, { cfg := 0x0014001000000020, free := (List.range 40).map (· + 3), area := 8 })],
    mem := wrLE (wrLE [] (physKey 0 0x40000) 8 0x60001) (physKey 0 0x60080) 8 pte }

theorem pteLoc_mapped : ∀ pte ∈ [0x200007, 0x200006, 0x201007, 0x200047, 0x200001, 0x5000F], pteLoc (mapped pte) 5 0x100000 = some (0x40001, 0x60001, physKey 0 0x60080)
    ∧ rdLE (mapped pte).mem (physKey 0 0x60080) 8 = pte := by decide

/-- Unmapped; invalid; reserved bits; a tier that is off; load-only written to; a full PTE. -/
theorem witness_TranslationOrder :
    afind (mapped 0x200007).tcache (tcKey 5 0x100000) = none ∧ pteLoc world 5 0x100000 = none
    ∧ 0x200006 % 2 = 0 ∧ ¬ (0x201007 / 2 ^ 48 % 2 ^ 8 = 0 ∧ 0x201007 / 2 ^ 12 % 2 ^ 4 = 0 ∧ 0x201007 / 2 ^ 9 % 2 = 0)
    ∧ tierOn (mapped 0x200047) (0x200047 / 2 ^ 6 % 4) = false
    ∧ (0x40001 / 2 ^ 48 = 0 ∧ 0x40001 / 2 % 2 ^ 16 = 0) ∧ (0x60001 / 2 ^ 48 = 0 ∧ 0x60001 / 2 % 2 ^ 16 = 0)
    ∧ (0x200007 / 2 ^ 48 % 2 ^ 8 = 0 ∧ 0x200007 / 2 ^ 12 % 2 ^ 4 = 0 ∧ 0x200007 / 2 ^ 9 % 2 = 0) ∧ 0x200007 / 2 ^ 6 % 4 ≠ 3
    ∧ 0x200007 / 2 ^ 3 % 8 ≤ 4 ∧ tierOn (mapped 0x200007) (0x200007 / 2 ^ 6 % 4) = true
    ∧ ¬ (2 ≤ 0x200001 / 2 % 4) ∧ 0x200007 / 2 % 4 = 3 := by decide

/-- A write of one byte: into a kind-0 page, and into a record page with a chunk. -/
theorem witness_PageWriteBytes : ∃ s', pageWrite (mapped 0x200007) (.req 9) 0x200007 0 [1] = .done s' := ⟨_, rfl⟩

def grown (chunks : List Nat) (t : Tier → Tier) : State :=
  modTier (setRec (mapped 0x5000F) 0 5 { ktag := 1, chunks := chunks }) 0 t

/-- `need` is 0 with a chunk and 1 without; the pool exhausted, at RESERVE, and above it. -/
theorem witness_PageGrowth :
    pteKind 0x5000F ≠ 0 ∧ ([1] : List Byte) ≠ []
    ∧ recCheck (grown [3] id) 0x5000F = .ok () ∧ recCheck (grown [] id) 0x5000F = .ok () ∧ (∀ c ∈ (tierOf (grown [] id) 0).free, c < 2 ^ 32)
    ∧ (let s := grown [3] id
       (sectorSum (recode { s with mem := wrBytes s.mem (pageByte 0x5000F 0) [1] } 0x5000F (recOf s 0 5) 0 1) + 127) / 128 - 1 = 0)
    ∧ (let s := grown [] id
       (sectorSum (recode { s with mem := wrBytes s.mem (pageByte 0x5000F 0) [1] } 0x5000F (recOf s 0 5) 0 1) + 127) / 128 - 0 = 1)
    ∧ (tierOf (grown [] (fun t => { t with exhausted := true })) 0).exhausted = true
    ∧ (let t := tierOf (grown [] (fun t => { t with free := List.range 16 })) 0
       t.exhausted = false ∧ t.free.length < 1 + tierReserve t)
    ∧ (let t := tierOf (grown [] id) 0
       t.exhausted = false ∧ 1 + tierReserve t ≤ t.free.length ∧ t.held = []) := by
  decide +kernel

theorem witness_TouchedPages : ∃ r l p, pteLoc (mapped 0x200007) 5 0x100000 = some (r, l, p) := ⟨_, _, _, (pteLoc_mapped _ (.head _)).1⟩

/-- One request under way, its turn to be looked at. -/
def homeW (r : Req) (s : State) : State := { wordAt (slotT []) tile0 launch1 s with focus := .event (.n r.id), reqs := [r] }

def reqL (op : ReqOp) : Req := { reqA with op := op, addr := { ia := 0xFF00000100000, asid := 5 } }

/-- Host accesses with the link up, and atomics with and without host support. -/
theorem witness_HomeRequests_host : ∀ op ∈ [ReqOp.load 8, .store [1], .atom .add .s64 1 0 false],
    ∀ ha ∈ [true, false],
    let r : Req := { reqL op with addr := { ia := 0xFFF0000000000, asid := 5 } }
    let s := homeW r { world with boot := { world.boot with puverUp := true, hostAtomics := ha } }
    s.reqs.find? (fun x => x.id = 9) = some r ∧ reqTurn s r = true ∧ 0xF0000000000 ≤ iaLocal r.addr.ia.toNat
      ∧ (∀ x ∈ s.reqs, ¬ (x.tile = r.tile ∧ x.id < r.id ∧ bytesMeet s x r = true)) ∧ pkgCheck s r.addr.ia.toNat = .ok () ∧ s.boot.puverUp = true ∧ s.boot.hostAtomics = ha := by decide

/-- A request that has not passed translation: mapped and not mapped. -/
theorem witness_HomeRequests_passes :
    let r := reqL (.load 8)
    let s := homeW r (mapped 0x200007)
    s.reqs.find? (fun x => x.id = 9) = some r ∧ reqTurn s r = true ∧ iaLocal r.addr.ia.toNat < 0xF0000000000
      ∧ pkgIsLocal s (iaPkg r.addr.ia.toNat) = true ∧ r.pte = none ∧ mayPass s r = true
      ∧ (∃ s1 ws, transAll { s with focus := .idle } 5 (reqAsid0 s r) .load (pagesOf r.addr.ia.toNat 8) = (s1, .ok ws) ∧ NotDet s1 r.tile
          ∧ nearHit s1 0 r.addr 8 = none)
      ∧ ∃ s1 c, transAll { homeW r world with focus := .idle } 5 (reqAsid0 s r) .load (pagesOf r.addr.ia.toNat 8) = (s1, .error c) := by
  refine ⟨by decide, by decide, by decide, by decide, by decide, by decide,
    pair_ok (P := fun s1 _ => NotDet s1 0 ∧ nearHit s1 0 (reqL (.load 8)).addr 8 = none) (a := [0x200007]) (by decide) ⟨?_, by decide⟩,
    pair_err (by decide)⟩
  unfold NotDet; decide

/-- A request that has passed: its page is sound, or its record is not; a store and an atomic that are written. -/
theorem witness_HomeRequests_performed :
    ∀ op ∈ [ReqOp.load 8, .store [1], .atom .add .s64 1 0 false],
    let r : Req := { reqL op with pte := some [0x200007] }
    let s := homeW r (mapped 0x200007)
    s.reqs.find? (fun x => x.id = 9) = some r ∧ reqTurn s r = true ∧ r.held = none ∧ mayPerform s r = true
      ∧ (checkAll { s with focus := .idle } [0x200007]).toOption = some ()
      ∧ (checkAll { s with focus := .idle } [0x5000F]).toOption = none
      ∧ (atomNew .add .s64 (atomArg .s64 1) (atomArg .s64 0)
          (leNat (readPages { s with focus := .idle } (ReqPages { r with op := .atom .add .s64 1 0 false } [0x200007])))).isSome = true := by
  decide

theorem witness_HomeRequests_written :
    let s := { homeW (reqL (.store [1])) (mapped 0x200007) with focus := .idle }
    (∃ s1, writePages s (.req 9) s (ReqPages (reqL (.store [1])) [0x200007]) [1] = .done s1)
    ∧ ∃ s1, writePages s (.req 9) s (ReqPages (reqL (.atom .add .s64 1 0 false)) [0x200007]) (bytesLE 8 1) = .done s1 :=
  ⟨⟨_, rfl⟩, ⟨_, rfl⟩⟩

theorem witness_AnswersReachTemporaries :
    ({ reqA with dest := .reg (3 : Fin 4).val 7 .s8 } : Req).dest = .reg (3 : Fin 4).val 7 .s8 ∧ ([0x80] : List Byte).length = Ty.s8.bytes
      ∧ Ty.s8 ≠ .q4 := by decide
/-! ### Streams -/

/-- A header of 1 × 1 in FP32-class format 1 with one slab, whole slots. -/
def hdrB : List Byte := [1, 0, 0, 0, 1, 0, 0, 0, 1, 0, 0, 0, 1, 0, 0, 0] ++ List.replicate 48 0

/-- ASID 5 maps 0x10000 to frame 0x20 of tier 0; the page begins with `b`. -/
def paged (b : List Byte) : State := let s := mapped 0x200007; { s with mem := wrBytes s.mem (physKey 0 0x200000) b }

theorem read_ok {α : Type} {x : MRes α} {b : α} (h : (match x with | .ok _ y => some y | _ => none) = some b) : ∃ s, x = .ok s b := by
  cases x <;> simp_all

/-- t0 an address, t1 a length, t2 to t6 control words, t7 the last scratchpad offset of 64 bytes. -/
def opnW : State := wordAt (slotT [0x10000, 65536, 2, 0, 4, 5, 6, 4032]) tile0 launch1 (paged hdrB)

/-- A control word with both [1] and [2]; scratchpad ranges that fit and that do not; memory in element and in slab mode. -/
theorem witness_StreamOpenWord :
    let sl := slotOf opnW 0 0
    let fits (a b : SOp) : Prop := 0 < (opVal sl a).toNat ∧ (opVal sl a).toNat ≤ 2 ^ 40 ∧ ControlOk (opVal sl b) ∧ (streamOf opnW 0 0 3).isOpen = false
    (∀ b, Runs opnW 0 0 gOff [.t 0, .t 1, b] []) ∧ ¬ fits (.t 1) (.t 6) ∧ fits (.t 4) (.t 2) ∧ fits (.t 1) (.t 2) ∧ fits (.t 1) (.t 3)
    ∧ fits (.t 1) (.t 4) ∧ fits (.t 1) (.t 5)
    ∧ (opVal sl (.t 2)).getLsbD 1 = true ∧ (opVal sl (.t 7)).toNat + (opVal sl (.t 4)).toNat ≤ (imageOf opnW 0 0).scratch
    ∧ (imageOf opnW 0 0).scratch < (opVal sl (.t 7)).toNat + (opVal sl (.t 1)).toNat
    ∧ sl.fence = [] ∧ (∀ acc ∈ [Acc.load, .store], (slotAddr opnW 0 sl acc (opVal sl (.t 0)) 65536).toOption
        = some { ia := 0xFF00000100000, asid := 5, va := 0x10000 })
    ∧ (∀ fo, Unheld opnW 0 0 fo) ∧ (opVal sl (.t 3)).getLsbD 2 = false ∧ (opVal sl (.t 4)).getLsbD 2 = true ∧ 63 < 64
    ∧ reqOverlaps opnW sl { ia := 0xFF00000100000, asid := 5, va := 0x10000 } 64 = false
    ∧ (∃ s1, memRead opnW 5 ((tileLaunch opnW 0).asid = 0) 0 0xFF00000100000 64 = .ok s1 hdrB)
    ∧ (∃ h, openHdr hdrB 65536 = .ok h) ∧ (∃ e, openHdr (List.replicate 64 0) 65536 = .error e) := by
  refine ⟨fun b => runs_at (by decide) rfl _ _, by unfold ControlOk; decide, by unfold ControlOk; decide, by unfold ControlOk; decide,
    by unfold ControlOk; decide, by unfold ControlOk; decide, by unfold ControlOk; decide, by decide, by decide, by decide, by decide,
    by decide, fun fo => unheld_at (by decide) rfl fo, by decide, by decide, by decide, by decide, read_ok (by set_option maxRecDepth 20000 in decide), some_ok (by decide),
    err_of (by decide)⟩

theorem witness_StreamOpenWord_notDet : ∃ s1 b, memRead opnW 5 false 0 0xFF00000100000 64 = .ok s1 b ∧ NotDet s1 0 := by
  have h : (match memRead opnW 5 false 0 0xFF00000100000 64 with | .ok s _ => !(tileLaunch s 0).det | _ => false) = true := by
    set_option maxRecDepth 20000 in decide
  cases hm : memRead opnW 5 false 0 0xFF00000100000 64 with
  | ok s b => rw [hm] at h; exact ⟨s, b, rfl, by simpa [NotDet] using h⟩
  | _ => rw [hm] at h; simp at h

/-- A good header, with the least length that holds its slab and one byte less; a bad one; a compacted one of a format that
has no survivors. -/
theorem witness_SlabHeaders :
    hdrB.length = 64 ∧ (efmt (leNat ((hdrB.drop 0).take 1))).isSome = true ∧ leNat ((hdrB.drop 12).take 4) = (1 + 63) / 64 * ((1 + 63) / 64)
    ∧ (let n := leNat ((hdrB.drop 0).take 1); 1 ≤ n ∧ n ≤ 5 ∧ n ≠ 0x0C)
    ∧ (openHdr hdrB (64 + slotSize 1 false)).toOption.isSome = true ∧ (openHdr hdrB (63 + slotSize 1 false)).toOption = none
    ∧ (List.replicate 64 (0 : Byte)).length = 64 ∧ ¬ 1 ≤ leNat (((List.replicate 64 (0 : Byte)).drop 4).take 4)
    ∧ (let b := (hdrB.set 1 4).set 0 6
       b.length = 64 ∧ leNat ((b.drop 1).take 1) / 4 % 2 = 1 ∧ ¬ leNat ((b.drop 0).take 1) ≤ 5 ∧ (efmt (leNat ((b.drop 0).take 1))).isSome = true) := by
  decide

/-- Stream 3 reads memory, 4 reads the scratchpad up to its end, 5 writes memory, 6 writes the scratchpad, 7 has failed,
8 is at its end. -/
def tileT : Tile :=
  { tile0 with streams := [
      (3, { isOpen := true, start := .mem { ia := 0xFF00000100000, asid := 5, va := 0x10000 }, len := 65536 }),
      (4, { isOpen := true, ctl := 2, start := .spad 4032, len := 64, pos := 56 }),
      (5, { isOpen := true, ctl := 1, start := .mem { ia := 0xFF00000100000, asid := 5, va := 0x10000 }, len := 65536, pos := 65528 }),
      (6, { isOpen := true, ctl := 3, start := .spad 4032, len := 64, pos := 56 }),
      (7, { isOpen := true, failed := some { code := 0x21 } }),
      (8, { isOpen := true, len := 64, pos := 57 }), (9, { isOpen := true, ctl := 1, len := 64, pos := 57 }),
      (10, { isOpen := true, ctl := 1, failed := some { code := 0x21 } })] }

def strW : State := wordAt (slotT [1]) tileT

theorem witness_StreamElementWords :
    Runs strW 0 0 gOff [] [.t 7] ∧ Runs strW 0 0 gOff [.t 0] [] ∧ (slotOf strW 0 0).fence = []
    ∧ (∀ n ∈ [(3 : BitVec 4), 4, 5, 6], (streamOf strW 0 0 n).isOpen = true ∧ (streamOf strW 0 0 n).failed = none
        ∧ (streamOf strW 0 0 n).pos + 8 ≤ (streamOf strW 0 0 n).len
        ∧ ((streamOf strW 0 0 n).ctl.getLsbD 0 = true ↔ n = 5 ∨ n = 6) ∧ ∀ j ∈ (streamOf strW 0 0 n).after, ∀ r ∈ strW.reqs, r.id ≠ j)
    ∧ (∃ a, (streamOf strW 0 0 3).start = .mem a) ∧ (∃ b, (streamOf strW 0 0 4).start = .spad b)
    ∧ (∃ a, (streamOf strW 0 0 5).start = .mem a) ∧ (∃ b, (streamOf strW 0 0 6).start = .spad b)
    ∧ Unheld strW 0 0 { spad := [(4032 + 56, 8)] } ∧ NotDet strW 0 ∧ Sound strW 0 ∧ Ty.s64 ≠ .q4 := by
  refine ⟨runs_at (by decide) rfl _ _, runs_at (by decide) rfl _ _, by decide, by decide, ⟨_, rfl⟩, ⟨_, rfl⟩, ⟨_, rfl⟩, ⟨_, rfl⟩,
    unheld_at (by decide) rfl _, ?_, ?_, by decide⟩
  · unfold NotDet; decide
  · unfold Sound; decide

theorem witness_StreamFaults :
    (slotOf strW 0 0).fence = [] ∧ Runs strW 0 0 gOff [] [.t 7] ∧ Runs strW 0 0 gOff [.t 0] []
    ∧ (streamOf strW 0 0 2).isOpen = false ∧ (streamOf strW 0 0 5).ctl.getLsbD 0 = true ∧ (streamOf strW 0 0 3).ctl.getLsbD 0 = false
    ∧ (∀ n ∈ [(7 : BitVec 4), 10], (streamOf strW 0 0 n).isOpen = true ∧ (streamOf strW 0 0 n).failed = some { code := 0x21 }
        ∧ ((streamOf strW 0 0 n).ctl.getLsbD 0 = true ↔ n = 10))
    ∧ (∀ n ∈ [(8 : BitVec 4), 9], (streamOf strW 0 0 n).isOpen = true ∧ (streamOf strW 0 0 n).failed = none
        ∧ (streamOf strW 0 0 n).len < (streamOf strW 0 0 n).pos + 8 ∧ ((streamOf strW 0 0 n).ctl.getLsbD 0 = true ↔ n = 9)) :=
  ⟨by decide, runs_at (by decide) rfl _ _, runs_at (by decide) rfl _ _, by decide, by decide, by decide, by decide, by decide⟩

/-- Slab streams 1 (read) and 2 (write) of one slab; v240 to v255 the last group, v16 a tagged one. -/
def tileU : Tile :=
  let x : Stream := { isOpen := true, ctl := 4, start := .mem { ia := 0xFF00000100000, asid := 5, va := 0x10000 }, len := 65536,
                      hdr := { fmt := 1, rows := 1, cols := 1, slabs := 1 } }
  { tile0 with vtag := (List.range 16).map (fun r => (r + 16, 1)), streams := [(1, x), (2, { x with ctl := 5 })] }

def slabW : State := wordAt (slotT [240, 16]) tileU

theorem witness_StreamSlabWords :
    (∀ n ∈ [(1 : BitVec 4), 2], (∃ a, (streamOf slabW 0 0 n).start = .mem a) ∧ (streamOf slabW 0 0 n).isOpen = true
      ∧ (streamOf slabW 0 0 n).failed = none ∧ (streamOf slabW 0 0 n).pos < (streamOf slabW 0 0 n).hdr.slabs
      ∧ ((streamOf slabW 0 0 n).ctl.getLsbD 0 = true ↔ n = 2))
    ∧ (slotOf slabW 0 0).fence = []
    ∧ (∀ o ∈ [SOp.t 0, .t 1], (opVal (slotOf slabW 0 0) o).toNat % (8 * Ty.f16.bytes) = 0
        ∧ (opVal (slotOf slabW 0 0) o).toNat + 8 * Ty.f16.bytes ≤ (imageOf slabW 0 0).vregs)
    ∧ Unheld slabW 0 0 { regs := members .f16 240 } ∧ NotDet slabW 0 ∧ Runs slabW 0 0 gOff [.t 0] [] ∧ Sound slabW 0
    ∧ (∀ r ∈ members .f16 240, regTag (tileOf slabW 0) r = 0) ∧ Slabs .f16
    ∧ (∀ b : Word, ∃ r, setSticky slabW 0 (slotOf slabW 0 0).firing b = .ok r)
    ∧ ∃ r ∈ members .f16 16, regTag (tileOf slabW 0) r ≠ 0 := by
  refine ⟨?_, by decide, by decide, unheld_at (by decide) rfl _, ?_, runs_at (by decide) rfl _ _, ?_, by decide, ?_, ?_, by decide⟩
  · intro n hn
    simp only [List.mem_cons, List.not_mem_nil, or_false] at hn
    rcases hn with rfl | rfl <;> exact ⟨⟨_, rfl⟩, by decide, by decide, by decide, by decide⟩
  · unfold NotDet; decide
  · unfold Sound; decide
  · unfold Slabs; decide
  · intro b
    by_cases hb : b = 0
    · exact ⟨_, by rw [setSticky, if_pos hb]⟩
    · exact ⟨(_, _), by rw [setSticky, if_neg hb]; rfl⟩

theorem witness_SlabStoreImages : (List.replicate 4096 0).length = 4096 ∧ ∃ t, efmt (1 : BitVec 8).toNat = some (.ty t) :=
  ⟨List.length_replicate, _, rfl⟩

theorem witness_StreamCloseWord :
    Runs strW 0 0 gOff [] [.t 7] ∧ (streamOf strW 0 0 2).isOpen = false ∧ (streamOf strW 0 0 3).isOpen = true
    ∧ (∀ r ∈ strW.reqs, r.party ≠ .stream 0 0 3) ∧ (streamOf strW 0 0 3).failed = none
    ∧ (streamOf strW 0 0 7).isOpen = true ∧ (streamOf strW 0 0 7).failed = some { code := 0x21 }
    ∧ ∃ r ∈ (wordAt (slotT [1]) tileT launch1 { world with reqs := [{ reqA with party := .stream 0 0 3 }] }).reqs, r.party = .stream 0 0 3 :=
  ⟨runs_at (by decide) rfl _ _, by decide, by decide, by decide, by decide, by decide, by decide, ⟨_, .head _, rfl⟩⟩

/-- A range of 0xFFFF_FF80 bytes, and one of 128 bytes more. -/
theorem witness_StreamRecords :
    (∀ p ∈ [(0, 0x1FFFFFE)], p.1 ≤ p.2 ∧ (p.2 - p.1 + 1) * 128 ≤ 0xFFFFFF80)
    ∧ 0xFFFFFF80 < (0x1FFFFFF - 0 + 1) * 128 ∧ (0x1FFFFFF - 0 + 1) * 128 ≤ 2 * 0xFFFFFF80 := by decide
/-! ### Engine commands -/

/-- Descriptors in the scratchpad: at 64 a gather of rows 3 and 1 of 4 bytes, both ends in the scratchpad; at 128 a FORM of
group 2 whose two members are listed at 0x10000; at 192 a sum of 2 elements of group 2, at 0x10100 and 0x10200. -/
def tileE : Tile :=
  { tile0 with
    scratch := [(73, 8), (81, 4), (84, 2), (88, 4), (92, 3), (128, 2), (154, 1), (160, 2), (192, 2), (196, 2), (201, 1), (202, 1),
      (209, 2), (210, 1), (1024, 3), (1028, 1)]
    timelines := [(1, { issued := 3, counter := 2, faulted := [(2, { code := 0x24 })] }), (2, { issued := 3, counter := 2 })] }

/-- The launch with a directory of an expert on tier 1 and one on tier 2 that adapters may fetch, and one of state 0. -/
def launchE : Launch :=
  { launch1 with dir := [{ state := 1, pol := 0x20 }, { state := 2, pol := 0x20, wbytes := 128, waddr := 0x10000 }, {}] }

/-- t0 an address, t1 a length, t2 0, t3 a descriptor's place, t4 a mask of tile 0, t5 the last length, t6 1, t7 past SCRATCH. -/
def engS (cmds : List Cmd) (groups : List CollGroup) (l : List Word) : State :=
  wordAt (slotT l) tileE launchE { paged [0, 0, 0, 0, 1, 0, 0, 0] with cmds := cmds, groups := groups }
def engW : State := engS [] [] [0x10000, 128, 0, 64, 0x10000, 0x100000001, 1, 4080]
def memA : Range := .mem { ia := 0xFF00000100000, asid := 5, va := 0x10000 }
def cmdN (n : Nat) : Cmd := { id := n, tile := 0, ctx := 0, tl := 2, num := n, kind := .nothing }

theorem canIssue_engW (tl : BitVec 2) : CanIssue engW 0 (slotOf engW 0 0) tl := by
  refine ⟨?_, ?_⟩
  · show ((([] : List Cmd).filter _).length < 16)
    simp
  · decide

/-- Scratchpad to memory; 17 commands of one timeline; ranges that overlap by one byte; `cpyf` of one element. -/
theorem witness_CopyCommandWords :
    Runs engW 0 0 gOff [.t 0, .t 2, .t 1] [] ∧ (slotOf engW 0 0).fence = [] ∧ (opVal (slotOf engW 0 0) (.t 1)).toNat ≤ 2 ^ 32
    ∧ RangeAt engW 0 (slotOf engW 0 0) true .load 0 128 (.spad 0) ∧ RangeAt engW 0 (slotOf engW 0 0) false .store 0x10000 128 memA
    ∧ ¬ Overlap engW 128 128 (.spad 0) memA ∧ CanIssue engW 0 (slotOf engW 0 0) 2
    ∧ ¬ CanIssue (engS ((List.range 16).map (fun i => cmdN (i + 60))) [] []) 0 (slotT []) 2
    ∧ RangeAt engW 0 (slotOf engW 0 0) true .store 127 128 (.spad 127) ∧ Overlap engW 128 128 (.spad 0) (.spad 127)
    ∧ (let w : EWord := { e0 with ty := .q4, imm := 0x6004 }
       (∃ fm, efmt (w.imm.extractLsb' 2 8).toNat = some fm ∧ RangeAt engW 0 (slotOf engW 0 0) true .load 0 (fmtBytes fm 1) (.spad 0)
          ∧ Overlap engW (fmtBytes fm 1) 128 (.spad 0) (.spad 0))
       ∧ (∃ rm, Rm.ofCode (w.imm.extractLsb' 10 3).toNat = some rm)
       ∧ RangeAt engW 0 (slotOf engW 0 0) false .store 0x10000 (fmtBytes (.l4 (16 * 2 ^ (w.imm.extractLsb' 13 2).toNat)) 1)
          (.mem { ia := 0xFF00000100000, asid := 5, va := 0x10000 })) := by
  refine ⟨runs_at (by decide) rfl _ _, by decide, by decide, ⟨rfl, rfl, .inr (by decide)⟩, ⟨rfl, .inr ⟨by decide, ok_of (by decide)⟩⟩,
    by simp [Overlap, memA], canIssue_engW 2, ?_, ⟨rfl, by decide, .inr (by decide)⟩, ⟨127, by decide⟩, ⟨(efmt 1).getD .mx, by decide,
    ⟨rfl, by decide, .inr (by decide)⟩, ⟨0, by decide⟩⟩, ⟨_, rfl⟩, ⟨rfl, .inr ⟨by decide, ok_of (by decide)⟩⟩⟩
  rintro ⟨h, _⟩
  exact absurd h (by decide)

theorem witness_CommandIssueFaults :
    (slotOf engW 0 0).fence = [] ∧ Runs engW 0 0 gOff [.t 0, .t 7, .t 1] [] ∧ 2 ^ 32 < (opVal (slotOf engW 0 0) (.t 5)).toNat
    ∧ (opVal (slotOf engW 0 0) (.t 2)).toNat = 0 ∧ 0 < (opVal (slotOf engW 0 0) (.t 1)).toNat
    ∧ (imageOf engW 0 0).scratch < (opVal (slotOf engW 0 0) (.t 7)).toNat + (opVal (slotOf engW 0 0) (.t 1)).toNat
    ∧ (∃ c, slotAddr engW 0 (slotOf engW 0 0) .load 0 128 = .error c)
    ∧ Runs engW 0 0 gOff [.t 6] [] ∧ (opVal (slotOf engW 0 0) (.t 6)).toNat % 16 ≠ 0 ∧ (opVal (slotOf engW 0 0) (.t 7)).toNat % 16 = 0
    ∧ (imageOf engW 0 0).scratch < (opVal (slotOf engW 0 0) (.t 7)).toNat + 32 :=
  ⟨by decide, runs_at (by decide) rfl _ _, by decide, by decide, by decide, by decide, err_of (by decide), runs_at (by decide) rfl _ _,
    by decide, by decide, by decide⟩

theorem witness_GatherScatterWords :
    let sl := slotOf engW 0 0
    let m := (tileOf engW 0).scratch
    let f (o l : Nat) : Nat := rdLE m (64 + o) l
    let idx := (List.range (f 20 4)).map (fun i => rdLE m (f 16 4 + 4 * i) 4)
    let s1 := setSlot (setSlot engW 0 0 sl) 0 0 sl
    Runs engW 0 0 gOff [.t 3] [] ∧ sl.fence = [] ∧ NotDet engW 0 ∧ Sound engW 0 ∧ (opVal sl (.t 3)).toNat = 64
    ∧ f 16 4 + 4 * f 20 4 ≤ (imageOf engW 0 0).scratch ∧ (∀ fo, Unheld engW 0 0 fo) ∧ f 16 4 % 4 = 0 ∧ 1 ≤ f 20 4 ∧ f 20 4 ≤ 65536
    ∧ f 24 4 = 4 ∧ f 28 1 < 4 ∧ f 29 3 = 0 ∧ 1 ∈ idx ∧ 3 ∈ idx ∧ (∀ i ∈ idx, 1 ≤ i ∧ i ≤ 3) ∧ CanIssue s1 0 sl 2
    ∧ RangeAt s1 0 sl true .load (BitVec.ofNat 64 (f 0 8) + BitVec.ofNat 64 (1 * 4)) ((3 - 1 + 1) * 4) (.spad 4)
    ∧ RangeAt s1 0 sl true .store (BitVec.ofNat 64 (f 8 8)) (2 * 4) (.spad 2048)
    ∧ RangeAt s1 0 sl true .load (BitVec.ofNat 64 (f 0 8)) (2 * 4) (.spad 0)
    ∧ RangeAt s1 0 sl true .store (BitVec.ofNat 64 (f 8 8) + BitVec.ofNat 64 (1 * 4)) ((3 - 1 + 1) * 4) (.spad 2052) := by
  refine ⟨runs_at (by decide) rfl _ _, by decide, ?_, ?_, by decide, by decide, fun fo => unheld_at (by decide) rfl fo, by decide, by decide,
    by decide, by decide, by decide, by decide, by decide, by decide, by decide, ⟨?_, ?_⟩, ⟨rfl, by decide, .inr (by decide)⟩,
    ⟨rfl, by decide, .inr (by decide)⟩, ⟨rfl, by decide, .inr (by decide)⟩, ⟨rfl, by decide, .inr (by decide)⟩⟩
  · unfold NotDet; decide
  · unfold Sound; decide
  · show ((([] : List Cmd).filter _).length < 16)
    simp
  · decide

theorem witness_MulticastReadWord :
    let sl := slotOf engW 0 0
    Runs engW 0 0 gOff [.t 2, .t 0, .t 4] [] ∧ sl.fence = [] ∧ (0 < 2048)
    ∧ (opVal sl (.t 2)).toNat % 16 = 0 ∧ (opVal sl (.t 0)).toNat % 128 = 0 ∧ (opVal sl (.t 4)).toNat / 64 % 1024 = 0 ∧ (opVal sl (.t 4)).toNat < 2 ^ 32
    ∧ (let mask : BitVec 16 := BitVec.ofNat 16 ((opVal sl (.t 4)).toNat / 2 ^ 16)
       mask ≠ 0 ∧ ∀ i < 16, mask.getLsbD i = true → 0 / 512 * 512 + (0 / 128 % 4 * 4 + i / 4) * 32 + (0 % 32 / 4 * 4 + i % 4) ∈ (tileLaunch engW 0).tileset)
    ∧ CanIssue engW 0 sl 2 ∧ RangeAt engW 0 sl false .load (opVal sl (.t 0)) 128 memA ∧ RangeAt engW 0 sl true .store (opVal sl (.t 2)) 128 (.spad 0)
    ∧ BitVec.ofNat 16 ((opVal sl (.t 1)).toNat / 2 ^ 16) = 0 := by
  refine ⟨runs_at (by decide) rfl _ _, by decide, by decide, by decide, by decide, by decide, by decide, ?_, canIssue_engW 2,
    ⟨rfl, .inr ⟨by decide, ok_of (by decide)⟩⟩, ⟨rfl, by decide, .inr (by decide)⟩, by decide⟩
  decide

theorem witness_AdapterFetchWords :
    let l := tileLaunch engW 0
    Runs engW 0 0 gOff [.t 2, .t 6] [] ∧ Runs engW 0 0 gOff [.t 2] [] ∧ l.dir.length ≤ 3 ∧ (l.dir.getD 2 {}).state = 0
    ∧ (0 < l.dir.length ∧ (l.dir.getD 0 {}).state = 1 ∧ (l.dir.getD 0 {}).pol.getLsbD 5 = true)
    ∧ (1 < l.dir.length ∧ (l.dir.getD 1 {}).state ≠ 0 ∧ (l.dir.getD 1 {}).state ≠ 1 ∧ (l.dir.getD 1 {}).pol.getLsbD 5 = true)
    ∧ (slotOf engW 0 0).fence = [] ∧ CanIssue engW 0 (slotOf engW 0 0) 1
    ∧ RangeAt engW 0 (slotOf engW 0 0) false .load (l.dir.getD 1 {}).waddr (l.dir.getD 1 {}).wbytes memA
    ∧ RangeAt engW 0 (slotOf engW 0 0) true .store (opVal (slotOf engW 0 0) (.t 2)) (l.dir.getD 1 {}).wbytes (.spad 0) :=
  ⟨runs_at (by decide) rfl _ _, runs_at (by decide) rfl _ _, by decide, by decide, by decide, by decide, by decide, canIssue_engW 1,
    ⟨rfl, .inr ⟨by decide, ok_of (by decide)⟩⟩, ⟨rfl, by decide, .inr (by decide)⟩⟩

theorem witness_TimelineWords :
    let s := engS [] [] [4, 3, 2, 1]
    let v (o : SOp) : Nat := (opVal (slotOf s 0 0) o).toNat
    (∀ c : Sc, c.g.ge = false → c.Runs s 0 0) ∧ Runs s 0 0 gOff [.t 0] []
    ∧ (timelineOf s 0 0 1).issued < v (.t 0) ∧ v (.t 1) ≤ (timelineOf s 0 0 1).issued ∧ (timelineOf s 0 0 1).counter < v (.t 1)
    ∧ v (.t 3) ≤ (timelineOf s 0 0 1).counter ∧ (∀ p ∈ (timelineOf s 0 0 1).faulted, v (.t 3) < p.1)
    ∧ v (.t 2) ≤ (timelineOf s 0 0 1).counter ∧ (timelineOf s 0 0 1).faulted = [] ++ (2, { code := 0x24 }) :: [] ∧ 2 ≤ v (.t 2)
    ∧ ∀ p ∈ (timelineOf s 0 0 2).faulted, (timelineOf s 0 0 2).counter < p.1 :=
  ⟨fun c h => scalar_runs_at (by decide) c h, runs_at (by decide) rfl _ _, by decide, by decide, by decide, by decide, by decide, by decide,
    by decide, by decide, by decide⟩

/-- t0 names node 0 port 3 of tile 0, t1 node 1, which does not exist; t2 the greatest tag, t3 one above. -/
def barS (b : Barrier) : State := wordAt (slotT [0x2000003, 0x2000007, 0xFFFFF, 0x100000]) tile0 { launch1 with bars := [(15, b)] }
def join0 : BarJoin := { tile := 0, dest := ⟨true, 0, 0, 0⟩, tag := 0, rel := {} }

theorem witness_SynchronisationWords :
    let s := barS {}
    let sl := slotOf s 0 0
    Runs s 0 0 gOff [.t 0, .t 2] [] ∧ Runs s 0 0 gOff [] [] ∧ isDest (opVal sl (.t 0)) ∧ (destOf (opVal sl (.t 0))).tile.toNat = 0
    ∧ (opVal sl (.t 0)).extractLsb' 26 3 = (tileOf s 0).ctx ∧ (nodeSlot s 0 0 (destOf (opVal sl (.t 0))).node.toNat).isSome = true
    ∧ (nodeSlot s 0 0 (destOf (opVal sl (.t 1))).node.toNat).isSome = false
    ∧ 0xFFFFF < (opVal sl (.t 3)).toNat ∧ (opVal sl (.t 2)).toNat ≤ 0xFFFFF ∧ (∀ r ∈ sl.reqs, standsBefore s .sys r = false)
    ∧ (∀ x ∈ (aget (launchOf s 1).bars 15 {}).joins, x.tile ≠ 0)
    ∧ (∃ x ∈ (aget (launchOf (barS { joins := [join0] }) 1).bars 15 {}).joins, x.tile = 0)
    ∧ (∀ x ∈ (aget (launchOf (barS { joins := [join0] }) 1).bars 15 {}).next, x.tile ≠ 0)
    ∧ (∃ x ∈ (aget (launchOf (barS { joins := [join0], next := [join0] }) 1).bars 15 {}).next, x.tile = 0)
    ∧ (destOf (opVal sl (.t 0))).port = 3 ∧ Usable s 0 5 ∧ (destOf 0x200000D).port ≠ 3 := by
  refine ⟨runs_at (by decide) rfl _ _, runs_at (by decide) rfl _ _, ?_, by decide, by decide, by decide, by decide, by decide, by decide,
    by decide, by decide, by decide, by decide, by decide, by decide, ?_, by decide⟩
  · unfold isDest; decide
  · unfold Usable; decide

/-- Member lists at 0x10000: tiles 0 and 1 of this package; tiles 1 and 2, which omit the issuer. -/
def formS (list : List Byte) (groups : List CollGroup) : State :=
  wordAt (slotT [128, 192]) tileE launchE { paged list with groups := groups }
def group2 : CollGroup := { id := 31, group := 2, members := [(0, 255), (1, 255)], joined := [1] }

theorem witness_GroupFormWord : ∀ list ∈ [[0, 0, 0, 0, 1, 0, 0, 0], ([1, 0, 0, 0, 2, 0, 0, 0] : List Byte)],
    let s := formS list [group2]
    let sl := slotOf s 0 0
    let s0 := setSlot s 0 0 sl
    let b := rdBytes (tileOf s 0).scratch 128 64
    let f (o l : Nat) : Nat := leNat ((b.drop o).take l)
    (opVal sl (.t 0)).toNat = 128 ∧ (0 : BitVec 15) = 0 ∧ sl.fence = [] ∧ 128 + 64 ≤ (imageOf s 0 0).scratch ∧ f 0 1 < 16 ∧ f 1 3 = 0
    ∧ zeroes b 36 28 = true ∧ f 32 2 = 2
    ∧ (slotAddr s0 0 sl .load (BitVec.ofNat 64 (f 24 8)) 8).toOption = some { ia := 0xFF00000100000, asid := 5, va := 0x10000 }
    ∧ (match memRead s0 5 ((tileLaunch s0 0).asid = 0) 0 0xFF00000100000 8 with | .ok _ y => some y | _ => none) = some list
    ∧ ((List.range 2).countP (fun i => leNat ((list.drop (4 * i)).take 4) % 2048 = 0 && pkgIsLocal s0 (leNat ((list.drop (4 * i)).take 4) / 2048)) = 1
        ↔ list = [0, 0, 0, 0, 1, 0, 0, 0])
    ∧ (∀ i < 2, leNat ((list.drop (4 * i)).take 4) < 2 ^ 19) := by
  set_option maxRecDepth 20000 in decide

theorem witness_GroupFormWord_state :
    let s := formS [0, 0, 0, 0, 1, 0, 0, 0] [group2]
    Runs s 0 0 gOff [.t 0] [] ∧ NotDet s 0 ∧ Sound s 0 ∧ Unheld s 0 0 { spad := [(128, 64)] }
    ∧ membersOf (setSlot s 0 0 (slotOf s 0 0)) [0, 0, 0, 0, 1, 0, 0, 0] 2 = [(0, 255), (1, 255)]
    ∧ s.groups = [] ++ group2 :: [] ∧ group2.formed = false ∧ group2.broken = false ∧ 0 ∉ group2.joined
    ∧ (∀ r ∈ (slotOf s 0 0).reqs, standsBefore s .plot r = false)
    ∧ ∀ x ∈ (formS [0, 0, 0, 0, 1, 0, 0, 0] [{ group2 with broken := true }]).groups, ¬ x.broken = false := by
  refine ⟨runs_at (by decide) rfl _ _, ?_, ?_, unheld_at (by decide) rfl _, by decide, rfl, rfl, rfl, by decide, by decide, by decide⟩
  · unfold NotDet; decide
  · unfold Sound; decide

theorem witness_GroupFormWord_canIssue : ∃ s1 m, memRead (setSlot (formS [0, 0, 0, 0, 1, 0, 0, 0] [group2]) 0 0 (slotT [])) 5 false 0 0xFF00000100000 8 = .ok s1 m
    ∧ (s1.cmds.filter (fun x => x.tile = 0 && x.ctx = 0 && x.tl = 0)).length < 16 ∧ (∀ r ∈ ([] : List Nat), standsBefore s1 .plot r = false) := by
  have h : (match memRead (setSlot (formS [0, 0, 0, 0, 1, 0, 0, 0] [group2]) 0 0 (slotT [])) 5 false 0 0xFF00000100000 8 with
    | .ok s _ => s.cmds.isEmpty | _ => false) = true := by set_option maxRecDepth 20000 in decide
  cases hm : memRead (setSlot (formS [0, 0, 0, 0, 1, 0, 0, 0] [group2]) 0 0 (slotT [])) 5 false 0 0xFF00000100000 8 with
  | ok s b =>
    rw [hm] at h
    have h2 : s.cmds = [] := List.isEmpty_iff.mp h
    exact ⟨s, b, rfl, by simp [h2], by simp⟩
  | _ => rw [hm] at h; simp at h

/-- Group 2 formed with both tiles; a sum of two elements, and op 5 of a count that two members do not divide; no such group. -/
theorem witness_CollectiveWord :
    let g := { group2 with formed := true, joined := [0, 1], owner := [(0, 1), (1, 1)] }
    let s := formS [] [g]
    let sl := slotOf s 0 0
    let s0 := setSlot s 0 0 sl
    let b := rdBytes (tileOf s 0).scratch 192 64
    let f (o l : Nat) : Nat := leNat ((b.drop o).take l)
    Runs s 0 0 gOff [.t 1] [] ∧ (1 ≤ (1 : BitVec 15).toNat ∧ (7 : BitVec 15).toNat ≤ 7) ∧ sl.fence = [] ∧ NotDet s 0 ∧ Sound s 0
    ∧ (opVal sl (.t 1)).toNat = 192 ∧ 192 + 64 ≤ (imageOf s 0 0).scratch ∧ Unheld s 0 0 { spad := [(192, 64)] }
    ∧ f 0 1 = 2 ∧ f 1 3 = 0 ∧ zeroes b 36 28 = true ∧ f 4 4 = 2
    ∧ groupOf s0 2 0 = some g ∧ groupOf (setSlot (formS [] []) 0 0 sl) 2 0 = none ∧ CanIssue s0 0 sl 0
    ∧ 3 % g.members.length ≠ 0 ∧ f 4 4 % g.members.length = 0 ∧ f 34 2 < g.members.length
    ∧ (let s1 := modGroup s0 g.id (fun x => { x with issued := aput x.issued 0 (aget g.issued 0 0 + 1) })
       RangeAt s1 0 sl false .load (BitVec.ofNat 64 (f 8 8)) (2 * Ty.f32.bytes) (.mem { ia := 0xFF00000100100, asid := 5, va := 0x10100 })
       ∧ RangeAt s1 0 sl false .store (BitVec.ofNat 64 (f 16 8)) (2 * Ty.f32.bytes) (.mem { ia := 0xFF00000100200, asid := 5, va := 0x10200 })) := by
  refine ⟨runs_at (by decide) rfl _ _, by decide, by decide, ?_, ?_, by decide, by decide, unheld_at (by decide) rfl _, by decide, by decide,
    by decide, by decide, by decide, by decide, ⟨?_, ?_⟩, by decide, by decide, by decide, ⟨rfl, .inr ⟨by decide, ok_of (by decide)⟩⟩,
    ⟨rfl, .inr ⟨by decide, ok_of (by decide)⟩⟩⟩
  · unfold NotDet; decide
  · unfold Sound; decide
  · show ((([] : List Cmd).filter _).length < 16)
    simp
  · decide

/-! ### How commands are performed -/

def cmdC : Cmd := { id := 60, tile := 0, ctx := 0, tl := 2, num := 3, kind := .cpy 4, src := .spad 64, dst := .spad 2048, party := 61 }

/-- The command is looked at; group 31 stands beside it. -/
def cmdW (x : Cmd) (more : List Cmd) (g : CollGroup) (l : Launch := launchE) : State :=
  { wordAt (slotT []) tileE l (paged []) with focus := .event (.n 60), cmds := x :: more, groups := [g] }

theorem witness_CounterShowsPrefix : ∃ p : Poison, (none : Option Poison) = none ∧ (some p : Option Poison) = some p := ⟨{}, rfl, rfl⟩

theorem witness_CopyMovesBytes :
    let s := cmdW cmdC [] group2
    s.focus = .event (.n 60) ∧ s.cmds.find? (fun y => y.id = 60) = some cmdC ∧ cmdC.kind = .cpy 4 ∧ cmdC.src = .spad 64
    ∧ cmdC.dst = .spad 2048 ∧ 4 ≤ 2 ^ 32 ∧ cmdC.progress = 0 ∧ NotDet s 0 ∧ Sound s 0 := by
  refine ⟨rfl, rfl, rfl, rfl, rfl, by decide, rfl, ?_, ?_⟩
  · unfold NotDet; decide
  · unfold Sound; decide

theorem witness_RowExtents : ({ cmdC with kind := .gath 4 [2, 0] } : Cmd).kind = .gath 4 [2, 0] ∧ ({ cmdC with kind := .scat 4 [2, 0] } : Cmd).kind = .scat 4 [2, 0] :=
  ⟨rfl, rfl⟩

/-- A copy that completes, one that reads an unmapped page, one that writes it, one that reads another package. -/
theorem witness_CommandCompletes :
    (∀ x ∈ [cmdC, { cmdC with src := .mem { ia := 0xFF00000200000, asid := 5 } }, { cmdC with dst := .mem { ia := 0xFF00000200000, asid := 5 } }],
      let s := cmdW x [] group2
      s.cmds.find? (fun y => y.id = 60) = some x ∧ collKind x = none)
    ∧ (∃ s1 s2 bs s3, trackCmd (asAsker { cmdW cmdC [] group2 with focus := .idle } 60) cmdC = .ok s1
        ∧ readAll s1 cmdC (cmdExtents cmdC).1 = .ok s2 bs
        ∧ writeLines cmdC (2 ^ 32) s2 ((byLine (rangeSkew cmdC.dst) (allPieces (rangeSkew cmdC.dst) (cmdExtents cmdC).2 (cmdImage cmdC bs).1)).drop cmdC.progress)
            cmdC.progress = .done s3
        ∧ ∃ r, setSticky s3 0 { party := cmdC.party, clock := cmdC.after, tag := cmdC.tag, ctx := cmdC.ctx } (cmdImage cmdC bs).2.stat = .ok r)
    ∧ (let x := { cmdC with src := .mem { ia := 0xFF00000200000, asid := 5 } }
       ∃ s1 s2 c d, trackCmd (asAsker { cmdW x [] group2 with focus := .idle } 60) x = .ok s1
        ∧ readAll s1 x (cmdExtents x).1 = .fault s2 c d)
    ∧ (let x := { cmdC with src := .mem { ia := 0x500000100000, asid := 5 } }
       ∃ s1 w, trackCmd (asAsker { cmdW x [] group2 with focus := .idle } 60) x = .ok s1 ∧ readAll s1 x (cmdExtents x).1 = .stall w)
    ∧ (let x := { cmdC with dst := .mem { ia := 0xFF00000200000, asid := 5 } }
       ∃ s1 s2 bs s3 c, trackCmd (asAsker { cmdW x [] group2 with focus := .idle } 60) x = .ok s1 ∧ readAll s1 x (cmdExtents x).1 = .ok s2 bs
        ∧ writeLines x (2 ^ 32) s2 ((byLine (rangeSkew x.dst) (allPieces (rangeSkew x.dst) (cmdExtents x).2 (cmdImage x bs).1)).drop x.progress)
            x.progress = .fault s3 c) := by
  refine ⟨by decide, ⟨_, _, _, _, rfl, rfl, rfl, ⟨_, rfl⟩⟩, ⟨_, _, _, _, rfl, rfl⟩, ⟨_, _, rfl, rfl⟩, ⟨_, _, _, _, _, rfl, rfl, rfl⟩⟩

/-- All members formed, here and by the report of another package; one that has not. -/
theorem witness_FormCompletes :
    (∀ g ∈ [{ group2 with formed := true }, { group2 with broken := true }, { group2 with joined := [0, 1] }, group2],
      let x := { cmdC with kind := .coll 31 0 .b64 0 0 0 }
      let s := cmdW x [] g
      s.cmds.find? (fun y => y.id = 60) = some x ∧ s.groups.find? (fun y => y.id = 31) = some g)
    ∧ AllFormed { group2 with members := [(0, 255), (1, 3)], joined := [0], farFormed := [1] } ∧ ¬ AllFormed group2 := by
  refine ⟨by decide, ?_, fun h => ?_⟩
  · intro r m h
    match r with
    | 0 => simp at h; subst h; decide
    | 1 => simp at h; subst h; decide
    | r + 2 => simp at h
  · have := h 0 (0, 255) rfl
    revert this; decide

theorem witness_CollectiveResults :
    let ins : List (List Byte) := [[1, 2], [3, 4]]
    0 < ins.length ∧ 0 < Ty.s8.bytes ∧ (∀ b ∈ ins, b.length = 2 * Ty.s8.bytes) ∧ ins.length ∣ 2 := by decide

theorem witness_Reductions : ([255] : List Nat) ≠ [] ∧ (∀ x ∈ [255], x < 2 ^ (8 * Ty.z8.bytes)) ∧ 1 < 2 ^ (8 * Ty.z8.bytes)
    ∧ (tyF .bf16).isSome = true := by decide

/-- Both members' sums of one element stand; one of them with another ROOT; the group broken. -/
def collC (id tile root : Nat) : Cmd :=
  { cmdC with id := id, tile := tile, kind := .coll 31 1 .s8 1 root 0, src := .spad 64, dst := .spad 2048 }
theorem witness_CollectivePerforms :
    (∀ g ∈ [group2, { group2 with broken := true }],
      let s := cmdW (collC 60 0 0) [collC 62 1 0] g
      s.cmds.find? (fun y => y.id = 60) = some (collC 60 0 0) ∧ s.groups.find? (fun y => y.id = 31) = some g ∧ g.id = 31 ∧ 1 ≠ 0)
    ∧ (∀ root ∈ [0, 1], let s := { cmdW (collC 60 0 0) [collC 62 1 root] group2 with focus := .idle }
       PartOf s group2 0 0 (0, 255) (.here (collC 60 0 0)) ∧ PartOf s group2 0 1 (1, 255) (.here (collC 62 1 root)))
    ∧ PartOf (cmdW (collC 60 0 0) [] group2) { group2 with farIn := [(1, ⟨0, 1, .s8, 1, 0, [7]⟩)] } 0 1 (1, 3) (.far ⟨0, 1, .s8, 1, 0, [7]⟩)
    ∧ Agrees 1 .s8 1 0 (.here (collC 60 0 0)) ∧ Agrees 1 .s8 1 0 (.here (collC 62 1 0)) ∧ Agrees 1 .s8 1 0 (.far ⟨0, 1, .s8, 1, 0, [7]⟩)
    ∧ ¬ Agrees 1 .s8 1 0 (.here (collC 62 1 1))
    ∧ (let s0 := { cmdW (collC 60 0 0) [collC 62 1 0] group2 with focus := .idle }
       ∃ s1 ins s2 rs, collInputs s0 [(.here (collC 60 0 0), 1), (.here (collC 62 1 0), 1)] = .ok s1 ins
        ∧ collOutputs s1 [(.here (collC 60 0 0), collImage 1 .s8 1 0 0 ins), (.here (collC 62 1 0), collImage 1 .s8 1 0 1 ins)] = .ok s2 rs) := by
  refine ⟨by decide, by simp only [PartOf]; decide, ⟨by decide, rfl, rfl⟩, ⟨31, 0, rfl⟩, ⟨31, 0, rfl⟩, ⟨rfl, rfl, rfl, rfl⟩, ?_, ⟨_, _, _, _, rfl, rfl⟩⟩
  rintro ⟨g, q, h⟩
  simp [collC, collKind] at h

theorem witness_CollectiveAborts :
    (∀ g ∈ [group2, { group2 with broken := true }], ({ cmdW cmdC [] g with focus := .event (.nn 0 31) }).groups.find? (fun y => y.id = 31) = some g)
    ∧ (let x := { cmdC with kind := .coll 31 1 .s8 1 0 0 }
       let s := { cmdW x [] group2 { launchE with phase := .saving, saveSince := 0 } with time := 2000000 }
       s.cmds.find? (fun y => y.id = 60) = some x ∧ (launchOf s (tileOf s 0).launch).phase = .saving
        ∧ (launchOf s (tileOf s 0).launch).saveSince + 2000000 ≤ s.time)
    ∧ (launchOf (cmdW cmdC [] group2) (tileOf (cmdW cmdC [] group2) 0).launch).phase ≠ .saving := by decide
/-! ### Nodes and bins -/

/-- Nodes 0 `fire`, 1 `add`, 2 `join` of two, 3 `bin` of one expert at 0x400, each with destination A on node 3 port 1. -/
def tileN : Tile :=
  { tile0 with
    graph := [(0, { nodes := [0x30180000500000000000000 * 256, 0x12800003400000000000000, 0x2a1800003400000000000002, 0x291800003400000000004001],
                    codes := [[0, 0], [0]] })]
    slots := Vector.replicate 4 {} }

def nodeS (f : Firing) (tl : Tile := tileN) (s : State := world) : State :=
  { s with focus := .firing 0 f, launches := [(1, { launch1 with dir := [{ state := 2, bin := ⟨true, 0, 3, 0⟩ }] })],
           tiles := [(0, { tl with launch := 1 })] }

def tok (v : Word) : Token := { chan := 5, body := .scalar v }
def fir (ops : AMap Token) : Firing := { node := 1, party := 7, ops := ops }
def recA (nops : BitVec 2) (lit : Bool := false) (literal : BitVec 32 := 0) : NodeRec := ⟨false, lit, nops, ⟨true, 0, 3, 1⟩, ⟨true, 0, 2, 0⟩, literal⟩

theorem fires_at {f : Firing} {tl s} (h1 : f.err = none) (h2 : ∀ x ∈ f.ops, x.2.poison? = none) : Fires (nodeS f tl s) 0 f := ⟨rfl, h1, h2⟩

theorem witness_LeadingToken : afind (fir [(0, tok 1), (3, tok 2)]).ops 3 = some (tok 2)
    ∧ (fir [(0, tok 1), (1, tok 2)]).ops = (0, tok 1) :: [(1, tok 2)] ∧ afind (fir [(0, tok 1), (1, tok 2)]).ops 3 = none := by decide

/-- Two operand tokens, and one with the literal; every comparison of `cmp` names a condition of its literal. -/
theorem witness_NodeArithmetic :
    (let f := fir [(0, tok 5), (1, tok 70)]
     Fires (nodeS f) 0 f ∧ Reads (recA 2) f 0 5 ∧ Reads (recA 2) f 1 70)
    ∧ (let f := fir [(0, tok 5)]
       Fires (nodeS f) 0 f ∧ Reads (recA 2 true 0xFFFFFFFF) f 0 5 ∧ Reads (recA 2 true 0xFFFFFFFF) f 1 0xFFFFFFFFFFFFFFFF)
    ∧ ∀ n < 10, ((recA 2 false (BitVec.ofNat 32 n)).literal.extractLsb' 0 4).toNat = n := by
  refine ⟨⟨fires_at rfl (by decide), .inr ⟨by decide, tok 5, by decide, .inl rfl⟩, .inr ⟨by decide, tok 70, by decide, .inl rfl⟩⟩,
    ⟨fires_at rfl (by decide), .inr ⟨by decide, tok 5, by decide, .inl rfl⟩, .inl (by decide)⟩, by decide⟩

theorem witness_NodeRouting :
    let f := fir [(0, tok 0), (1, tok 1), (2, tok 0)]
    let g := fir [(0, tok 1), (1, tok 4095), (2, tok 1)]
    Fires (nodeS f) 0 f ∧ Fires (nodeS g) 0 g ∧ Reads (recA 3) f 0 0 ∧ Reads (recA 3) g 0 1 ∧ afind f.ops 2 = some (tok 0)
    ∧ afind g.ops 1 = some (tok 4095) ∧ (recA 3).lit = false ∧ (recA 3 true).lit = true ∧ Reads (recA 2) f 1 1
    ∧ Reads (recA 2 true 0) f 1 0 ∧ (1 : Word).toNat < ((recA 2 false 4095).literal.extractLsb' 0 12).toNat
    ∧ Reads (recA 2) g 1 4095 ∧ ((recA 2 false 4095).literal.extractLsb' 0 12).toNat ≤ (4095 : Word).toNat
    ∧ (recA 2).nops ≠ 3 ∧ Reads (recA 3) g 2 1 ∧ Reads (recA 3) f 2 0 := by
  refine ⟨fires_at rfl (by decide), fires_at rfl (by decide), .inr ⟨by decide, tok 0, by decide, .inl rfl⟩,
    .inr ⟨by decide, tok 1, by decide, .inl rfl⟩, by decide, by decide, rfl, rfl, .inr ⟨by decide, tok 1, by decide, .inl rfl⟩,
    .inl (by decide), by decide, .inr ⟨by decide, tok 4095, by decide, .inl rfl⟩, by decide, by decide,
    .inr ⟨by decide, tok 1, by decide, .inl rfl⟩, .inr ⟨by decide, tok 0, by decide, .inl rfl⟩⟩

def poisonOf (c : BitVec 8) : Token := { chan := 2, body := .poison { code := c } }

theorem witness_NodeConstSinkPchk :
    (let f := fir [(0, tok 0)]
     Fires (nodeS f) 0 f ∧ (recA 1 false 0).literal.getLsbD 0 = false ∧ (recA 1 false 1).literal.getLsbD 0 = true ∧ afind f.ops 0 = some (tok 0))
    ∧ (let f := fir [(0, poisonOf 0x21)]
       (nodeS f).focus = .firing 0 f ∧ f.err = none ∧ f.ops = [(0, poisonOf 0x21)] ∧ (poisonOf 0x21).body = .poison { code := 0x21 }) :=
  ⟨⟨fires_at rfl (by decide), by decide, by decide, by decide⟩, rfl, rfl, rfl, rfl⟩

/-- Tags on both sides of the limit: 0xFFFFF with S = 1, tag 0 with S = 19; a `tagset` value of 0xFFFFF and one above. -/
theorem witness_NodeTags :
    let f : Firing := { fir [(0, tok 0), (1, tok 0x100000)] with tag := 0xFFFFF }
    Fires (nodeS f) 0 f ∧ afind f.ops 0 = some (tok 0)
    ∧ 0xFFFFF < f.tag.toNat * 2 ^ ((recA 1 false 1).literal.extractLsb' 0 5).toNat
    ∧ f.tag.toNat % 2 ^ 1 = 2 ^ 1 - 1 ∧ (0xFFFFE : BitVec 20).toNat % 2 ^ 1 ≠ 2 ^ 1 - 1 ∧ (0xFFFFE : BitVec 20).toNat + 1 ≤ 0xFFFFF
    ∧ f.tag.toNat / 2 ^ 19 ≤ 0xFFFFF ∧ (recA 2 true 0xFFFFF).lit = true ∧ (recA 2 true 0xFFFFF).literal.toNat ≤ 0xFFFFF
    ∧ (recA 2).lit = false ∧ Reads (recA 2) f 1 0x100000 ∧ 0xFFFFF < (0x100000 : Word).toNat :=
  ⟨fires_at rfl (by decide), by decide, by decide, by decide, by decide, by decide, by decide, rfl, by decide, rfl,
    .inr ⟨by decide, tok 0x100000, by decide, .inl rfl⟩, by decide⟩

/-- Runs that end at tag 0xFFFFF, that pass it, and of no tokens; a run under way and one at its end. -/
theorem witness_NodeCountRuns :
    (let f : Firing := { fir [(0, tok 0)] with tag := 0xFFFFF }
     Fires (nodeS f) 0 f ∧ ((recA 1 false 1).nops = 1 ∧ 1 = (recA 1 false 1).literal.toNat) ∧ f.tag.toNat + 1 - 1 ≤ 0xFFFFF
     ∧ 0xFFFFF < f.tag.toNat + 2 - 1 ∧ Usable (nodeS f) 0 5 ∧ (0 : Nat) ≤ 0x100000)
    ∧ (let f := fir [(0, tok 0), (1, tok 0x100001)]
       (recA 2).nops ≠ 1 ∧ Reads (recA 2) f 1 0x100001 ∧ 0x100000 < (0x100001 : Word).toNat)
    ∧ ∀ n ∈ [(0 : Nat), 1], (let x : CountRun := ⟨n, 1, fir [(0, tok 0)]⟩
       let s := nodeS (fir []) { tileN with runs := [x] }
       (tileOf s 0).runs = x :: [] ∧ tileRuns s 0 = true ∧ (x.next < x.stop ↔ n = 0)) := by
  refine ⟨⟨fires_at rfl (by decide), by decide, by decide, by decide, ?_, by decide⟩, ⟨by decide, .inr ⟨by decide, tok 0x100001, by decide, .inl rfl⟩,
    by decide⟩, by decide⟩
  unfold Usable; decide

theorem witness_NodeJoinCwait :
    let f := fir [(0, tok 0)]
    let g := fir [(3, tok 0)]
    Fires (nodeS f) 0 f ∧ afind f.ops 0 = some (tok 0) ∧ Fires (nodeS g) 0 g ∧ afind g.ops 3 = some (tok 0) :=
  ⟨fires_at rfl (by decide), by decide, fires_at rfl (by decide), by decide⟩

/-- The `join` of two at node 2: its first token counted, and none counted yet. -/
theorem witness_JoinCounts : ∀ n ∈ [(0 : Nat), 1],
    let k : Token := { dest := ⟨true, 0, 2, 0⟩, chan := 5, body := .scalar 3 }
    let s := nodeS (fir []) { tileN with counts := [(countKey 0 2 0, { count := n })] }
    let r := nodeRec s 0 0 2
    nodeInstr s 0 0 2 = some (.nodeJoin r) ∧ (nodeSlot s 0 0 2).isSome = true ∧ k.dest.port = 0 ∧ k.body = .scalar 3 ∧ k.batch = none
    ∧ afind (tileOf s 0).counts (countKey k.ctx k.dest.node.toNat k.tag) = some { count := n }
    ∧ (∀ y ∈ (tileOf s 0).store, ¬ (y.tok.ctx = k.ctx ∧ y.tok.dest.node.toNat = 2 ∧ y.tok.dest.port.toNat = 0))
    ∧ (n + 1 < (r.literal.extractLsb' 0 16).toNat ↔ n = 0) := by decide

theorem witness_NodeFire :
    let f := fir [(0, tok 0)]
    let s := nodeS f { tileN with slots := tileN.slots.set 0 { phase := .running } }
    Fires s 0 f ∧ (slotOf s 0 1).phase = .free ∧ (∀ j < (1 : Fin 4), (slotOf s 0 j).phase ≠ .free)
    ∧ (aget (tileOf s 0).graph f.ctx.toNat {}).codes.getD ((recA 1 false 1).literal.extractLsb' 0 10).toNat [] ≠ [] :=
  ⟨fires_at rfl (by decide), by decide, by decide, by decide⟩

/-- Payloads that name BF16 operands in v16 and v32, and in v16 and a register past VREGS of 16; an L4 type with TB 13. -/
theorem witness_NodeMctl :
    let v : Word := 0x882010
    let f := fir [(0, tok v)]
    let w : SWord := { sA with g := ⟨0, false, false⟩, shr := 9, z := true }
    let s := nodeS f { tileM with launch := 1 }
    Fires s 0 f ∧ Reads (recA 1 false 0x409) f 0 v ∧ Ty.ofCode (v.extractLsb' 16 4).toNat = some .bf16 ∧ (Instr.mma w).check = none
    ∧ (Instr.mma { w with tb := 13 }).check ≠ none ∧ w.oa.toNat < (imageOf s 0 0).vregs ∧ w.ob.toNat < (imageOf s 0 0).vregs
    ∧ 16 ≤ w.oa.toNat ∧ ∃ p, mmaPlan (matEnv s 0 0) w (v >>> 24) = .ok p :=
  ⟨fires_at rfl (by decide), .inr ⟨by decide, tok 0x882010, by decide, .inl rfl⟩, by decide, by decide, by decide, by decide, by decide, by decide,
    some_ok (by set_option maxRecDepth 20000 in decide)⟩

/-- A coordinate-sparse token of elements 0 and 2, a burst of four; a burst of three elements. -/
theorem witness_NodeIsect :
    let a : Burst := { nelem := 4, fmt := 3, bytes := [5, 1, 0, 2, 0] }
    let b : Burst := { nelem := 4, fmt := 3, bytes := [1, 0, 2, 0, 3, 0, 4, 0] }
    let ka : Token := { chan := 5, body := .sparse a }
    let kb : Token := { chan := 5, body := .burst b }
    let f := fir [(0, ka), (1, kb)]
    Fires (nodeS f) 0 f ∧ afind f.ops 0 = some ka ∧ afind f.ops 1 = some kb
    ∧ SparseTok ka a (fun i => i = 0 || i = 2) [1, 0, 2, 0] ∧ SparseTok kb b (fun _ => true) b.bytes
    ∧ (∃ ty, efmt a.fmt.toNat = some (.ty ty)) ∧ (efmt b.fmt.toNat).isSome = true ∧ b.fmt.toNat ≠ 0x0C
    ∧ a.nelem = b.nelem ∧ a.fmt = b.fmt ∧ ({ b with nelem := 3 } : Burst).nelem ≠ a.nelem :=
  ⟨fires_at rfl (by decide), by decide, by decide, .inl ⟨rfl, by decide, by decide⟩, .inr ⟨rfl, by decide, rfl⟩, ⟨_, rfl⟩, by decide,
    by decide, rfl, rfl, by decide⟩

theorem witness_NodeSendx :
    let k : Token := { chan := 5, rankw := 0x1F00, body := .burst { nelem := 1, fmt := 6, bytes := [1] } }
    let f := fir [(0, k)]
    (nodeS f).focus = .firing 0 f ∧ f.err = none ∧ f.ops = [(0, k)] ∧ Usable (nodeS f) 0 5 ∧ k.poison? = none
    ∧ (3 : BitVec 5).toNat < 4 ∧ (chanOf (tileOf (nodeS f) 0) 7).getLsbD 63 = false
    ∧ (∀ b, (tok 0).body ≠ .burst b) ∧ (poisonOf 0x21).body = .poison { code := 0x21 } := by
  refine ⟨rfl, rfl, rfl, ?_, by decide, by decide, by decide, fun b h => by simp [tok] at h, rfl⟩
  unfold Usable; decide

/-- Scratchpad accesses that end at SCRATCH and one byte later; memory accesses in window 0 and in none. -/
theorem witness_NodeMemory :
    let f := fir [(0, tok 4088), (1, tok 1)]
    let g := fir [(0, tok 0x10000), (1, tok 1)]
    let r : NodeRec := recA 2 false 0xB
    let s := nodeS f { tileN with graph := [(0, { nodes := [0, (encodeNode (.nodeLds r)).getD 0] })] }
    Fires s 0 f ∧ nodeRec s 0 0 1 = r ∧ Reads r f 0 4088 ∧ Reads r f 1 1 ∧ r.literal.getLsbD 3 = true ∧ NotDet s 0 ∧ Sound s 0
    ∧ (4088 : Word).toNat + 2 ^ (r.literal.extractLsb' 0 2).toNat ≤ (imageOf s 0 0).scratch
    ∧ ¬ (4089 : Word).toNat + 2 ^ (r.literal.extractLsb' 0 2).toNat ≤ (imageOf s 0 0).scratch
    ∧ Fires (nodeS g) 0 g ∧ Reads (recA 2 false 3) g 0 0x10000 ∧ Reads (recA 2 false 3) g 1 1 ∧ (recA 2 false 3).literal.getLsbD 3 = false
    ∧ (∀ acc ∈ [Acc.load, .store], (formAddr (nodeS g) (tileLaunch (nodeS g) 0) (aget (tileOf (nodeS g) 0).wins 0 [])
        (aget (tileOf (nodeS g) 0).winsel 0 0) acc 0x10000 8).toOption = some { ia := 0xFF00000100000, asid := 5, va := 0x10000 })
    ∧ ∃ c, formAddr (nodeS g) (tileLaunch (nodeS g) 0) (aget (tileOf (nodeS g) 0).wins 0 []) (aget (tileOf (nodeS g) 0).winsel 0 0) .load 0 8 = .error c := by
  refine ⟨fires_at rfl (by decide), by decide, .inr ⟨by decide, tok 4088, by decide, .inl rfl⟩, .inr ⟨by decide, tok 1, by decide, .inl rfl⟩, by decide,
    ?_, ?_, by decide, by decide, fires_at rfl (by decide), .inr ⟨by decide, tok 0x10000, by decide, .inl rfl⟩,
    .inr ⟨by decide, tok 1, by decide, .inl rfl⟩, by decide, by decide, err_of (by decide)⟩
  · unfold NotDet; decide
  · unfold Sound; decide

theorem witness_ValuePorts :
    let k : Token := { chan := 5, body := .burst { nelem := 1, fmt := 6, bytes := [1] } }
    let f := fir [(0, k), (1, k), (2, k)]
    Fires (nodeS f) 0 f ∧ DataAt (recA 3) f 0 ∧ DataAt (recA 2) f 1 ∧ DataAt (recA 3) f 2 ∧ (recA 3).nops = 3 ∧ (recA 2).lit = false
    ∧ (recA 2).nops ≠ 1 :=
  ⟨fires_at rfl (by decide), ⟨by decide, _, _, rfl, .inl rfl⟩, ⟨by decide, _, _, rfl, .inl rfl⟩, ⟨by decide, _, _, rfl, .inl rfl⟩, rfl, rfl, by decide⟩

/-- Poison on port 1 behind a clean port 0; a firing whose matching failed. -/
theorem witness_PoisonPassesThrough :
    (let f := fir [(0, tok 0), (1, poisonOf 0x21)]
     (nodeS f).focus = .firing 0 f ∧ f.ops = [(0, tok 0)] ++ (1, poisonOf 0x21) :: [] ∧ (∀ x ∈ [(0, tok 0)], x.2.poison? = none)
     ∧ (poisonOf 0x21).body = .poison { code := 0x21 })
    ∧ (let f := { fir [(0, tok 0)] with err := some { code := 0x13 } }
       (∀ x ∈ f.ops, x.2.poison? = none) ∧ f.err = some { code := 0x13 })
    ∧ Instr.nodeAdd (recA 2) ∈ plainKinds (recA 2) := by
  refine ⟨⟨rfl, rfl, by decide, rfl⟩, ⟨by decide, rfl⟩, .head _⟩

theorem witness_ExceptionEntry :
    (let s := nodeS (fir [])
     let r := nodeRec s 0 0 1
     [r.destA, r.destB].filter (·.v) ≠ [])
    ∧ (let s := nodeS (fir [])
       let r := nodeRec s 0 0 9
       [r.destA, r.destB].filter (·.v) = []) := by decide

/-- Two firings ready at node 1: that of the lower tag issues. -/
theorem witness_FiringIssues :
    (let f := fir [(0, tok 0), (1, tok 1)]
     let g := { f with tag := 1 }
     let s := { nodeS f { tileN with ready := [g, f] } with focus := .event (.issue 0 .a) }
     let s0 := { s with focus := .idle }
     tileRuns s0 0 = true ∧ unitFree s0 0 .a = true ∧ f ∈ (tileOf s 0).ready ∧ classOf (nodeInstr s 0 f.ctx f.node) = .a
     ∧ ∀ x ∈ (tileOf s 0).ready, classOf (nodeInstr s 0 x.ctx x.node) = .a → ¬ (x.since + 2048 * 20 ≤ matCyc s0 0) ∧
        (x = f ∨ f.tag.toNat < x.tag.toNat ∨ (f.tag = x.tag ∧ f.node < x.node)))
    ∧ (let f := { fir [(0, tok 0), (1, tok 1)] with tag := 1 }
       let g := { f with tag := 0, since := 20 }
       let s0 := { nodeS f { tileN with ready := [g, f] } with focus := .idle, cyc := [(0, 41000)] }
       (f.since + 2048 * 20 ≤ matCyc s0 0) ∧ (g.since + 2048 * 20 ≤ matCyc s0 0) ∧ f.since / 20 < g.since / 20)
    ∧ NotDet (nodeS (fir [])) 0 ∧ syncs { scope := .tile, place := 0 } .tile (BitVec.ofNat 11 0) = true ∧ syncs { scope := .tile, place := 1 } .tile (BitVec.ofNat 11 0) = false := by
  unfold NotDet; decide

/-- Tokens for the `add` at node 1: on port 2, alone, with its partner kept, with one of its own port kept. -/
def flt1 (port : BitVec 2) (v : Word) : Flight := { tok := { tok v with dest := ⟨true, 0, 1, port⟩ }, launch := 1 }

theorem witness_TokensPair : ∀ store ∈ [[], [flt1 1 9], [flt1 0 9]],
    let s := nodeS (fir []) { tileN with store := store }
    let r := nodeRec s 0 0 1
    nodeInstr s 0 0 1 = some (.nodeAdd r) ∧ (nodeSlot s 0 0 1).isSome = true ∧ r.nops = 2 ∧ r.lit = false ∧ r.sticky = false
    ∧ 2 ≤ (flt1 2 0).tok.dest.port.toNat ∧ (flt1 0 0).tok.dest.port.toNat < 2
    ∧ (store = [] → ∀ x ∈ (tileOf s 0).store, ¬ x.tok.dest.port.toNat = 0)
    ∧ (store = [flt1 1 9] → (tileOf s 0).store = [] ++ flt1 1 9 :: [] ∧ (flt1 1 9).tok.dest.port.toNat = 1 - (flt1 0 0).tok.dest.port.toNat
        ∧ ∀ x ∈ (tileOf s 0).store, ¬ x.tok.dest.port.toNat = 0)
    ∧ (store = [flt1 0 9] → (tileOf s 0).store = [] ++ flt1 0 9 :: [] ∧ (flt1 0 9).tok.dest.port.toNat = (flt1 0 0).tok.dest.port.toNat
        ∧ (flt1 0 9).tok.ctx = 0 ∧ (flt1 0 9).tok.dest.node.toNat = 1 ∧ (flt1 0 9).tok.tag = (flt1 0 0).tok.tag
        ∧ ∀ x ∈ (tileOf s 0).store, ¬ x.tok.dest.port.toNat = 1 - (flt1 0 0).tok.dest.port.toNat)
    ∧ (tileLaunch s 0).det = false ∧ ({ tileLaunch s 0 with det := true } : Launch).det = true := by decide

/-- The bin of two at node 3 of tile 0. -/
def binS (b : Bin) (store : List Flight) (s : State := world) : State :=
  { nodeS (fir []) { tileN with bins := [(3, b)], store := store } s with focus := .event (.nn 0 3) }
def binTok (body : Body) : Flight := { tok := { dest := ⟨true, 0, 3, 0⟩, chan := 5, body := body }, launch := 1 }
def bin2 : Bin := { cap := 2, timer := 100 }
def data1 : Body := .burst { nelem := 1, fmt := 6, bytes := List.replicate 64 1 }

theorem binReady_binS (b : Bin) (store : List Flight) (s : State) (h : tileRuns { binS b store s with focus := .idle } 0 = true) :
    ∃ r, BinReady (binS b store s) 0 3 r ∧ (r.literal.extractLsb' 8 24).toNat = 0x40 ∧ (r.literal.extractLsb' 0 8).toNat = 1 := by
  have h2 : nodeSlot (binS b store s) 0 0 3 = some 0x291800003400000000004001 := rfl
  have h3 : decodeBytes (bytesLE 16 (0x291800003400000000004001 : BitVec 128).toNat) =
      .ok (.nodeBin ⟨false, false, 1, ⟨true, 0, 3, 1⟩, ⟨false, 0, 0, 0⟩, 0x4001⟩) := by decide
  refine ⟨⟨false, false, 1, ⟨true, 0, 3, 1⟩, ⟨false, 0, 0, 0⟩, 0x4001⟩, ⟨rfl, h, ?_⟩, by decide, by decide⟩
  show nodeInstr (binS b store s) 0 0 3 = _
  rw [nodeInstr, h2]
  simp only
  rw [h3]

theorem witness_NodeBin :
    (let f : Firing := { fir [] with bin := some { half := 1, entries := [] } }
     Fires (nodeS f { tileN with bins := [(1, bin2)] }) 0 f)
    ∧ (let x : BinFire := { half := 1, entries := [some (0, (binTok data1).tok), none] }
       let f : Firing := { fir [] with bin := some x }
       let s := nodeS f { tileN with bins := [(1, bin2)] }
       Fires s 0 f ∧ f.bin = some x ∧ (aget (tileOf s 0).bins (f.ctx.toNat * 4096 + f.node) {}).cap - 1 < 2 ^ 8 ∧ x.half < 2
       ∧ x.entries.length < 2 ^ 9 ∧ (aget (tileOf s 0).bins (f.ctx.toNat * 4096 + f.node) {}).adapter = false ∧ Sound s 0) := by
  refine ⟨fires_at rfl (by decide), fires_at rfl (by decide), rfl, by decide, by decide, by decide, by decide, ?_⟩
  unfold Sound; decide

/-- A poison; a first and a last token of a half of two. -/
theorem witness_BinTokens : ∀ b ∈ [bin2, { bin2 with filling := [(binTok data1).tok] }],
    ∀ g ∈ [binTok (.poison { code := 0x21 }), binTok data1],
    let s := binS b [g]
    tileRuns { s with focus := .idle } 0 = true ∧ (tileOf s 0).store = [] ++ g :: [] ∧ g.tok.ctx = (tileOf s 0).ctx ∧ g.tok.dest.node.toNat = 3
    ∧ (afind (tileOf s 0).bins 3).isSome = true ∧ (aget (tileOf s 0).bins 3 {}).adapter = false ∧ (tileOf s 0).badWords = []
    ∧ (aget (tileOf s 0).bins 3 {}).filling.length < (aget (tileOf s 0).bins 3 {}).cap
    ∧ (∀ h ∈ (aget (tileOf s 0).bins 3 {}).retained, h.half ≠ (aget (tileOf s 0).bins 3 {}).half) := by decide

theorem witness_BinTimers :
    (let s := binS { bin2 with filling := [(binTok data1).tok] } [] { world with time := 100 }
     tileRuns { s with focus := .idle } 0 = true ∧ (tileLaunch s 0).det = false ∧ 0 < (aget (tileOf s 0).bins 3 {}).timer
     ∧ (aget (tileOf s 0).bins 3 {}).filling ≠ [] ∧ (aget (tileOf s 0).bins 3 {}).fillSince + (aget (tileOf s 0).bins 3 {}).timer ≤ s.time)
    ∧ (aget (tileOf (binS bin2 []) 0).bins 3 {}).filling = []
    ∧ (let g := binTok (.notice 0x10000)
       let s := binS bin2 [g]
       (tileOf s 0).store = [] ++ g :: [] ∧ g ∉ ([] : List Flight) ∧ g.tok.ctx = (tileOf s 0).ctx ∧ g.tok.dest.node.toNat = 3 ∧ g.tok.body = .notice 0x10000)
    ∧ (∀ x ∈ [bin2, { bin2 with stepFired := true }, { bin2 with notices := [(0, 1)] }],
       let s := binS x []
       afind (tileOf s 0).bins 3 = some x ∧ ownEntries { s with focus := .idle } 0 0 3 = [0]
       ∧ (x.stepFired = true ∨ ¬ 1 ≤ aget x.notices 0 0 ∨ (1 ≤ aget x.notices 0 0 ∧ x.noticed ≤ x.received ∧ x.stepFired = false))) := by decide

/-- A batch retained and due for replay, fired once and four times; a word of its descriptor uncorrectable. -/
theorem witness_BatchReplays : ∀ n ∈ [(1 : Nat), 4], ∀ c ∈ [(0x41 : BitVec 8), cUncorrectable],
    let h : BinHalf := { half := 0, batch := 2, fire := { half := 0, entries := [some (0, (binTok data1).tok)] }, fired := n }
    let b : Bin := { bin2 with replayDue := [(2, { code := c })], retained := [h] }
    let s := binS b []
    tileRuns { s with focus := .idle } 0 = true ∧ (binOf s 0 (nodeKey 0 3)).replayDue = (2, { code := c }) :: []
    ∧ (binOf s 0 (nodeKey 0 3)).retained.find? (fun y => y.batch = 2) = some h ∧ (h.fired < 4 ↔ n = 1)
    ∧ batchBad { s with tiles := [(0, { tileOf s 0 with badWords := [badSpad 1024] })] } 0 (recA 1 false 0x4001) b h = true := by decide

/-! ### Network, sowers, combine units, barriers and steps -/

/-- The world with launch 1 on tile 0, nothing performed yet, and the event data given. -/
def evS (a : EvArgs) (tl : Tile := tileN) (s : State := world) (l : Launch := launch1) : State :=
  { s with focus := .event a, launches := [(1, l)], tiles := [(0, { tl with launch := 1 })] }

/-- A store of 256 tokens. -/
def storeFull : List Flight := List.replicate 256 (flt1 0 9)

/-- Tokens for no tile and for the launch that closes, in context 0 and past NCTX; a store with room and one without. -/
theorem witness_TokenArrivals :
    let f := flt1 0 7
    let far : Flight := { f with tok := { f.tok with dest := ⟨true, 20, 0, 0⟩ } }
    let ctx1 : Flight := { f with tok := { f.tok with ctx := 1 } }
    let s := evS (.n 0) tileN { world with net := [f] }
    Arrives s 0 f ∧ isAck f.tok = false ∧ asSower f.tok.dest.tile.toNat = none ∧ asComb f.tok.dest.tile.toNat = none ∧ isTile 0 = true
    ∧ Arrives (evS (.n 0) tileN { world with net := [far] }) 0 far ∧ isTile far.tok.dest.tile.toNat = false ∧ asComb 20 = none ∧ asSower 20 = none
    ∧ tokTarget (without s 0) f = .store 1 ∧ tokTarget (without (evS (.n 0) tileN { world with net := [f] } { launch1 with closing := true }) 0) f = .dead
    ∧ (launchOf s 1).images.length ≤ ctx1.tok.ctx.toNat ∧ f.tok.ctx.toNat < (launchOf s 1).images.length
    ∧ tokTarget (without (evS (.n 0) tileN { world with net := [ctx1] }) 0) ctx1 = .store 1
    ∧ Accepts_ (without s 0) f ∧ Room (without s 0) f
    ∧ (∀ n ∈ [(0 : Nat), 2 ^ 24], let s := evS (.n 0) { tileN with diverted := [5] } { world with net := [f], ovfUsed := [(0, n)] }
        ¬ Accepts_ (without s 0) f ∧ tokTarget (without s 0) f = .store 1 ∧ (Room (without s 0) f ↔ n = 0))
    ∧ tokTarget (without (evS (.n 0) tileN { world with net := [f] } { launch1 with phase := .placing }) 0) f = .queue 1 := by
  unfold Accepts_ Room Arrives KeepOrder; intro f far ctx1 s; and_intros <;> decide

/-- A full store accepts nothing more. -/
theorem witness_TokenArrivals_full : ¬ Accepts_ (evS (.n 0) { tileN with store := storeFull }) (flt1 0 7) := by
  unfold Accepts_; set_option maxRecDepth 20000 in decide

theorem witness_DivertedTokens : asSower (flt1 0 7).tok.dest.tile.toNat = none := by decide

/-- A queue of three tokens of tags 2, 1, 1, and one of a single token. -/
theorem witness_Reinjection :
    let g (n : BitVec 20) : Flight := { flt1 0 7 with tok := { (flt1 0 7).tok with tag := n } }
    ∀ x ∈ [([g 2], [g 1]), ([], [])],
    let q : Ovf := { tile := 0, chan := 5, toks := x.1 ++ g 1 :: x.2 }
    let s := evS (.nn 0 5) { tileN with diverted := [5] } { world with ovf := [q], ovfUsed := [(0, 3)] }
    let s0 := { s with focus := .idle }
    asSower 0 = none ∧ ovfChan s0 0 = some 5 ∧ takesQueued s0 0 = true ∧ ((storeUse s 0).1 + 16 ≤ 256 ∨ (storeUse s 0).1 = 0)
    ∧ (∀ y ∈ x.1, (g 1).tok.tag.toNat < y.tok.tag.toNat) ∧ (∀ y ∈ x.2, (g 1).tok.tag.toNat ≤ y.tok.tag.toNat)
    ∧ (g 1).tok.dest.tile.toNat = 0 ∧ (storeUse s 0).1 + 1 ≤ 256 ∧ (storeUse s 0).2 + (g 1).tok.body.beats ≤ 1024
    ∧ (x.1 ++ x.2 = [] ↔ x = ([], [])) := by
  decide

/-- The token's own launch; a launch saved off the tile; another launch's token; no launch, with one waiting and with none. -/
theorem witness_DestinationLaunch :
    let f := flt1 0 7
    let g : Flight := { f with launch := 2 }
    let l2 (p : LPhase) : AMap Launch := [(1, launch1), (2, { launch1 with handle := 2, phase := p })]
    let own (s : State) (f : Flight) : Bool :=
      let h := (tileOf s 0).launch
      h ≠ 0 && (f.launch = h || f.formedFor = some h || f.sower.isSome)
    own (evS .none) f = true
    ∧ (own (evS .none) g = false ∧ ckptOf (evS .none) 0 = none)
    ∧ (own { evS .none with launches := l2 .saved } g = false ∧ ckptOf { evS .none with launches := l2 .saved } 0 = some 2)
    ∧ (∀ p ∈ [LPhase.waiting, .done],
        let s : State := { evS .none with launches := l2 p, tiles := [] }
        own s g = false ∧ ckptOf s 0 = none ∧ (tileOf s 0).launch = 0 ∧ (waitsFor s 0 = true ↔ p = .waiting))
    ∧ (launchOf (evS .none) 1).closing = false ∧ (launchOf (evS .none) 1).phase = .running ∧ goPending (evS .none) 0 1 = false
    ∧ (launchOf (evS .none tileN world { launch1 with closing := true }) 1).closing = true := by
  decide

theorem witness_WaitingTokens : ∀ n ∈ [(9 : Nat), 10],
    let x : Limbo := { flight := flt1 0 7, since := 2 ^ 64 - 5, limit := 15 }
    let s := evS (.n 0) tileN { world with limbo := [x], time := n }
    s.limbo[0]? = some x ∧ ((s.time + (2 ^ 64 - x.since % 2 ^ 64)) % 2 ^ 64 < x.limit ↔ n = 9) := by decide

/-- The acknowledgement of tag 0xFFFFF, SEQ 0xFFFF, rank 7 of combine unit 0, awaited alone and before another. -/
theorem witness_Acknowledgements : ∀ post ∈ [[], [((0 : BitVec 20), (0 : BitVec 16), (0 : BitVec 16))]],
    let w : Word := 0x7FFFFFFFFF
    let f : Flight := { tok := { dest := ⟨false, 0, 0, 0⟩, chan := 1, origin := 56, body := .control w }, formedFor := some 1 }
    let x : BitVec 20 × BitVec 16 × BitVec 16 := (0xFFFFF, 0xFFFF, 0xE0FF)
    let b : Bin := { bin2 with retained := [{ half := 0, batch := 1, fire := { half := 0, entries := [] }, waits := x :: post }] }
    let s := evS (.n 0) { tileN with bins := [(3, b)] } { world with net := [f] }
    Arrives s 0 f ∧ isTile 0 = true ∧ asSower 0 = none ∧ tokTarget (without s 0) f = .store 1
    ∧ f.tok.ctx.toNat < (launchOf s 1).images.length ∧ b.retained = [{ half := 0, batch := 1, fire := { half := 0, entries := [] }, waits := [] ++ x :: post }]
      ∧ ackOf (without s 0) f w x = true := by
  unfold Arrives KeepOrder; decide

theorem witness_Refusals : ({ tok 7 with reply := true } : Token).reply = true ∧ (tok 7).reply = false := by decide

/-- Two gates: gate 0 scores two experts over rows of two FP32 elements with weights 1, 2 and 3, 4, its results of one FP32
element at 0x10000; gate 1 takes adapters, over rows of one element. -/
def gates2 : List Byte :=
  [0, 0, 0, 0, 2] ++ List.replicate 59 0
  ++ [2, 0, 2, 0, 0, 0, 1, 0, 1, 0, 0xFF, 0, 0xC0, 0, 0, 0, 0, 0, 1, 0, 0, 0, 0, 0x80, 13, 0, 0, 2, 1, 0, 1, 0] ++ List.replicate 32 0
  ++ [1, 0, 2, 0, 0, 0, 1, 1, 1, 0, 0, 0] ++ List.replicate 52 0
  ++ [0, 0, 0x80, 0x3F, 0, 0, 0, 0x40, 0, 0, 0x40, 0x40, 0, 0, 0x80, 0x40]

/-- Launch 1 holds sower 0; expert 0 has its bin at node 3 of tile 0, a quota of 2, expert 1 has STATE 0. -/
def launchG : Launch :=
  { launch1 with sowers := [(0, 0, 0)], chan := tile0.chan, dir := [{ state := 1, bin := ⟨true, 0, 3, 0⟩, quota := 2, alt := 1, pol := 1 }, {}, { state := 1, alt := 0, pol := 1, quota := 1 }] }

def sow0 : Sower := { holder := 1, image := gates2 }

/-- A row for node `n` of sower 0 with the format and elements given. -/
def rowTok (n : BitVec 12) (port : BitVec 2) (body : Body) : Flight := { tok := { dest := ⟨true, 24, n, port⟩, chan := 5, body := body }, launch := 1 }
def row2 : Body := .burst { nelem := 2, fmt := 1, bytes := [0, 0, 0x80, 0x3F, 0, 0, 0x80, 0x3F] }

def sowS (x : Sower) (s : State := world) : State := { evS (.n 0) tileN s launchG with sowers := [(0, x)] }

/-- A row for gate 0, and one for a gate that the image lacks; the row is scored. -/
theorem witness_SowerRows : ∀ n ∈ [(0 : BitVec 12), 2],
    let f := rowTok n 0 row2
    let so : Sower := { sow0 with store := [f] }
    let s := sowS so
    sowRuns { s with focus := .idle } 0 = true ∧ so.pend = none ∧ so.buffer = none ∧ so.store = f :: [] ∧ f.tok.dest.port = 0
    ∧ f.tok.body = row2 ∧ efmt 1 = some (.ty .f32) ∧ (f.tok.dest.node.toNat < gateCount so.image ↔ n = 0)
    ∧ (2 : BitVec 16).toNat = (gateOf so.image 0).d
    ∧ f.tok.bad = false ∧ (match sowRow { s with focus := .idle, sowers := [(0, sow0)] } 0 0
        { port := rowTok 0 0 row2, fmt := 1, bytes := [0, 0, 0x80, 0x3F, 0, 0, 0x80, 0x3F], elems := [0x3F800000, 0x3F800000] } with
      | .done _ => true | .wait _ => false) = true := by
  decide

/-- A row whose words are in error; one whose affinity record lies in another package waits. -/
theorem witness_SowerRows_waits :
    ({ (rowTok 0 0 row2) with tok := { (rowTok 0 0 row2).tok with bad := true } } : Flight).tok.bad = true
    ∧ (let so : Sower := { sow0 with image := gates2.set 106 1 }
       let l : Launch := { launchG with wins := [{ win0 with offset := 0x0900000100000 }],
                                        leases := [{ start := 0x0900000100000, pages := 64, access := 7 }] }
       let s : State := { sowS so with focus := .idle, launches := [(1, l)] }
       ∃ w, sowRow s 0 0 { port := rowTok 0 0 row2, fmt := 1, bytes := [0, 0, 0x80, 0x3F, 0, 0, 0x80, 0x3F],
                           elems := [0x3F800000, 0x3F800000] } = .wait w) := ⟨rfl, ⟨_, rfl⟩⟩

theorem eres_ok {α : Type} {x : ERes α} {b : α} (h : (match x with | .ok _ y => some y | _ => none) = some b) : ∃ s, x = .ok s b := by
  cases x <;> simp_all

theorem eres_pair {α β : Type} {x : ERes (α × β)} (h : (match x with | .ok _ _ => true | _ => false) = true) : ∃ s a b, x = .ok s (a, b) := by
  cases x with
  | ok s v => exact ⟨s, v.1, v.2, rfl⟩
  | fault _ _ => simp at h
  | wait => simp at h

theorem row_done {α β : Type} {x : ERes (α × β)} {f : State → α → Tried}
    (h : (match x with | .ok s v => (match f s v.1 with | .done _ => true | .wait _ => false) | _ => false) = true) :
    ∃ s a b s3, x = .ok s (a, b) ∧ f s a = .done s3 := by
  cases x with
  | ok s v =>
    simp only at h
    cases hf : f s v.1 with
    | done s3 => exact ⟨s, v.1, v.2, s3, rfl, hf⟩
    | wait _ => simp [hf] at h
  | fault _ _ => simp at h
  | wait => simp at h

/-- A buffer of one row of one FP32 element, Haar-tagged. -/
def hdrH : List Byte := [1, 1, 0, 0, 1, 0, 0, 0, 1, 0, 0, 0, 1, 0, 0, 0] ++ List.replicate 48 0

theorem witness_SowerBuffers :
    (∀ n ∈ [(1 : BitVec 12), 0, 2],
      let f := rowTok n 1 (.scalar 0x10000)
      let so : Sower := { sow0 with store := [f] }
      let s := sowS so (paged hdrH)
      sowRuns { s with focus := .idle } 0 = true ∧ so.pend = none ∧ so.buffer = none ∧ so.store = f :: [] ∧ f.tok.dest.port = 1 ∧ f.tok.bad = false
      ∧ (f.tok.dest.node.toNat < gateCount so.image ↔ n ≠ 2) ∧ f.tok.body = .scalar 0x10000
      ∧ (∃ s2, edgeRead (sowTake { s with focus := .idle } 0 f) 1 (sowerId 0) (sowerOf (sowTake { s with focus := .idle } 0 f) 0).clock f.tok.tag 0x10000 64 = .ok s2 hdrH)
      ∧ (sowHdrOk hdrH (gateOf so.image n.toNat) = true ↔ n = 1))
    ∧ (let b : SowBuf := { port := rowTok 1 1 (.scalar 0x10000), hdr := bufHdr hdrH }
       let so : Sower := { sow0 with buffer := some b }
       let s := { sowS so (paged hdrH) with focus := .idle }
       sowRuns s 0 = true ∧ so.pend = none ∧ b.port.tok.body = .scalar 0x10000 ∧ b.hdr.tags &&& 3#8 ≠ 0
       ∧ (let row : Flight := { b.port with tok := { b.port.tok with seq := 0 } }
          ∃ s2 xs raw s3, bandRow 1 (sowerId 0) so.clock row 0x10000 b.hdr 0 0 [0] s ([], []) = .ok s2 (xs, raw)
            ∧ sowRow (modSower s2 0 (fun y => { y with buffer := none })) 0 1
                { port := row, fmt := 1, bytes := xs.flatMap (fun v => bytesLE 4 v.toNat), elems := xs } = .done s3)) := by
  refine ⟨fun n hn => ⟨by revert n; decide, rfl, rfl, rfl, rfl, rfl, by revert n; decide, rfl, eres_ok (by revert n; set_option maxRecDepth 20000 in decide), by revert n; decide⟩,
    by decide, rfl, rfl, by decide, row_done (by decide +kernel)⟩

/-- Below and at the quota of 2; an entry of STATE 0; the alternate closed and open. -/
theorem witness_Quotas :
    (launchG.dir.getD 1 {}).state = 0 ∧ (launchG.dir.getD 0 {}).state ≠ 0
    ∧ (∀ n ∈ [(1 : Nat), 2], let a : Sowing := { counters := [(0, n)] }
        (aget a.counters 0 0 < 2 ↔ n = 1))
    ∧ (launchG.images.getD launchG.ctx.toNat {}).maxtok = 100 ∧ (launchG.dir.getD 0 {}).quota = 2
    ∧ ((launchG.dir.getD 0 {}).pol.extractLsb' 0 2).toNat = 1 ∧ (launchG.dir.getD (launchG.dir.getD 0 {}).alt {}).state = 0
    ∧ (launchG.dir.getD (launchG.dir.getD 2 {}).alt {}).state ≠ 0 ∧ 1 ≤ aget [(2, (1 : Nat))] 2 0 ∧ aget [(2, (1 : Nat))] 0 0 < 2
    ∧ (∀ p ∈ [(0 : BitVec 8), 2, 3], (p.extractLsb' 0 2).toNat ≠ 1) := by decide

def grp : Group := { tag := 1, seq := 2, gate := 0, sower := 0, launch := 1, ranks := [{ expert := 0, weight := 0x3F800000 }] }

/-- A row's record with its key open, with it not open, and with 1,024 groups open. -/
theorem witness_GroupRecords : ∀ gs ∈ [[], [grp], List.replicate 1024 { grp with tag := 3 }],
    let x : SownRow := { port := rowTok 0 0 row2, group := grp, unit := 0 }
    let s := { sowS { sow0 with pend := some x } with combs := [(0, { groups := gs })] }
    (sowerOf s 0).pend = some x ∧ x.unit = 0 ∧ 0 / 8 * 8 = 0 ∧ (combOf s 0).groups = gs := by
  intro gs _; exact ⟨rfl, rfl, rfl, rfl⟩

theorem witness_GroupRecords_keys : (∃ g ∈ [grp], (g.tag = grp.tag && g.seq = grp.seq) = true)
    ∧ (∀ g ∈ List.replicate 1024 { grp with tag := 3 }, (g.tag = grp.tag && g.seq = grp.seq) = false)
    ∧ 1024 ≤ (List.replicate 1024 { grp with tag := 3 }).length ∧ ([] : List Group).length < 1024 := by
  refine ⟨⟨grp, .head _, by decide⟩, fun g h => ?_, List.length_replicate.ge, by decide⟩
  rw [List.eq_of_mem_replicate h]; decide

/-- Results for a group awaited, for none, for a rank dropped or there, of two elements, with a domain tag; a poison. -/
theorem witness_CombineResults :
    let res (tag : BitVec 20) (body : Body) : Flight := { tok := { dest := ⟨true, 56, 0, 0⟩, tag := tag, seq := 2, chan := 5, body := body }, launch := 1 }
    let one : Burst := { nelem := 1, fmt := 1, bytes := [0, 0, 0x80, 0x3F] }
    (∀ f ∈ [res 1 (.burst one), res 9 (.burst one), res 1 row2, res 1 (.burst { one with dtag := 1 }), res 1 (.poison { code := 0x21 })],
      ∀ x ∈ [({ expert := 0, weight := 0 } : GroupRank), { expert := 0, weight := 0, dropped := some false }, { expert := 0, weight := 0, result := some [] }],
      let s := { sowS sow0 { world with net := [f] } with combs := [(0, { groups := [{ grp with ranks := [x, { expert := 1, weight := 0 }] }] })] }
      stuckGroup s 0 = none ∧ Arrives { s with focus := .event (.n 0) } 0 f ∧ f.tok.dest = { v := true, tile := 56, node := 0, port := 0 } ∧ isAck f.tok = false
      ∧ ((groupFor (combAcquire (without s 0) 0 f.tok) 0 f.tok).isNone = true ↔ f = res 9 (.burst one)) ∧ f.tok.batch = none
      ∧ f.tok.rankw.toNat / 2 ^ 13 = 0 ∧ (groupGate s grp).outn = 1) := by
  set_option maxRecDepth 20000 in (unfold Arrives KeepOrder; decide)

/-- Waits of 2 ms less 1 ns and of 2 ms, for package 9. -/
theorem witness_UnreachablePackages : ∀ n ∈ [(1999999 : Nat), 2000000],
    (let r : Req := { reqA with addr := { ia := 0x0900000100000, asid := 5 } }
     let s := evS (.unreach (.request 9)) tileN { world with reqs := [r], time := n }
     s.reqs.find? (fun q => q.id = 9) = some r ∧ pkgIsLocal s (iaPkg r.addr.ia.toNat) = false ∧ isHostIA r.addr.ia.toNat = false
     ∧ (Passed s r.since < 2000000 ↔ n = 1999999))
    ∧ (let x : FarReq := { id := 9, asker := 7, asid := 5, ia := 0x0900000100000, op := .read 8, since := 0 }
       let s := evS (.unreach (.request 9)) tileN { world with far := [x], time := n }
       s.reqs.find? (fun q => q.id = 9) = none ∧ s.far.find? (fun y => y.id = 9) = some x ∧ x.answer = none ∧ x.fault = none
       ∧ (Passed s x.since < 2000000 ↔ n = 1999999))
    ∧ (∀ body ∈ [Body.notice 0x10000, row2], ∀ sown ∈ [some 0, none],
      let f : Flight := { rowTok 0 0 body with pkg := 9, sower := sown }
      let s := evS (.unreach (.token 0)) tileN { world with net := [f], time := n }
      s.net[0]? = some f ∧ pkgIsLocal s f.pkg.toNat = false ∧ (2000000 ≤ Passed s f.since ↔ n = 2000000)) := by decide

/-- Every tile has joined barrier 255, and none has. -/
theorem witness_BarrierCompletes : ∀ js ∈ [[({ tile := 0, dest := ⟨true, 0, 3, 0⟩, tag := 1, rel := { scope := .tile, place := 0 } } : BarJoin)], []],
    let s := evS (.nn 1 255) tileN world { launch1 with bars := [(255, { joins := js })] }
    (launchOf s 1).tileset ≠ [] ∧ ((∀ t ∈ (launchOf s 1).tileset, ∃ j ∈ (aget (launchOf s 1).bars 255 {}).joins, j.tile = t) ↔ js ≠ [])
    ∧ ((∃ t ∈ (launchOf s 1).tileset, ∀ j ∈ (aget (launchOf s 1).bars 255 {}).joins, j.tile ≠ t) ↔ js = []) := by decide

/-- A sower ready to close, and one with a row left. -/
theorem witness_SowerCloses :
    (let s := sowS sow0
     let s0 : State := { evS (.n 0) { tileN with stepended := true } world launchG with sowers := [(0, sow0)], focus := .idle }
     s.focus = .event (.n 0) ∧ sowRuns s0 0 = true ∧ sow0.closed = false ∧ sow0.store = [] ∧ sow0.pend = none ∧ sow0.buffer = none ∧ phase1 s0 1 = true
     ∧ ∃ s2, histAll 1 0 launchG [(0, gateOf gates2 0)] (sendDeferred s0 0 launchG []) = .done s2)
    ∧ ({ sow0 with store := [rowTok 0 0 row2] } : Sower).store ≠ [] := by
  refine ⟨⟨rfl, by decide, rfl, rfl, rfl, rfl, by decide, ⟨_, rfl⟩⟩, by decide⟩

theorem witness_Notices : (launchG.dir.getD 1 {}).state = 0 ∧ (launchG.dir.getD 0 {}).state ≠ 0 ∧ 0 < 2 ^ 16
    ∧ aget ({ sow0 with counters := [(0, 0xFFFFFF)] } : Sower).counters 0 0 < 2 ^ 24 ∧ 31 < 32 := by decide

/-- Phase 2 holds: with completion tokens owed and sent, with and without swaps; a tile that has not reached its step's end. -/
theorem witness_StepBarriers :
    let tl : Tile := { tileN with stepended := true }
    let s (told : List Nat) (sw : List (Nat × Nat)) : State :=
      { evS (.n 1) tl world { launchG with swap := sw } with sowers := [(0, { sow0 with closed := true })], combs := [(0, { told := told })] }
    (∀ told ∈ [[], [1]], ∀ sw ∈ [[], [(0, 1)]],
      let s0 : State := { s told sw with focus := .idle }
      let l := launchOf s0 1
      l.phase = .running ∧ l.closing = false ∧ l.tileset ≠ [] ∧ l.save.any (·.stepPending) = false ∧ phase2 s0 1 = true
      ∧ (allTold s0 1 = true ↔ told = [1]) ∧ l.violated = false
      ∧ (match tellUnits s0 1 with | .done _ => true | .wait _ => false) = true
      ∧ (match swapAll 1 l.swap s0 with | .done _ => true | .wait _ => false) = true)
    ∧ phase2 { evS (.n 1) tileN with focus := .idle } 1 = false := by
  set_option maxRecDepth 20000 in decide

/-- Contexts complete and not complete. -/
theorem witness_StepsAdvance : ∀ n ∈ [(0 : Nat), 1],
    let s := evS (.n 1) { tileN with sunk := n }
    let l := launchOf s 1
    (∀ t ∈ l.tileset, (tileOf s t).store = [] ∧ (tileOf s t).sticky = [] ∧ (tileOf s t).counts = [] ∧ (tileOf s t).streams = [])
    ∧ l.closing = false ∧ l.ctx.toNat < l.images.length ∧ l.images.length ≤ 8 ∧ ¬ (l.phase = .saving ∧ l.sowers ≠ [])
    ∧ ((∀ i < l.images.length, (l.images.getD i {}).sinks ≤ (l.images.getD i {}).sunk + if i = l.ctx.toNat then n else 0) ↔ n = 1) := by decide

/-- `tlwait`, `mwait`, `ld` and `mma` that have waited 250 ms; a unit at work, idle and gated. -/
theorem witness_TileTimers :
    (∀ i ∈ [Instr.tlwait e0, .mwait { s0 with oa := 0, ob := 0 }, .ld m0, .mma { s0 with shr := 9 }], ∀ n ∈ [(249999999 : Nat), 250000000],
      let w := (encode i).getD 0
      let sl : Slot := { slotT [] with phase := .waiting 0 }
      let s := evS (.nn 0 0) { tileN with slots := (Vector.replicate 4 {}).set 0 sl, graph := [(0, { codes := [[w, 0]] })] } { world with time := n }
      (slotOf s 0 0).phase = .waiting 0 ∧ (nextWord s 0 0).isSome = true ∧ (250000000 ≤ Passed s 0 ↔ n = 250000000))
    ∧ (∀ n ∈ [(1279 : Nat), 1280],
       let s := evS (.unit 0 .vectorEngine) { tileN with idle := [(unitCode .vectorEngine, 0)] } { world with cyc := [(1, n)] }
       unitIdle { s with focus := .idle } 0 .vectorEngine = true ∧ TileUnit.vectorEngine ∉ (tileOf s 0).gated
       ∧ afind (tileOf s 0).idle (unitCode .vectorEngine) = some 0 ∧ (cycDue s 0 (unitDom .vectorEngine) 64 0 = true ↔ n = 1280))
    ∧ (let s := evS (.unit 0 .vectorEngine) { tileN with slots := tileN.slots.set 0 { phase := .running } }
       unitIdle { s with focus := .idle } 0 .vectorEngine = false)
    ∧ TileUnit.vectorEngine ∈ ({ tileN with gated := [.vectorEngine] } : Tile).gated := by decide

/-! ### Clocks, queues, packets, scheduling and launches -/

theorem witness_CapWrites : ∀ w ∈ [(1000 : Nat), 3200], 1000 ≤ w ∧ w ≤ 3200 ∧ w % 25 = 0
    ∧ (w = ({ world.clk with cap := 3200 } : Clk).cap ↔ w = 3200) := by decide
theorem witness_CapWrites_refused : ∀ w ∈ [(975 : Nat), 3225, 1001], ¬ (1000 ≤ w ∧ w ≤ 3200 ∧ w % 25 = 0) := by decide

/-- Entry 0 costs 1, entry 63 costs 200 with every multiplier 63 or less. -/
def opps : List Word := 0x8000010000000000 :: List.replicate 62 0 ++ [0x8000C80000820820]

theorem witness_NearestEntry : ∃ i < 64, oppValid (opps.getD i 0) = true ∧ oppCost (opps.getD i 0) ≤ 1 :=
  ⟨0, by decide, by decide, by decide⟩

theorem witness_GrantsPend :
    (world.clk.reeval = none ∧ ({ world.clk with reeval := some 2 } : Clk).reeval = some 2)
    ∧ ∀ n ∈ [(999999 : Nat), 1000000], ∀ g ∈ [({ entry := 63, cause := 0, forced := false, since := 0 } : Grant), { entry := 63, cause := 2, forced := true, since := 0 }],
      let s := evS (.n 3) tileN { world with time := n, clk := { world.clk with pend := [none, none, none, some g] } }
      s.clk.pend.getD 3 none = some g ∧ s.clk.pend.getD 0 none = none
      ∧ ((g.forced = false ∧ Passed s g.since < 1000000) ∨ g.forced = true ∨ 1000000 ≤ Passed s g.since)
      ∧ (Passed s g.since < 1000000 ↔ n = 999999) := by decide

theorem witness_GrantsTakeEffect :
    let s := evS .none tileN { world with clk := { world.clk with opp := opps } }
    0 < s.clk.clkg.length ∧ 63 < 64 ∧ onDie s 0 = [(1, launchOf s 1)] ∧ (launchOf s 1).tileset = [0] ∧ dieOf 0 = 0 :=
  ⟨by decide, by decide, rfl, rfl, by decide⟩

/-- A window 1 ns before its end and at it, with a request held and without. -/
theorem witness_CoalesceWindows :
    (∀ n v, let s := evS (.n 1) tileN { world with time := n } { launch1 with clkWindow := some 0, clkHeld := v }
      s.focus = .event (.n 1) ∧ (launchOf s 1).clkWindow = some 0 ∧ (launchOf s 1).clkHeld = v ∧ s.time = n)
    ∧ Passed { world with time := 9999 } 0 < 10000 ∧ 10000 ≤ Passed { world with time := 10000 } 0
    ∧ Passed { world with time := 4999 } (2 ^ 64 - 5000) < 10000 ∧ 10000 ≤ Passed { world with time := 5000 } (2 ^ 64 - 5000) :=
  ⟨fun _ _ => ⟨rfl, rfl, rfl, rfl⟩, by decide, by decide, by decide, by decide⟩

/-- Hot, cool, and between; due and not due; at 1,000 W and at the programmed cap. -/
theorem witness_ThermalSteps : ∀ temp ∈ [[81, 0, 0, 0], [75, 0, 0, 0], [76, 0, 0, 0]], ∀ n ∈ [(999999 : Nat), 1000000], ∀ th ∈ [some 1000, some 1025, none],
    let s := evS (.temps temp { pc := 0, mcause := 0, mtval := 0 }) tileN { world with time := n, clk := { world.clk with limit := [80, 80, 80, 80], thermal := th, cap := 2000, lastStep := some 0 } }
    ((∃ p ∈ temp.zip s.clk.limit, p.2 < p.1) ↔ temp = [81, 0, 0, 0])
    ∧ ((∀ p ∈ temp.zip s.clk.limit, p.1 + 5 ≤ p.2) ↔ temp = [75, 0, 0, 0])
    ∧ ((∀ t, s.clk.lastStep = some t → 1000000 ≤ Passed s t) ↔ n = 1000000) ∧ (1000 < s.clk.thermal.getD s.clk.cap ↔ th ≠ some 1000)
    ∧ (s.clk.thermal = some (s.clk.thermal.getD s.clk.cap) ↔ th ≠ none) := by
  intro temp ht n hn th hh
  have e : ∀ (p : Nat → Prop), (∀ t, (some 0 : Option Nat) = some t → p t) ↔ p 0 := fun p => ⟨fun h => h 0 rfl, fun h t ht => by cases ht; exact h⟩
  simp only [evS, e]
  revert temp n th; decide

theorem witness_TelemetryEvents : (evS (.dom 3 .mat)).focus = .event (.dom 3 .mat) ∧ (evS (.sensors {})).focus = .event (.sensors {})
    ∧ Passed { world with time := 9999999 } 0 < 10000000 ∧ 10000000 ≤ Passed { world with time := 10000000 } 0 := ⟨rfl, rfl, by decide, by decide⟩

/-- Queue 7 of ASID 5 in slot 3, its ring of 16 at the start of the host aperture, one packet rung. -/
def queue7 : Queue :=
  { base := 0xFFF0000000000, en := true, asid := 5, wptr := 1, state := .active, slot := some 3 }

def queueS (a : EvArgs) (q : Queue) (s : State := world) : State :=
  { evS a tileN s with boot := { s.boot with puverUp := true }, queues := [(7, q)], slotQ := [(3, (7, 0))] }

/-- The host page of queue 7 with the device ready; queue 8 of no function, queue 9 of function 2. -/
theorem witness_Doorbells :
    (∀ q w, KickPage (queueS (.host 0 7 8 w) q) 0 7 ∧ queueOf (queueS (.host 0 7 8 w) q) 7 = q)
    ∧ (∀ q ∈ [queue7, { queue7 with en := false }], ∀ w ∈ [(0 : Nat), 1, 16, 17],
        (q.en = true ∧ q.wptr ≤ w ∧ w - q.rptr ≤ 2 ^ q.logsz ↔ q.en = true ∧ (w = 1 ∨ w = 16)))
    ∧ (let s := { queueS (.host 0 7 8 1) queue7 with qidOwner := [(9, 2)] }
       ownsQid s 0 9 = false ∧ afind s.queues 8 = none)
    ∧ State.reset.boot.stage ≠ .ready :=
  ⟨fun _ _ => ⟨⟨rfl, rfl, rfl, rfl⟩, rfl⟩, by decide, ⟨rfl, rfl⟩, by decide⟩

theorem witness_ControlWords : ∀ st ∈ [QState.idle, .active, .halting, .halted],
    let s := queueS (.host 0 7 8 1) { queue7 with state := st }
    KickPage s 0 7 ∧ (queueOf s 7).draining = none ∧ (queueOf s 7).state = st ∧ (queueOf s 7).pkts = [] ∧ (queueOf s 7).rmirror = 0 := by
  intro st _
  exact ⟨⟨rfl, rfl, rfl, rfl⟩, rfl, rfl, rfl, rfl⟩

/-- A packet padded to 64 bytes. -/
def pad64 (b : List Byte) : List Byte := b ++ List.replicate (64 - b.length) 0

/-- Bytes of the host's memory from an address, the zeros left out. -/
def hostCells (a : Nat) (b : List Byte) : List Host.Cell :=
  ((List.range b.length).map (fun i => (hostKey (a + i), b.getD i 0))).filter (fun c => c.2 ≠ 0)

/-- Queue 7 has the packet at DPTR; a signal of value 5 stands at the host's address 0x1000. -/
def pktS (b : List Byte) (a : EvArgs := .n 7) (more : List Host.Cell := []) : State :=
  queueS a queue7 { world with mem := hostCells 0 b ++ more ++ hostCells 0x1000 [5] }

/-- What a packet's event reads is its own 64 bytes. -/
def readsAs (s : State) (b : List Byte) : Bool :=
  match memRead (settled s 7) 5 false 0 0xFFF0000000000 64 with
  | .ok _ x => x = b
  | _ => false

theorem dispatches_pktS (b : List Byte) (a : EvArgs) (m : List Host.Cell) (h : readsAs (pktS b a m) b = true) (ha : a = .n 7) :
    Dispatches (pktS b a m) 7 b := by
  subst ha
  refine ⟨rfl, rfl, rfl, rfl, rfl, Nat.zero_lt_one, rfl, rfl, rfl, rfl, .inl rfl, ?_⟩
  unfold readsAs at h
  have e : memRead (settled (pktS b (.n 7) m) 7) 5 false 0 0xFFF0000000000 64
      = .ok (settled (pktS b (.n 7) m) 7) (rdBytes (pktS b (.n 7) m).mem (hostKey 0) 64) := rfl
  rw [e] at h
  refine Eq.trans e ?_
  simp only [decide_eq_true_eq] at h
  rw [h]

/-- It is done and need not wait. -/
def did : Tried → Bool | .done _ => true | .wait _ => false

def nopB : List Byte := pad64 [1]
/-- A NOP with a byte that must be 0. -/
def nopBad : List Byte := pad64 [1, 0, 0, 0, 0, 0, 0, 0, 1]

set_option maxRecDepth 20000 in
theorem witness_InvalidPackets : ∀ b ∈ [nopB, nopBad],
    Dispatches (pktS b) 7 b ∧ lnat b 0 1 = 1 ∧ b.length = 64
    ∧ (pktOk (settled (pktS b) 7) (queueOf (pktS b) 7) b = true ↔ b = nopB)
    ∧ did (endPkt (started (pktS b) 7 b false) 7 (flying (pktS b) 7 b false) 7) = true := by
  intro b hb
  refine ⟨dispatches_pktS b _ _ (by revert b; decide) rfl, ?_⟩
  revert b; decide

/-- SIGNAL, WRITE of four words, TIMESTAMP and WRITE_SIGNAL, to the host's address 0x1000. -/
def hostVa : List Byte := [0x00, 0x10, 0, 0, 0, 0xFF, 0x0F, 0]
def sigB : List Byte := pad64 ([4, 0, 0, 0, 0, 0, 0, 0] ++ hostVa ++ [3, 0, 0, 0, 0, 0, 0, 0, 1])
def wrB : List Byte := pad64 ([6, 0, 0, 0, 0, 0, 0, 0] ++ hostVa ++ List.replicate 32 7 ++ [4])
def tsB : List Byte := pad64 ([11, 0, 0, 0, 0, 0, 0, 0] ++ hostVa)
def wsB : List Byte := pad64 ([7, 0, 0, 0, 0, 0, 0, 0] ++ hostVa ++ [9, 0, 0, 0, 0, 0, 0, 0] ++ hostVa ++ [1, 0, 0, 0, 0, 0, 0, 0, 2])

/-- An operation of a packet ends as the statement's premises name it, and the packet's end can be written. -/
def sresEnds (r : SRes) (p : Pkt) (bad : Option Nat) : Bool :=
  match r, bad with
  | .ok s, none => did (endPkt s 7 p 0)
  | .fail s e, some x => e = x && did (endPkt s 7 p e)
  | _, _ => false

/-- With the host's AtomicOps and without; a store to another package waits, one that faults fails. -/
theorem witness_StorePackets :
    (∀ b ∈ [nopB, sigB, wrB, tsB, wsB], readsAs (pktS b) b = true ∧ pktOk (settled (pktS b) 7) (queueOf (pktS b) 7) b = true)
    ∧ (let u := started (pktS nopB) 7 nopB false
       let p := flying (pktS nopB) 7 nopB false
       let q := queueOf u 7
       let n : State := { u with boot := { u.boot with hostAtomics := false } }
       did (endPkt u 7 p 0) = true
       ∧ sresEnds (sigRmw u true q (lnat sigB 8 8) (sigNew 1 3)) p none = true ∧ sresEnds (sigRmw n true q (lnat sigB 8 8) (sigNew 1 3)) p (some 10) = true
       ∧ sresEnds (pktStore u q (lnat wrB 8 8) ((wrB.drop 16).take 32)) p none = true
       ∧ (match pktStore u q 0x0900000100000 [1] with | .wait _ => true | _ => false) = true
       ∧ sresEnds (pktStore u q 0x100000 [1]) p (some 9) = true ∧ sresEnds (pktStore u q (lnat tsB 8 8) (bytesLE 8 0)) p none = true
       ∧ sresEnds (pktStore u q (lnat wsB 8 8) (bytesLE 8 9)) p none = true) := by
  set_option maxRecDepth 20000 in decide

theorem witness_WriteSignalSecondStep :
    let p : Pkt := { idx := 0, uid := 100, bytes := wsB, step := 1 }
    let s := queueS (.n 7) { queue7 with dptr := 1, pkts := [p], step := 1 } { world with mem := hostCells 0x1000 [9] }
    let q := queueOf s 7
    q.pkts = [p] ∧ p.async = false ∧ p.launch = 0 ∧ p.step = 1 ∧ p.status = none ∧ q.draining = none ∧ lnat p.bytes 0 1 = 7 ∧ q.slot.isSome = true
    ∧ sresEnds (sigRmw (asAsker { s with focus := .idle } (askQueue 7 p.idx)) (lnat p.bytes 40 1 ≠ 0) q (lnat p.bytes 24 8) (sigNew (lnat p.bytes 40 1) (sigInt (lnat p.bytes 32 8)))) p none = true := by
  set_option maxRecDepth 20000 in decide

theorem witness_SignalValues : ∀ v ∈ [(0 : Int), 2 ^ 63 - 1], ∀ o ∈ [(-(2 ^ 63) : Int), -1, 0, 2 ^ 63 - 1],
    0 ≤ v ∧ v < 2 ^ 63 ∧ -(2 ^ 63) ≤ o ∧ o < 2 ^ 63 := by decide

/-- A WAIT for the signal at 0x1000 to equal `v`, with TIMEOUT 0 or 1 µs. -/
def waitB (v : Byte) (t : Byte) : List Byte :=
  pad64 ([5, 0, 0, 0, 0, 0, 0, 0] ++ hostVa ++ List.replicate 24 0 ++ [v, 0, 0, 0, 0, 0, 0, 0] ++ [t, 0, 0, 0, 0])

def waitS (v t : Byte) (time : Nat) (sig : Byte) : State :=
  queueS (.n 7) { queue7 with dptr := 1, pkts := [{ idx := 0, uid := 100, bytes := waitB v t }] }
    { world with time := time, mem := hostCells 0x1000 [5, 0, 0, 0, 0, 0, 0, sig] }

/-- A condition met and not met; a negative signal; a timeout 1 ns before its time, at it, and none. -/
theorem witness_WaitPackets : ∀ x ∈ [((5 : Byte), (0 : Byte), (0 : Nat), (0 : Byte)), (6, 1, 999, 0), (6, 1, 1000, 0), (6, 0, 1000, 0), (6, 0, 0, 0x80)],
    let p : Pkt := { idx := 0, uid := 100, bytes := waitB x.1 x.2.1 }
    let s := waitS x.1 x.2.1 x.2.2.1 x.2.2.2
    let s0 := asAsker { s with focus := .idle } (askQueue 7 p.idx)
    (queueOf s 7).pkts = [p] ∧ p.async = false ∧ p.launch = 0 ∧ lnat p.bytes 0 1 = 5 ∧ (queueOf s 7).draining = none ∧ p.outcome = none
    ∧ p.status = none
    ∧ (waitEval s0 (queueOf s 7) p).2 = (if x.1 = 5 then some 0 else if x.2.2.2 = 0x80 then some 5 else none)
    ∧ (waitOver s0 p = true ↔ x.2.1 = 1 ∧ x.2.2.1 = 1000)
    ∧ (lnat p.bytes 48 4 = 0 ↔ x.2.1 = 0) := by
  set_option maxRecDepth 20000 in decide

theorem witness_WaitConditions :
    let p : Pkt := { idx := 0, bytes := waitB 5 0 }
    let s := waitS 5 0 0 0
    lnat p.bytes 8 8 ≠ 0 ∧ lnat p.bytes 16 8 = 0 ∧ lnat p.bytes 24 8 = 0 ∧ lnat p.bytes 32 8 = 0 ∧ lnat p.bytes 52 1 ≤ 2
    ∧ memRead s (queueOf s 7).asid ((queueOf s 7).asid = 0) (queueOf s 7).func (lnat p.bytes 8 8) 8 = .ok s (rdBytes s.mem (hostKey 0x1000) 8) :=
  ⟨by decide, by decide, by decide, by decide, by decide, rfl⟩

/-- COND for equality with 5 and with 6 that skips 255; SWITCH over 4, 6, 5 and 5, and over 1 alone; LOOP of 64 packets. -/
def condB (v : Byte) : List Byte := pad64 ([8, 0, 0, 0, 0, 0, 0, 0] ++ hostVa ++ [v, 0, 0, 0, 0, 0, 0, 0, 0, 255])
def switchB (n : Byte) (v : Byte) : List Byte :=
  pad64 ([10, 0, 0, 0, 0, 0, 0, 0] ++ hostVa ++ [4, 0, 0, 0, 0, 0, 0, 0] ++ [6, 0, 0, 0, 0, 0, 0, 0] ++ [v, 0, 0, 0, 0, 0, 0, 0] ++ [5, 0, 0, 0, 0, 0, 0, 0]
    ++ [1, 2, 3, 4, 9, n])
def loopB : List Byte := pad64 [9, 0, 0, 0, 0, 0, 0, 0, 3, 0, 64]

theorem witness_FlowPackets :
    ∀ b ∈ [waitB 5 0, condB 5, condB 6, switchB 4 5, switchB 1 5, loopB],
    let s := pktS b
    let u := started s 7 b false
    let q := queueOf u 7
    let p := flying s 7 b false
    readsAs s b = true ∧ pktOk (settled s 7) (queueOf s 7) b = true ∧ did (endPkt u 7 p 0) = true
    ∧ (match memRead u q.asid (q.asid = 0) q.func 0xFFF0000001000 8 with | .ok _ m => leNat m | _ => 0) = 5
    ∧ (lnat b 0 1 = 8 → (sigInt 5 = sigInt (lnat b 16 8) ↔ b = condB 5) ∧ lnat b 24 1 = 0)
    ∧ (b = switchB 4 5 → 2 < lnat b 53 1 ∧ sigInt 5 = sigInt (lnat b (16 + 8 * 2) 8) ∧ ∀ j < 2, sigInt 5 ≠ sigInt (lnat b (16 + 8 * j) 8))
    ∧ (b = switchB 1 5 → ∀ j < lnat b 53 1, sigInt 5 ≠ sigInt (lnat b (16 + 8 * j) 8)) := by
  set_option maxRecDepth 20000 in decide

/-- Skips that end at WPTR; the end of a loop's body with two runs left and with one. -/
theorem witness_LoopsAndSkips :
    (let q : Queue := { queue7 with wptr := 9, dptr := 2, skip := 7 }
     q.pkts = [] ∧ q.dptr ≤ q.wptr ∧ q.loopIdx = none ∧ q.dptr + q.skip ≤ q.wptr)
    ∧ ∀ n ∈ [(1 : Nat), 2], (let q : Queue := { queue7 with wptr := 9, dptr := 4, loopIdx := some 1, loopBody := 2, loopRem := n }
       q.loopIdx = some 1 ∧ q.skip = 0 ∧ q.dptr = 1 + 1 + q.loopBody ∧ (1 < q.loopRem ↔ n = 2)) := by decide

/-- A COPY of 8 bytes from 0x1000 to 0x2000 of the host, to another package, and to a page that is not mapped. -/
def copyB (pkg : Byte) : List Byte :=
  pad64 ([3, 0, 0, 0, 0, 0, 0, 0] ++ hostVa ++ [0x00, 0x20, 0, 0, 0, if pkg = 0xFF then 0xFF else pkg * 16, if pkg = 0xFF then 0x0F else 0, 0] ++ [8])

theorem witness_CopyPackets :
    ∀ g ∈ [(0xFF : Byte), 9, 0],
    let b := copyB g
    readsAs (pktS b) b = true ∧ pktOk (settled (pktS b) 7) (queueOf (pktS b) 7) b = true ∧ lnat b 0 1 = 3
    ∧ (let p : Pkt := { idx := 0, uid := 100, bytes := b, async := true }
       let s := queueS (.nn 7 0) { queue7 with dptr := 1, pkts := [p] } { world with mem := hostCells 0x1000 [5] }
       let q := queueOf s 7
       q.pkts = [p] ∧ q.draining = none ∧ p.status = none ∧ copyTurn { s with focus := .idle } 7 = true
       ∧ (match copyLines q (lnat b 8 8) (lnat b 16 8) 8 (p.copied + 65536) 2050 { asAsker { s with focus := .idle } (askQueue 7 0) with copyLast := 7 } p.copied with
          | .done _ => decide (g = 0xFF) | .fault _ => decide (g = 0) | .part _ n => decide (g = 9) && n = 0) = true) := by
  set_option maxRecDepth 20000 in decide

theorem witness_PacketEnds :
    let p : Pkt := { idx := 0, uid := 100, bytes := nopB }
    let s := queueS (.n 7) { queue7 with dptr := 1, pkts := [p] }
    let q := queueOf s 7
    q.pkts = [p] ∧ p.async = false ∧ q.draining = none ∧ q.skip = 0 ∧ q.loopIdx = none ∧ q.state = .active ∧ q.rmirror = 0
    ∧ lnat p.bytes 56 8 = 0 ∧ q.errsig = 0 ∧ q.status = 0 := by decide

theorem witness_QueuesAge : (evS .none).focus = .event .none ∧ ({ queue7 with cls := 7 } : Queue).cls = 7 ∧ queue7.cls ≠ 7 := by decide

/-- All slots free; slots 0 to 62 claimed. -/
theorem witness_SchedulerPasses :
    (List.range 64).find? (fun k => (slotUser world k).isNone) = some 0 ∧ belowQuota world 0 = true
    ∧ (let s : State := { world with claims := (List.range 63).map (fun k => (k, k + 100)) }
       (List.range 64).find? (fun k => (slotUser s k).isNone) = some 63 ∧ belowQuota s 0 = true) := by
  set_option maxRecDepth 20000 in decide

theorem witness_SlotsChange :
    (let s := queueS (.n 7) { queue7 with slot := none }
     (queueOf s 7).slot = none)
    ∧ (let s := queueS (.n 7) queue7
       (queueOf s 7).slot = some 3 ∧ afind s.claims 3 = none)
    ∧ (let s := { queueS (.n 7) { queue7 with dptr := 1 } with claims := [(3, 8)] }
       (queueOf s 7).slot = some 3 ∧ afind s.claims 3 = some 8 ∧ (queueOf s 7).wptr ≤ (queueOf s 7).dptr)
    ∧ (let s := { queueS (.n 7) { queue7 with slot := none } with claims := [(3, 7)], pending := BitVec.twoPow 4096 7, slotQ := [] }
       s.claims = [(3, 7)] ∧ s.pending.getLsbD 7 = true ∧ (queueOf s 7).slot = none ∧ afind s.slotQ 3 = none ∧ (queueOf s 7).pkts = []) :=
  ⟨rfl, ⟨rfl, rfl⟩, ⟨rfl, rfl, by decide⟩, rfl, by simp, rfl, rfl, rfl⟩

/-- Launch 2 waits for tile 0 or tile 1; launch 1 runs on tile 0, or has ended and is to complete (R149). -/
def waitL (t : Nat) : Launch := { launch1 with handle := 2, phase := .waiting, tileset := [t] }

theorem witness_Placement :
    (let s : State := { evS .none with launches := [(1, { launch1 with phase := .ending })], focus := .idle }
     unfinished s = 1 :: [])
    ∧ (let s : State := { evS .none with launches := [(1, launch1), (2, waitL 1)], focus := .idle }
       unfinished s = [] ∧ s.ckpt = none ∧ placeable s [] (waitingOrder s) = some 2)
    ∧ (let s : State := { evS .none with launches := [(1, launch1), (2, waitL 0)], focus := .idle }
       unfinished s = [] ∧ placeable s [] (waitingOrder s) = none ∧ waitingOrder s = 2 :: [])
    ∧ (let s : State := { evS .none with focus := .idle }
       unfinished s = [] ∧ waitingOrder s = []) := by decide

theorem witness_PlaceableLaunches :
    let s : State := { evS .none with launches := [(1, launch1), (2, waitL 0), (3, waitL 1)] }
    placeable s [] [2, 3] = some 3 := by decide

/-- Classes that do not pre-empt, time left at and past DRAINMAX, each PCLASS, the save region with and without room. -/
theorem witness_PreemptionMethods :
    let n : Launch := { cls := 7 }
    let v (c : Nat) (e : BitVec 32) : Launch := { launch1 with cls := 6, pclass := c, estime := e }
    (v 3 0).pclass = 3 ∧ ({ cls := 6 } : Launch).cls ≤ (v 0 0).cls ∧ (v 0 0).cls < n.cls
    ∧ remaining (v 0 200) ≤ world.params.drainmax ∧ (∀ c ∈ [(0 : Nat), 1, 2], world.params.drainmax < remaining (v c 201))
    ∧ world.boot.saveUnits < unitsUsed world + imageUnits world (v 1 201)
    ∧ unitsUsed world + imageUnits world (v 1 201) ≤ ({ world.boot with saveUnits := 2000 } : Boot).saveUnits := by decide

theorem witness_LeaseEvents :
    (launchOf (evS (.n 1)) 1).phase ≠ .leasing
    ∧ (∀ x ∈ [([] : List (BitVec 52)), [0xFF00000100000]], ∀ s ∈ [world, mapped 0x200007, mapped (0xFF * 2 ^ 56 + 0x200007)],
      let s := evS (.n 1) tileN s { launch1 with phase := .leasing, toRaise := x, rtimeout := 1 }
      let s1 := modLaunch { s with focus := .idle } 1 (fun l => { l with toRaise := [] })
      (launchOf s 1).phase = .leasing ∧ (launchOf s 1).toRaise = x ∧ ((leaseAll 1 x s1).2 = false ∨ (launchOf (leaseAll 1 x s1).1 1).toRaise = [] ∨
        (launchOf (leaseAll 1 x s1).1 1).toRaise ≠ []))
    ∧ (∀ x ∈ [(world, true, 1), (mapped 0x200007, true, 0), (mapped (0xFF * 2 ^ 56 + 0x200007), false, 0)],
      let s1 := evS .none tileN x.1 { launch1 with phase := .leasing }
      (leaseAll 1 [0xFF00000100000] s1).2 = x.2.1 ∧ (launchOf (leaseAll 1 [0xFF00000100000] s1).1 1).toRaise.length = x.2.2)
    ∧ (∀ n ∈ [(999999 : Nat), 1000000],
      let s := evS (.n 1) tileN { world with time := n } { launch1 with phase := .leasing, rtimeout := 1 }
      ((launchOf s 1).leaseSince + (launchOf s 1).rtimeout * 1000000 ≤ s.time ↔ n = 1000000)) := by
  set_option maxRecDepth 20000 in decide

/-- Not valid; counts 0, 254 and 255. -/
theorem witness_LeaseCounts : ∀ w ∈ [(0x200006 : Nat), 0x200007, 254 * 2 ^ 56 + 0x200007, 255 * 2 ^ 56 + 0x200007],
    pteLoc (mapped w) 5 0x100000 = some (0x40001, 0x60001, physKey 0 0x60080) ∧ rdLE (mapped w).mem (physKey 0 0x60080) 8 = w
    ∧ (pteValid w = false ↔ w = 0x200006) ∧ pteLease w = w / 2 ^ 56 := by
  set_option maxRecDepth 20000 in decide

/-- 100 µs before a release, and 1 ns more; a release reached; a deadline reached. -/
theorem witness_PeriodicEvents :
    (∀ n ∈ [(100000 : Nat), 99999],
      let s := queueS (.n 7) { queue7 with period := 1000000, nextrel := 200000, slot := none } { world with time := n }
      let q := queueOf s 7
      q.period ≠ 0 ∧ q.dptr < q.wptr ∧ q.slot = none ∧ q.state = .active ∧ (q.nextrel ≤ s.time + 100000 ↔ n = 100000))
    ∧ (∀ n ∈ [(9 : Nat), 10, 29, 30],
      let s := evS (.n 1) tileN { world with time := n } { launch1 with periodic := true, release := 10, deadline := 20 }
      let l := launchOf s 1
      l.periodic = true ∧ (l.release ≤ s.time ↔ n ≠ 9) ∧ l.deadline ≠ 0 ∧ (l.release + l.deadline ≤ s.time ↔ n = 30) ∧ l.phase ≠ .done ∧ l.status = none)
    ∧ launch1.periodic = false ∧ queue7.period = 0 := by decide

/-! ### A launch that passes every check -/

/-- The LAUNCH packet for the record at the host's address 0x100. -/
def launchB : List Byte := pad64 [2, 0, 0, 0, 0, 0, 0, 0, 0x00, 0x01, 0, 0, 0, 0xFF, 0x0F, 0]

/-- An address of the host aperture below 64 KiB. -/
def hostPtr (a : Nat) : List Byte := bytesLE 2 a ++ [0, 0, 0, 0xFF, 0x0F, 0]

/-- A launch record of ASID `asid`, one context, PARTW of one unit each: tile set at 0x200, windows and channels at 0x300, image at 0x600. -/
def lrecB (asid : Byte) : List Byte :=
  [1, 0, 1, 0, asid, 0, 0, 0] ++ List.replicate 20 0 ++ [0x11, 8, 0, 0] ++ hostPtr 0x200 ++ hostPtr 0x300 ++ List.replicate 8 0 ++ hostPtr 0x300
  ++ List.replicate 64 0 ++ hostPtr 0x600

/-- One tile with one `sink` node that needs one final sink. -/
def imageB : List Byte :=
  [0x01, 0, 0x49, 0x47, 96, 0, 0, 0, 1, 0] ++ List.replicate 18 0 ++ [1, 0, 0, 0] ++ [64, 0, 0, 0] ++ List.replicate 8 0 ++ [205, 171, 244, 86] ++ List.replicate 16 0
  ++ [0, 0, 1, 0, 80, 0, 0, 0] ++ List.replicate 8 0 ++ [1, 0, 0, 0, 0, 0, 0, 0, 0, 0, 0x10, 0x15, 0, 0, 0, 0]

/-- The launch's bytes in host memory. -/
def launchCells (asid : Byte) : List Host.Cell := hostCells 0x100 (lrecB asid) ++ hostCells 0x200 [1] ++ hostCells 0x600 imageB

/-- What the validation of the LAUNCH packet comes to. -/
def launchOutcome (s : State) : Option (Nat × Chk × Bool) :=
  let u := { started s 7 launchB false with nextId := s.nextId + 2 }
  let q := queueOf u 7
  let h := s.nextId + 1
  let l0 : Launch :=
    { handle := h, lrec := BitVec.ofNat 52 (lnat launchB 8 8), qid := 7, func := if q.asid = 0 then 0 else q.func, cls := q.cls, asid := q.asid,
      dispatched := s.time }
  match memRead u q.asid (q.asid = 0) q.func l0.lrec.toNat 256 with
  | .ok s2 r => match loadAll (s2, false) q r with
    | ((s3, false), ld) =>
      let v := validate s3 q ld
      some (v.1, v.2, touchesFailed s3 (fillLaunch l0 ld)
        || !did (finishLaunch (setLaunch s3 h { l0 with reason := v.1, status := some 1, phase := .ending }) h))
    | _ => none
  | _ => none

theorem witness_LaunchPackets :
    readsAs (pktS launchB (.n 7) (launchCells 5)) launchB = true ∧ lnat launchB 0 1 = 2
    ∧ pktOk (settled (pktS launchB (.n 7) (launchCells 5)) 7) (queueOf (pktS launchB (.n 7) (launchCells 5)) 7) launchB = true := by
  set_option maxRecDepth 20000 in decide

/-- The launch of ASID 5 passes; one of ASID 6 fails check 2. -/
theorem witness_LaunchPackets_outcomes :
    launchOutcome (pktS launchB (.n 7) (launchCells 5)) = some (20, .pass, false)
    ∧ launchOutcome (pktS launchB (.n 7) (launchCells 6)) = some (2, .fail 0 0 0, false) := by
  decide +kernel

/-- A record in a page that is not mapped cannot be read; its launch ends. -/
theorem witness_LaunchPackets_unreadable :
    let b : List Byte := pad64 [2, 0, 0, 0, 0, 0, 0, 0, 0x00, 0x01, 0, 0, 0, 0xF0, 0x0F]
    let s := pktS b
    let u := { started s 7 b false with nextId := s.nextId + 2 }
    let h := s.nextId + 1
    let l0 : Launch := { handle := h, lrec := BitVec.ofNat 52 (lnat b 8 8), qid := 7, asid := 5, dispatched := s.time }
    readsAs s b = true ∧ pktOk (settled s 7) (queueOf s 7) b = true ∧ s.boot.memLocked = false
    ∧ (match memRead u 5 false 0 l0.lrec.toNat 256 with
       | .fault s2 _ _ => did (finishLaunch (setLaunch (runsAlone s2 7 (flying s 7 b false) h) h { l0 with status := some 9 }) h)
       | _ => false) = true := by
  set_option maxRecDepth 20000 in decide

/-! ### Plots, tiers, rotation -/

/-- Plot 0 has a command before it, and a message for the headland behind it. -/
def sentAll (m : List Msg) : List Sent := m.mapIdx (fun i x => { seq := BitVec.ofNat 8 i, msg := x })
def linkW (m e : List Msg) : Link :=
  { cmds := sentAll m, cmdPermits := 4 - m.length, cmdSeq := BitVec.ofNat 8 m.length,
    events := sentAll e, evPermits := 8 - e.length, evSeq := BitVec.ofNat 8 e.length }

def plotS (m : List Msg) (e : List Msg) (l : Launch := launch1) (s : State := world) (a : EvArgs := .n 0) : State :=
  { evS a tileN s l with links := [(0, linkW m e)] }

/-- The conditions of `LinkOk` as they are computed. -/
def linkOkB (k : Link) : Bool :=
  k.cmdPermits + k.cmds.length = 4 && k.evPermits + k.events.length = 8 && (k.cmdWait.isEmpty || k.cmdPermits = 0)
    && (k.evWait.isEmpty || k.evPermits = 0)
    && (k.cmds.mapIdx (fun i x => x.seq + BitVec.ofNat 8 (k.cmds.length - i))).all (· = k.cmdSeq)
    && (k.events.mapIdx (fun i x => x.seq + BitVec.ofNat 8 (k.events.length - i))).all (· = k.evSeq)

theorem linkOk_of {k : Link} (h : linkOkB k = true) : LinkOk k := by
  simp only [linkOkB, Bool.and_eq_true, Bool.or_eq_true, decide_eq_true_eq, List.isEmpty_iff, List.all_eq_true, List.mem_mapIdx] at h
  obtain ⟨⟨⟨⟨⟨h1, h2⟩, h3⟩, h4⟩, h5⟩, h6⟩ := h
  refine ⟨h1, h2, fun hn => h3.resolve_left hn, fun hn => h4.resolve_left hn, fun i x hx => ?_, fun i x hx => ?_⟩
  · obtain ⟨hi, rfl⟩ := List.getElem?_eq_some_iff.mp hx
    exact h5 _ ⟨i, hi, rfl⟩
  · obtain ⟨hi, rfl⟩ := List.getElem?_eq_some_iff.mp hx
    exact h6 _ ⟨i, hi, rfl⟩

/-- Links with a message each way, with every permit used, and with messages that wait. -/
theorem witness_LinkPermits :
    (∀ n ∈ [0, 1, 4], LinkOk (linkOf (plotS (List.replicate n (.go 1)) (List.replicate (2 * n) (.fault 1 {}))) 0))
    ∧ LinkOk { linkW (List.replicate 4 (.go 1)) (List.replicate 8 (.fault 1 {})) with cmdWait := [.kill 1], evWait := [.fault 2 {}] }
    ∧ CmdAt (plotS [.go 1] []) 0 (.go 1) ∧ EvAt (plotS [] [.fault 1 {}]) 0 (.fault 1 {}) := by
  refine ⟨fun n hn => linkOk_of (by revert n; decide), linkOk_of (by decide), ?_, ?_⟩
  · unfold CmdAt; decide
  · unfold EvAt; decide

/-- Messages of each kind, the last of a link's 256 sequence numbers among them. -/
theorem witness_PlotMessages :
    (∀ m ∈ [Msg.place 65537, .go 1, .save 1, .restore 1, .kill 1, .freeTiles 1, .fault 1 {}, .estimate 1 7, .sinks 1 [(0, 1)], .answer 1 .placed],
      ({ seq := 0xFF, msg := m } : Sent).msg = m)
    ∧ lnat ({ seq := 0xFF, msg := .place 65537 } : Sent).bytes 0 4 = 0x0001FF01 := by
  refine ⟨fun _ _ => rfl, by decide⟩

/-- A launch whose record stands in host memory. -/
def launchR : Launch := { launch1 with lrec := 0xFFF0000000100, phase := .placing }

def hostUp (m : List Host.Cell) : State := { world with boot := { world.boot with puverUp := true }, mem := m }

/-- PLACE to a launch's first plot, to its second, and for a launch that has ended. -/
theorem witness_PlaceCommands : ∀ x ∈ [(LPhase.placing, [0]), (.placing, [32 * 4, 0]), (.freeing, [0])],
    let s := plotS [.place 1] [] { launch1 with phase := x.1, tileset := x.2 }
    CmdAt s 0 (.place 1) ∧ ((launchOf (cmdTaken s 0) 1).phase = .placing ↔ x.1 = .placing)
    ∧ ((plotsOf (launchOf (cmdTaken s 0) 1)).head? = some 0 ↔ x.2 = [0]) := by
  unfold CmdAt; decide

theorem witness_PlacementAnswers :
    (∀ a ∈ [PlotAns.placed, .rejected 5 0 0 0, .accessFault 1], ∀ p ∈ [LPhase.placing, .running],
      let s := plotS [] [.answer 1 a] { launch1 with phase := p, tileset := [0, 32 * 4] }
      let s1 := evTaken s 0
      let s2 := modLaunch s1 1 (fun l => { l with answers := aput l.answers 0 a })
      EvAt s 0 (.answer 1 a) ∧ ((launchOf s1 1).phase = .placing ↔ p = .placing)
      ∧ (∃ p' ∈ plotsOf (launchOf s 1), afind (launchOf s2 1).answers p' = none))
    ∧ (∀ a ∈ [PlotAns.placed, .rejected 5 0 0 0, .accessFault 1],
      let s := plotS [] [.answer 1 a] { launch1 with phase := .placing }
      (allAnswers (launchOf (modLaunch (evTaken s 0) 1 (fun l => { l with answers := aput l.answers 0 a })) 1)) = some [a])
    ∧ placeFail [.placed] = none ∧ placeFail [.placed, .rejected 5 1 2 3] = some (5, false, 1, 2, 3) ∧ placeFail [.accessFault 1] = some (1, true, 0, 0, 0) := by
  unfold EvAt; decide

theorem witness_EarliestFailures : placeFail [.rejected 6 0 0 0, .rejected 5 1 2 3, .accessFault 5] ≠ none ∧ placeFail [] = none := by decide

/-- A GO still to come to another plot; a launch not running; a first GO; a GO after a restore. -/
theorem witness_GoCommands :
    CmdAt (plotS [.go 1] []) 0 (.go 1)
    ∧ (let s := { plotS [.go 1] [] with links := [(0, linkW [.go 1] []), (1, linkW [.go 1] [])] }
       goElsewhere (discardNear (cmdTaken s 0) 0) 1 = true)
    ∧ (let s1 := discardNear (cmdTaken (plotS [.go 1] [] { launch1 with phase := .killing }) 0) 0
       (launchOf s1 1).phase ≠ .running)
    ∧ (∀ x ∈ [none, some ({} : SaveImage)],
       let s1 := discardNear (cmdTaken (plotS [.go 1] [] { launch1 with save := x }) 0) 0
       goElsewhere s1 1 = false ∧ (launchOf s1 1).phase = .running ∧ (launchOf s1 1).save = x) := by
  unfold CmdAt; decide

theorem witness_KillAndFreeCommands : CmdAt (plotS [.kill 1] []) 0 (.kill 1) ∧ CmdAt (plotS [.freeTiles 1] []) 0 (.freeTiles 1)
    ∧ (plotS [.kill 1] []).focus = .event (.n 0) := by
  unfold CmdAt; decide

/-- Launches killed, freed and running, on one plot and on two. -/
theorem witness_FreedAnswers : ∀ ph ∈ [LPhase.killing, .freeing, .running], ∀ ts ∈ [[0], [0, 32 * 4]],
    let s := plotS [] [.answer 1 .freed] { launch1 with phase := ph, tileset := ts }
    let s2 := modLaunch (evTaken s 0) 1 (fun l => { l with answers := aput l.answers 0 .freed })
    EvAt s 0 (.answer 1 .freed) ∧ ((launchOf s 1).phase = .killing ∨ (launchOf s 1).phase = .freeing ↔ ph ≠ .running)
    ∧ ((∃ p' ∈ plotsOf (launchOf s 1), afind (launchOf s2 1).answers p' ≠ some .freed) ↔ ts ≠ [0])
    ∧ ((∀ p' ∈ plotsOf (launchOf s 1), afind (launchOf s2 1).answers p' = some .freed) ↔ ts = [0]) := by
  unfold EvAt; decide

/-- A tile at rest and one at work; a launch that is over. -/
theorem witness_SaveCommands :
    CmdAt (plotS [.save 1] []) 0 (.save 1)
    ∧ (∀ n ∈ [(0 : Nat), 1], let l := { launch1 with phase := .saving, save := some {} }
        let s : State := { plotS [.save 1] [] l with tiles := [(0, { tileN with launch := 1, slots := if n = 0 then tileN.slots else tileN.slots.set 0 { phase := .running } })] }
        let s1 := cmdTaken s 0
        (launchOf s1 1).closing = false ∧ (launchOf s1 1).phase = .saving ∧ (saveReady s1 0 1 = true ↔ n = 0))
    ∧ (launchOf (cmdTaken (plotS [.save 1] [] { launch1 with closing := true }) 0) 1).closing = true := by
  unfold CmdAt; decide

/-- The launch of `launchCells` saved in the boot given, with its image at an IA. -/
def savedX (boots : BitVec 32) : SaveImage := { boots := boots, checks := [0x56F4ABCD] }
def savedL (boots : BitVec 32) (ia : BitVec 52) : Launch :=
  { launch1 with phase := .restoring, save := some (savedX boots), images := [{ ia := ia }] }

def reread (s : State) (l : Launch) : Option Bool :=
  match rereadImages l (l.images.zip [0x56F4ABCD]) (asAsker s (askLaunch 1)) with
  | .images _ _ => some true
  | .lost _ => some false
  | .wait _ => none

/-- Images as they were, changed, and in another package. -/
theorem witness_RestoreCommands :
    CmdAt (plotS [.restore 1] [] (savedL 1 0)) 0 (.restore 1) ∧ (launchOf (plotS [.restore 1] [] (savedL 1 0)) 1).save = some (savedX 1)
    ∧ reread (hostUp (launchCells 5)) (savedL 1 0xFFF0000000600) = some true ∧ reread (hostUp []) (savedL 1 0xFFF0000000600) = some false
    ∧ reread (hostUp []) (savedL 1 0x0900000000600) = none := by
  unfold CmdAt; decide +kernel

/-- An image as the device wrote it bears its tags. -/
theorem sound_sealed (key : BitVec 512) (l : Launch) (x : SaveImage) : imageSound key l (sealImage x) = true := by
  rw [imageSound, List.all_eq_true]
  intro i _
  rfl

/-- The fields at the head of a unit are read as they were written. -/
theorem head_of (p r : List Byte) (o n : Nat) (h : p.length ≤ 4096) (ho : o + n ≤ p.length) :
    lnat (padTo (p ++ r) 4096) o n = lnat p o n := by
  have h1 : padTo (p ++ r) 4096 = p ++ (r.take (4096 - p.length) ++ List.replicate (4096 - (p ++ r).length) 0) := by
    rw [padTo, List.take_append, List.take_of_length_le h, List.append_assoc]
  rw [h1, lnat, lnat, List.drop_append_of_le_length (by omega), List.take_append_of_le_length (by simp; omega)]

/-- An image as the device wrote it is read back as it was; the same launch of another boot is not. -/
theorem witness_RestoreCommands_image (key : BitVec 512) :
    let x := sealImage (savedX 1)
    imageSound key { savedL 1 0 with save := some x } x = true ∧ imageHeadOk 1 { savedL 1 0 with save := some x } x = true
    ∧ imageHeadOk 2 { savedL 1 0 with save := some x } x = false ∧ x.badUnits = [] ∧ x.patches = [] := by
  intro x
  let p : List Byte := bytesLE 4 saveMagic ++ bytesLE 4 (imageLen (savedL 1 0) (savedX 1)) ++ bytesLE 2 (1 % 65536) ++ bytesLE 1 1 ++ [0]
    ++ bytesLE 4 1 ++ bytesLE 8 0 ++ bytesLE 4 1
  have hp : p.length = 28 := rfl
  have hu : ∃ r, imageUnit { savedL 1 0 with save := some x } x 0 = padTo (p ++ r) 4096 := 
    ⟨bytesLE 4 0 ++ (bytesLE 8 0 ++ (bytesLE 4 0 ++ (bytesLE 4 (inqUnit (savedL 1 0) (savedX 1)) ++ bytesLE 4 0x56F4ABCD))), rfl⟩
  obtain ⟨r, hu⟩ := hu
  refine ⟨sound_sealed .., ?_, ?_, rfl, rfl⟩ <;>
    (rw [imageHeadOk, hu]; simp only [head_of p r 0 4 (by omega) (by omega), head_of p r 8 2 (by omega) (by omega), head_of p r 24 4 (by omega) (by omega)]; rfl)

theorem witness_SaveAnswers : ∀ a ∈ [PlotAns.saved, .lost, .restored], ∀ ph ∈ [LPhase.saving, .restoring, .running], ∀ ts ∈ [[0], [0, 32 * 4]],
    let s := plotS [] [.answer 1 a] { launch1 with phase := ph, tileset := ts }
    let s2 := modLaunch (evTaken s 0) 1 (fun l => { l with answers := aput l.answers 0 a })
    EvAt s 0 (.answer 1 a) ∧ (launchOf s 1).phase = ph
    ∧ ((∀ p' ∈ plotsOf (launchOf s 1), (afind (launchOf s2 1).answers p').isSome = true) ↔ ts = [0]) := by
  unfold EvAt; decide

theorem witness_FaultMessages : EvAt (plotS [] [.fault 1 { code := 0x06 }]) 0 (.fault 1 { code := 0x06 })
    ∧ EvAt (plotS [] [.fault 1 {}]) 0 (.fault 1 {}) := by
  unfold EvAt; decide

/-- A drain that becomes a save, at DRAINMAX and past it; a plot without messages. -/
def drainS (v : BitVec 32) : State :=
  plotS [] [.estimate 1 v] { launch1 with phase := .draining, drainAsk := true } { world with boot := { world.boot with saveUnits := 5000 } }
def drainS1 (v : BitVec 32) : State := modLaunch (evTaken (drainS v) 0) 1 (fun l => { l with est := aput l.est 0 v })

theorem witness_EstimateMessages :
    (∀ v, EvAt (drainS v) 0 (.estimate 1 v) ∧ (launchOf (drainS1 v) 1).phase = .draining ∧ (launchOf (drainS1 v) 1).drainAsk = true
      ∧ (launchOf (drainS1 v) 1).closing = false ∧ (launchOf (drainS1 v) 1).pclass ≤ 1 ∧ (drainS v).params.drainmax = 200)
    ∧ unitsUsed (drainS1 201) + imageUnits (drainS1 201) (launchOf (drainS1 201) 1) ≤ (drainS 201).boot.saveUnits
    ∧ remaining (launchOf (drainS1 200) 1) = 200 ∧ remaining (launchOf (drainS1 201) 1) = 201
    ∧ (linkOf (plotS [] []) 0).events = [] ∧ plotsOf launch1 ≠ [] := by
  refine ⟨fun v => ⟨rfl, rfl, rfl, rfl, Nat.zero_le _, rfl⟩, ?_, ?_, ?_, ?_, ?_⟩ <;> decide

/-- One plot of two has reported; both have, with enough sinks at the last barrier and before it. -/
theorem witness_SinkReports :
    let s (ts : List Nat) (cl : Bool) := plotS [] [.sinks 1 [(0, 1)]] { launch1 with tileset := ts, closing := cl }
    let s1 (ts : List Nat) (cl : Bool) := modLaunch (evTaken (s ts cl) 0) 1 (fun l => { l with sinkAns := aput l.sinkAns 0 (aget l.sinkAns 0 [] ++ [(0, 1)]) })
    EvAt (s [0] true) 0 (.sinks 1 [(0, 1)])
    ∧ (∃ q ∈ plotsOf (launchOf (s1 [0, 32 * 4] true) 1), aget (launchOf (s1 [0, 32 * 4] true) 1).sinkAns q [] = [])
    ∧ (∀ cl ∈ [true, false],
        let l := launchOf (s1 [0] cl) 1
        (∀ q ∈ plotsOf l, aget l.sinkAns q [] ≠ []) ∧ l.status = none ∧ (l.closing = true ↔ cl = true)
        ∧ ∀ c < min l.images.length 8, (l.images.getD c {}).sinks ≤ aget ([(0, 1)].foldl (fun m x => amod m x.1 0 (· + x.2)) l.sinkTotals) c 0) := by
  unfold EvAt; decide

/-- A plot found stuck 1 ns early and at 10 ms, one whose watchdog expires, one reloading; a plot that is none. -/
theorem witness_PlotFailures :
    (∀ n ∈ [(9999999 : Nat), 10000000],
      let s : State := { plotS [.go 1] [] with time := n }
      0 < 80 ∧ 0 ∉ s.boot.plotFail ∧ afind s.boot.reloads 0 = none ∧ (linkOf s 0).cmds ≠ [] ∧ (10000000 ≤ Passed s (linkOf s 0).stuckSince ↔ n = 10000000)
      ∧ (let u : State := { s with boot := { s.boot with reloads := [(0, 0)] } }
         afind u.boot.reloads 0 = some 0 ∧ (afind u.boot.reloads 0).isSome = true ∧ (10000000 ≤ Passed u 0 ↔ n = 10000000)))
    ∧ (evS (.cpu 128 ⟨0, 0, 0, 0, 0, []⟩)).focus = .event (.cpu 128 ⟨0, 0, 0, 0, 0, []⟩) ∧ ¬ 208 - 128 < 80 := by
  refine ⟨?_, rfl, by decide⟩
  decide

theorem witness_CrashEntries : 255 < 256 ∧ ({ pc := 0, mcause := 0, mtval := 0, data := List.replicate 76 1 } : CpuRegs).data.length ≤ 76
    ∧ ({ world with time := 2 ^ 64 - 1 } : State).time < 2 ^ 64 := by decide

/-- A tier with writes held for a request, a recode and a device; one told, one due, one not yet due. -/
def heldS (who : HeldBy) (told : Bool) (ex : Bool) (n : Nat) : State :=
  let r : Req := { id := 9, tile := 0, ctx := 0, party := .firing 7, pnum := 7, addr := { ia := 0xFF00000100000, asid := 5 }, op := .store [1] }
  { evS (.n 0) tileN { world with time := n } with
    reqs := [r], recodes := [{ id := 9, asid := 5, ia := 0xFF00000100000, kind := 1, fmt := 0, expp := 0 }],
    tiers := [(0, { exhausted := ex, held := [{ who := who, since := 0, asid := 5, ia := 0xFF00000100000, k := 1, told := told }] })] }

theorem witness_HeldWrites :
    (tierOf (evS (.n 0)) 0).held = []
    ∧ (∀ who ∈ [HeldBy.req 9, .recode 9, .dev 5 0], ∀ told ∈ [true, false], ∀ ex ∈ [true, false], ∀ n ∈ [(999999 : Nat), 1000000],
      let s := heldS who told ex n
      let due (x : HeldWrite) : Bool := !x.told && decide (1000000 ≤ Passed s x.since)
      (tierOf s 0).held.head?.map (·.who) = some who ∧ (s.reqs.find? (fun r => r.id = 9)).isSome = true ∧ (s.recodes.find? (fun c => c.id = 9)).isSome = true
      ∧ ((tierOf s 0).held.any due = true ↔ told = false ∧ n = 1000000) ∧ ((tierOf s 0).exhausted = true ↔ ex = true)
      ∧ ((tierOf s 0).held.any (·.told) = true ↔ told = true)) := by decide

/-- A tier with its LOW mark above its free chunks; a record with a chunk to spare. -/
def lowS (free : List Nat) (rec : PageRec) (a : EvArgs := .n 0) : State :=
  setRec { evS a tileN (mapped 0x5000F) with
    tiers := [(0, { cfg := 0x0014001000000020, free := free, area := 8, physical := 40, used := [(tcKey 5 0x100000, 5)] }), (1, { cfg := 0x0014001000000020 })] } 0 5 rec

def spareRec : PageRec := { ktag := 1, chunks := [3] }

theorem witness_Compaction :
    (∀ f ∈ [[], List.range 4096], ∀ r ∈ [spareRec, { spareRec with chunks := [] }],
      let s := lowS f r
      (f = [] → balloons s 0 = true) ∧ liveRecords s 0 = [] ++ 5 :: [] ∧ (spare s 0 5 ↔ r = spareRec) ∧ Memory.wf s.mem = true)
    ∧ balloons world 0 = false ∧ ([1, 2] : List Nat).Pairwise (· < ·) := by
  unfold spareRec spare; decide +kernel

/-- The coldest page of tier 0 is that of ASID 5; tier 1 has space or is off. -/
def demS (cfg : Word) : State :=
  { lowS [] { ktag := 1 } with
    tiers := [(0, { cfg := 0x0014001000000020, area := 8, used := [(tcKey 5 0x100000, 5)] }),
              (1, { cfg := cfg, area := 8, free := List.range 64 })] }

theorem witness_Demotion :
    ((balloons (demS 0) 0 = true ∧ balloons (demS 0x0014001000000020) 0 = true)
    ∧ (coldest (demotable { demS 0 with focus := .idle } 0) = some (tcKey 5 0x100000)
      ∧ coldest (demotable { demS 0x0014001000000020 with focus := .idle } 0) = some (tcKey 5 0x100000)))
    ∧ (tierOn (demS 0) 1 = false ∧ tierOn (demS 0x0014001000000020) 1 = true)
    ∧ (∀ i ∈ liveRecords (demS 0) 0, ¬ spare (demS 0) 0 i)
    ∧ spareRecord (demS 0x0014001000000020) 1 = none
    ∧ (let d (cfg : Word) (free : List Nat) : Nat :=
         match movePage { mapped 0x200007 with tiers := [(0, { cfg := 0x0014001000000020, area := 8 }), (1, { cfg := cfg, area := 8, free := free })] }
           5 0xFF00000100000 1 with | .to _ => 0 | .no => 1 | .space _ => 2
       d 0x0014001000000020 (List.range 64) = 0 ∧ d 0 [] = 1 ∧ d 0x0014001000000020 [] = 2)
    ∧ leaving (demS 0) 0 = false
    ∧ leaving { demS 0 with shoots := [{ id := 1, asid := 5, ia := 0, pages := 1, waits := [], moved := [0x5000F] }] } 0 = true := by
  unfold spare; refine ⟨⟨?_, ?_⟩, ?_, ?_, ?_, ⟨?_, ?_, ?_⟩, ?_, ?_⟩ <;> decide +kernel

/-- A page accessed and one not, at AGE 0 and 255. -/
theorem witness_AgeScans : ∀ w ∈ [(0x5000F : Nat), 0x5040F], ∀ a ∈ [(0 : BitVec 8), 255],
    let s := setRec { mapped w with tiers := [(0, { area := 8, used := [(tcKey 5 0x100000, 5)] })] } 0 5 { ktag := 1, age := a }
    5 < 2 ^ 32 ∧ pteOf s (pageOfKey (tcKey 5 0x100000)).1 (pageOfKey (tcKey 5 0x100000)).2 = some (physKey 0 0x60080, w)
    ∧ (bit w 10 = true ↔ w = 0x5040F) ∧ (recOf s 0 5).age = a ∧ recKey s 0 5 + 256 ≤ physKey 0 0x60080 := by
  decide +kernel

/-- A shootdown with a request it waits for, and with none; replies, recodes and neither. -/
theorem witness_Shootdowns :
    (∀ w ∈ [[9], []], ∀ r ∈ [none, some (2, (7 : Word))], ∀ c ∈ [none, some 9],
      let s := { heldS (.req 9) false false 0 with focus := .event (.n 4), shoots := [{ id := 4, asid := 5, ia := 0xFF00000100000, pages := 1, waits := w, reply := r, recode := c }] }
      (s.shoots.find? (fun x => x.id = 4)).isSome = true ∧ ((∃ r ∈ s.reqs, r.id ∈ w) ↔ w = [9]) ∧ ((∀ r ∈ s.reqs, r.id ∉ w) ↔ w = []))
    ∧ (∀ x ∈ world.shoots, x.id ≠ 4) := by decide

/-- A recode asked for, none asked for, and a kind word that is none; places in the pool for each kind of page. -/
theorem witness_Recodes :
    (let s := { heldS (.req 9) false false 0 with focus := .event (.recode 5 0xFF00000100000 1) }
     (s.recodes.find? (fun c => c.asid = 5 && c.ia = 0xFF00000100000 && c.kind = (1 : Word).extractLsb' 0 3 && c.old.isNone
       && !s.shoots.any (fun x => x.recode = some c.id))).isSome = true)
    ∧ kindWordOk 0 = true ∧ (0xFF00000100000 : BitVec 52).toNat % 65536 = 0 ∧ isHostIA 0xFF00000100000 = false ∧ pkgIsLocal world (iaPkg 0xFF00000100000) = true
    ∧ (∃ kw : Word, kindWordOk kw = false) ∧ 3 < 4 ∧ 7 < 8 :=
  ⟨by decide, by decide, by decide, by decide, by decide, ⟨0x8, by decide⟩, by decide, by decide⟩

theorem witness_Recodes_places :
    let s := modTier (mapped 0) 0 (fun t => { t with free := List.range 64 })
    let bs := List.replicate 65536 (0 : Byte)
    bs.length = 65536 ∧ (∃ a s', takePlace s 0 0 0 0 0 bs = .at_ a s' ∧ a < 2 ^ 32) := by
  refine ⟨List.length_replicate, 0, _, rfl, by decide⟩

theorem witness_HeatUpdates : polRot { pol := 16 } = true ∧ polRot {} = false := by decide

/-- A hot paged entry on tier 1 and a cold one on tier 0. -/
theorem witness_RotationPasses :
    (let e : DirEntry := { state := 2, pol := 16, heat := 5, wbytes := 128, waddr := 0x10000 }
     let s (pte promote demote : Nat) : State := { evS .none tileN { mapped pte with params := { promote := promote, demote := demote } } { launch1 with dir := [e] } with focus := .idle }
     (tierMoves (s 0x200047 5 5)).moves = [{ handle := 1, expert := 0, up := true, asid := 5, pages := [0xFF00000100000] }]
     ∧ (tierMoves (s 0x200007 6 6)).moves = [{ handle := 1, expert := 0, up := false, asid := 5, pages := [0xFF00000100000] }])
    ∧ ({ launch1 with det := true } : Launch).det = true ∧ (evS .none).focus = .event .none := by
  refine ⟨?_, rfl, rfl⟩
  decide +kernel

/-- A move of a page that a request stands on, and of one that none does. -/
theorem witness_TierMoves :
    (∀ p ∈ [none, some [(1 : Word)]],
      let r : Req := { id := 9, tile := 0, ctx := 0, party := .firing 7, pnum := 7, addr := { ia := 0xFF00000100000, asid := 5 }, op := .store [1], pte := p }
      let m : PageMove := { handle := 1, expert := 2, up := false, asid := 5, pages := [0x100000] }
      let s := { evS (.nn 1 2) tileN (mapped 0x200007) with moves := [m], reqs := [r] }
      s.moves.find? (fun m => m.handle = 1 && m.expert = 2) = some m
      ∧ ((m.pages.foldl (fun a ia => a.bind (fun s => moveOne m s ia)) (some { s with focus := .idle })).isNone = true ↔ p ≠ none))
    ∧ (∀ m ∈ world.moves, ¬ (m.handle = 1 ∧ m.expert = 2)) := by
  set_option maxRecDepth 20000 in decide

/-- Windows of S at TARGET + TARGET/16 and one more, at TARGET − TARGET/16 and one less; each kind of value. -/
theorem witness_ThresholdAdjusts :
    (∀ sv, let s := evS (.n 0) { tileN with adaptDue := [sv], thctl := 0x100000 }
      (tileOf s 0).adaptDue = sv :: [] ∧ (tileOf s 0).thctl = 0x100000)
    ∧ ((0x100000 : Word).extractLsb' 16 12).toNat = 16 ∧ (16 + 16 / 16 < 18 ∧ ¬ 16 + 16 / 16 < 17) ∧ (14 < 16 - 16 / 16 ∧ ¬ 15 < 16 - 16 / 16)
    ∧ ((0x3F800000 : BitVec 32).extractLsb' 0 31 ≠ 0 ∧ (0x3F800000 : BitVec 32).extractLsb' 23 8 ≠ 0xFF)
    ∧ (0x80000000 : BitVec 32).extractLsb' 0 31 = 0 ∧ (0x7F800000 : BitVec 32).extractLsb' 23 8 = 0xFF :=
  ⟨fun _ => ⟨rfl, rfl⟩, by decide, by decide, by decide, by decide, by decide, by decide⟩

/-- Tiles 0 and 1 on one physical tile, either running; the one that runs idle, or busy before and at 65,536 MAT cycles. -/
def sharedRow : List (BitVec 16) := [0x205, 0x205] ++ (List.range 318).map (fun i => BitVec.ofNat 16 (i + 2))

theorem witness_TileSwitches :
    (∀ t ∈ [(0 : Nat), 1], ∀ ph ∈ [SlotPhase.free, .running],
      let s : State := { evS (.n t) with boot := { world.boot with remap := sharedRow :: List.replicate 3 (List.replicate 320 0) },
                                         tiles := [(0, { tileN with slots := tileN.slots.set 0 { phase := ph } }), (1, { tileN with parked := true })] }
      let s0 : State := { s with focus := .idle }
      pairOf s 0 = some 1 ∧ pairOf s 1 = some 0 ∧ (tileOf s 0).parked = false ∧ (tileOf s 1).parked = true
      ∧ (tileIdle s0 0 = true ↔ ph = .free))
    ∧ pairOf world 0 = none := by
  set_option maxRecDepth 20000 in decide

/-! ### Control pages, mailbox, bring-up, resets, checkpoints -/

/-- Function 0 physical, function 2 its virtual function. -/
def fnS (x : Fn) (a : EvArgs) (s : State := world) : State :=
  { s with focus := .event a, fns := [(0, x), (2, { vf := true, parent := 0 })] }

/-- The module past bring-up with its Puver link up. -/
def linked (s : State := world) : State := { s with boot := { s.boot with puverUp := true } }

/-- Offsets of registers that are read, that are written, and of none; accesses that touch a register without being one. -/
theorem witness_ControlPageWrites :
    (∀ off ∈ [(0 : Nat), 0x038, 0x300, 0x3F8, 0x400], off % 8 = 0 ∧ (off ≤ 0x038 ∨ (0x300 ≤ off ∧ off ≤ 0x3F8) ∨ off = 0x400))
    ∧ (∀ off ∈ [(0x040 : Nat), 0x100, 0x1F8, 0x200], off % 8 = 0 ∧ (off = 0x040 ∨ (0x100 ≤ off ∧ off ≤ 0x1F8) ∨ off = 0x200) ∧ regAt off 8 = some off)
    ∧ regAt 0x048 8 = none ∧ regAt 0x044 4 = some 0x040 ∧ regAt 0x1F8 4 = some 0x1F8 ∧ regAt 8 8 = some 8 ∧ regAt 0x010 8 = some 0x010
    ∧ (let s := fnS { rspseq := 6 } (.regWrite 0 0x200 8 7) linked
       s.focus = .event (.regWrite 0 0x200 8 7) ∧ s.boot.puverUp = true ∧ s.boot.stage = .ready ∧ (fnOf s 0).inflight = none
         ∧ (7 : Word) = (fnOf s 0).rspseq + 1)
    ∧ (let s := fnS { rspseq := 6, inflight := some 7 } (.regWrite 0 0x200 8 7)
       s.boot.puverUp = false ∧ (fnOf s 0).inflight ≠ none)
    ∧ State.reset.boot.stage ≠ .ready ∧ 63 < 64 := by decide

/-- Registers whole and in part, on the control page and past them, before READY and after. -/
theorem witness_RegisterReads :
    (linked.boot.puverUp = true ∧ linked.boot.stage = .ready ∧ State.reset.boot.stage ≠ .ready)
    ∧ regAt 0x048 8 = none ∧ regAt 0x408 8 = none ∧ (∀ off ∈ [(0 : Nat), 8, 0x040, 0x1F8, 0x200, 0x400], regAt off 8 = some off)
    ∧ (regAt 4 4 = some 0 ∧ (4 : Nat) ≠ 8 ∧ (4 : Nat) ≠ 0) ∧ (∀ f ∈ [(0 : Nat), 1, 2, 32, 33, 63], f < 64) := by decide

/-- An event with a ring and room for it; with none of the three; with none waiting. -/
theorem witness_EventRings :
    (∀ x p, (fnS x (.n 0) p).focus = .event (.n 0) ∧ fnOf (fnS x (.n 0) p) 0 = x ∧ (fnS x (.n 0) p).boot = p.boot)
    ∧ (let x : Fn := { evbase := 4096, evsize := 4, evhead := 8, evtail := 5, waiting := [[1]] }
       x.waiting = [1] :: [] ∧ x.evbase ≠ 0 ∧ x.evhead < x.evtail + x.evsize)
    ∧ ({ world.boot with puverUp := true } : Boot).puverUp = true ∧ world.boot.puverUp = false
    ∧ (¬ 9 < 5 + 4) ∧ ({} : Fn).evbase = 0 ∧ ({} : Fn).waiting = [] :=
  ⟨fun _ _ => ⟨rfl, rfl, rfl⟩, by decide, rfl, rfl, by decide, rfl, rfl⟩

/-- What a read or a write through BAR2 finds: done, a fault, or held. -/
def readEnds (s : State) (ia : Nat) : Option Bool :=
  match memRead (asAsker { s with focus := .idle } (askBar2 0)) 5 false 0 ia 8 with | .ok _ _ => some true | .fault _ _ _ => some false | _ => none
def writeEnds (s : State) (ia : Nat) : Option (Option Bool) :=
  match memWrite (asAsker { s with focus := .idle } (askBar2 0)) 5 false 0 ia [1] with
  | .ok _ _ => some (some true) | .fault _ _ _ => some (some false) | .held _ _ _ => some none | _ => none

/-- BAR2 on and off, at its last byte and past it; pages mapped, unmapped and with no chunk left. -/
theorem witness_Bar2Accesses :
    (let s := fnS { b2ctl := 0xFF00000000051 } (.bar2 0 0x100000 (.read 8)) (linked (mapped 0x200007))
     let c := (fnOf s 0).b2ctl.toNat
     s.boot.stage = .ready ∧ s.boot.puverUp = true ∧ (fnOf s 0).bar2 = [] ∧ bit c 0 = true ∧ bits c 51 36 * 2 ^ 36 = 0xFF000000000000 / 16 ∧ bits c 15 4 = 5)
    ∧ 2 ^ 36 - 1 < 2 ^ 36 ∧ bit 0x50 0 = false
    ∧ readEnds (mapped 0x200007) 0xFF00000100000 = some true ∧ readEnds world 0xFF00000100000 = some false
    ∧ writeEnds (mapped 0x200007) 0xFF00000100000 = some (some true) ∧ writeEnds world 0xFF00000100000 = some (some false)
    ∧ writeEnds (modTier (grown [] id) 0 (fun t => { t with free := [] })) 0xFF00000100000 = some none := by
  set_option maxRecDepth 20000 in decide

theorem witness_Replies : linked.boot.puverUp = true ∧ 12 < 2 ^ 32 ∧ (List.replicate 240 (1 : Byte)).length ≤ 240 :=
  ⟨rfl, by decide, List.length_replicate.le⟩

/-- A message of a request. -/
def pad256 (b : List Byte) : List Byte := b ++ List.replicate (256 - b.length) 0

/-- Message `b` is in flight as request 7 of function 0, or of its virtual function 2. -/
def mailS (b : List Byte) (s : State := world) (f : Nat := 0) : State :=
  { s with focus := .event (.mailbox f 7), boot := { s.boot with puverUp := true },
           fns := [(0, { inflight := some 7, req := pad256 b }), (2, { vf := true, parent := 0, inflight := some 7, req := pad256 b })] }

/-- The message `b` has this code and no byte that its request does not name. -/
def wellAsked (b : List Byte) (code : Nat) : Bool := lnat (pad256 b) 0 2 = code && reqNamed (pad256 b) (reqFields code)

theorem asked_mailS {b : List Byte} {code : Nat} (h : wellAsked b code = true) (s : State) (hs : s.boot.stage = .ready) : Asked (mailS b s) 0 7 code (pad256 b) := by
  simp only [wellAsked, Bool.and_eq_true, decide_eq_true_eq] at h
  exact ⟨rfl, hs, rfl, rfl, rfl, h.1, h.2⟩

theorem witness_MalformedRequests :
    (∀ r ∈ requests, reqNamed (pad256 [BitVec.ofNat 8 r.2, 0, 1]) (reqFields r.2) = false ∧ lnat (pad256 [BitVec.ofNat 8 r.2, 0, 1]) 0 2 = r.2
      ∧ wellAsked [BitVec.ofNat 8 r.2] r.2 = true)
    ∧ (∀ c ∈ [(0 : Byte), 13], lnat (pad256 [c]) 0 2 = 0 ∨ 12 < lnat (pad256 [c]) 0 2)
    ∧ (fnOf (mailS [1]) 0).inflight = some 7 ∧ (mailS [1]).boot.stage = .ready ∧ (mailS [1]).boot.puverUp = true ∧ (fnOf (mailS [1]) 5).inflight ≠ some 7 := by
  set_option maxRecDepth 20000 in decide

/-- ASID 5 belongs to function 0, ASID 6 to function 2, ASID 7 to function 1; queue 9 belongs to function 1. -/
def ownS : State := { world with asidOwner := [(5, 0), (6, 2), (7, 1)], qidOwner := [(9, 1)], tablePool := [0x80000] }

/-- QUEUE_CREATE of queue `q` under ASID `a` with the ring at 0x1000 and LOGSZ `z`. -/
def createB (q : Byte) (a : Byte) (z : Byte) : List Byte :=
  [1, 0, 0, 0, 0, 0, 0, 0, q, 0, 0, 0, 0, 0, 0, 0, 0, 0x10, 0, 0, 0, 0, 0, 0, z, 6, 3, 0, a, 0]

set_option maxRecDepth 20000 in
theorem witness_QueueCreates :
    (∀ q z, Asked (mailS (createB q 5 z) ownS) 0 7 1 (pad256 (createB q 5 z)) ↔ wellAsked (createB q 5 z) 1 = true)
    ∧ (∀ b ∈ [createB 7 5 4, createB 7 5 16, createB 7 5 3, createB 7 5 17, createB 7 6 4, createB 9 5 4, createB 7 0 4], wellAsked b 1 = true
        ∧ lnat (pad256 b) 16 8 = 4096 ∧ lnat (pad256 b) 25 1 ≤ 6 ∧ lnat (pad256 b) 26 1 < 4 ∧ lnat (pad256 b) 32 8 = 0 ∧ lnat (pad256 b) 40 8 = 0)
    ∧ lnat (pad256 (createB 7 5 3)) 24 1 < 4 ∧ lnat (pad256 (createB 7 5 4)) 24 1 = 4 ∧ lnat (pad256 (createB 7 5 16)) 24 1 = 16
    ∧ (let s := mailS [] ownS
       ownsQid s 0 7 = true ∧ ownsQid s 0 9 = false ∧ afind s.asidOwner 5 = some 0 ∧ afind s.asidOwner 6 ≠ some 0 ∧ afind s.queues 7 = none)
    ∧ (afind (mailS [] { ownS with queues := [(7, queue7)] }).queues 7).isSome = true := by
  refine ⟨fun q z => ⟨fun h => ?_, fun h => asked_mailS h _ rfl⟩, by decide, by decide, by decide, by decide, by decide, by decide⟩
  have h5 := h.2.2.2.2.2
  simp only [wellAsked, Bool.and_eq_true, decide_eq_true_eq]
  exact h5

/-- Requests by code, with their queue id or ASID and function in bytes 8 to 11. -/
def idB (code : Byte) (lo hi : Byte) (g : Byte) : List Byte := [code, 0, 0, 0, 0, 0, 0, 0, lo, hi, g]

/-- Queue 7 idle and with packets; an id past the last; an id of another function. -/
theorem witness_QueueDestroys :
    (∀ b ∈ [idB 2 7 0 0, idB 2 0xFF 0xF 0, idB 2 0 0x10 0, idB 2 9 0 0], wellAsked b 2 = true)
    ∧ lnat (pad256 (idB 2 0 0x10 0)) 8 2 = 4096 ∧ lnat (pad256 (idB 2 0xFF 0xF 0)) 8 2 = 4095
    ∧ ownsQid ownS 0 9 = false ∧ ownsQid ownS 0 7 = true ∧ afind ownS.queues 7 = none := by
  set_option maxRecDepth 20000 in decide

/-- A module that is not ready; ids that are free; fields that a queue of firmware's own may have; a queue with and without packets. -/
theorem witness_FirmwareQueues :
    State.reset.boot.stage ≠ .ready ∧ world.boot.stage = .ready ∧ afind world.queues 7 = none
    ∧ (let m := pad256 [0, 0, 0, 0, 0, 0, 0, 0, 7, 0, 0, 0, 0, 0, 0, 0, 0, 0x10, 0, 0, 0, 0, 0, 0, 4, 7, 3]
       createOk m = true ∧ lnat m 8 2 = 7 ∧ lnat m 28 2 = 0 ∧ lnat m 25 1 = 7)
    ∧ createOk (pad256 [0, 0, 0, 0, 0, 0, 0, 0, 7]) = false ∧ lnat (pad256 (createB 7 5 4)) 28 2 ≠ 0
    ∧ ∀ ps ∈ [[], [({ idx := 0, uid := 1, bytes := [], launch := 1 } : Pkt)]],
        afind ({ world with queues := [(7, { queue7 with pkts := ps })] } : State).queues 7 = some { queue7 with pkts := ps } := by
  set_option maxRecDepth 20000 in decide

theorem witness_QueueDestroys_drain : ∀ ps ∈ [[], [({ idx := 0, uid := 1, bytes := [], launch := 1 } : Pkt)]],
    let s0 := { mailS (idB 2 7 0 0) { ownS with queues := [(7, { queue7 with pkts := ps })], launches := [(1, launch1)] } with focus := .idle }
    let x := queueOf (control 3 s0 7) 7
    (afind s0.queues 7).isSome = true ∧ (x.state = .idle ∧ x.pkts = [] ∧ x.draining = none ↔ ps = []) := by
  set_option maxRecDepth 20000 in decide

/-- To itself, to its virtual function, to another's; an id that another function holds; an id in use; ids past the last. -/
theorem witness_QueueAssigns :
    (∀ b ∈ [idB 3 7 0 0, idB 3 7 0 2, idB 3 7 0 3, idB 3 9 0 0, idB 3 0 0x10 0, idB 3 7 0 64], wellAsked b 3 = true)
    ∧ (let s := mailS [] ownS
       (fnOf s 0).vf = false ∧ servesFn s 0 0 = true ∧ servesFn s 0 2 = true ∧ servesFn s 0 3 = false ∧ afind s.qidOwner 9 = some 1 ∧ servesFn s 0 1 = false
       ∧ afind s.qidOwner 7 = none ∧ afind s.queues 7 = none)
    ∧ (afind (mailS [] { ownS with queues := [(7, queue7)] }).queues 7).isSome = true := by
  set_option maxRecDepth 20000 in decide

theorem witness_AsidCreates :
    (∀ b ∈ [idB 4 8 0 0, idB 4 8 0 2, idB 4 5 0 0, idB 4 0 0 0, idB 4 0 0x10 0, idB 4 8 0 64], wellAsked b 4 = true)
    ∧ (let s := mailS [] ownS
       afind s.asidOwner 8 = none ∧ (afind s.asidOwner 5).isSome = true ∧ s.tablePool = 0x80000 :: [] ∧ servesFn s 0 2 = true ∧ (fnOf s 2).vf = true)
    ∧ (mailS [] { ownS with tablePool := [] }).tablePool = [] := by
  set_option maxRecDepth 20000 in decide

/-- ASID 5 with a page leased and with one that is not; ASIDs of function 2 and of function 1; a shootdown begun for it. -/
theorem witness_AsidDestroys :
    (∀ b ∈ [idB 5 5 0 0, idB 5 6 0 0, idB 5 7 0 0, idB 5 0 0x10 0], wellAsked b 5 = true)
    ∧ (let s := mailS [] ownS
       (fnOf s 0).vf = false ∧ (∃ o ∈ afind s.asidOwner 5, servesFn s 0 o = true) ∧ (∃ o ∈ afind s.asidOwner 6, servesFn s 0 o = true)
       ∧ (∀ o ∈ afind s.asidOwner 7, servesFn s 0 o = false) ∧ s.shoots = [])
    ∧ (∀ w ∈ [(0x200007 : Nat), 2 ^ 56 + 0x200007],
      let s := modTier (mapped w) 0 (fun t => { t with used := [(tcKey 5 0x100000, 2 ^ 32 + 0x20)] })
      (mappedOf s 5).map (fun p => pteLease p.2) = [w / 2 ^ 56]) := by
  set_option maxRecDepth 20000 in decide

/-- PTE_WRITE or PTE_READ for local address 0x100000 of ASID `a`, with the entry given. -/
def pteB (code a : Byte) (pte : List Byte) : List Byte := [code, 0, 0, 0, 0, 0, 0, 0, a, 0, 0, 0, 0, 0, 0, 0, 0, 0, 0x10, 0, 0, 0xF0, 0x0F, 0] ++ pte

/-- What stands in the way of a PTE_WRITE of `new`: the lease, or the tier's capacity. -/
def pteStop (s : State) (new : Nat) : Option (Bool × Bool) :=
  (reachPte s 5 0xFF00000100000).map (fun x =>
    let old := rdLE x.1.mem x.2 8
    let n := new % 2 ^ 56 + pteLease old * 2 ^ 56
    (pteLease old ≠ 0 && (!pteValid n || decide (ptePerm n < ptePerm old)), overcommits x.1 (tcKey 5 0xFF00000100000) n))

theorem witness_PteWrites :
    (∀ b ∈ [pteB 6 5 [7, 0, 0x20], pteB 6 6 [7, 0, 0x20], pteB 6 0 []], wellAsked b 6 = true ∧ lnat (pad256 b) 16 8 = 0xFF00000100000)
    ∧ (0xFF00000100000 < 2 ^ 52 ∧ 0xFF00000100000 % 65536 = 0 ∧ pkgIsLocal ownS (iaPkg 0xFF00000100000) = true)
    ∧ (pteStop ownS 0x200007).isSome = false
    ∧ pteStop (mapped 0) 0x200007 = some (false, true)
    ∧ pteStop (modTier (mapped 0) 0 (fun t => { t with physical := 40 })) 0x200007 = some (false, false)
    ∧ pteStop (mapped (2 ^ 56 + 0x200007)) 0 = some (true, false) := by
  set_option maxRecDepth 20000 in decide

theorem witness_PteReads :
    (∀ b ∈ [pteB 7 5 [], pteB 7 6 []], wellAsked b 7 = true)
    ∧ pteLoc ownS 5 0xFF00000100000 = none ∧ pteLoc (mapped 0x200007) 5 0xFF00000100000 = some (0x40001, 0x60001, physKey 0 0x60080) := by
  set_option maxRecDepth 20000 in decide

/-- SET_HOSTBASE, SET_BAR2, SET_EVENTS and BRK_CTL, each legal, broken and for another's function or ASID. -/
theorem witness_RegisterRequests :
    (∀ b ∈ [idB 8 0 0 0, idB 8 2 0 0, idB 8 3 0 0, idB 8 64 0 0, idB 8 0 0 0 ++ [0, 0, 0, 0, 0, 1]], lnat (pad256 b) 0 2 = 8
        ∧ (reqNamed (pad256 b) (reqFields 8) = true))
    ∧ (∀ b ∈ [[9, 0, 0, 0, 0, 0, 0, 0, 1, 0, 5, 0, 0, 0, 0, 0, 0, 0, 0, 0, 0, 0xF0, 0x0F], [9, 0, 0, 0, 0, 0, 0, 0, 2], [9, 0, 0, 0, 0, 0, 0, 0, 1, 0, 6, 0, 0, 0, 0, 0, 0, 0, 0, 0, 0, 0xF0, 0x0F]],
        wellAsked b 9 = true)
    ∧ iaPkg (lnat (pad256 [9, 0, 0, 0, 0, 0, 0, 0, 1, 0, 5, 0, 0, 0, 0, 0, 0, 0, 0, 0, 0, 0xF0, 0x0F]) 16 8) = 255
    ∧ (∀ z ∈ [(0 : Byte), 1, 3], wellAsked ([10] ++ List.replicate 23 0 ++ [z]) 10 = true)
    ∧ (∃ k, 1 = 2 ^ k) ∧ 1 ≤ 4096
    ∧ (∀ b ∈ [idB 11 0 1 0, idB 11 2 0 0, idB 11 3 1 0, idB 11 0 2 0, idB 11 64 0 0], wellAsked b 11 = true)
    ∧ (let s := mailS [] ownS
       (fnOf s 0).vf = false ∧ servesFn s 0 2 = true ∧ servesFn s 0 3 = false ∧ afind s.asidOwner 5 = some 0 ∧ afind s.asidOwner 6 ≠ some 0) := by
  set_option maxRecDepth 20000 in
  refine ⟨by decide, by decide, by decide, by decide, ⟨0, rfl⟩, by decide, by decide, by decide⟩

/-- The stopped slot of launch 1 with words left and with none; a handle of no launch; a slot past the last; a slot that runs. -/
theorem witness_BrkResumes :
    (∀ b ∈ [[12, 0, 0, 0, 0, 0, 0, 0, 1, 0, 0, 0, 0, 0], [12, 0, 0, 0, 0, 0, 0, 0, 9], [12, 0, 0, 0, 0, 0, 0, 0, 1, 0, 0, 0, 0, 4]], wellAsked b 12 = true)
    ∧ (∀ n ∈ [(0 : Nat), 1, 2], ∀ ph ∈ [SlotPhase.stopped, .running],
      let s := { mailS [] with launches := [(1, launch1)], tiles := [(0, { tile0 with launch := 1, slots := tile0.slots.set 0 { phase := ph, word := n } })] }
      launchByHandle s 1 = some 1 ∧ launchByHandle s 9 = none ∧ slotFin 0 = some 0 ∧ slotFin 4 = none ∧ ownsQid s 0 (launchOf s 1).qid = true
      ∧ ownsQid { s with qidOwner := [(0, 1)] } 0 (launchOf s 1).qid = false
      ∧ ((tileOf s 0).launch = 1 ∧ (tileOf s 0).ctx.toNat = 0 ∧ (slotOf s 0 0).phase = .stopped ↔ ph = .stopped)
      ∧ ((slotOf s 0 0).word < (codeOf s 0 0).length ↔ n ≠ 2)) := by
  set_option maxRecDepth 20000 in decide

theorem witness_Resets : (evS .none).focus = .event .none := rfl

def img (magic : BitVec 32) (len : Nat) (k : Option (BitVec 512)) (v : Nat) : FwImage := { magic := magic, length := len, key := k, secVer := v, digest := 0 }

/-- Each state of the boot ROM; images at each boundary of its checks; a key that is fused, one that is revoked and one that is not. -/
theorem witness_ImagePushes :
    State.reset.boot.stage = .held ∧ world.boot.stage ≠ .held
    ∧ (∀ n ∈ [(4999999999 : Nat), 5000000000],
      let s : State := { State.reset with focus := .event .none, time := n, boot := { stage := .waitImage, released := some 0 } }
      s.boot.released = some 0 ∧ s.boot.stage = .waitImage ∧ (5000000000 ≤ Passed s 0 ↔ n = 5000000000))
    ∧ (∀ d (rev : Bool),
       let i := img 0x5A500128 67108864 (some d) 63
       let s : State := { State.reset with focus := .event (.image i), boot := { stage := .waitImage, puverUp := true, fuses := 63, keyFuses := [d], revoked := if rev then 1 else 0 } }
       s.boot.stage = .waitImage ∧ s.boot.puverUp = true ∧ s.boot.released = none ∧ s.boot.fuses = 63 ∧ i.secVer = 63
         ∧ i.key = some d ∧ s.boot.keyFuses[0]? = some d ∧ (s.boot.revoked.getLsbD 0 = false ↔ rev = false))
    ∧ 67108864 < (img 0 67108865 none 0).length ∧ 63 < (img 0 0 none 64).secVer ∧ (0 : BitVec 32) ≠ 0x5A500128#32
    ∧ world.boot.code ≠ .authFail :=
  ⟨by decide, by decide, by decide, fun _ rev => ⟨rfl, rfl, rfl, rfl, rfl, rfl, rfl, by cases rev <;> simp⟩, by decide, by decide, by decide, by decide⟩

theorem witness_Attestation : ({ log := List.replicate 63 { kind := 1, digest := 0 } } : Boot).log.length < 64
    ∧ 64 ≤ ({ log := List.replicate 64 { kind := 1, digest := 0 } } : Boot).log.length ∧ 63 < 2 ^ 32 ∧ ({ kind := 4, digest := 0 } : LogEntry).kind < 2 ^ 32 := by
  simp only [List.length_replicate]; decide

/-- A bring-up that obeys its rules: one operating point, the nominal one. -/
def bringUp (trained : Bool) (bad : List Nat) : BringUp :=
  { trained := trained, unusable := [bad, [], [], []], opp := 0x8000010000828820 :: List.replicate 63 0, pbase := 100, limits := [105, 0, 0, 0], tiercfg := [],
    freeChunks := [], chbase := [], prbase := [], records := [], qcbbase := 0, chans := List.replicate 4 0, tables := [], saveUnits := 0, sets := [], target := [], hostAtomics := true,
    ckwait := 1, quantum := 500000, agediv := 1, drainmax := 10000, quota := List.replicate 64 1, promote := 0, demote := 0, hyst := 0 }

theorem witness_BringUps :
    bringUpOk (bringUp true (List.range 48)) = true ∧ bringUpOk (bringUp false []) = true ∧ bringUpOk (bringUp true (List.range 49)) = true
    ∧ bringUpOk { bringUp true [] with agediv := 65 } = false
    ∧ bringUpOk { bringUp true [] with freeChunks := [[(0, 123951424)]] } = true ∧ bringUpOk { bringUp true [] with freeChunks := [[(0, 123951425)]] } = true
    ∧ (∀ n ∈ [(123951424 : Nat), 123951425], (([(0, n)] : List (Nat × Nat)).map (·.2)).sum ≤ (512000000000 - 4 * 1073741824 - 0 * 6291456) / 4096 ↔ n = 123951424)
    ∧ (∀ bad ∈ (bringUp true (List.range 48)).unusable, bad.length ≤ 48) ∧ (∃ bad ∈ (bringUp true (List.range 49)).unusable, 48 < bad.length)
    ∧ ({ stage := .firmware } : Boot).stage = .firmware ∧ world.boot.stage ≠ .firmware := by
  set_option maxRecDepth 20000 in decide

theorem witness_RemapTables : (∀ n ∈ [(16 : Nat), 48, 49], (List.range n).Nodup ∧ (∀ p ∈ List.range n, p < 336) ∧ (List.range n).length = n) := by
  set_option maxRecDepth 20000 in decide

theorem witness_FurrowSteps :
    (let b : Boot := { stage := .trained }
     b.stage = .trained ∧ b.pkgWritten = none)
    ∧ (let b : Boot := { stage := .trained, pkgWritten := some 7, cfgPkg := some 7 }
       b.stage = .trained ∧ b.pkgWritten = some 7 ∧ b.cfgPkg = some 7)
    ∧ (none : Option (BitVec 8)) ≠ some 7 ∧ world.boot.stage ≠ .trained :=
  ⟨⟨rfl, rfl⟩, ⟨rfl, rfl, rfl⟩, nofun, by decide⟩

theorem witness_ReadyReports : world.boot.stage ≠ .furrowed
    ∧ ({ stage := .furrowed, heldKicks := [(0, 7, 8, 1)] } : Boot).stage = .furrowed ∧ 63 < 64 := by decide

theorem witness_SidebandRequests : (191 : BitVec 8).toNat ≤ 191 ∧ 191 < (192 : BitVec 8).toNat ∧ world.boot.attestation = none
    ∧ ({ world.boot with attestation := some (attestationOf 0 0) } : Boot).attestation = some (attestationOf 0 0) := ⟨by decide, by decide, rfl, rfl⟩

/-- Reset held and released; a crash entry kept under its index. -/
theorem witness_SidebandReads :
    State.reset.boot.stage = .held ∧ world.boot.stage ≠ .held ∧ (tierOf world 0).free.length < 2 ^ 32
    ∧ afind ({ world.boot with ret := { entries := [(0, List.replicate 128 0)] } } : Boot).ret.entries 0 = some (List.replicate 128 0) := by decide

/-- Firmware that runs and that does not; each cause of a trip, 1 °C and 1 ns short of it, and at it. -/
theorem witness_Crashes :
    State.reset.boot.ret.magic = 0x43520001#32 ∧ fwRuns world = true ∧ fwRuns State.reset = false ∧ world.boot.stage ≠ .firmware ∧ fwRuns { world with boot := { stage := .firmware } } = true
    ∧ (∀ t ∈ [(114 : Nat), 115], ∃ p ∈ [t, 0, 0, 0].zip [105, 0, 0, 0], p.2 < p.1)
    ∧ (∀ t ∈ [(114 : Nat), 115], (∃ p ∈ [t, 0, 0, 0].zip [105, 0, 0, 0], p.2 + 10 ≤ p.1) ↔ t = 115)
    ∧ (∀ n ∈ [(9999999 : Nat), 10000000], 10000000 ≤ Passed { world with time := n } 0 ↔ n = 10000000)
    ∧ ({ world.clk with floorSince := some 0 } : Clk).floorSince = some 0 := by decide

theorem witness_LinksDown :
    world.boot.puverUp = false ∧ ({ world.boot with puverUp := true } : Boot).puverUp = true
    ∧ (∀ k ∈ [(0 : Nat), 5], ∀ c ∈ [none, some ({ since := 0 } : Ckpt), some { since := 0, copying := true }],
      let s : State := { evS (.n k) with ckpt := c, boot := { world.boot with target := [5] } }
      ((∃ c ∈ s.ckpt, c.copying = true) ↔ c = some { since := 0, copying := true }) ∧ (k ∈ s.boot.target ↔ k = 5)) := by decide

/-- No checkpoint; one that waits, blocked 1 ms short of CKWAIT and at it; one that copies. -/
theorem witness_Checkpoints :
    world.boot.stage = .ready ∧ world.ckpt = none ∧ State.reset.boot.stage ≠ .ready
    ∧ (∀ n ∈ [(599999999999 : Nat), 600000000000],
      let c : Ckpt := { since := 0 }
      let s : State := { evS .none tileN { world with time := n } { launch1 with pclass := 2 } with ckpt := some c }
      s.ckpt = some c ∧ c.copying = false ∧ (s.params.ckwait * 1000000 ≤ Passed s c.since ↔ n = 600000000000) ∧ ∃ p ∈ s.launches, holdsTiles p.2 = true ∧ 2 ≤ p.2.pclass)
    ∧ ({ since := 0, copying := true } : Ckpt).copying = true := by decide

/-- An image that is whole and one that is not, read with and without an error; launches that hold tiles and none. -/
theorem witness_MemoryRestores :
    (∀ bad done : Bool,
      let x : CkptImage := { complete := done, revision := Config.encoderRevision, cfgs := [0, 0, 0] }
      let s : State := { world with focus := .event (.flag bad), ckptImage := some x }
      s.ckptImage = some x ∧ x.cfgs = [(tierOf s 0).cfg, (tierOf s 1).cfg, (tierOf s 2).cfg] ∧ x.revision = Config.encoderRevision
      ∧ (x.complete = true ↔ done = true) ∧ x.tags = imageTags x.mem ∧ s.launches = [] ∧ s.boot.target = [] ∧ fwRuns s = true ∧ s.queues = [])
    ∧ world.ckptImage = none ∧ fwRuns State.reset = false
    ∧ (∃ p ∈ (evS .none tileN).launches, holdsTiles p.2 = true) :=
  ⟨fun _ done => ⟨rfl, rfl, rfl, by cases done <;> decide, rfl, rfl, rfl, rfl, rfl⟩, rfl, rfl, by decide⟩

/-! ### What holds of every word, every step and every state -/

/-- `add` t2, t0, t1 and `kick` under guard p0. -/
def addG : Instr := .add { r0 with g := ⟨0, false, true⟩, d := .t 2, a := .t 0, b := .t 1 }
def kickG : Instr := .kick { r0 with g := ⟨0, false, true⟩ }

theorem witness_FalseGuards :
    let s := wordAt (slotT [1, 2])
    guardOf addG = some ⟨0, false, true⟩ ∧ guardOf kickG = some ⟨0, false, true⟩ ∧ Live s 0 0 ∧ Sound s 0 ∧ (slotOf s 0 0).pend = []
    ∧ Fails (slotOf s 0 0) ⟨0, false, true⟩ ∧ guardMark (slotOf s 0 0) ⟨0, false, true⟩ = false ∧ plainOperands addG = true ∧ plainOperands kickG = false := by
  refine ⟨rfl, rfl, ⟨rfl, .inl rfl⟩, sound_wordAt rfl, rfl, ?_, by decide, rfl, rfl⟩
  unfold Fails; decide

/-- A marked guard on a word that writes only a temporary or a predicate, on a prefetch and on another; a guard in error. -/
theorem witness_MarkedGuards :
    (let s := wordAt { slotT [1, 2] with pm := #v[true, false, false, false] }
     Live s 0 0 ∧ Sound s 0 ∧ (slotOf s 0 0).pend = [] ∧ guardMark (slotOf s 0 0) ⟨0, false, true⟩ = true ∧ markedDests kickG = none
     ∧ markedDests addG = some ([.t 2], []) ∧ plainOperands addG = true ∧ Fails (slotOf s 0 0) ⟨0, false, true⟩
     ∧ markedDests (.cmp { r0 with g := ⟨0, false, true⟩, pd := 3 }) = some ([], [3]))
    ∧ (let s := wordAt (slotT [1, 2]) { tile0 with badWords := [badPred 0 0] }
       Live s 0 0 ∧ (slotOf s 0 0).pend = [] ∧ PredBad s 0 0 0) := by
  refine ⟨⟨⟨rfl, .inl rfl⟩, sound_wordAt rfl, rfl, by decide, rfl, rfl, rfl, ?_, rfl⟩, ⟨rfl, .inl rfl⟩, rfl, ?_⟩
  · unfold Fails; decide
  · unfold PredBad; decide

theorem witness_WordsWait :
    (∀ ph ∈ [SlotPhase.free, .stopped, .draining],
      let s := wordAt (slotT []) tile0 launch1
      let s' := { s with tiles := [(0, { tile0 with launch := 1, slots := tile0.slots.set 0 { phase := ph } })] }
      s'.focus = .slot 0 0 ∧ (slotOf s' 0 0).phase = ph)
    ∧ (let s := wordAt { slotT [1, 2] with pend := [(2, 9)] }
       Live s 0 0 ∧ opPending (slotOf s 0 0) (.t 2) = true) := by
  refine ⟨by decide, ⟨rfl, .inl rfl⟩, by decide⟩

/-- A word that is not its codelet's last. -/
theorem witness_ScalarFrames :
    let s := wordAt (slotT [1, 2])
    Live s 0 0 ∧ (slotOf s 0 0).pend = [] ∧ Sound s 0 ∧ NotDet s 0 ∧ (slotOf s 0 0).word + 1 < (codeOf s 0 0).length
    ∧ ∃ s', exec (.movi { i0 with d := .t 3, imm := 0xFFFFFFFF }) s = .next s' := by
  refine ⟨⟨rfl, .inl rfl⟩, rfl, sound_wordAt rfl, ?_, by decide, _, rfl⟩
  unfold NotDet; decide

theorem witness_WordsKeepMemory :
    let s := wordAt (slotT [1, 2])
    let i : Instr := .movi { i0 with d := .t 3, imm := 5 }
    guardOf i = some gOff ∧ (∀ w, i ≠ .sclose w ∧ i ≠ .sopen w) ∧ (∀ w, i ≠ .coll w) ∧ (∀ w, i ≠ .kick w) ∧ Live s 0 0
    ∧ (match exec i s with
       | .next s' => decide ((slotOf s' 0 0).phase ≠ .free ∧ (slotOf s' 0 0).phase ≠ .draining)
       | _ => false) = true :=
  ⟨rfl, fun _ => ⟨nofun, nofun⟩, fun _ => nofun, fun _ => nofun, ⟨rfl, .inl rfl⟩, by decide⟩

theorem witness_WordsRoundTrip :
    (∃ w, encode addG = some w) ∧ addG.check = none
    ∧ (∃ w, encode (.sstSlab m0) = some w) ∧ (∃ w, encode (.sldSlab m0) = some w) ∧ slabMode (streamOf slabW 0 0 1) = true
    ∧ (decodeWord 0x2D0502D200000002).toOption.isSome = true
    ∧ (∃ b, encodeNode (.nodeAdd (recA 2)) = some b) ∧ (Instr.nodeAdd (recA 2)).check = none ∧ (decodeNode 0x12800003400000000000000).toOption.isSome = true :=
  ⟨⟨_, rfl⟩, by decide, ⟨_, rfl⟩, ⟨_, rfl⟩, by decide, by decide, ⟨_, rfl⟩, by decide, by decide⟩

theorem witness_SlabWordsChecked : (∃ x, Instr.check (.sstSlab x) = none) ∧ (∃ x, Instr.check (.sldSlab x) = none ∧ x.data = .t 0) ∧ ∃ x, Instr.check (.sldSlab x) = none ∧ x.data ≠ .t 0 :=
  ⟨⟨{ m0 with ty := .f16 }, by decide⟩, ⟨{ m0 with ty := .f16 }, by decide, rfl⟩, ⟨{ m0 with ty := .f16, data := .t 1 }, by decide, by decide⟩⟩

theorem witness_ReservedCodes : fld (0xCB00000000000000 : BitVec 64) 56 8 = 0xCB ∧ (0x400000000000000000000000 : BitVec 128).extractLsb' 96 32 = 0
    ∧ ((0x400000000000000000000000 : BitVec 128).extractLsb' 88 8).toNat = 0x40 := by decide

/-- Slots of a tile of which none issued yet: slot 0 has the turn; slot 1 when slot 0 has been tried and waits. -/
theorem witness_SlotTurns :
    let s := wordAt (slotT [1, 2])
    let u := modTile s 0 (fun x => { x with slots := x.slots.set 1 { slotT [] with phase := .running }, blocked := [0] })
    hasTurn s 0 0 = true ∧ hasTurn { u with tiles := u.tiles.map (fun p => (p.1, { p.2 with blocked := [] })) } 0 1 = false ∧ hasTurn u 0 1 = true := by
  decide

/-- A firing issued with its record in the graph, whole and with a word in error; a slot whose turn it is, whole and in error; an
event whose turn it is; no move left. -/
theorem witness_StepRunsDecoded :
    (let f := fir [(0, tok 1), (1, tok 2)]
     let s := { nodeS f with focus := .issue 0 f }
     nodeSlot s 0 0 1 = some 0x12800003400000000000000 ∧ (∃ i, decodeNode 0x12800003400000000000000 = .ok i)
       ∧ ¬ (badNodeWord f.ctx.toNat f.node ∈ (tileOf s 0).badWords ∨ ∃ p ∈ f.ops, p.2.bad = true))
    ∧ (∃ e, decodeNode 0 = .error e)
    ∧ (let s := { wordAt (slotT [1, 2]) { tile0 with graph := [(0, { codes := [[(encode addG).getD 0, 0]] })] } with focus := .idle, agenda := [.word 0 0] }
       (∀ t f, s.focus ≠ .issue t f) ∧ (slotOf s 0 0).phase = .running ∧ (tileOf s 0).parked = false ∧ standsStill (tileLaunch s 0) = false
       ∧ (codeOf s 0 0)[(slotOf s 0 0).word]? = some ((encode addG).getD 0) ∧ hasTurn s 0 0 = true ∧ (tileOf s 0).badWords = []
       ∧ (tileOf (modTile s 0 (fun x => { x with badWords := [badCodeWord 0 0 0] })) 0).badWords = [badCodeWord 0 0 0]
       ∧ decodeWord ((encode addG).getD 0) = .ok addG)
    ∧ ∃ e, decodeWord 0 = .error e := by
  refine ⟨⟨rfl, ⟨_, rfl⟩, by decide⟩, ⟨_, rfl⟩, ⟨fun _ _ h => by simp at h, rfl, rfl, rfl, rfl, by decide, rfl, rfl, ok_of (by decide)⟩, ⟨_, rfl⟩⟩

theorem witness_TimePasses : (3 : Nat) < 4 := by decide

/-- A stream in slab mode and one that is not, with a word for each. -/
theorem witness_StepRunsDecoded_streams :
    slabMode (streamOf slabW 0 0 1) = true ∧ slabMode (streamOf strW 0 0 3) = false
    ∧ (∃ x, Instr.check (.sldSlab x) ≠ none) ∧ ∃ x, Instr.check (.sstSlab x) ≠ none :=
  ⟨by decide, by decide, ⟨{ m0 with ty := .s64 }, by decide⟩, ⟨{ m0 with ty := .s64 }, by decide⟩⟩

theorem witness_StepsKeepMemoryOk : MemoryOk State.reset ∧ ∃ s', step State.reset = .next s' :=
  ⟨⟨by decide, nofun⟩, _, rfl⟩

/-- Memory of a mapped page in canonical form, and a write, a read, an atomic and a translation of it that end. -/
theorem witness_AccessesKeepMemoryOk :
    Memory.wf (mapped 0x200007).mem = true
    ∧ writeEnds (mapped 0x200007) 0xFF00000100000 = some (some true) ∧ readEnds (mapped 0x200007) 0xFF00000100000 = some true
    ∧ (match memAtomic (mapped 0x200007) 1 5 false 0 0xFF00000100000 8 (fun n => some (n + 1)) with | .ok _ _ => true | _ => false) = true
    ∧ (match pageWrite (mapped 0x200007) (.dev 5 0) 0x200007 0 [1] with | .done _ => true | _ => false) = true := by
  set_option maxRecDepth 20000 in decide

/-! ### Rules of the machine as a whole -/

/-- A temporary in error that a word reads, or that it only writes; a predicate in error. -/
theorem witness_ParityErrors :
    let s := wordAt (slotT [1, 2]) { tile0 with badWords := [badTemp 0 0, badPred 0 3] }
    Live s 0 0 ∧ quiet (slotT [1, 2]) = true ∧ TempBad s 0 0 0 ∧ ¬ TempBad s 0 0 1 ∧ PredBad s 0 0 3 ∧ ¬ PredBad s 0 0 0
    ∧ (∀ sl, (reg1 { r0 with d := .t 0, a := .t 1 } id).sticky sl = 0) ∧ (reg1 { r0 with d := .t 0, a := .t 1 } id).pd = none
    ∧ (reg1 { r0 with d := .t 0, a := .t 1 } id).d = some (.t 0) ∧ (reg1 { r0 with d := .t 0, a := .t 1 } id).srcs = [.t 1] := by
  refine ⟨⟨rfl, .inl rfl⟩, rfl, ?_, ?_, ?_, ?_, fun _ => rfl, rfl, rfl, rfl⟩ <;> first | (unfold TempBad; decide) | (unfold PredBad; decide)

theorem witness_RecordsReadBack :
    let r : PageRec := { codes := List.replicate 256 15, chunks := List.replicate 16 (2 ^ 32 - 1), sectors := 2 ^ 16 - 1 }
    r.codes.length = 256 ∧ (∀ c ∈ r.codes, c < 16) ∧ r.chunks.length ≤ 16 ∧ (∀ c ∈ r.chunks, c < 2 ^ 32) ∧ r.sectors < 2 ^ 16 :=
  ⟨List.length_replicate, fun _ h => List.eq_of_mem_replicate h ▸ by decide, List.length_replicate.le, fun _ h => List.eq_of_mem_replicate h ▸ by decide, by decide⟩

/-- A request for another package of a joined module, answered with bytes and with a fault; one of a standalone module. -/
theorem witness_RemoteAnswers :
    let r : Req := { reqA with op := .load 8, addr := { ia := 0x0100000100000, asid := 5 } }
    let s := homeW r { world with boot := { world.boot with planes := 1 } }
    s.reqs.find? (fun x => x.id = 9) = some r ∧ iaLocal r.addr.ia.toNat < 0xF0000000000 ∧ pkgIsLocal s (iaPkg r.addr.ia.toNat) = false
    ∧ farTurn s r = true ∧ farTurn (homeW r world) r = false := by decide

theorem witness_KickReads :
    (let s := { ownS with boot := { ownS.boot with puverUp := true }, queues := [(7, { queue7 with status := 9, state := .halted })] }
     s.boot.puverUp = true ∧ s.boot.stage = .ready ∧ ownsQid s 0 7 = true ∧ ownsQid s 0 9 = false
     ∧ afind s.queues 7 = some { queue7 with status := 9, state := .halted })
    ∧ ownsQid ownS 0 8 = true ∧ afind ownS.queues 8 = none
    ∧ KickPage { ownS with boot := { ownS.boot with puverUp := true }, queues := [(7, queue7)] } 0 7 := by
  refine ⟨by decide, by decide, rfl, ?_⟩
  unfold KickPage; decide

/-- How a signal operation on the word at 0xFF00000100000 ends: done, failed, or to wait. -/
def sigEnds (s : State) : Option (Option Nat) :=
  match sigRmw s true queue7 0xFF00000100000 (sigNew 2 1) with | .ok _ => some none | .fail _ e => some (some e) | .wait _ => none

theorem witness_EndSignals :
    0xFF00000100000 ≠ 0 ∧ 0xFF00000100000 < 2 ^ 52 ∧ 0xFF00000100000 % 8 = 0
    ∧ sigEnds (mapped 0x200007) = some none ∧ (sigEnds world).map Option.isSome = some true
    ∧ sigEnds (modTier (mapped 0x200007) 0 (fun t => { t with held := [{ who := .req 5, since := 0, asid := 5, ia := 0xFF00000100000, k := 1 }] })) = none := by
  set_option maxRecDepth 20000 in decide

theorem witness_LaunchesEnd :
    (∀ ph ∈ [LPhase.leasing, .waiting, .running], (launchOf { world with launches := [(1, { launch1 with phase := ph })] } 1).phase = ph)
    ∧ (let s := { mapped 0x200007 with
         queues := [(7, { queue7 with pkts := [{ idx := 0, uid := 100, bytes := nopB, launch := 1 }] })]
         launches := [(1, { launch1 with phase := .ending, lrec := 0xFF00000100000, qid := 7 })] }
       let l := launchOf (dropLeases s 1) 1
       (match memWrite (asAsker (dropLeases s 1) (askLaunch 1)) l.asid false l.func (l.lrec.toNat + 240) (resultBytes l) with
        | .ok s1 _ =>
          let v := retire s1 1
          match (queueOf v (launchOf v 1).qid).pkts.find? (fun p => p.launch = 1) with
          | some p => (match endPkt v (launchOf v 1).qid p 0 with | .done _ => true | _ => false)
          | none => false
        | _ => false) = true) := by
  set_option maxRecDepth 20000 in decide

/-- An image as written, a unit that can be overwritten, and the units that an append writes. -/
theorem witness_SaveTags : ({} : SaveImage).patches = [] ∧ ({} : SaveImage).boots = 0 ∧ 0 < imageLen {} {}
    ∧ appendUnit {} {} { tok := {} } 0 = true ∧ appendUnit {} {} { tok := {} } 1 = true ∧ appendUnit {} {} { tok := {} } 2 = false := by decide
/-! ## Ill-formed words and records: each check refuses the term written for it -/

/-- A node record with all fields zero and NOPS 2. -/
def N0 : NodeRec := ⟨false, false, 2, d0, d0, 0⟩

/-- For each check a term that breaks it and nothing before it. -/
def illFormed : List (Instr × WfError) :=
  [(.add { R0 with g := ⟨1, false, false⟩, ty := .s8 }, .guard),
   (.add { R0 with ty := .f32 }, .type),
   (.notR { R0 with b := .t 1 }, .unusedField),
   (.add { R0 with d := .inp 0 }, .destination),
   (.cmp { R0 with cc := .uo }, .condition),
   (.lea { R0 with sh := 8 }, .shift),
   (.fcvt { R0 with ty := .f32, sh := 11 }, .secondType),
   (.rdsr { I0 with imm := 0x60 }, .specialRegister),
   (.trap { I0 with imm := 0xBF }, .trapCode),
   (.vadd { V0 with ty := .s32, rm := .sr }, .rounding),
   (.vbcast { V0 with ty := .s8 }, .scalarForm),
   (.vredsum { V0 with ty := .f32, vc := 8 }, .segment),
   (.vtopk { V0 with ty := .f32, vc := 1 }, .count),
   (.vquant { V0 with ty := .s8, vb := 8, vc := 12 }, .configuration),
   (.hinv { V0 with ty := .f32, vd := 16 }, .groupBase),
   (.mwait { S0 with oa := 2 }, .form),
   (.mtr { S0 with ty := .s8, ob := 7 }, .overlap),
   (.ld { M0 with ord := .rel }, .order),
   (.ld { M0 with scope := .plot }, .scope),
   (.bar { E0 with imm := 16 }, .immediate),
   (.vadd { V0 with ty := .s32, vm := 3 }, .mask),
   (.nodeAdd { N0 with nops := 1 }, .nops),
   (.nodeCmp { N0 with lit := true }, .literalFlag),
   (.nodeAdd { N0 with sticky := true }, .stickyFlag),
   (.nodeJoin { N0 with nops := 1, literal := 1 }, .literal),
   (.nodeAdd { N0 with destA := ⟨false, 1, 0, 0⟩ }, .destinationField)]

/-- Each ill-formed term is refused by the check it was written for. -/
theorem test_wellFormed_refuses : illFormed.all (fun p => p.1.check = some p.2) = true := by
  set_option maxRecDepth 20000 in decide

/-- The same terms with the broken field mended are legal: the checks refuse no more than they name. -/
theorem test_wellFormed_accepts :
    ([.add { R0 with ty := .s8 }, .cmp R0, .lea { R0 with sh := 7 }, .rdsr { I0 with imm := 0x5F },
      .trap { I0 with imm := 0xC0 }, .vadd { V0 with ty := .f32, rm := .sr }, .vredsum { V0 with ty := .f32, vc := 7 },
      .vtopk { V0 with ty := .f32, vb := 64, vc := 1 }, .hinv { V0 with ty := .f32, vd := 32 },
      .mtr { S0 with ty := .s8, ob := 8 }, .ld { M0 with ord := .acq, scope := .plot }, .nodeAdd N0,
      .nodeJoin { N0 with nops := 1, literal := 2 }] : List Instr).all (·.check = none) = true := by
  set_option maxRecDepth 20000 in decide

/-- `add` with the D field at 12 decodes; at 13, with TYPE 13, or with a zero field that is not zero it does not,
nor does the unassigned major opcode 0xFF (R319, R321, R322, R324). -/
theorem test_decode_refuses :
    [0x01B0600000000000, 0x01B0680000000000, 0x01BD600000000000, 0x01B0600000000001, 0xFFB0600000000000].map
      (fun w => (decodeTableWord 64 w).isSome) = [true, false, false, false, false] := by
  set_option maxRecDepth 20000 in decide

/-! ## Meanings: one step each, its result worked out from the manual -/

/-- The state one instruction leaves. -/
def after (i : Instr) (s : State) : State := match exec i s with | .next u => u | _ => s

/-- t registers, predicates and tile status that one word leaves in slot 0 of tile 0. -/
def tAfter (i : Instr) (l : List Word) (n : Fin 8) : Word := (slotOf (after i (wordAt (slotT l))) 0 0).t[n]
def pAfter (i : Instr) (l : List Word) (n : Fin 4) : Bool := (slotOf (after i (wordAt (slotT l))) 0 0).p[n]
def statAfter (i : Instr) (l : List Word) : Word := (tileOf (after i (wordAt (slotT l))) 0).stat

/-- The words the manual's worked examples write out, with the instruction each stands for (R316 to R326). -/
def manualWords : List (Word × Instr) :=
  [(0x0105021200000000, .add { r0 with ty := .s64, a := .inp 0, b := .inp 1 }),
   (0x0503021200000000, .div { r0 with ty := .s32, a := .inp 0, b := .inp 1 }),
   (0x43080A0006000C00, .fcvt { r0 with ty := .bf16, d := .t 1, a := .inp 0, rm := .rup, sh := 3 }),
   (0x3005025800100000, .cmp { r0 with ty := .s64, a := .inp 1, b := .zero, pd := 1 }),
   (0x1B0010000329C02C, .movi { i0 with d := .t 2, imm := 0x329C02C }),
   (0x4870105640000000, .send { e0 with g := ⟨1, true, true⟩, a := .t 2, b := .t 1, c := .tg, ch := 4 }),
   (0x840C080800010000, .vldPort { v0 with ty := .f32, vd := 8, va := 8, vc := 1 }),
   (0x7E0C090800060000, .vredmax { v0 with ty := .f32, vd := 9, va := 8, vc := 6 }),
   (0x79030A0000000200, .vbcast { v0 with ty := .s32, vd := 10, sb := true }),
   (0x61030A0A00000200, .vsub { v0 with ty := .s32, vd := 10, va := 10, sb := true }),
   (0x7B0C0B090A000000, .vperm { v0 with ty := .f32, vd := 11, va := 9, vb := 10 }),
   (0x6E0C0C0C00000000, .vexp2 { v0 with ty := .f32, vd := 12, va := 12 }),
   (0x9800000000804000, .srld { s0 with shr := 2, x := .t 1 }),
   (0x90080C0080912000, .mma { s0 with ty := .bf16, ad := 3, ob := 32, shr := 2, dec := true, x := .t 4, tb := 8 }),
   (0x90080C0080A02000, .mma { s0 with ty := .bf16, ad := 3, ob := 32, shr := 2, z := true, tb := 8 }),
   (0x9A00000000000000, .mwait s0),
   (0xB800430200000001, .cpy { e0 with a := .inp 0, b := .zero, c := .t 1, imm := 1 }),
   (0xBF00008000000000, .tlwait { e0 with b := .t 2 }),
   (0xA905624407000000, .aadd { m0 with ty := .s64, d := .zero, base := .inp 1, data := .t 2, scope := .pkg, ord := .rel }),
   (0xA0050A0006800000, .ld { m0 with ty := .s64, d := .t 1, base := .inp 0, scope := .pkg, ord := .acq })]

theorem test_manual_words : manualWords.all (fun p => decodeTableWord 64 p.1.toNat = some p.2) = true := by
  set_option maxRecDepth 20000 in decide

/-- R3: tile 0x4A7 is die 2, row 5, column 7 on package plot 46. -/
theorem test_plot_of_tile : plotOf 0x4A7 = 46 := by decide

/-- 8-bit signed sums wrap and extend their sign (R360): 127 + 1 is -128. -/
theorem test_add_wraps : tAfter (.add { r0 with ty := .s8, d := .t 2, a := .t 0, b := .t 1 }) [127, 1] 2 = 0xFFFFFFFFFFFFFF80 := by
  set_option maxRecDepth 20000 in decide

/-- The destination is a source, and unsigned differences wrap at the width (R360): 3 - 5 on 32 bits. -/
theorem test_sub_same : tAfter (.sub { r0 with ty := .z32, d := .t 0, a := .t 0, b := .t 1 }) [3, 5] 0 = 0xFFFFFFFE := by
  set_option maxRecDepth 20000 in decide

/-- mulh keeps the upper half: (2^31 - 1) squared, shifted right by 32, is 0x3FFFFFFF; unsigned, 0xFFFFFFFF squared gives 0xFFFFFFFE (R363). -/
theorem test_mulh :
    tAfter (.mulh { r0 with ty := .s32, d := .t 2, a := .t 0, b := .t 1 }) [0x7FFFFFFF, 0x7FFFFFFF] 2 = 0x3FFFFFFF ∧
    tAfter (.mulh { r0 with ty := .z32, d := .t 2, a := .t 0, b := .t 1 }) [0xFFFFFFFF, 0xFFFFFFFF] 2 = 0xFFFFFFFE := by
  set_option maxRecDepth 20000 in decide

/-- The scalar example: 257 ÷ 2 is 128, and division by 0 gives 0 and DZ (R364). -/
theorem test_div_example :
    tAfter (.div { r0 with ty := .s32, d := .t 2, a := .t 0, b := .t 1 }) [257, 2] 2 = 128 ∧
    tAfter (.div { r0 with ty := .s32, d := .t 2, a := .t 0, b := .t 1 }) [257, 0] 2 = 0 ∧
    statAfter (.div { r0 with ty := .s32, d := .t 2, a := .t 0, b := .t 1 }) [257, 0] = statDZ := by
  set_option maxRecDepth 20000 in decide

/-- Division rounds toward zero: -7 ÷ 2 is -3 and the remainder is -1 (R364). -/
theorem test_div_negative :
    tAfter (.div { r0 with ty := .s64, d := .t 2, a := .t 0, b := .t 1 }) [-7, 2] 2 = -3 ∧
    tAfter (.rem { r0 with ty := .s64, d := .t 2, a := .t 0, b := .t 1 }) [-7, 2] 2 = -1 := by
  set_option maxRecDepth 20000 in decide

/-- The scalar example: 257 to BF16 is 258 rounding up and 256 rounding to nearest even, both inexact (R260, R369). -/
theorem test_fcvt_example :
    tAfter (.fcvt { r0 with ty := .bf16, d := .t 1, a := .t 0, rm := .rup, sh := 3 }) [257] 1 = 0x4381 ∧
    tAfter (.fcvt { r0 with ty := .bf16, d := .t 1, a := .t 0, sh := 3 }) [257] 1 = 0x4380 ∧
    statAfter (.fcvt { r0 with ty := .bf16, d := .t 1, a := .t 0, rm := .rup, sh := 3 }) [257] = statNX := by
  set_option maxRecDepth 20000 in decide

/-- The encoding example: 0x200000C + 0x131C000 is 0x331C00C. -/
theorem test_addI_example : tAfter (.addI { i0 with d := .t 1, a := .t 1, imm := 0x131C000 }) [0, 0x200000C] 1 = 0x331C00C := by
  set_option maxRecDepth 20000 in decide

/-- movi extends by its type and moviHi replaces the upper half (R365). -/
theorem test_movi :
    tAfter (.movi { i0 with ty := .s32, d := .t 0, imm := 0x80000000 }) [7] 0 = 0xFFFFFFFF80000000 ∧
    tAfter (.moviHi { i0 with d := .t 0, imm := 0x12345678 }) [0x9ABCDEF0] 0 = 0x123456789ABCDEF0 := by
  set_option maxRecDepth 20000 in decide

/-- Counts on 32-bit data: 1 has 31 leading zeros, 0 has 32 trailing ones, 0xF0F0 has eight ones (R363). -/
theorem test_counts :
    tAfter (.clz { r0 with ty := .z32, d := .t 1, a := .t 0 }) [1] 1 = 31 ∧
    tAfter (.ctz { r0 with ty := .z32, d := .t 1, a := .t 0 }) [0] 1 = 32 ∧
    tAfter (.popc { r0 with ty := .z32, d := .t 1, a := .t 0 }) [0xF0F0] 1 = 8 := by
  set_option maxRecDepth 20000 in decide

/-- Shift counts are taken modulo the width: an 8-bit shift by 9 is a shift by 1; sar keeps the sign; rotl wraps (R363). -/
theorem test_shifts :
    tAfter (.shl { r0 with ty := .z8, d := .t 2, a := .t 0, b := .t 1 }) [0x81, 9] 2 = 2 ∧
    tAfter (.sar { r0 with ty := .s8, d := .t 2, a := .t 0, b := .t 1 }) [0x80, 3] 2 = -16 ∧
    tAfter (.rotl { r0 with ty := .z8, d := .t 2, a := .t 0, b := .t 1 }) [0x81, 1] 2 = 3 := by
  set_option maxRecDepth 20000 in decide

/-- bext gathers the bits under the mask, bdep scatters them (R365). -/
theorem test_bits :
    tAfter (.bext { r0 with d := .t 2, a := .t 0, b := .t 1 }) [0xABCD, 0xF0F0] 2 = 0xAC ∧
    tAfter (.bdep { r0 with d := .t 2, a := .t 0, b := .t 1 }) [0xAC, 0xF0F0] 2 = 0xA0C0 := by
  set_option maxRecDepth 20000 in decide

/-- cmp orders by the type: 0xFF is below 1 as a signed byte and above it as an unsigned one (R366). -/
theorem test_cmp :
    pAfter (.cmp { r0 with ty := .s8, a := .t 0, b := .t 1, cc := .lt, pd := 2 }) [0xFF, 1] 2 = true ∧
    pAfter (.cmp { r0 with ty := .z8, a := .t 0, b := .t 1, cc := .lt, pd := 2 }) [0xFF, 1] 2 = false := by
  set_option maxRecDepth 20000 in decide

/-- FP32: 1 + 2^-24 ties to 1 to nearest even and rounds up to the next value; both are inexact (R260). -/
theorem test_fadd_rounds :
    tAfter (.fadd { r0 with ty := .f32, d := .t 2, a := .t 0, b := .t 1 }) [0x3F800000, 0x33800000] 2 = 0x3F800000 ∧
    tAfter (.fadd { r0 with ty := .f32, d := .t 2, a := .t 0, b := .t 1, rm := .rup }) [0x3F800000, 0x33800000] 2 = 0x3F800001 ∧
    statAfter (.fadd { r0 with ty := .f32, d := .t 2, a := .t 0, b := .t 1 }) [0x3F800000, 0x33800000] = statNX := by
  set_option maxRecDepth 20000 in decide

/-- FP32: infinity less infinity is the canonical NaN with NV (R254). -/
theorem test_fsub_inf :
    tAfter (.fsub { r0 with ty := .f32, d := .t 2, a := .t 0, b := .t 1 }) [0x7F800000, 0x7F800000] 2 = 0x7FC00000 ∧
    statAfter (.fsub { r0 with ty := .f32, d := .t 2, a := .t 0, b := .t 1 }) [0x7F800000, 0x7F800000] = statNV := by
  set_option maxRecDepth 20000 in decide

/-- FP32: 3 × 0.5 + 1 is 2.5, 1 ÷ 0 is infinity, the root of 9 is 3 (R367). -/
theorem test_float_ops :
    tAfter (.ffma { r0 with ty := .f32, d := .t 3, a := .t 0, b := .t 1, c := .t 2 }) [0x40400000, 0x3F000000, 0x3F800000] 3 = 0x40200000 ∧
    tAfter (.fdiv { r0 with ty := .f32, d := .t 3, a := .t 0, b := .t 1 }) [0x3F800000, 0] 3 = 0x7F800000 ∧
    tAfter (.fsqrt { r0 with ty := .f32, d := .t 3, a := .t 0 }) [0x41100000] 3 = 0x40400000 := by
  set_option maxRecDepth 20000 in decide

/-- A word under a false guard changes no register (R190). -/
theorem test_guard : tAfter (.add { r0 with g := ⟨1, false, true⟩, d := .t 0, a := .t 1, b := .t 1 }) [9, 5] 0 = 9 := by
  set_option maxRecDepth 20000 in decide

/-! ### Clocks: the worked trace of the operating-point table -/

/-- An entry of the trace's table: MAT, VEC, NET, MEM and the cost (R43). -/
def opp (m v n e cost : Nat) : Word := BitVec.ofNat 64 (2 ^ 63 + cost * 2 ^ 40 + e * 2 ^ 18 + n * 2 ^ 12 + v * 2 ^ 6 + m)
def traceOpp : List Word :=
  [opp 8 8 16 16 90, opp 24 24 48 32 600, opp 28 28 40 32 560, opp 32 32 40 32 640, opp 32 28 48 32 660, opp 40 32 40 32 760]
    ++ List.replicate 58 0

/-- A request: four multipliers and their weights (R45). -/
def ask (m v n e wm wv wn we : Nat) : Word :=
  BitVec.ofNat 64 (we * 2 ^ 36 + wn * 2 ^ 32 + wv * 2 ^ 28 + wm * 2 ^ 24 + e * 2 ^ 18 + n * 2 ^ 12 + v * 2 ^ 6 + m)

/-- The distances of entries 0 to 5 from request A are 328, 8, 72, 72, 12 and 80 (R48). -/
theorem test_opp_distances :
    (traceOpp.take 6).map (fun e => oppDistance e (reqTerms (ask 24 32 48 32 1 1 8 2))) = [328, 8, 72, 72, 12, 80] := by
  set_option maxRecDepth 20000 in decide

/-- The trace's package: launch A of class 3 on dies 0 and 1, launch B of class 5 on dies 2 and 3. -/
def traceS (cap : Nat) : State :=
  { world with
    clk := { world.clk with opp := traceOpp, pbase := 420, cap := cap }
    launches := [(1, { launch1 with cls := 3, tileset := [0x000, 0x200], clkreq := ask 24 32 48 32 1 1 8 2 }),
                 (2, { launch1 with cls := 5, tileset := [0x400, 0x600], clkreq := ask 40 32 40 32 8 2 1 1 })] }

/-- Dies 2, 3, 0 and 1 are granted entries 5, 5, 1 and 0 under 3,000 W, and 5, 5, 1 and 1 under 3,200 W (R49). -/
theorem test_grants :
    grants (traceS 3000) = [(2, 5), (3, 5), (0, 1), (1, 0)] ∧ grants (traceS 3200) = [(2, 5), (3, 5), (0, 1), (1, 1)] := by
  set_option maxRecDepth 20000 in decide +kernel

/-! ### Addresses: the worked example -/

/-- The example's win2 and lease. -/
def exWin : Win := { base := 0x800010000000001A, limit := 0x1000003F0003, offset := 0xFF02000000000 }
def exLaunch : Launch := { launch1 with leases := [{ start := 0xFF02000000000, pages := 32, access := 3 }] }
def exForm (k : Acc) (va : Word) (n : Nat) : Except (BitVec 8) Word :=
  (formAddr world exLaunch [{}, {}, exWin] 4 k va n).map (fun f => f.ia.zeroExtend 64)

/-- The six rows of the example, in its order. -/
theorem test_address_example :
    [exForm .load 0x100000010008 8, exForm .store 0x1000003FFFF8 16, exForm .atomic 0x100000000100 8,
     exForm .load 0x100000000000000 8, exForm .load 0xFFFFFFFFFFFFFFFC 8, exForm .load 0x100000300000 8]
      = [.ok 0xFF02000010008, .error cWindowRange, .error cWindowPermission, .error cNonCanonical, .error cNonCanonical,
         .error cLeaseViolation] := by
  set_option maxRecDepth 20000 in decide

/-! ### Number formats -/

/-- The L4 example: 6.0, -3.0, 1.5, 0.75 and zeros encode with scale byte 0x60 and codes 7, D, 3, 2, inexactly (R258). -/
theorem test_l4_example :
    (let r := l4Block [0, 1, 2, 3] .rne 0 ((List.map (fun b => FFmt.f32.decode b) [0x40C00000, 0xC0400000, 0x3FC00000, 0x3F400000])
        ++ List.replicate 12 (.fin false 0 0))
     (r.1, r.2.1, r.2.2.nx)) = (0x60, [7, 0xD, 3, 2] ++ List.replicate 12 0, true) := by
  set_option maxRecDepth 20000 in decide +kernel

/-- The packed payload of the same block reads 0xD7, 0x23. -/
theorem test_l4_packing : packNib [7, 0xD, 3, 2] = [0xD7, 0x23] := by decide

/-- Pairs against single steps: 2^24 and two products of 1 give 2^24 in BF16 and 2^24 + 2 in E4M3 (R265). -/
theorem test_accumulation_example :
    (accElem (macs .bf16) none 0x4B800000 [.fin false 1 0, .fin false 1 0] [.fin false 1 0, .fin false 1 0]).1 = 0x4B800000 ∧
    (accElem (macs .e4m3) none 0x4B800000 [.fin false 1 0, .fin false 1 0] [.fin false 1 0, .fin false 1 0]).1 = 0x4B800001 := by
  set_option maxRecDepth 20000 in decide +kernel

/-- The matrix example's element: 8.0 decayed by 0.5, then 128 products of 0.125, is 20.0 (R436). -/
theorem test_decay_example :
    (accElem (macs .bf16) (some 0x3F000000) 0x41000000 (List.replicate 128 (.fin false 1 0)) (List.replicate 128 (.fin false 1 (-3)))).1
      = 0x41A00000 := by
  set_option maxRecDepth 20000 in decide +kernel

/-- The wavelet example's column: 32 rows of 3.0 and 32 of 5.0 transform to 4.0, -1.0 and zeros; with 1.0 added to row 0 the
inverse gives 4.0 and 6.0 (R270, R283). -/
theorem test_haar_example :
    (fwd64 (List.replicate 32 0x40400000 ++ List.replicate 32 0x40A00000)).1 = [0x40800000, 0xBF800000] ++ List.replicate 62 0 ∧
    (inv64 ([0x40A00000, 0xBF800000] ++ List.replicate 62 0)).1 = List.replicate 32 0x40800000 ++ List.replicate 32 0x40C00000 := by
  set_option maxRecDepth 20000 in decide +kernel

/-- Row 1 is level 6 and takes th5; row 0 takes th6: -1.0 survives 0.5 but not 2.0 (R271, R274). -/
theorem test_thresholds : thIndex 1 1 9 = 5 ∧ thIndex 1 0 9 = 6 ∧ survives 0xBF800000 0x3F000000 = true ∧ survives 0xBF800000 0x40000000 = false := by
  decide

/-! ### Nodes -/

/-- Bodies of the tokens a node sends, with their tags. -/
def sent (i : Instr) (f : Firing) : List (Body × BitVec 20) := (after i (nodeS f)).net.map (fun x => (x.tok.body, x.tok.tag))

/-- The issue-order trace: node add of 1 and 10 sends 11 to both destinations; mul by the literal 3 sends 15. -/
theorem test_node_arithmetic :
    sent (.nodeAdd (recA 2)) (fir [(0, tok 1), (1, tok 10)]) = [(.scalar 11, 0), (.scalar 11, 0)] ∧
    sent (.nodeMul (recA 2 true 3)) (fir [(0, tok 5)]) = [(.scalar 15, 0), (.scalar 15, 0)] := by
  set_option maxRecDepth 20000 in decide +kernel

/-- sub is a - b, and the literal is sign-extended: 5 - (-1) is 6 (R342). -/
theorem test_node_sub : sent (.nodeSub (recA 2 true 0xFFFFFFFF)) (fir [(0, tok 5)]) = [(.scalar 6, 0), (.scalar 6, 0)] := by
  set_option maxRecDepth 20000 in decide +kernel

/-- The loop of tag nodes with S 2: tag 2 enters as 8, 8 goes on to 9, 11 leaves as 2, and 11 has no successor (R346):
its poison goes to the one destination of the stored record (R292). -/
theorem test_tag_nodes :
    (sent (.nodeTagin (recA 1 false 2)) { fir [(0, tok 5)] with tag := 2 }).map (·.2) = [8, 8] ∧
    (sent (.nodeTagnext (recA 1 false 2)) { fir [(0, tok 5)] with tag := 8 }).map (·.2) = [9, 9] ∧
    (sent (.nodeTagout (recA 1 false 2)) { fir [(0, tok 40)] with tag := 11 }).map (·.2) = [2, 2] ∧
    (sent (.nodeTagnext (recA 1 false 2)) { fir [(0, tok 5)] with tag := 11 }).map
      (fun x => match x.1 with | .poison p => decide (p.code = cTagOverflow) && decide (x.2 = 11) | _ => false) = [true] := by
  set_option maxRecDepth 20000 in decide +kernel

/-! ### Fetching -/

/-- A `div` word of all-zero operands placed where the step after reset fetches runs there: 0 ÷ 0 sets DZ on the tile (R364),
and the codelet of one word is over. -/
theorem test_step_runs_word :
    (match step (State.reset.withFetchWord 64 0x0503000000000000) with
     | .next u => decide ((tileOf u 0).stat = statDZ) && u.agenda.isEmpty && decide ((slotOf u 0 0).phase = .free)
     | _ => false) = true := by
  set_option maxRecDepth 20000 in decide +kernel

/-- The manual's node slot, fetched by the step after reset: its decoding is the add with two destinations. -/
theorem test_node_slot :
    decodeTableWord 96 0x012CA7029331C00D00000000 = some (.nodeAdd ⟨false, false, 2, ⟨true, 0x4A7, 41, 0⟩, ⟨true, 0x4C7, 3, 1⟩, 0⟩) := by
  set_option maxRecDepth 20000 in decide +kernel

/-! ### Routing, launches, memory logs and digests -/

/-- The scores of the routing trace for experts 40 to 47: 0.5, 2, -1, 2, 0, 1, -3, 0.25. -/
def traceScores : List (BitVec 32) :=
  [0x3F000000, 0x40000000, 0xBF800000, 0x40000000, 0, 0x3F800000, 0xC0400000, 0x3E800000]

/-- The routing trace: of the tie at 2.0 the lower expert takes rank 0 (R207). -/
theorem test_ranks : topK traceScores 2 [] = [1, 3] := by decide

/-- The routing trace: results 3.0 and -1.0 under weights 0.5 and 0.5 sum to 1.0 (R224). -/
theorem test_group_sum :
    groupElem { tag := 3, seq := 17, gate := 1, sower := 2,
                ranks := [{ expert := 41, weight := 0x3F000000, result := some [0x40400000] },
                          { expert := 43, weight := 0x3F000000, result := some [0xBF800000] }] } 0 = 0x3F800000 := by
  set_option maxRecDepth 20000 in decide +kernel

/-- The launch example: plot 6 of die 2 sets bits 724 to 727 and 784 to 787, tiles 0x484 and 0x4E7 among them. -/
theorem test_tile_bits : tileOfBit 724 = 0x484 ∧ tileOfBit 787 = 0x4E7 ∧ plotOf 0x484 = 46 ∧ plotOf 0x4E7 = 46 := by decide

/-- The launch example: under PARTW 0x2082 sixteen slabs are too many and eight are not; 0x3082 makes room (R130). -/
theorem test_partition_example :
    (pwGB 0x2082, pwVB 0x2082, pwAB 0x2082) = (2, 8, 4)
    ∧ declBeyond 0x2082 { vregs := 64, aslabs := 16, scratch := 2097152 } = true
    ∧ declBeyond 0x2082 { vregs := 200, aslabs := 8, scratch := 1048576 } = false
    ∧ declBeyond 0x3082 { vregs := 64, aslabs := 16, scratch := 2097152 } = false := by
  set_option maxRecDepth 20000 in decide

/-- The launch example's graph capacity: 92,800 of 98,304 bytes pass, one bank would not hold them (R130). -/
def exImages : List (Image × Nat) :=
  [({ nodes := [(0, List.replicate 3000 0)], codes := [List.replicate 400 0] }, 0),
   ({ nodes := [(0, List.replicate 2500 0)], codes := [List.replicate 200 0] }, 1)]
theorem test_graph_capacity : overCtx 2 0 exImages 0 = none ∧ overCtx 1 0 exImages 0 = some 0 := by
  set_option maxRecDepth 20000 in decide +kernel

/-- One dirty-range record of two lines at 0x1000 by stream 3 of context 1 (R76). -/
theorem test_dirty_record :
    dirtyRecord 0x1000 256 1 3 5 7 9 =
      [0, 0x10, 0, 0, 0, 0, 0, 0, 0, 1, 0, 0, 0x13, 0, 0, 0, 5, 0, 0, 0, 0, 0, 0, 0, 7, 0, 0, 0, 9, 0, 0, 0] := by
  set_option maxRecDepth 20000 in decide

/-- CRC-32 of the nine digits is the check value published for the parameters of log 31. -/
theorem test_crc32 : crc32 [0x31, 0x32, 0x33, 0x34, 0x35, 0x36, 0x37, 0x38, 0x39] = 0xCBF43926 := by
  set_option maxRecDepth 20000 in decide +kernel

/-- SHA-512 of "abc" begins DDAF 35A1 9361 7ABA, the example published with the function. -/
theorem test_sha512 : (sha512 [0x61, 0x62, 0x63]).take 8 = [0xDD, 0xAF, 0x35, 0xA1, 0x93, 0x61, 0x7A, 0xBA] := by
  set_option maxRecDepth 20000 in decide +kernel

/-! ### Vectors -/

/-- Lanes of register `v` after a word, when v16 and v32 start with the given 32-bit lanes and are zero above them. -/
def vAfter (i : Instr) (a b : List Nat) (v n : Nat) : List Nat :=
  let tl := setReg (setReg tile0 16 (ofLanes 4 a) 0) 32 (ofLanes 4 b) 0
  (lanesAt (tileOf (after i (wordAt (slotT [7, 1]) tl)) 0) .s32 v).take n

/-- Integer lanes wrap: 2^31 - 1 and 1 give 2^31 (R402). -/
theorem test_vadd :
    vAfter (.vadd { v0 with ty := .s32, vd := 8, va := 16, vb := 32 }) [0x7FFFFFFF, 5] [1, 6] 8 3 = [0x80000000, 11, 0] := by
  set_option maxRecDepth 20000 in decide +kernel

/-- A scalar stands for every lane, and a masked-off lane keeps its value: v32 holds 2, so only lane 1 is written (R397, R398). -/
theorem test_vmask :
    vAfter (.vadd { v0 with ty := .s32, vd := 16, va := 16, vb := 1, sb := true, me := true, vm := 32 }) [10, 20, 30] [2] 16 3 = [10, 21, 30] := by
  set_option maxRecDepth 20000 in decide +kernel

/-- `vperm` takes lane b of a (R410). -/
theorem test_vperm :
    vAfter (.vperm { v0 with ty := .f32, vd := 11, va := 16, vb := 32 }) [0, 0xC0000000] [1, 0, 1] 11 3 = [0xC0000000, 0, 0xC0000000] := by
  set_option maxRecDepth 20000 in decide +kernel

/-- A segment of the vector example's `vredmax`: 3.0 among ones is the maximum; one NaN makes it the canonical NaN (R268). -/
theorem test_redmax :
    (redSeg redMax .f32 ((List.replicate 5 0x3F800000 ++ [0x40400000, 0x3F800000, 0xC0000000]).map (·, true))).1 = 0x40400000 ∧
    (redSeg redMax .f32 ([0x3F800000, 0xFFC00001, 0x40400000, 0].map (·, true))).1 = 0x7FC00000 := by
  set_option maxRecDepth 20000 in decide

/-- The fixed tree: (2^24 + 1) + (-2^24 + 0) is 0 where a sum from the left is also 0, and pairs 2^24, -2^24 first leave 1 (R268). -/
theorem test_redsum_tree :
    (redSeg redSum .f32 ([0x4B800000, 0x3F800000, 0xCB800000, 0].map (·, true))).1 = 0 ∧
    (redSeg redSum .f32 ([0x4B800000, 0xCB800000, 0x3F800000, 0].map (·, true))).1 = 0x3F800000 := by
  set_option maxRecDepth 20000 in decide

/-- A scan runs in ascending lanes; a masked-off lane adds nothing (R268). -/
theorem test_vscan : (scanSeg .s32 [(1, true), (5, true), (9, false), (1, true)]).map (·.1) = [1, 6, 6, 7] := by decide

/-- The functions where their values are exact: 2^3, log2 8, 1/4, 1/√4, the logistic of 0, tanh 0 (R405). -/
theorem test_functions :
    fn32 .exp2 0x40400000 = 0x41000000 ∧ fn32 .log2 0x41000000 = 0x40400000 ∧ fn32 .rcp 0x40800000 = 0x3E800000 ∧
    fn32 .rsq 0x40800000 = 0x3F000000 ∧ fn32 .sigm 0 = 0x3F000000 ∧ fn32 .tanh 0 = 0 := by
  set_option maxRecDepth 20000 in decide +kernel

end Sys2Proof.Tests
end

/-! The send permits of the command links (R136). The two directions of a link follow one discipline, so it is stated and proved once,
for a `Lane`: the part of a link that belongs to one direction. -/

namespace Sys2Proof.Links

open Sys2Proof Sys2Proof.Machine Sys2Proof.Spec

/-- One direction of a link: the sender's permits, the messages sent and not yet taken, those that wait for a permit, and the sequence
number of the next message sent. -/
structure Lane where
  permits : Nat
  sent : List Sent
  wait : List Msg
  seq : BitVec 8

def cmdLane (k : Link) : Lane := ⟨k.cmdPermits, k.cmds, k.cmdWait, k.cmdSeq⟩
def evLane (k : Link) : Lane := ⟨k.evPermits, k.events, k.evWait, k.evSeq⟩

/-! ## Sequence numbers -/

/-- The messages of `q` carry consecutive sequence numbers, the last of them the one before `seq`. -/
def Numbered (q : List Sent) (seq : BitVec 8) : Prop :=
  ∀ (i : Nat) (x : Sent), q[i]? = some x → x.seq + BitVec.ofNat 8 (q.length - i) = seq

theorem Numbered.tail {x : Sent} {q : List Sent} {seq : BitVec 8} (h : Numbered (x :: q) seq) : Numbered q seq := by
  intro i y hy
  simpa using h (i + 1) y (by simpa using hy)

theorem Numbered.concat {q : List Sent} {seq : BitVec 8} (h : Numbered q seq) (m : Msg) :
    Numbered (q ++ [{ seq := seq, msg := m }]) (seq + 1) := by
  intro i x hx
  obtain hi | rfl | hi := Nat.lt_trichotomy i q.length
  · have hx' : q[i]? = some x := by rwa [List.getElem?_append_left hi] at hx
    rw [List.length_append, List.length_singleton, Nat.sub_add_comm hi.le, BitVec.ofNat_add, ← BitVec.add_assoc, h i x hx']
    rfl
  · obtain rfl : ⟨seq, m⟩ = x := by simpa using hx
    simp
  · rw [List.getElem?_eq_none (by simpa using hi)] at hx
    contradiction

/-! ## One direction of a link -/

namespace Lane

/-- The invariant of R136 for a direction with `cap` permits. -/
def Ok (cap : Nat) (l : Lane) : Prop :=
  l.permits + l.sent.length = cap ∧ (l.wait ≠ [] → l.permits = 0) ∧ Numbered l.sent l.seq

/-- The messages not yet taken, in the order in which they will be. -/
def msgs (l : Lane) : List Msg := l.sent.map (·.msg) ++ l.wait

/-- Put a message behind those sent; it takes the next sequence number. -/
def push (l : Lane) (m : Msg) : Lane := { l with sent := l.sent ++ [{ seq := l.seq, msg := m }], seq := l.seq + 1 }

/-- A message is sent on a permit, or waits. -/
def send (l : Lane) (m : Msg) : Lane :=
  if l.permits = 0 || !l.wait.isEmpty then { l with wait := l.wait ++ [m] }
  else { l.push m with permits := l.permits - 1 }

/-- The headmost message is taken: its permit returns to the sender, or serves the first message that waits. -/
def take (l : Lane) : Lane :=
  match l.wait with
  | [] => { l with sent := l.sent.tail, permits := l.permits + 1 }
  | w :: ws => { { l with sent := l.sent.tail }.push w with wait := ws }

variable {cap : Nat} {l : Lane} {m : Msg}

theorem send_of_wait (h : l.permits = 0 ∨ l.wait ≠ []) : l.send m = { l with wait := l.wait ++ [m] } := by
  simp [send, h]

theorem send_of_permit (hp : l.permits ≠ 0) (hw : l.wait = []) : l.send m = { l.push m with permits := l.permits - 1 } := by
  simp [send, hp, hw]

theorem take_of_no_wait (h : l.wait = []) : l.take = { l with sent := l.sent.tail, permits := l.permits + 1 } := by
  simp [take, h]

theorem take_of_wait {w : Msg} {ws : List Msg} (h : l.wait = w :: ws) :
    l.take = { { l with sent := l.sent.tail }.push w with wait := ws } := by
  simp [take, h]

theorem Ok.send (h : l.Ok cap) (m : Msg) : (l.send m).Ok cap := by
  obtain ⟨hcap, hwait, hseq⟩ := h
  by_cases hw : l.permits = 0 ∨ l.wait ≠ []
  · have hp : l.permits = 0 := hw.elim id hwait
    rw [send_of_wait hw]
    exact ⟨hcap, fun _ => hp, hseq⟩
  · obtain ⟨hp, hw⟩ : l.permits ≠ 0 ∧ l.wait = [] := by simpa using hw
    rw [send_of_permit hp hw]
    refine ⟨?_, fun h => absurd hw h, hseq.concat m⟩
    simp only [push, List.length_append, List.length_singleton]
    omega

theorem msgs_send (l : Lane) (m : Msg) : (l.send m).msgs = l.msgs ++ [m] := by
  by_cases hw : l.permits = 0 ∨ l.wait ≠ []
  · simp [send_of_wait hw, msgs]
  · obtain ⟨hp, hw⟩ : l.permits ≠ 0 ∧ l.wait = [] := by simpa using hw
    simp [send_of_permit hp hw, msgs, push, hw]

theorem sent_eq_cons_of_head {q : List Sent} (h : q.head?.map (·.msg) = some m) : ∃ x t, q = x :: t ∧ x.msg = m := by
  cases q with
  | nil => simp at h
  | cons x t => exact ⟨x, t, rfl, by simpa using h⟩

theorem Ok.take (h : l.Ok cap) (hm : l.sent.head?.map (·.msg) = some m) : l.take.Ok cap := by
  obtain ⟨hcap, hwait, hseq⟩ := h
  obtain ⟨x, t, hs, -⟩ := sent_eq_cons_of_head hm
  rw [hs] at hcap hseq
  cases hw : l.wait with
  | nil =>
    rw [take_of_no_wait hw]
    refine ⟨?_, fun h => absurd hw h, by simpa [hs] using hseq.tail⟩
    simp only [hs, List.tail_cons, List.length_cons] at hcap ⊢
    omega
  | cons w ws =>
    rw [take_of_wait hw]
    refine ⟨?_, fun _ => hwait (by simp [hw]), by simpa [push, hs] using hseq.tail.concat w⟩
    simpa [push, hs] using hcap

theorem cons_msgs_take (hm : l.sent.head?.map (·.msg) = some m) : m :: l.take.msgs = l.msgs := by
  obtain ⟨x, t, hs, rfl⟩ := sent_eq_cons_of_head hm
  cases hw : l.wait with
  | nil => simp [take_of_no_wait hw, msgs, hs, hw]
  | cons w ws => simp [take_of_wait hw, msgs, push, hs, hw]

end Lane

/-! ## A link is its two lanes -/

theorem linkOk_iff (k : Link) : LinkOk k ↔ (cmdLane k).Ok 4 ∧ (evLane k).Ok 8 := by
  constructor
  · rintro ⟨hc, he, hcw, hew, hcs, hes⟩
    exact ⟨⟨hc, hcw, hcs⟩, he, hew, hes⟩
  · rintro ⟨⟨hc, hcw, hcs⟩, he, hew, hes⟩
    exact ⟨hc, he, hcw, hew, hcs, hes⟩

theorem cmdsOf_eq_msgs (k : Link) : cmdsOf k = (cmdLane k).msgs := rfl
theorem evsOf_eq_msgs (k : Link) : evsOf k = (evLane k).msgs := rfl

variable (s : State) (p : Nat) (m : Msg)

@[simp] theorem cmdLane_sendCmd : cmdLane (linkOf (sendCmd s p m) p) = (cmdLane (linkOf s p)).send m := by
  rw [sendCmd, linkOf_modLink, apply_ite cmdLane]
  rfl

@[simp] theorem evLane_sendCmd : evLane (linkOf (sendCmd s p m) p) = evLane (linkOf s p) := by
  simp only [sendCmd, linkOf_modLink]
  split <;> rfl

@[simp] theorem evLane_sendEv : evLane (linkOf (sendEv s p m) p) = (evLane (linkOf s p)).send m := by
  rw [sendEv, linkOf_modLink, apply_ite evLane]
  rfl

@[simp] theorem cmdLane_sendEv : cmdLane (linkOf (sendEv s p m) p) = cmdLane (linkOf s p) := by
  simp only [sendEv, linkOf_modLink]
  split <;> rfl

theorem linkOf_sendCmd_ne {p' : Nat} (h : p' ≠ p) : linkOf (sendCmd s p m) p' = linkOf s p' := linkOf_modLink_ne _ _ _ _ h

theorem linkOf_sendEv_ne {p' : Nat} (h : p' ≠ p) : linkOf (sendEv s p m) p' = linkOf s p' := linkOf_modLink_ne _ _ _ _ h

@[simp] theorem cmdLane_cmdTaken : cmdLane (linkOf (cmdTaken s p) p) = (cmdLane (linkOf s p)).take := by
  simp only [cmdTaken, linkOf_modLink, Lane.take, cmdLane]
  cases (linkOf s p).cmdWait <;> rfl

@[simp] theorem evLane_cmdTaken : evLane (linkOf (cmdTaken s p) p) = evLane (linkOf s p) := by
  simp only [cmdTaken, linkOf_modLink]
  cases (linkOf s p).cmdWait <;> rfl

@[simp] theorem evLane_evTaken : evLane (linkOf (evTaken s p) p) = (evLane (linkOf s p)).take := by
  simp only [evTaken, linkOf_modLink, Lane.take, evLane]
  cases (linkOf s p).evWait <;> rfl

@[simp] theorem cmdLane_evTaken : cmdLane (linkOf (evTaken s p) p) = cmdLane (linkOf s p) := by
  simp only [evTaken, linkOf_modLink]
  cases (linkOf s p).evWait <;> rfl

/-! ## The invariant of a link -/

/-- With no message on the link, every permit is with its sender. -/
theorem linkOk_empty : LinkOk {} := by simp [LinkOk]

variable {s p m}

theorem linkOk_sendCmd (h : LinkOk (linkOf s p)) : LinkOk (linkOf (sendCmd s p m) p) := by
  obtain ⟨hc, he⟩ := (linkOk_iff _).mp h
  exact (linkOk_iff _).mpr (by simpa using ⟨hc.send m, he⟩)

theorem linkOk_sendEv (h : LinkOk (linkOf s p)) : LinkOk (linkOf (sendEv s p m) p) := by
  obtain ⟨hc, he⟩ := (linkOk_iff _).mp h
  exact (linkOk_iff _).mpr (by simpa using ⟨hc, he.send m⟩)

theorem linkOk_cmdTaken (hm : CmdAt s p m) (h : LinkOk (linkOf s p)) : LinkOk (linkOf (cmdTaken s p) p) := by
  obtain ⟨hc, he⟩ := (linkOk_iff _).mp h
  exact (linkOk_iff _).mpr (by simpa using ⟨hc.take hm.2, he⟩)

theorem linkOk_evTaken (hm : EvAt s p m) (h : LinkOk (linkOf s p)) : LinkOk (linkOf (evTaken s p) p) := by
  obtain ⟨hc, he⟩ := (linkOk_iff _).mp h
  exact (linkOk_iff _).mpr (by simpa using ⟨hc, he.take hm⟩)

/-! ## No message is dropped and none overtakes another -/

theorem cmdsOf_sendCmd : cmdsOf (linkOf (sendCmd s p m) p) = cmdsOf (linkOf s p) ++ [m] := by
  simp only [cmdsOf_eq_msgs, cmdLane_sendCmd, Lane.msgs_send]

theorem evsOf_sendEv : evsOf (linkOf (sendEv s p m) p) = evsOf (linkOf s p) ++ [m] := by
  simp only [evsOf_eq_msgs, evLane_sendEv, Lane.msgs_send]

theorem cons_cmdsOf_cmdTaken (hm : CmdAt s p m) : m :: cmdsOf (linkOf (cmdTaken s p) p) = cmdsOf (linkOf s p) := by
  rw [cmdsOf_eq_msgs, cmdLane_cmdTaken, Lane.cons_msgs_take hm.2, cmdsOf_eq_msgs]

theorem cons_evsOf_evTaken (hm : EvAt s p m) : m :: evsOf (linkOf (evTaken s p) p) = evsOf (linkOf s p) := by
  rw [evsOf_eq_msgs, evLane_evTaken, Lane.cons_msgs_take (l := evLane (linkOf s p)) hm, evsOf_eq_msgs]

/-- Settles O52: each direction of a link is a `Lane`, and sending and taking keep the invariant and the order of a lane. -/
theorem permitsOnLinks : Obligations.PermitsOnLinks := by
  refine ⟨rfl, rfl, linkOk_empty, fun s p m h => ?_, fun s p m hm h => ?_, fun s p m hm h => ?_⟩
  · exact ⟨linkOk_sendCmd h, linkOk_sendEv h, cmdsOf_sendCmd, evsOf_sendEv,
      fun p' hp => ⟨linkOf_sendCmd_ne s p m hp, linkOf_sendEv_ne s p m hp⟩⟩
  · exact ⟨linkOk_cmdTaken hm h, cons_cmdsOf_cmdTaken hm⟩
  · exact ⟨linkOk_evTaken hm h, cons_evsOf_evTaken hm⟩

end Sys2Proof.Links

/-! The scalar integer, compare and predicate words (R360, R361, R364 to R366, R371). A word built by `scalarWord` has the effect its
`Sc` names once the two agree on the value, the predicate and the sticky bits; what is left for each word is that agreement. -/

namespace Sys2Proof.ScalarWords

open Sys2Proof Sys2Proof.Machine Sys2Proof.Spec Sys2Proof.Laws

/-! ## Sticky bits leave the words in error alone -/

section Sticky

variable {s s1 : State} {t a n : Nat} {f f1 : Firing} {b : Word} {write : Bool}

theorem sound_modTile {g : Tile → Tile} (hg : ∀ x, (g x).badWords = x.badWords) (h : Sound s t) : Sound (modTile s t g) t := by
  rw [Sound, tileOf_modTile, hg]
  exact h

theorem sound_setSlot {k : Fin 4} {sl : Slot} (h : Sound s t) : Sound (setSlot s t k sl) t := sound_modTile (fun _ => rfl) h

theorem sound_trackTile (h : trackTile s t f write a n = .ok (s1, f1)) (hs : Sound s t) : Sound s1 t := by
  unfold trackTile at h
  split at h
  · cases h
    exact hs
  · dsimp only at h
    split at h
    · contradiction
    · cases h
      exact sound_modTile (fun _ => rfl) hs

theorem sound_setSticky (h : setSticky s t f b = .ok (s1, f1)) (hs : Sound s t) : Sound s1 t := by
  unfold setSticky at h
  split at h
  · cases h
    exact hs
  · split at h
    · contradiction
    next ht =>
      cases h
      exact sound_modTile (fun _ => rfl) (sound_trackTile ht hs)

@[simp] theorem setSticky_zero (s : State) (t : Nat) (f : Firing) : setSticky s t f 0#64 = .ok (s, f) := if_pos rfl

@[simp] theorem stat_none : Fl.stat {} = 0#64 := by decide

@[simp] theorem stat_dz : Fl.stat { dz := true } = statDZ := by decide

end Sticky

/-! ## The frame of a scalar word -/

/-- A word that sets its sticky bits goes on with the state and the firing that setting them leaves (R371). -/
theorem stickyWord_ok {s s1 : State} {t : Nat} {sl : Slot} {m : Bool} {fl : Fl} {f1 : Firing} (next : State → Slot → WRes)
    (h : setSticky s t sl.firing (if m then 0 else fl.stat) = .ok (s1, f1)) :
    stickyWord s t sl m fl next = next s1 { sl with firing := f1 } := by
  cases m with
  | true =>
    obtain ⟨rfl, rfl⟩ : s = s1 ∧ sl.firing = f1 := by simpa using h
    rfl
  | false =>
    simp only [Bool.false_eq_true, if_false] at h
    simp only [stickyWord, h, Bool.false_eq_true, if_false]

/-- A scalar word that computes the value, the predicate and the sticky bits of `c` has the effect `c` (R202, R371). -/
theorem effect_of_scalarWord {c : Sc} {i : Instr} {work : Slot → Calc}
    (hi : exec i = scalarWord c.g c.srcs c.psrcs c.d c.pd work) (hval : ∀ sl, (work sl).val = c.val sl)
    (hpred : ∀ sl, (work sl).pred = c.pred sl) (hfl : ∀ sl, (work sl).fl.stat = c.sticky sl) : c.Effect i := by
  rintro s t k s1 f1 ⟨⟨hfocus, hrun⟩, hset, hpass, hs⟩ hst
  have hp : (c.srcs ++ c.d.toList).any (opPending (slotOf s t k)) = false := List.any_eq_false.mpr fun o ho => by simp [hset o ho]
  rw [← hfl, Sc.mark, guardMark] at hst
  rw [hi, scalarWord, runWord, runWordE_runs hfocus hrun hp (by simp [parityBad_sound hs]) hpass (by simp) (parityBad_sound hs _),
    parityBad_sound hs, if_neg Bool.false_ne_true]
  dsimp only
  rw [stickyWord_ok _ hst, mend_go, mendTile_sound (sound_setSlot (sound_setSticky hst hs)), hval, hpred]
  rfl

/-! ## Reading and writing under a type (R360, R361) -/

section Types

variable {t : Ty} {x y : Word}

@[simp] theorem tyW_eq_width (t : Ty) : tyW t = width t := by cases t <;> rfl

@[simp] theorem tySigned_eq_not_isZ (t : Ty) : tySigned t = !isZ t := by cases t <;> rfl

/-- A pattern under a signed reading is the two's complement integer of its low bits. -/
theorem signed_eq_toInt (n v : Nat) : signed n v = (BitVec.ofNat n v).toInt := by
  rw [BitVec.toInt_eq_msb_cond, BitVec.msb_eq_getLsbD_last, ← BitVec.testBit_toNat, BitVec.toNat_ofNat]
  simp [signed]

theorem signed_eq_bmod (n v : Nat) : signed n v = (v : Int).bmod (2 ^ n) := by
  rw [signed_eq_toInt, BitVec.toInt_eq_toNat_bmod, BitVec.toNat_ofNat, Int.natCast_emod, Int.emod_bmod]

@[simp] theorem rdInt_eq_rd (t : Ty) (x : Word) : rdInt t x = rd t x := by
  cases hz : isZ t <;> simp [rdInt, rd, hz, signed_eq_bmod]

@[simp] theorem wrInt_eq_wr (t : Ty) (r : Int) : wrInt t r = wr t r := by
  have hnat : ((r % 2 ^ width t).toNat : Int) = r % 2 ^ width t := Int.toNat_of_nonneg (Int.emod_nonneg _ (by positivity))
  cases hz : isZ t with
  | true =>
    simp only [wrInt, wr, hz, tyW_eq_width, tySigned_eq_not_isZ, Bool.not_true, Bool.false_eq_true, if_false, if_true]
    rw [← hnat, BitVec.ofInt_natCast, Int.toNat_natCast]
  | false =>
    have hmod : (r % 2 ^ width t).bmod (2 ^ width t) = r.bmod (2 ^ width t) := by
      simpa using Int.emod_bmod r (2 ^ width t)
    simp [wrInt, wr, hz, signed_eq_bmod, hnat, hmod]

@[simp] theorem immVal_eq_immOf (t : Ty) (i : BitVec 32) : immVal t i = immOf t i := by
  cases hz : isZ t with
  | true => simp [immVal, immOf, hz]
  | false => simp [immVal, immOf, hz, BitVec.signExtend]

@[simp] theorem wr_zero (t : Ty) : wr t 0 = 0#64 := by simp [wr]

/-- A type that reads as unsigned reads no negative integer. -/
theorem rd_nonneg (hz : isZ t = true) : 0 ≤ rd t x := by
  rw [rd, if_pos hz]
  exact Int.natCast_nonneg _

theorem isZ_of_rd_eq_neg_one (h : rd t x = -1) : isZ t = false := by
  by_contra hz
  have := rd_nonneg (x := x) (by simpa using hz : isZ t = true)
  omega

end Types

/-! ## Division (R364) -/

section Division

variable (t : Ty) (x y : Word)

/-- Only a signed type meets the overflowing quotient, so the reading of the type need not be asked. -/
theorem signed_overflow_iff :
    (tySigned t && rd t x = -(2 ^ (tyW t - 1) : Int) && rd t y = -1) = true ↔ rd t x = -2 ^ (width t - 1) ∧ rd t y = -1 := by
  simp only [tyW_eq_width, tySigned_eq_not_isZ, Bool.and_eq_true, decide_eq_true_eq, Bool.not_eq_true', and_assoc,
    and_iff_right_iff_imp]
  exact fun h => isZ_of_rd_eq_neg_one h.2

theorem divInt_rd :
    divInt t (rd t x) (rd t y) =
      if rd t y = 0 then (0, { dz := true })
      else if rd t x = -2 ^ (width t - 1) ∧ rd t y = -1 then (rd t x, {}) else ((rd t x).tdiv (rd t y), {}) := by
  simp only [divInt, signed_overflow_iff]

theorem remInt_rd :
    remInt t (rd t x) (rd t y) =
      if rd t y = 0 then (rd t x, { dz := true })
      else if rd t x = -2 ^ (width t - 1) ∧ rd t y = -1 then (0, {})
      else (rd t x - rd t y * (rd t x).tdiv (rd t y), {}) := by
  simp only [remInt, signed_overflow_iff, Int.tmod_def]

theorem iop_div_val : (iop .div t x y).1 = rDiv t x y := by
  simp only [iop, rdInt_eq_rd, wrInt_eq_wr, divInt_rd, rDiv]
  split_ifs <;> simp

theorem iop_rem_val : (iop .rem t x y).1 = rRem t x y := by
  simp only [iop, rdInt_eq_rd, wrInt_eq_wr, remInt_rd, rRem]
  split_ifs <;> simp

theorem iop_div_stat : (iop .div t x y).2.stat = if rd t y = 0 then statDZ else 0 := by
  simp only [iop, rdInt_eq_rd, divInt_rd]
  split_ifs <;> simp

theorem iop_rem_stat : (iop .rem t x y).2.stat = if rd t y = 0 then statDZ else 0 := by
  simp only [iop, rdInt_eq_rd, remInt_rd]
  split_ifs <;> simp

end Division

/-- A two-operand integer word in register form has the value and the sticky bits of its operation. -/
theorem effect_of_intR {w : RWord} {i : Instr} {o : IOp} {f : Word → Word → Word} {st : Slot → Word} (hi : exec i = intR o w)
    (hval : ∀ x y, (iop o w.ty x y).1 = f x y) (hst : ∀ sl, (iop o w.ty (opVal sl w.a) (opVal sl w.b)).2.stat = st sl) :
    Sc.Effect { reg2 w f with sticky := st } i :=
  effect_of_scalarWord (hi.trans (rfl : _ = scalarWord _ _ _ _ _ _)) (fun _ => hval ..) (fun _ => rfl) hst

/-- R364: the quotient or the remainder, with DZ where the divisor reads as 0. -/
theorem integerDivision : IntegerDivision := fun w =>
  ⟨effect_of_intR (rfl : _ = execDiv w) (iop_div_val w.ty) (fun _ => iop_div_stat ..),
    effect_of_intR (rfl : _ = execRem w) (iop_rem_val w.ty) (fun _ => iop_rem_stat ..)⟩

/-! ## Shaped integer words (R365) -/

section Shaped

variable (x y : Word)

/-- `ext` takes the field at `y mod 64` and extends it as its type reads. -/
theorem extPat_eq_extend (t : Ty) (len : Nat) :
    extPat t len x.toNat y.toNat =
      let f := (x >>> (y.toNat % 64)).extractLsb' 0 len
      if t = .z64 then f.zeroExtend 64 else f.signExtend 64 := by
  have hf : x.toNat >>> (y.toNat % 64) % 2 ^ len = ((x >>> (y.toNat % 64)).extractLsb' 0 len).toNat := by simp
  simp only [extPat, hf, signed_eq_toInt, BitVec.ofNat_toNat, BitVec.setWidth_eq, BitVec.signExtend, BitVec.truncate_eq_setWidth]

/-- `bext` gathers, to bit `j + m`, the bit of `a` at the position of the `m`-th set bit of `b` in the list. -/
theorem bextGo_eq_sum (a b j : Nat) (l : List Nat) {n : Nat} (hn : l.length ≤ n) :
    bextGo a b l j = ((List.range n).map fun m => if ((l.filter b.testBit)[m]?).any a.testBit then 2 ^ (j + m) else 0).sum := by
  induction l generalizing j n with
  | nil => simp [bextGo]
  | cons i l ih =>
    obtain ⟨n, rfl⟩ : ∃ n', n = n' + 1 := ⟨n - 1, by simp at hn; omega⟩
    have hl : l.length ≤ n := by simpa using hn
    cases hb : b.testBit i with
    | true =>
      simp only [bextGo, hb, if_true, ih (j + 1) hl, List.filter_cons_of_pos, List.range_succ_eq_map, List.map_cons, List.map_map,
        List.sum_cons]
      simp [Function.comp_def, Nat.add_assoc, Nat.add_comm 1]
    | false => simp [bextGo, hb, ih j (Nat.le_succ_of_le hl)]

/-- `bdep` scatters, to the set bits of `b` from bit `k` on, the bits of `a` counted by the set bits of `b` below. -/
theorem bdepGo_eq_sum (a b k n : Nat) :
    bdepGo a b (List.range' k n) ((List.range k).countP b.testBit) =
      ((List.range' k n).map fun i => if b.testBit i && a.testBit ((List.range i).countP b.testBit) then 2 ^ i else 0).sum := by
  induction n generalizing k with
  | zero => rfl
  | succ n ih =>
    cases hb : b.testBit k with
    | true =>
      have hcount : (List.range (k + 1)).countP b.testBit = (List.range k).countP b.testBit + 1 := by simp [List.range_succ, hb]
      simp [List.range'_succ, bdepGo, hb, ← hcount, ih]
    | false =>
      have hcount : (List.range (k + 1)).countP b.testBit = (List.range k).countP b.testBit := by simp [List.range_succ, hb]
      simp [List.range'_succ, bdepGo, hb, ← hcount, ih]

theorem bextGo_eq_ofBits :
    BitVec.ofNat 64 (bextGo x.toNat y.toNat (List.range 64) 0) = ofBits fun j => ((ones y)[j]?).any fun i => x.getLsbD i := by
  have hy : y.toNat.testBit = y.getLsbD := funext fun _ => BitVec.testBit_toNat y
  have hx : x.toNat.testBit = x.getLsbD := funext fun _ => BitVec.testBit_toNat x
  rw [bextGo_eq_sum _ _ _ _ (n := 64) (by simp), hx, hy]
  simp only [Nat.zero_add]
  rfl

theorem bdepGo_eq_ofBits :
    BitVec.ofNat 64 (bdepGo x.toNat y.toNat (List.range 64) 0) =
      ofBits fun i => y.getLsbD i && x.getLsbD ((List.range i).countP fun j => y.getLsbD j) := by
  have hy : y.toNat.testBit = y.getLsbD := funext fun _ => BitVec.testBit_toNat y
  have hx : x.toNat.testBit = x.getLsbD := funext fun _ => BitVec.testBit_toNat x
  have h := bdepGo_eq_sum x.toNat y.toNat 0 64
  rw [hx, hy, ← List.range_eq_range'] at h
  exact congrArg (BitVec.ofNat 64) h

theorem shiftLeft_eq_mul_ofNat (n : Nat) : y <<< n = y * BitVec.ofNat 64 (2 ^ n) := by
  rw [BitVec.shiftLeft_eq_mul_twoPow]
  congr 1
  exact BitVec.eq_of_toNat_eq (by simp)

/-- `movi.hi` replaces the high half and keeps the low half. -/
theorem high_or_low (i : BitVec 32) :
    i.setWidth 64 <<< 32 ||| (x.extractLsb' 0 32).setWidth 64 = BitVec.ofNat 64 (i.toNat * 2 ^ 32 + x.toNat % 2 ^ 32) := by
  have hlow : x.toNat % 2 ^ 32 < 2 ^ 32 := Nat.mod_lt _ (by decide)
  have hhigh : i.toNat < 18446744073709551616 := i.isLt.trans (by decide)
  apply BitVec.eq_of_toNat_eq
  rw [← Nat.shiftLeft_eq, Nat.shiftLeft_add_eq_or_of_lt hlow, BitVec.ofNat_or]
  simp [Nat.mod_eq_of_lt hhigh]

end Shaped

/-! ## What is no legal encoding -/

section Checks

variable {tys : List Ty} {e : Option WfError}

theorem firstOf_ne_none {l : List (Option WfError)} (hl : e ∈ l) (he : e ≠ none) : firstOf l ≠ none := fun h =>
  he (List.findSome?_eq_none_iff.mp h e hl)

theorem okIf_ne_none {b : Bool} {x : WfError} (h : b = false) : okIf b x ≠ none := by simp [okIf, h]

theorem checkR_ne_none {w : RWord} {u : UseR} (h : e ≠ none) : checkR w tys u e ≠ none := firstOf_ne_none (by simp) h

theorem checkI_ne_none {w : IWord} {u : UseI} (h : e ≠ none) : checkI w tys u e ≠ none := firstOf_ne_none (by simp) h

theorem checkI_ne_none_of_type {w : IWord} {u : UseI} (h : w.ty ∉ tys) : checkI w tys u e ≠ none :=
  firstOf_ne_none (e := okIf (tys.contains w.ty) .type) (by simp) (okIf_ne_none (by simpa using h))

end Checks

/-- R365, each word by the value it computes. -/
theorem shapedIntegerWords : ShapedIntegerWords := by
  refine ⟨fun w => ⟨?_, ?_, ?_, ?_, fun h => ?_⟩, fun w => ⟨?_, ?_, fun h => ?_⟩⟩
  · exact effect_of_scalarWord (rfl : _ = execExtR w) (fun _ => extPat_eq_extend ..) (fun _ => rfl) (fun _ => stat_none)
  · exact effect_of_scalarWord (rfl : _ = execBext w) (fun _ => bextGo_eq_ofBits ..) (fun _ => rfl) (fun _ => stat_none)
  · exact effect_of_scalarWord (rfl : _ = execBdep w) (fun _ => bdepGo_eq_ofBits ..) (fun _ => rfl) (fun _ => stat_none)
  · exact effect_of_scalarWord (rfl : _ = execLea w) (fun _ => congrArg (_ + ·) (shiftLeft_eq_mul_ofNat ..)) (fun _ => rfl)
      (fun _ => stat_none)
  · exact checkR_ne_none (okIf_ne_none (by simpa using Nat.lt_of_succ_le h))
  · exact effect_of_scalarWord (rfl : _ = execMovi w) (fun _ => by simp) (fun _ => rfl) (fun _ => stat_none)
  · exact effect_of_scalarWord (rfl : _ = execMoviHi w) (fun _ => high_or_low ..) (fun _ => rfl) (fun _ => stat_none)
  · exact checkI_ne_none_of_type (by simpa using h)

/-! ## Compares, tests and selections (R366) -/

theorem condOf_icmp (cc : Cc) (a b : Int) : condOf cc (icmp a b) = Spec.cond cc a b := by
  obtain h | rfl | h := lt_trichotomy a b
  · cases cc <;> simp [condOf, icmp, Spec.cond, h, h.ne, h.le, h.not_gt]
  · cases cc <;> simp [condOf, icmp, Spec.cond]
  · cases cc <;> simp [condOf, icmp, Spec.cond, h, h.ne', h.le, h.not_gt]

/-- Two patterns share a set bit exactly when their conjunction is not 0. -/
theorem rdPat_and_ne_zero (t : Ty) (x y : Word) :
    decide (rdPat t x &&& rdPat t y ≠ 0) = (List.range (width t)).any fun i => x.getLsbD i && y.getLsbD i := by
  have hbit (i : Nat) : (rdPat t x &&& rdPat t y).testBit i = (decide (i < width t) && (x.getLsbD i && y.getLsbD i)) := by
    simp only [rdPat, tyW_eq_width, Nat.testBit_and, Nat.testBit_mod_two_pow, BitVec.testBit_toNat]
    cases decide (i < width t) <;> simp
  rw [Bool.eq_iff_iff, decide_eq_true_iff, List.any_eq_true]
  constructor
  · intro h
    obtain ⟨i, hi⟩ := Nat.exists_testBit_of_ne_zero h
    rw [hbit] at hi
    exact ⟨i, by simpa using hi⟩
  · rintro ⟨i, hi, hxy⟩ h
    have := hbit i
    simp [h, List.mem_range.mp hi, hxy] at this

/-- R366, each word by the predicate or the value it computes. -/
theorem compareAndPredicateWords : CompareAndPredicateWords := by
  refine ⟨fun w => ⟨?_, ?_, ?_, ?_, ?_, ?_, fun h => ?_⟩, fun w => ⟨?_, fun h => ?_⟩⟩
  · exact effect_of_scalarWord (rfl : _ = execCmp w) (fun _ => rfl) (fun _ => by rw [condOf_icmp, rdInt_eq_rd, rdInt_eq_rd])
      (fun _ => stat_none)
  · exact effect_of_scalarWord (rfl : _ = execTst w) (fun _ => rfl) (fun _ => rdPat_and_ne_zero ..) (fun _ => stat_none)
  · exact effect_of_scalarWord (rfl : _ = execSel w) (fun _ => by rw [wrInt_eq_wr, rdInt_eq_rd, apply_ite (opVal _)]) (fun _ => rfl)
      (fun _ => stat_none)
  · exact effect_of_scalarWord (rfl : _ = execPand w) (fun _ => rfl) (fun _ => rfl) (fun _ => stat_none)
  · exact effect_of_scalarWord (rfl : _ = execPor w) (fun _ => rfl) (fun _ => rfl) (fun _ => stat_none)
  · exact effect_of_scalarWord (rfl : _ = execPnot w) (fun _ => rfl) (fun _ => rfl) (fun _ => stat_none)
  · exact checkR_ne_none (okIf_ne_none (by simp [h]))
  · exact effect_of_scalarWord (rfl : _ = execCmpI w) (fun _ => rfl)
      (fun _ => by rw [condOf_icmp, rdInt_eq_rd, rdInt_eq_rd, immVal_eq_immOf]) (fun _ => stat_none)
  · exact checkI_ne_none (okIf_ne_none (by simp [h]))

/-- Settles O14: each word is a `scalarWord`, and its value, predicate and sticky bits are those R364 to R366 give. -/
theorem divisionShapedAndCompareWords : Obligations.DivisionShapedAndCompareWords :=
  ⟨integerDivision, shapedIntegerWords, compareAndPredicateWords⟩

end Sys2Proof.ScalarWords
